-- ==== Sys2Proof/Word.lean ====
section
/-! DEFINITION. The word types of the AV32 package model: bytes, little-endian byte strings (R24), sparse tables. -/

namespace Sys2Proof

/-- One byte. -/
abbrev Byte := BitVec 8

/-- A 32-byte instruction word of a Hornbeam or transfer-list stream (R59, R113), bit 0 of byte 0 lowest. -/
abbrev Word256 := BitVec 256

/-- A 64-bit slot word of a signal-engine bundle (R84). -/
abbrev Slot64 := BitVec 64

/-- A sparse table: key and value pairs, keys strictly rising, no entry equal to the table's default. -/
abbrev Tab (α : Type) := List (Nat × α)

end Sys2Proof
end

