-- ==== Sys2Proof/Syntax.lean ====
section
/-! DEFINITION. The commands and events of spec/opcode_table.json, one constructor per row.
Operands are what the row's rule names: a register offset and value, the parameters of *Command opcodes* (R345)
in their order, an instruction word as it reaches its engine, a message as it arrives on a port or link. -/

namespace Sys2Proof

/-- The ring command a parameter list came in: the fields of *Submission descriptor* (R333) and *Management descriptor*
(R341) that act at completion. A command row carries it, so that its completion record can be written (R336). -/
structure Src where
  /-- ring number, 0 to 16,383 -/
  ring : Nat
  /-- opcode of *Command opcodes* -/
  op : Nat
  /-- CTAG, echoed -/
  ctag : BitVec 32
  /-- NOTIFY -/
  notify : Bool
  /-- SSIG: semaphore and SADD -/
  ssig : Option (Nat × BitVec 64)
  /-- COUNTER of a management descriptor -/
  counter : BitVec 64
  deriving DecidableEq, Repr

/-- The slot of a bundle an instruction stands in (R84). -/
inductive SeSlot where
  | m | v0 | v1 | s
  deriving DecidableEq, Repr

/-- What a failed host-memory access was for (R323). -/
inductive HostUse where
  /-- an access to a ring's own areas -/
  | ringArea (r : Nat)
  /-- a command or result buffer of the command -/
  | buffer (c : Src)
  /-- a far-tier page access of a unit of the partition on core g -/
  | farPage (p g : Nat)
  deriving DecidableEq, Repr

/-- An engine of *Watched engines* (R391), with its place. -/
inductive EngineId where
  /-- hb0, hb1, se or stream unit (0 to 3) of core g -/
  | core (g kind : Nat)
  /-- LDPC decoder, encoder, polar unit, CRC unit (kind 4 to 7) number i of a die -/
  | coding (die kind i : Nat)
  /-- exchange, mirror, migration engine, host DMA engine (kind 8 to 11) -/
  | edge (kind : Nat)
  deriving DecidableEq, Repr

/-- A fault site of the recovery ladder (R396). -/
inductive SiteId where
  | engine (e : EngineId)
  | host
  | device
  deriving DecidableEq, Repr

/-- A received fronthaul frame as the MAC sees it (R159, R160). -/
structure FhFrame where
  /-- FCS good -/
  fcsOk : Bool
  /-- frame length in bytes -/
  len : Nat
  /-- number of 802.1Q tags -/
  tags : Nat
  /-- EtherType -/
  etherType : Nat
  /-- a PAUSE or priority flow control frame -/
  pause : Bool
  /-- eCPRI revision and header well formed -/
  hdrOk : Bool
  /-- eCPRI message type -/
  ecpri : Nat
  deriving DecidableEq, Repr

/-- A received uplink section (R170): matched fields, first resource block and the blocks, each 24 mantissas and an exponent. -/
structure UlSection where
  port : Nat
  eaxc : Nat
  frameId : Nat
  subframe : Nat
  slotId : Nat
  symbol : Nat
  prb0 : Nat
  blocks : List (List Int × Nat)
  deriving DecidableEq, Repr

/-- One PTP message (R236 to R240). -/
inductive PtpMsg where
  /-- Sync: the master's origin time-stamp t1 in 1/8 ns and correctionField c1 in units of 2^-16 ns -/
  | sync (t1 : BitVec 64) (c1 : Int)
  /-- Delay_Resp: t4 and c2 -/
  | delayResp (t4 : BitVec 64) (c2 : Int)
  /-- Delay_Req received on a master port -/
  | delayReq
  /-- Announce; `best` names what the BMCA of the firmware (R238) concludes: the port becomes the slave port -/
  | announce (best : Bool)
  /-- a malformed message -/
  | malformed
  deriving DecidableEq, Repr

/-- A PTP message with its domain (R238). -/
structure PtpFrame where
  dom : Nat
  msg : PtpMsg
  deriving DecidableEq, Repr

/-- What a read of a stored word of HBM finds: no wrong bit, one, more (R214 to R216). -/
inductive MemFinding where
  | clean | corrected | uncorrectable
  deriving DecidableEq, Repr

/-- What befell the data of a completing move (R115, R119, R125, R127). -/
inductive MoveEvent where
  | clean
  /-- an uncorrectable error on its way: the destination lines and 4-byte words of the line's payload that it affects -/
  | uncorrectable (words : List (Nat × Nat))
  /-- a corrected error on a stream-unit access -/
  | corrected
  /-- a flit word that the mesh of a die corrected -/
  | mesh (die : Nat)
  /-- a flit word that the mesh of a die could not correct, with the words it affects -/
  | meshLost (die : Nat) (words : List (Nat × Nat))
  /-- a flit word that a die link corrected -/
  | link (die link : Nat)
  /-- a stored data unit of HBM, by its number, turns out to have one wrong bit or an uncorrectable word -/
  | memory (unit : Nat) (found : MemFinding)
  /-- a 4-byte word of a core's scratchpad, by core and byte offset / 4, turns out so -/
  | scratchpad (g word : Nat) (found : MemFinding)
  deriving DecidableEq, Repr

/-- What befell an HB.MM beside its operands (R75): nothing; a corrected error of the accumulator bank; an uncorrectable one or a parity
failure of a register set, with the destination rows it affects. -/
inductive MmEvent where
  | clean
  | corrected
  | lost (rows : List Nat)
  deriving DecidableEq, Repr

/-- The end of an HB.MM: the a-cycles of the stall before it (R70) and what befell it. -/
structure MmEnd where
  stall : Nat
  ev : MmEvent
  deriving DecidableEq, Repr

/-- What befell the register files of a signal engine (R105): nothing; a corrected error; an uncorrectable one in lanes of a vector
register. -/
inductive SeEvent where
  | clean
  | corrected
  | lost (v : Nat) (lanes : BitVec 32)
  /-- a 4-byte word of the scratchpad, by byte offset / 4, turns out to have one wrong bit or to be uncorrectable -/
  | scratchpad (word : Nat) (found : MemFinding)
  deriving DecidableEq, Repr

/-- Results land on a core, and what befell its engine. -/
structure SeLanding where
  g : Nat
  ev : SeEvent
  deriving DecidableEq, Repr

/-- A replay on a die link (R127): the link, and the group that a replayed tree flit stalls: core, engine, a-cycles. -/
structure DieReplay where
  link : Nat
  tree : Option (Nat × Nat × Nat)
  deriving DecidableEq, Repr

/-- What the stage that ends has found (R405 to R420). The device cannot know it without its hardware: it is an
input of the event. -/
structure QsFinding where
  /-- failure code of *Stage failure codes and detail words*; 0: the stage did not fail -/
  code : Nat
  /-- stage duration in microseconds -/
  duration : Nat
  detail0 : Nat
  detail1 : Nat
  detail2 : Nat
  detail3 : Nat
  /-- Q3: octets found bad, as (die, bit of MEM_OCTETS) -/
  octets : List (Nat × Nat)
  /-- Q4: failed lanes, as (link in map order 0 to 7, byte of the link's entry, physical lane) -/
  lanes : List (Nat × Nat × Nat)
  /-- Q6: physical cores found bad, as (die, core) -/
  cores : List (Nat × Nat)
  /-- Q6: rows found bad, as (die, core, engine, physical row) -/
  rows : List (Nat × Nat × Nat × Nat)
  deriving DecidableEq, Repr

/-- The commands, operations and events of the table. -/
inductive Instr where
  -- registers of BAR0 (R18 to R23)
  | registerWrite (off width : Nat) (v : BitVec 64)
  | hostAccessError (bar2 write : Bool) (off width : Nat)
  | setupLock (v : BitVec 32)
  | replaysReadClear (off : Nat)
  -- Welto rings (R326 to R350)
  | ringEnable (r : Nat) (ctl : BitVec 64)
  | ringDisable (r : Nat) (ctl : BitVec 64)
  | ringDrainComplete (r : Nat)
  | kick (r : Nat) (v : BitVec 32)
  | doorbellPoll (r : Nat)
  | idleHandshake (r : Nat)
  | reportDoorbellRead (r : Nat)
  | commandAccept (r : Nat)
  | interruptModerationEnd (r : Nat)
  | hostAccessTimeout (u : HostUse)
  | ideIntegrityFail (stream : Nat)
  | functionReset
  | perstAssert
  | keyProg (stream kset dir : Nat) (key : BitVec 256)
  | lockInterface (p : Nat)
  | stopInterface (p : Nat)
  | semPartWrite (sem : Nat) (v : BitVec 32)
  -- commands of every ring
  | nop (c : Src)
  | semAdd (c : Src) (sem : Nat) (v : BitVec 64)
  | semRead (c : Src) (sem : Nat)
  | semNotify (c : Src) (sem vec : Nat) (v : BitVec 64)
  -- schedules (R129 to R157)
  | load (c : Src) (addr len : Nat)
  | unload (c : Src) (image : Nat)
  | arm (c : Src) (t0 : BitVec 64) (eS hold : Nat)
  | stop (c : Src) (eX : Nat)
  | swap (c : Src) (eW : Nat)
  | abort (c : Src)
  | jobBind (c : Src) (p job jgen : Nat) (route : List Byte)
  -- carriers and slots (R162 to R192)
  | carrierCfg (c : Src) (addr len : Nat)
  | carrierDel (c : Src) (carrier : Nat)
  | ownGrant (c : Src) (carrier epoch : Nat)
  | ownRevoke (c : Src) (carrier : Nat)
  | slotprocCfg (c : Src) (addr len : Nat)
  | slotSubmit (c : Src) (carrier dir slot table : Nat)
  | codingQueueCfg (c : Src) (die q : Nat) (enable : Nat) (log2depth qbase : Nat)
  -- memory (R211 to R229)
  | memRangeAdd (c : Src) (p first frames : Nat)
  | memRangeRemove (c : Src) (p first frames : Nat)
  | memFarAdd (c : Src) (p grant kind base pages tgt : Nat)
  | memFarRemove (c : Src) (p grant : Nat)
  | memMap (c : Src) (addr pages hint die zr : Nat)
  | memUnmap (c : Src) (addr pages : Nat)
  | memHint (c : Src) (addr pages hint die rate : Nat)
  | memQuery (c : Src) (addr pages result : Nat)
  -- timebase commands (R243 to R251)
  | tbStepAccept (c : Src) (seq mode : Nat)
  | gateSet (c : Src) (desc : List Byte)
  | gateListSwitch (port : Nat)
  -- Teril commands (R275 to R288)
  | tlLend (c : Src) (lend first frames borrower : Nat)
  | tlUnlend (c : Src) (lend : Nat)
  | unlendZero (lend : Nat)
  | mirrorSet (c : Src) (partner links cap : Nat)
  | mirrorMap (c : Src) (p q : Nat)
  | mirrorTakeover (c : Src) (mask : BitVec 32) (result : Nat)
  | ckptWrite (c : Src) (p host pasid len : Nat)
  | ckptRestore (c : Src) (p host pasid len : Nat)
  -- partitions (R289 to R320)
  | partCreate (c : Src) (desc : List Byte)
  | partDestroy (c : Src) (p : Nat)
  | partResize (c : Src) (p handle op : Nat)
  | partRegulate (c : Src) (desc : List Byte)
  | lglSet (c : Src) (desc : List Byte)
  | lglSwitch
  | sgSet (c : Src) (desc : List Byte)
  | sliceAssign (c : Src) (p pasid : Nat)
  | sliceRelease (c : Src) (p pasid : Nat)
  | sliceFreeze (c : Src) (p eX : Nat)
  | sliceSave (c : Src) (p host pasid len : Nat)
  | sliceRestore (c : Src) (p host pasid len : Nat)
  | sliceThaw (c : Src) (p : Nat) (t0 : BitVec 64) (abandon : Nat)
  -- identity (R351 to R372)
  | keyLoad (c : Src) (p : Nat) (wrapped : List Byte)
  | keyRotate (c : Src) (p rate : Nat) (wrapped : List Byte)
  | fabricKeyLoad (c : Src) (p : Nat) (wrapped : List Byte)
  | migKeyLoad (c : Src) (p : Nat) (wrapped : List Byte)
  | imageAllow (c : Src) (p : Nat) (digest : List Byte)
  | attest (c : Src) (kind p result : Nat) (nonce : List Byte)
  | sessClose (c : Src)
  | fwStage (c : Src) (host len : Nat)
  -- faults (R378 to R404)
  | reset (c : Src) (scope p target : Nat)
  | resetComplete
  | resetBoundMiss (site : SiteId)
  | fltService (c : Src) (mode : Nat)
  | fltReturn (c : Src)
  | memberConfirm (c : Src) (flags epoch : Nat) (bitmap : List Byte)
  -- mailbox (R357 to R359)
  | getCerts
  | sessOpen
  | sessFinish
  | sessOpenLapse (session : Nat)
  -- Hornbeam words (R58 to R76): core g, engine e, the word
  | hbOd (g e : Nat) (w : Word256)
  | hbMm (g e : Nat) (w : Word256)
  | hbMmFirstRow (g e stall : Nat)
  | hbMmCompletion (g e : Nat) (x : MmEnd)
  | hbEnd (g e : Nat) (w : Word256)
  -- signal-engine instructions (R77 to R106): core g, slot, the slot word
  | vld (g : Nat) (w : Slot64)
  | vst (g : Nat) (w : Slot64)
  | sld (g : Nat) (w : Slot64)
  | sst (g : Nat) (w : Slot64)
  | vldB (g : Nat) (w : Slot64)
  | vstB (g : Nat) (w : Slot64)
  | vstBx (g : Nat) (w : Slot64)
  | vadd (g : Nat) (sl : SeSlot) (w : Slot64)
  | vsub (g : Nat) (sl : SeSlot) (w : Slot64)
  | vmul (g : Nat) (sl : SeSlot) (w : Slot64)
  | vmin (g : Nat) (sl : SeSlot) (w : Slot64)
  | vmax (g : Nat) (sl : SeSlot) (w : Slot64)
  | vabs (g : Nat) (sl : SeSlot) (w : Slot64)
  | vand (g : Nat) (sl : SeSlot) (w : Slot64)
  | vor (g : Nat) (sl : SeSlot) (w : Slot64)
  | vxor (g : Nat) (sl : SeSlot) (w : Slot64)
  | vshl (g : Nat) (sl : SeSlot) (w : Slot64)
  | vshr (g : Nat) (sl : SeSlot) (w : Slot64)
  | vshrr (g : Nat) (sl : SeSlot) (w : Slot64)
  | vsel (g : Nat) (sl : SeSlot) (w : Slot64)
  | vcmp (g : Nat) (sl : SeSlot) (w : Slot64)
  | vbcast (g : Nat) (sl : SeSlot) (w : Slot64)
  | vfma (g : Nat) (sl : SeSlot) (w : Slot64)
  | vfscl (g : Nat) (sl : SeSlot) (w : Slot64)
  | vcvt (g : Nat) (sl : SeSlot) (w : Slot64)
  | vnarrow (g : Nat) (sl : SeSlot) (w : Slot64)
  | vperm (g : Nat) (sl : SeSlot) (w : Slot64)
  | vnorm (g : Nat) (sl : SeSlot) (w : Slot64)
  | vrsum (g : Nat) (sl : SeSlot) (w : Slot64)
  | vrmax (g : Nat) (sl : SeSlot) (w : Slot64)
  | vrmin (g : Nat) (sl : SeSlot) (w : Slot64)
  | vbexp (g : Nat) (sl : SeSlot) (w : Slot64)
  | vcmac (g : Nat) (sl : SeSlot) (w : Slot64)
  | vcmacf (g : Nat) (sl : SeSlot) (w : Slot64)
  | vbfly4 (g : Nat) (sl : SeSlot) (w : Slot64)
  | vdemap (g : Nat) (sl : SeSlot) (w : Slot64)
  | vfdiv (g : Nat) (sl : SeSlot) (w : Slot64)
  | vfsqrt (g : Nat) (sl : SeSlot) (w : Slot64)
  | sadd (g : Nat) (w : Slot64)
  | ssub (g : Nat) (w : Slot64)
  | smul (g : Nat) (w : Slot64)
  | sand (g : Nat) (w : Slot64)
  | sor (g : Nat) (w : Slot64)
  | sxor (g : Nat) (w : Slot64)
  | sshl (g : Nat) (w : Slot64)
  | sshr (g : Nat) (w : Slot64)
  | sli (g : Nat) (w : Slot64)
  | amov (g : Nat) (w : Slot64)
  | mmov (g : Nat) (w : Slot64)
  | kmov (g : Nat) (w : Slot64)
  | loop (g : Nat) (w : Slot64)
  | span (g : Nat) (w : Slot64)
  | br (g : Nat) (w : Slot64)
  | brz (g : Nat) (w : Slot64)
  | brnz (g : Nat) (w : Slot64)
  | waitc (g : Nat) (w : Slot64)
  | waitcSatisfied (g : Nat)
  | sigc (g : Nat) (w : Slot64)
  | seEnd (g : Nat) (w : Slot64)
  | seResultLand (x : SeLanding)
  -- transfer-list words (R112 to R119, R143, R265 to R273, R425 to R428): core g, the word
  | suSd (g : Nat) (w : Word256)
  | suMv (g : Nat) (w : Word256)
  | moveStart (g : Nat)
  | moveComplete (g : Nat) (ev : MoveEvent)
  | suAt (g : Nat) (w : Word256)
  | atOffsetReached (g : Nat)
  | suEend (g : Nat) (w : Word256)
  | suRma (g : Nat) (w : Word256)
  | suAmo (g : Nat) (w : Word256)
  | suFence (g : Nat) (w : Word256)
  | remoteOpComplete (g : Nat)
  | suEvc (g : Nat) (w : Word256)
  | suEvr (g : Nat) (w : Word256)
  | evClear (off : Nat) (v : BitVec 32)
  -- epochs and units (R136 to R157)
  | epochTick (p : Nat)
  | epochEnd (p : Nat)
  | codeFetch (g e : Nat)
  | unitRelease (p i : Nat)
  | holdLimit (p i : Nat)
  | unitEnd (p i : Nat)
  | unitCapExpiry (p i : Nat)
  | exchangeSend (p i : Nat)
  -- flits as they arrive on a Teril link (R256)
  | xdataReceive (link : Nat) (hdr : BitVec 96) (payload : List Byte)
  | xrelReceive (link : Nat) (hdr : BitVec 96) (payload : List Byte)
  | mreqReceive (link : Nat) (hdr : BitVec 96) (payload : List Byte)
  | mrspReceive (link : Nat) (hdr : BitVec 96) (payload : List Byte)
  | bulkReceive (link : Nat) (hdr : BitVec 96) (payload : List Byte)
  | bulkAckReceive (link : Nat) (hdr : BitVec 96) (payload : List Byte)
  | mirrorReceive (link : Nat) (hdr : BitVec 96) (payload : List Byte)
  | mirrorAckReceive (link : Nat) (hdr : BitVec 96) (payload : List Byte)
  | mirrorHorizonReceive (link : Nat) (hdr : BitVec 96) (payload : List Byte)
  | handoverRequest (link dead : Nat)
  | handoverResponse (link dead count : Nat)
  | staleNoticeReceive (link : Nat) (epoch : BitVec 32)
  | flitRefused (link : Nat) (hdr : BitVec 96) (payload : List Byte)
  | flitCrcFail (link : Nat)
  | nakReceive (link count : Nat)
  | ackReceive (link count : Nat)
  | linkDown (link : Nat)
  | linkPhaseEnd (e : Nat) (pass : Bool) (prefec postfec : Nat)
  | trainingTimeout (e : Nat)
  | retrain (link : Nat) (v : BitVec 32)
  | requestRetry (tag : Nat)
  | requestLifetimeExpiry (tag : Nat)
  | bulkRetry (tag : Nat)
  -- mirror pair (R279 to R287)
  | mirrorChunkCopy
  | mirrorAckTimeout
  | mirrorHorizonSend
  | mirrorPartnerLost
  -- fronthaul (R158 to R187)
  | ethernetFrameReceive (port : Nat) (f : FhFrame)
  | uplaneReceive (u : UlSection)
  | delayRequestReceive (port : Nat) (t2 : BitVec 64)
  | rmaResponseReceive (port : Nat)
  | cplaneSend (carrier n i : Nat)
  | uplaneSend (carrier n i : Nat)
  | dlWindowClose (carrier n i : Nat)
  | lineClose (carrier n l r : Nat)
  | ulPresenceSet (carrier n : Nat)
  | frameBoundary
  | leaseExpiry
  | fhPortDown (port : Nat)
  | portRetry (port : Nat)
  | quadModeSet (quad : Nat) (v : BitVec 32)
  -- channel coding and slots (R188 to R210)
  | allocDeadline (carrier dir n : Nat)
  | queuePoll (die q : Nat)
  | dlSch (die q j : Nat)
  | ulSch (die q j : Nat)
  | polarDci (die q j : Nat)
  | polarBch (die q j : Nat)
  | polarUci (die q j : Nat)
  | smallUci (die q j : Nat)
  | signal (die q j : Nat)
  | codeBlockDone (die kind i : Nat)
  | codingJobComplete (die q j : Nat)
  | signalDeadline (die q j : Nat)
  | slotReport (carrier n : Nat)
  -- memory events (R214 to R229, R370)
  | patrolRead (unit : Nat) (found : MemFinding)
  | bankRefresh (die stack pc bank : Nat)
  | migrationStart
  | migrationSwitch
  | frameRelease (p : Nat)
  | walkerPageRewrite (p : Nat)
  -- timebase and egress (R233 to R254, R437, R438)
  | ptpMessageReceive (e : Nat) (m : PtpFrame)
  | slavePortLost
  | synceSourceLost
  | ptpSyncSend (e : Nat)
  | transmitStart (e : Nat)
  | histogramSample
  | histClear (v : BitVec 32)
  | ppsInEdge
  | ppsOutPulse
  -- lending and shared groups (R302 to R313)
  | lendNotice (lg : Nat)
  | takePoint (lg : Nat)
  | contextSaveComplete (g : Nat) (ue : Bool)
  | scrubComplete (g : Nat)
  | contextRestoreComplete (g : Nat)
  | lendWon (lg : Nat)
  | lendWoff (lg : Nat)
  | sgDecision (sg : Nat)
  | yieldExpiry (sg : Nat)
  | fixedSliceBoundary (sg : Nat)
  -- watchdogs, barriers, reports (R388 to R403); a replayed tree flit names the engine whose HB.MM it delays and its a-cycles (R127)
  | watchdogExpiry (e : EngineId)
  | probationEnd (e : EngineId)
  | drainBarrierComplete (p : Nat)
  | fabricLifetimeExpiry (tag : Nat)
  | heartbeat
  | healthUpdate
  | dieLinkReplay (die : Nat) (x : DieReplay)
  | dieLinkLaneFail (die link dir group lane : Nat)
  -- bring-up, sideband, power (R405 to R445)
  | powerOn (straps : BitVec 3)
  | quicksetStageEnd (f : QsFinding)
  | i3cPointerWrite (bytes : List Byte)
  | i3cRead (n : Nat)
  | pwrOkFall (bit : Nat)
  | powerCycle
  | sensorRead (dieT hbmT : List Int)
  | avsRead (rails : List (Nat × Nat))
  | throttleInterval
  -- rows added later
  | loadComplete (p : Nat)
  | startInterface (p : Nat)
  | deviceInterfaceReport (p : Nat)
  | detectionWindowStart (carrier n r : Nat)
  | mirrorPaired
  | mirrorPartnerRegained
  | esmcReceive (e ql : Nat) (choose : Bool)
  | delayReqSend
  | perstDeassert
  | pwrcycReqNRelease
  | pcieLinkChange (up flit : Bool) (gen width : Nat)
  deriving DecidableEq, Repr

end Sys2Proof
end

