-- ==== Sys2Proof/Machine/State.lean ====
section
/-! DEFINITION. The state of one AV32 package as plain data, and the state after power-up. Each field's docstring names
the rule that gives it and its reset value. Registers with a BAR0 offset have their home in `Dev.regs`. -/

namespace Sys2Proof.Machine

open Sys2Proof

/-- Bytes by address, strictly rising, no entry equal to 0; an unlisted address reads 0 (log 3). -/
abbrev Mem := List Host.Cell

/-- A byte string of a digest, a key or a message. -/
abbrev Bytes := List Byte

/-- Why the machine stops with a fault. Safe: the spec names no such place, so no hardware run reaches it. -/
inductive Fault where
  /-- an operand names a core above 79 or an engine above 1 (R5, R120); raised by every core meaning -/
  | noSuchCore
  /-- an operand names a ring above 16,383 (R326) or a semaphore above 8,191 (R347); raised by the ring meanings -/
  | noSuchRing
  deriving DecidableEq, Repr

/-- Why the machine refuses a command. -/
inductive Refusal where
  /-- the command has no meaning yet; raised by Dispatch.lean only. Safe: nothing is claimed of it -/
  | notModelled (mnemonic : String)
  deriving DecidableEq, Repr

/-- An exact value: NaN, an infinity, or (-1)^neg × m × 2^e; the sign of a zero is kept (R35). -/
inductive Num where
  | nan
  | inf (neg : Bool)
  | fin (neg : Bool) (m : Nat) (e : Int)
  deriving DecidableEq, Repr

/-- An event counter bank (R422 to R428). -/
structure EvBank where
  /-- EV_CTL.FREEZE (R427). Reset 0 -/
  freeze : Bool := false
  /-- EV_CTL.FRZ_OVF (R426). Reset 0 -/
  frzOvf : Bool := false
  /-- EV_CTL.SAMPLE (R428). Reset 0 -/
  sample : Bool := false
  /-- EV_STATUS.OVF, 8 bits (R426). Reset 0 -/
  ovf : BitVec 8 := 0
  /-- the OVF bits that a-cycle `seen` set: a write in the same cycle does not clear them (R21). Reset 0 -/
  ovfNow : BitVec 8 := 0
  /-- EV_STATUS.SETCNT (R381). Reset 0 -/
  setcnt : Nat := 0
  /-- EV_SELn, SRC + 256 × SUB (R425). Reset 0 -/
  sel : Tab Nat := []
  /-- EV_CNTn, 48 bits (R426). Reset 0 -/
  cnt : Tab Nat := []
  /-- EV_SAMPn, 48 bits (R428). Reset 0 -/
  samp : Tab Nat := []
  /-- EV_SAMP_EPOCH (R428). Reset 0 -/
  sampEpoch : Nat := 0
  /-- the counters as they stood at the end of the a-cycle before `seen`, the last one in which they changed: what a tick samples
  (R428). Reset 0 -/
  before : Tab Nat := []
  seen : Nat := 0
  /-- the events of a-cycle `seen` for each counter (R427). Reset 0 -/
  tally : Tab Nat := []
  /-- OVF as it stood at the end of the a-cycle before `seen` (R381). Reset 0 -/
  ovfWas : BitVec 8 := 0
  /-- the a-cycle of the last SU.EVC, which prevails over a host write in it (R427) -/
  evcAt : Option Nat := none
  deriving DecidableEq, Repr

/-! ### Cores -/

/-- A completion counter (R110): its 32-bit value and the a-cycles of its increments since it was last cleared, newest first,
which is what the observation delays of R140 and the wait of R68 are counted from. -/
structure Counter where
  val : Nat := 0
  hist : List Nat := []
  deriving DecidableEq, Repr

/-- An active loop (R90): body bounds as bundle addresses, count n, stages S, ROT, kernel iteration i. -/
structure LoopRt where
  first : Nat
  last : Nat
  n : Nat
  stages : Nat
  rot : Bool
  iter : Nat
  deriving DecidableEq, Repr

/-- Where a signal-engine result lands (R81). -/
inductive SeDest where
  | v (i : Nat) | s (i : Nat) | a (i : Nat) | m (i : Nat) | k (i : Nat)
  deriving DecidableEq, Repr

/-- A result in flight (R85, R86): due at an executed engine cycle, ordered by issue. -/
structure SeRes where
  due : Nat
  issued : Nat
  slot : Nat
  dest : SeDest
  /-- mask of the 32-bit lanes written (R89) -/
  lanes : BitVec 32
  val : BitVec 1024
  deriving DecidableEq, Repr

/-- Context registers of the signal engine (R77). Every one resets to 0 (Shear, R373). -/
structure SeRegs where
  /-- v0 to v63, 1,024 bits -/
  v : Tab (BitVec 1024) := []
  /-- s0 to s31, 64 bits -/
  s : Tab (BitVec 64) := []
  /-- a0 to a15, 32 bits -/
  a : Tab (BitVec 32) := []
  /-- m0 to m7, 64 bits -/
  m : Tab (BitVec 64) := []
  /-- k1 to k7, 32 bits; k0 reads all ones (R89) -/
  k : Tab (BitVec 32) := []
  /-- lc0 to lc3, innermost first (R92) -/
  loops : List LoopRt := []
  /-- RB (R80) -/
  rb : Nat := 0
  /-- RS (R80) -/
  rs : Nat := 0
  /-- RRB (R80) -/
  rrb : Nat := 0
  /-- PC, bundle address in the stream -/
  pc : Nat := 0
  deriving DecidableEq, Repr

/-- A page table entry (R223) with the receive-only mark of R282. -/
structure Pte where
  far : Bool
  gen : Bool
  mig : Bool
  hint : Nat
  die : Nat
  frame : Nat
  grant : Nat
  gpage : Nat
  recvOnly : Bool := false
  deriving DecidableEq, Repr

/-- A move the stream unit holds (R116): the word, both descriptors as read at issue, when it issued and started, its
epoch, and the part of a suspended move already written (R295). -/
structure Move where
  w : Word256
  sds : BitVec 192
  sdd : BitVec 192
  issued : Nat
  started : Option Nat := none
  /-- destination bytes already written when a save stopped it (R295) -/
  done : Nat := 0
  /-- the moves that were in flight at the same time, by word and descriptors (R117) -/
  met : List (Word256 × BitVec 192 × BitVec 192) := []
  /-- pages unmapped while it ran: the page, its old entry, and the offset below which its accesses had been issued (R229) -/
  pins : List (Nat × Pte × Nat) := []
  /-- units of far pages of peers that it has asked for, by virtual address / 64 (R265) -/
  asked : List Nat := []
  /-- pages whose lend a peer has withdrawn: RANGE (R275) -/
  gone : List Nat := []
  /-- units that a peer answered with DATA_LOST, by virtual address / 64 -/
  lostAt : List Nat := []
  /-- its bytes are written, and peers have still to acknowledge some (R116, R265) -/
  wrote : Bool := false
  /-- what the writing found: the first page without mapping, with whether it is written; data lost -/
  found : Option (Nat × Bool) × Bool := (none, false)
  deriving DecidableEq, Repr

/-- A remote operation of a stream unit that has not completed (R267 to R273). -/
structure RemoteOp where
  /-- number of the operation on the device, for its requests -/
  id : Nat
  /-- partition whose context issued it -/
  p : Nat
  w : Word256
  sd : BitVec 192
  issued : Nat
  /-- requests sent and not resolved, by TAG -/
  tags : List Nat
  /-- bytes of the operation not yet sent -/
  left : Nat
  /-- statuses of resolved requests other than OK -/
  fails : List Nat := []
  retries : Nat := 0
  old : BitVec 64 := 0
  /-- an SU.FENCE (R273) -/
  fence : Bool := false
  /-- requests that did not complete OK -/
  failed : Nat := 0
  deriving DecidableEq, Repr

/-- The transfer list of a core in the current epoch (R143). -/
structure SuList where
  /-- a list runs -/
  active : Bool := false
  /-- tick it counts from -/
  tick : Nat := 0
  /-- SU.AT holds the next word until this a-cycle -/
  held : Option Nat := none
  /-- the list has been paused for lending or a save (R142, R295) -/
  paused : Bool := false
  /-- words issued so far: the position of the list (R292) -/
  pos : Nat := 0
  deriving DecidableEq, Repr

/-- What a context holds on a core beside the scratchpad (R292). -/
structure Ctx where
  se : SeRegs := {}
  /-- od0 to od31 of hb0 (R59). Reset 0 -/
  od0 : Tab (BitVec 128) := []
  /-- od0 to od31 of hb1 (R59). Reset 0 -/
  od1 : Tab (BitVec 128) := []
  /-- sd0 to sd15 (R113). Reset 0 -/
  sd : Tab (BitVec 192) := []
  /-- cc0 to cc15 (R110). Reset 0 -/
  cc : Tab Counter := []
  list : SuList := {}
  /-- moves suspended by a save (R295) -/
  susp : List Move := []
  /-- the core event bank (R423) -/
  bank : EvBank := {}
  deriving DecidableEq, Repr

/-- An HB.MM in an engine (R61 to R71): the word, the descriptors it read at issue, the a-cycle it issued, the one its row 0 enters. -/
structure MmRt where
  w : Word256
  oda : BitVec 128
  odb : BitVec 128
  odc : BitVec 128
  odd : BitVec 128
  issued : Nat
  /-- number of its word in the stream -/
  seq : Nat := 0
  t0 : Option Nat := none
  /-- a-cycles by which stalls after t0 have moved what is still to come (R70) -/
  late : Nat := 0
  /-- how far the arrays have run: a-cycles since t0 - 128 -/
  ran : Nat := 0
  /-- destination rows that an uncorrectable error or a parity failure affects (R75) -/
  bad : List Nat := []
  deriving DecidableEq, Repr

/-- A tile of B in a register set of an array, K indices ascending: per column the element's bits and its scale code (R53). -/
abbrev Tile := List (List (Nat × Nat))

/-- A row in an array (R54, R55): the exact sums of its span segments, column by column, due at the output stage. -/
structure PipeRow where
  /-- the HB.MM: issuing core and engine, number of its word -/
  mm : Nat × Nat × Nat
  due : Nat
  /-- column tile, row of the chunk -/
  tile : Nat
  row : Nat
  sums : List (List (Num × Num))
  deriving DecidableEq, Repr

/-- Progress events of a watched engine: the a-cycle of the last one and how many there were (R391). Reset 0 -/
structure Prog where
  at_ : Nat := 0
  n : Nat := 0
  deriving DecidableEq, Repr

/-- A Hornbeam engine beside its context (R56, R68, R139). -/
structure HbEngine where
  /-- the stream of the running unit has not ended -/
  running : Bool := false
  /-- words of the stream issued (R133) -/
  pos : Nat := 0
  /-- HB.MM issued and not complete, oldest first -/
  mms : List MmRt := []
  /-- HB.END has issued -/
  ending : Bool := false
  /-- the grouped HB.MMs that hold this stream, each by its issuing core (R60) -/
  heldBy : List Nat := []
  /-- a-cycle in which the last A row so far entered, plus 1 (R68) -/
  rowFree : Nat := 0
  /-- a-cycle in which the last pass began (R53, R68) -/
  passBegan : Option Nat := none
  /-- the shadow and the active register set (R53). Reset empty -/
  shadow : Tile := []
  active : Tile := []
  /-- the set holds an uncorrectable word or failed its parity (R75) -/
  shadowBad : Bool := false
  activeBad : Bool := false
  /-- rows between row 0 and the output stage (R54). Reset empty -/
  pipe : List PipeRow := []
  /-- the two halves of the accumulator bank (R56): accumulators by row of the chunk × 128 + column, fp32 or int32 in [31:0], the
  imaginary part in [63:32]. Reset 0 (Shear, R373) -/
  bank0 : Tab (BitVec 64) := []
  bank1 : Tab (BitVec 64) := []
  prog : Prog := {}
  deriving DecidableEq, Repr

/-- The signal engine beside its context (R85 to R104). -/
structure SeEngine where
  running : Bool := false
  /-- engine cycles executed since the unit began; a stalled a-cycle executes none (R87) -/
  cyc : Nat := 0
  inflight : List SeRes := []
  /-- a WAITC that stalls, or an END, issued in this a-cycle: the stall begins with the next one (R87) -/
  fresh : Bool := false
  /-- engine cycle from which a slot may issue its opcode again, by slot × 256 + opcode (R94) -/
  again : Tab Nat := []
  /-- WAITC: counter and value waited for (R87) -/
  wait : Option (Nat × Nat) := none
  /-- a taken branch: engine cycle of the redirect and target (R93) -/
  branch : Option (Nat × Nat) := none
  /-- SIGC counters to increment and the engine cycle they become due (R104) -/
  sig : List (Nat × Nat) := []
  /-- END has issued: engine cycle by which the pipeline has drained (R104) -/
  drain : Option Nat := none
  prog : Prog := {}
  deriving DecidableEq, Repr

/-- A code buffer (R133): fetches done, the half last filled, units whose code is fetched with the a-cycle. -/
structure CodeBuf where
  /-- entry indices fetched in this epoch, with the a-cycle their fetch ended -/
  fetched : List (Nat × Nat) := []
  deriving DecidableEq, Repr

/-- A core: context state and the engines (R107 to R119). State, owner, LENT stand in CORE_STATE. -/
structure Core where
  ctx : Ctx := {}
  hb0 : HbEngine := {}
  hb1 : HbEngine := {}
  se : SeEngine := {}
  moves : List Move := []
  /-- a-cycle by which the stream unit can have written every byte of the moves before those in flight (R116). Reset 0 -/
  suFree : Nat := 0
  /-- progress of the stream unit -/
  suProg : Prog := {}
  remote : List RemoteOp := []
  code : Tab CodeBuf := []
  /-- the unit on the core: partition and dispatch entry (R139) -/
  unit : Option (Nat × Nat) := none
  /-- 8-bit generation of the context (R388). Reset 0 -/
  gen : Nat := 0
  /-- the context waiting to be restored here: partition (R303, R310) -/
  next : Option Nat := none
  /-- a-cycle the transition of states 3 to 5 began -/
  since : Nat := 0
  /-- the first unit after a damaged save area completes with DATA_LOST (R305) -/
  saveUe : Bool := false
  /-- halted under R395 and released by a die reset since the last device reset -/
  haltedOnce : Bool := false
  deriving DecidableEq, Repr

/-- A saved context of one core: its registers and its scratchpad, readable by no role (R293). -/
structure Saved where
  ctx : Ctx := {}
  spad : Mem := []
  /-- an uncorrectable error met the area: the first unit after the restore completes with DATA_LOST (R305) -/
  ue : Bool := false
  deriving DecidableEq, Repr

/-! ### Schedules -/

/-- One unit of a core in the code section (R133): unit or template, image core, and its words. -/
structure CodeEnt where
  index : Nat
  core : Nat
  kind : Nat
  a : List Word256
  b : List Word256
  c : List Word256
  deriving DecidableEq, Repr

/-- Epoch template (R138). -/
structure Template where
  ccClear : BitVec 16
  restart : Bool
  dispFirst : Nat
  xchFirst : Nat
  dispCount : Nat
  xchCount : Nat
  deriving DecidableEq, Repr

/-- Dispatch entry (R139). -/
structure Dispatch where
  release : Nat
  group : Nat
  unit : Nat
  estEnd : Nat
  deps : List (BitVec 32)
  deriving DecidableEq, Repr

/-- Exchange entry (R144). -/
structure Exchange where
  offset : Nat
  window : Nat
  edelta : Nat
  len64 : Nat
  src : Nat
  peer : Nat
  stier0 : Bool
  dst : Nat
  slot : Nat
  dtier0 : Bool
  dep : BitVec 32
  altoff : Nat
  deriving DecidableEq, Repr

/-- A loaded Espalier image (R130): header fields, sections, and the binding of R132. -/
structure Image where
  digest : Bytes
  epochLen : Nat
  slack : Nat
  linkClass : Nat
  role : Nat
  rolesM1 : Nat
  coresM1 : Nat
  repeats : Nat
  nondet : Bool
  radio : Bool
  lglDigest : Bytes
  jobDigest : Bytes
  groups : List Nat
  code : List CodeEnt
  templates : List Template
  dispatch : List Dispatch
  exchange : List Exchange
  /-- receive slots: image slot, EXPECT_M1, TOTAL64 -/
  slots : List (Nat × Nat × Nat)
  seq : List Nat
  /-- restart regions: TIER, CORE, LEN, ADDR -/
  restart : List (Nat × Nat × Nat × Nat)
  /-- image core index to global logical core (R132) -/
  binding : List Nat
  /-- device receive slots taken from the pool of 8,192 (R132) -/
  devSlots : Nat
  deriving DecidableEq, Repr

/-- A dispatched unit of the current epoch (R139 to R150). -/
structure UnitRt where
  entry : Dispatch
  /-- bound cores, ascending -/
  cores : List Nat
  issued : Option Nat := none
  /-- a-cycle of the abort and its status (R449) -/
  aborted : Option (Nat × Nat) := none
  ended : Option Nat := none
  status : Nat := 0
  /-- engine and cause of the failure, for R379 -/
  engine : Nat := 0
  cause : Nat := 0
  /-- the unit passed the hold limit and waits (R150) -/
  holding : Bool := false
  deriving DecidableEq, Repr

/-- An exchange entry of the current epoch (R144). -/
structure SendRt where
  entry : Exchange
  /-- 64-byte units handed to the links so far -/
  sent : Nat := 0
  /-- flits of the entry waiting in queue 0 of its links -/
  queued : Nat := 0
  done : Bool := false
  deriving DecidableEq, Repr

/-- Receive state of one (slot, parity) (R145). -/
structure Presence where
  /-- consuming epoch being received -/
  epoch : Nat := 0
  /-- 64-byte units arrived, by sender role -/
  got : Tab Nat := []
  /-- instance accepted, by sender role, plus 1 (R156) -/
  inst : Tab Nat := []
  /-- transfers arrived in full -/
  full : Nat := 0
  /-- a-cycle in which the last byte was written and the bit set -/
  setAt : Option Nat := none
  /-- transfers beyond EXPECT or lengths that disagree: the consumers get DATA_LOST -/
  bad : Bool := false
  /-- role whose transfer completed last -/
  last : Nat := 0
  deriving DecidableEq, Repr

/-- Route entry (R346): two instances and the link mask. -/
structure Route where
  faddr0 : Nat
  igen0 : Nat
  v0 : Bool
  faddr1 : Nat
  igen1 : Nat
  v1 : Bool
  links : Nat
  scode0 : Nat
  scode1 : Nat
  deriving DecidableEq, Repr

/-- The first failure of the epoch, and how many more (R379). -/
structure FailRec where
  /-- a-cycle, first core, engine: the order of R379 -/
  at_ : Nat
  core : Nat
  engine : Nat
  status : Nat
  unit : Nat
  group : Nat
  cause : Nat
  merged : Nat
  deriving DecidableEq, Repr

/-- The schedule of a partition beside ES_STATE, ES_EPOCH, ES_SLIPS, ES_LAG and ES_STATUS (R135 to R157). -/
structure Sched where
  active : Option Image := none
  standby : Option Image := none
  /-- LOAD in progress: the command, the previous state, and what the checks give: an image or a status (R131) -/
  loading : Option (Src × Nat × Nat × Option Image) := none
  /-- T0 and e_s of ARM (R136), with the idle epochs inserted since added to T0 (R151). Reset 0 -/
  t0 : BitVec 64 := 0
  eS : Nat := 0
  /-- hold limit in a-cycles (R150). Reset 0 -/
  hold : Nat := 0
  /-- STOP: last epoch (R135), and the commands that the stop completes -/
  stopAt : Option Nat := none
  stopBy : List Src := []
  /-- SLICE_FREEZE waits for the end of its epoch (R317) -/
  freezeBy : Option Src := none
  /-- pending SWAP: boundary epoch and command (R155) -/
  swap : Option (Nat × Src) := none
  /-- tick a-cycle of the current epoch (R137). Reset 0 -/
  tick : Nat := 0
  /-- E_e of the epoch that has ended (R149) -/
  endAt : Option Nat := none
  /-- an idle epoch runs until this network time (R151, R444) -/
  idleUntil : Option (BitVec 64) := none
  units : List UnitRt := []
  sends : List SendRt := []
  /-- bytes written by moves, sends and puts, by consuming epoch: epoch, writer, space and range as in R157; bytes of two writers are open -/
  wrote : List (Nat × (Nat × Nat × Nat) × (Nat × Nat × Nat)) := []
  /-- presence by slot × 2 + parity (R145) -/
  presence : Tab Presence := []
  /-- credits spent, by peer × 2^14 + slot × 2 + parity (R146); unlisted: held -/
  spent : Tab Bool := []
  /-- job id, JGEN by 32 bits, route table (R153) -/
  jobId : Nat := 0
  jgen : Nat := 0
  route : List Route := []
  bound : Bool := false
  /-- sender codes of its earlier route tables, which the current one does not hold (R147) -/
  oldCodes : List Nat := []
  /-- route table of a JOB_BIND accepted while RUNNING or HELD, whose instances count from the next tick (R153) -/
  routeNext : Option (List Route) := none
  /-- instances removed or second to arrive are dropped (R156) -/
  fail : Option FailRec := none
  /-- throttle accumulator (R444). Reset 0 -/
  acc : Nat := 0
  /-- HELD_UNITS, LATE_UNITS, SLOT + 1, PEER, CAUSES of the epoch (R152) -/
  heldUnits : Nat := 0
  lateUnits : Nat := 0
  slot : Nat := 0
  peer : Nat := 0
  causes : BitVec 6 := 0
  /-- reports of each kind that could not be written (R152) -/
  merged : Tab Nat := []
  deriving DecidableEq, Repr

/-! ### Partitions, memory, keys -/

/-- A far grant (R221): host memory (kind 0) or a lend of a tray peer (kind 1). -/
structure Grant where
  kind : Nat
  base : Nat
  pages : Nat
  tgt : Nat
  deriving DecidableEq, Repr

/-- A key rotation in progress (R369 to R372). -/
structure Rotation where
  cmd : Src
  rate : Nat
  pages : Nat
  /-- pages rewritten in the current 100 µs interval and the interval's number -/
  used : Nat
  interval : Nat
  deriving DecidableEq, Repr

/-- A partition beside its registers (R289). -/
structure Part where
  /-- dedicated group handles -/
  groups : List Nat := []
  /-- stream-buffer share in MiB by die. Reset 0 -/
  sb : Tab Nat := []
  /-- save frames: first and count by die -/
  saveFirst : Tab Nat := []
  saveCount : Tab Nat := []
  /-- REG0 to REG8 (R296). Reset: R299 for p0, else 0 -/
  reg : Tab Nat := []
  /-- half-bytes missing from a full bucket, by regulator (R297), and the f-cycle of the last fill. Reset 0: full -/
  tokens : Tab Int := []
  tokensAt : Nat := 0
  /-- PASID slices (R316) -/
  pasids : List Nat := []
  /-- 16-bit generation (R388). Reset 0 -/
  gen : Nat := 0
  /-- HBM ranges: first frame, count (R221) -/
  ranges : List (Nat × Nat) := []
  grants : Tab Grant := []
  /-- page entries by virtual page number (R223) -/
  pt : Tab Pte := []
  /-- frames that hold page tables: the first-level table, then those of second-level tables (R221, R223) -/
  tableFrames : List Nat := []
  /-- first-level entries with V = 1: TFRAME and TSLOT (R223) -/
  tables : Tab (Nat × Nat) := []
  /-- frames and far pages (grant, page) unmapped and not yet retired, with the a-cycle they may return (R229) -/
  retiring : List (Nat × Nat × Nat × Nat) := []
  /-- key slots 2p, 2p + 1; table, fabric, migration key (R364, R365, R223) -/
  slot0 : Option (BitVec 512) := none
  slot1 : Option (BitVec 512) := none
  tableKey : Option (BitVec 512) := none
  fabricKey : Option (BitVec 512) := none
  migKey : Option (BitVec 256) := none
  /-- bound tenant key (R359) -/
  tenantKey : Option Bytes := none
  /-- digests allowed by IMAGE_ALLOW (R366) -/
  allowed : List Bytes := []
  rot : Option Rotation := none
  /-- partition of the partner it mirrors into (R280); p0 mirrors into p0 without being mapped -/
  mirror : Option Nat := none
  /-- e_x of the freeze (R317), for SLICE_SAVE and SLICE_THAW -/
  frozenAt : Nat := 0
  /-- the partition event bank (R423) -/
  bank : EvBank := {}
  sched : Sched := {}
  /-- resizes waiting for the next tick, oldest first: command, handle, operation (R315) -/
  resize : List (Src × Nat × Nat) := []
  /-- removes whose cores are being scrubbed: command and handle (R315) -/
  removing : List (Src × Nat) := []
  /-- PART_DESTROY in progress (R290) -/
  destroyBy : Option Src := none
  /-- RESET of the partition waits for its barrier (R382) -/
  resetBy : Option Src := none
  /-- drain barrier: the a-cycle it began (R390) -/
  barrier : Option Nat := none
  /-- memory command in progress, which holds later ones (R222, R227) -/
  memBusy : Option Src := none
  /-- memory commands that wait for it, oldest first -/
  memWait : List Instr := []
  /-- what that command removes at its end: first frame and frames, or grant + 1 (frames 0) (R222) -/
  memGone : Option (Nat × Nat) := none
  /-- migrations of that command started in the 100 µs interval, and the interval's number (R227) -/
  migUsed : Nat × Nat := (0, 0)
  deriving DecidableEq, Repr

/-- What a sealed slice stream holds (R318). -/
structure Slice where
  cls : Nat
  /-- sizes of its dedicated groups and of its grants -/
  sizes : List Nat
  grants : List Nat
  reg : Tab Nat
  eX : Nat
  sched : Sched
  /-- code of the schedule's state, and its epoch -/
  state : Nat
  epoch : Nat
  slot0 : Option (BitVec 512)
  slot1 : Option (BitVec 512)
  wgen : Bool
  /-- page number, GEN, HINT, DIE, stored ciphertext -/
  pages : List (Nat × Bool × Nat × Nat × Bytes)
  /-- save areas: dedicated groups, then grants, cores ascending -/
  areas : List Saved
  deriving DecidableEq, Repr

/-- How a 64-byte data unit of HBM, or of a far page, was last written (R218): under which key and tweak; none: stored as it stands. `ue`: an
uncorrectable word (R215); `ce`: a word with one wrong bit, which each read corrects (R214). -/
structure UnitTag where
  key : Option (BitVec 512) := none
  tweak : Nat := 0
  ue : Bool := false
  ce : Bool := false
  deriving DecidableEq, Repr

/-- A lend (R275). -/
structure Lend where
  first : Nat
  frames : Nat
  borrower : Nat
  /-- TL_UNLEND: command and a-cycle (R275) -/
  withdrawn : Option (Src × Nat) := none
  deriving DecidableEq, Repr

/-- A queued migration (R228): partition, page, the command that waits, its rate cap. -/
structure Mig where
  p : Nat
  vpn : Nat
  cmd : Option Src
  rate : Nat
  /-- frames or grant excluded as target: first, count (count 0: none), grant + 1 -/
  notFirst : Nat := 0
  notCount : Nat := 0
  notGrant : Nat := 0
  /-- the page's number among those of its command, for HINT 1 -/
  i : Nat := 0
  /-- target chosen at MIGRATION_START -/
  target : Option Pte := none
  started : Nat := 0
  /-- units of a page that a peer lends asked for so far (R265) -/
  asked : Nat := 0
  deriving DecidableEq, Repr

/-- A word of a scratchpad that was overwritten while a port of another engine was at work (R109): its number, the a-cycle, the writer
(core, engine, a-cycle of issue) and what it held. -/
structure Overwrite where
  word : Nat
  at_ : Nat
  who : Nat × Nat × Nat
  old : BitVec 32
  deriving DecidableEq, Repr

/-- Bytes of a data unit that a unit other than a stream unit wrote to a page being migrated: partition, address, bytes (R228). -/
structure HeldWrite where
  p : Nat
  addr : Nat
  data : Bytes
  deriving DecidableEq, Repr

/-- The memory system beside its registers (R211 to R229). -/
structure MemSys where
  /-- HBM bytes by device physical address (R212); each unit's bytes are those given at its last write -/
  hbm : Mem := []
  /-- tags by unit of 64 bytes of HBM (R218) -/
  tags : Tab UnitTag := []
  /-- far-tier units by host address / 64, or 2^60 + grant address / 64 at a peer: how this device last wrote them, and their plaintext (R218) -/
  farTags : Tab (UnitTag × Bytes) := []
  /-- the stored bytes of frames lent by peers as this device last wrote or read them, by grant address (the peer holds them, R218) -/
  peer : Mem := []
  /-- units written to frames lent by peers whose requests have not left yet: grant address and ciphertext, oldest first (R265) -/
  farOut : List (Nat × Bytes) := []
  /-- writes held until the switch of their page (R228) -/
  held : List HeldWrite := []
  /-- owner of a frame: 1 + partition, 64 + lend index; unlisted: unassigned (R221, R275) -/
  owner : Tab Nat := []
  /-- scratchpads: core g's byte o at g × 0x00A0_0000 + o (R107). Reset 0 (R373) -/
  spad : Mem := []
  /-- uncorrectable 4-byte scratchpad words by address / 4 (R75, R105) -/
  spadUe : Tab Bool := []
  /-- 4-byte scratchpad words with one wrong bit, by address / 4: a read corrects them (R75, R105) -/
  spadCe : Tab Bool := []
  /-- what the words overwritten by operations in flight held, newest first (R79, R109) -/
  overwritten : List Overwrite := []
  /-- stream buffers: (partition × 4 + die) × 48 MiB + offset in the partition's share (R112) -/
  sb : Mem := []
  lends : Tab Lend := []
  /-- translation caches: the pages held, newest first, each with its partition generation where the cache tags it (R224, R388), by unit: stream unit g, 80 + die for the coding units, 84 fronthaul,
  128 + p and 160 + p for p's sections of the exchange and mirror engines (R224). Reset empty -/
  tlbs : Tab (List (Nat × Nat)) := []
  mig : List Mig := []
  /-- patrol position by die, in 64-byte units (R216) -/
  patrol : Tab Nat := []
  /-- a-cycle in which the patrol pass of a die began (R216) -/
  patrolAt : Tab Nat := []
  /-- bank last refreshed, by (die × 8 + stack) × 64 + pc: bank, a-cycle (R217) -/
  refresh : Tab (Nat × Nat) := []
  /-- stacks in doubled refresh by global stack (R217) -/
  hot : Tab Bool := []
  deriving DecidableEq, Repr

/-! ### Rings -/

/-- A started command of a ring (R335): where it came from, and the row that carries it out. -/
structure Started where
  src : Src
  cmd : Instr
  deriving DecidableEq, Repr

/-- A report to be written (R340): KIND, payload. -/
structure Report where
  kind : Nat
  payload : Bytes
  deriving DecidableEq, Repr

/-- The device side of a Welto ring beside RING_SQ to RING_STATE (R326 to R341). Every field resets to 0 or empty. -/
structure Ring where
  /-- submissions fetched, free-running (R329) -/
  fetched : Nat := 0
  /-- last PROD and CCONS read -/
  prod : Nat := 0
  ccons : Nat := 0
  /-- records written, free-running (R336) -/
  recs : Nat := 0
  /-- fetched and not started, oldest first: 64 bytes each -/
  subs : List Bytes := []
  started : List Started := []
  /-- completion records that wait for a free slot: command, status, RESULT0, RESULT1 -/
  waiting : List (Src × Nat × BitVec 64 × BitVec 64) := []
  /-- unchanged doorbell reads in a row (R331) -/
  idlePolls : Nat := 0
  /-- reports that queue behind a doorbell read (R330) -/
  reports : List Report := []
  /-- network time of the last doorbell read -/
  polled : BitVec 64 := 0
  /-- areas whose base was last written with a bit of [5:0] set, by 0 SQ, 1 CQ, 2 DB: no multiple of 64 (R327) -/
  skew : Tab Bool := []
  /-- a-cycle until which raises merge, and whether one merged (R350) -/
  imodUntil : Nat := 0
  merged : Bool := false
  deriving DecidableEq, Repr

/-- A semaphore beside SEM_PART (R347 to R349). Reset 0, no notification. -/
structure Sem where
  value : BitVec 64 := 0
  /-- armed notification: W and vector -/
  armed : Option (BitVec 64 × Nat) := none
  deriving DecidableEq, Repr

/-! ### Fronthaul and coding -/

/-- Counts of one carrier slot for its report (R209). Each saturates at 65,535 when written. -/
structure SlotCnt where
  dlLate : Nat := 0
  dir : Nat := 0
  staleEgress : Nat := 0
  lateSubmits : Nat := 0
  ulMiss : Nat := 0
  lateUl : Nat := 0
  earlyUl : Nat := 0
  dup : Nat := 0
  notown : Bool := false
  tbOk : Nat := 0
  tbCrcFail : Nat := 0
  tbDeadline : Nat := 0
  tbErased : Nat := 0
  cbFail : Nat := 0
  dlOk : Nat := 0
  dlFail : Nat := 0
  /-- the report has been written: later jobs count in LATE_TB (R209) -/
  reported : Bool := false
  deriving DecidableEq, Repr

/-- An uplink line being received (R170, R176): resource blocks arrived, samples summed for the gain loop. -/
structure Line where
  got : List Nat := []
  /-- by resource block (time-domain mode: by block of the message): sum of (m × 2^e)^2 of its samples, and their count (R176) -/
  sq : Tab (Nat × Nat) := []
  /-- time-domain mode: samples behind the prefix by component, 2 × sample + (0 I, 1 Q) (R175) -/
  td : Tab Int := []
  closed : Bool := false
  deriving DecidableEq, Repr

/-- The gain in force in a detection window (R177). -/
structure Window where
  gain : Nat
  slot : Nat
  /-- first and last symbol of the window -/
  first : Nat := 0
  last : Nat := 13
  deriving DecidableEq, Repr

/-- A carrier beside FH_OWN (R162 to R192). -/
structure Carrier where
  /-- descriptor with its pattern in force; empty: not in force yet -/
  desc : Bytes := []
  /-- descriptor waiting for APPLY_FRAME (R164) -/
  pend : Option Bytes := none
  /-- CARRIER_DEL accepted: freed at the next frame boundary -/
  deleting : Bool := false
  /-- OWN_REVOKEs that wait for the started frame of a port: command and port (R185) -/
  revoking : List (Src × Nat) := []
  /-- slot-processing descriptor in force, and the one waiting with its first frame (R190) -/
  slotp : Option Bytes := none
  slotpPend : Option (Bytes × Nat) := none
  /-- gain-loop state by stream (R176). Reset 4,096 when created -/
  g : Tab Nat := []
  /-- detection windows by (n × 14 + first symbol) × 128 + stream (R177) -/
  win : Tab Window := []
  /-- values of g by stream with the times they were reached, newest first, for lines outside any window (R177) -/
  gHist : Tab (List (BitVec 64 × Nat)) := []
  /-- filtered offset, slots since the last correction, correction SEQ (R178, R179). Reset 0 -/
  fhat : Int := 0
  settle : Nat := 0
  seq : Nat := 0
  /-- recorded tables by dir × 2^32 + slot (R191) -/
  alloc : Tab Nat := []
  /-- directory entries written, same key (R192) -/
  dirDone : Tab Bool := []
  /-- slots whose allocation came late only, same key -/
  lateOnly : Tab Bool := []
  cnt : Tab SlotCnt := []
  lines : Tab Line := []
  /-- by n × 4,096 + record: 1 + k once the C-plane message and the U-plane messages of k symbols have been taken, 63 the section is
  closed (R167, R168) -/
  sent : Tab Nat := []
  /-- sections of type 3 that FH has sent: slot, stream, first and last symbol (R177) -/
  prach : List (Nat × Nat × Nat × Nat) := []
  lateTb : Nat := 0
  deriving DecidableEq, Repr

/-- A coding job taken from a queue (R195 to R207). -/
structure Job where
  j : Nat
  bytes : Bytes
  started : Bool := false
  /-- a-cycle from which its code blocks can go to engines: its start, or the end of its CRC service (R208) -/
  readyAt : Nat := 0
  /-- code blocks, those that have finished, those whose own CRC fails once decoded, and how many of the finished job count as failed -/
  cbs : Nat := 1
  ended : List Nat := []
  fails : List Nat := []
  cbFail : Nat := 0
  /-- iterations of each code block (R204) -/
  iters : List Nat := []
  /-- a-cycle in which the last code block was done; of a SIGNAL, the one after the last earlier completion (R198) -/
  lastAt : Nat := 0
  /-- the job's row has run: output bytes at DST, and soft-buffer writes -/
  out : Option Bytes := none
  soft : List (Nat × Bytes) := []
  crcOk : Bool := false
  erased : Bool := false
  status : Nat := 0
  done : Bool := false
  deriving DecidableEq, Repr

/-- A coding queue (R195). -/
structure CodingQueue where
  enabled : Bool := false
  log2depth : Nat := 4
  qbase : Nat := 0
  /-- jobs read so far -/
  seen : Nat := 0
  /-- completion records written -/
  cons : Nat := 0
  jobs : List Job := []
  /-- commands that wait until no job is left: the ring, and what it configures (LOG2DEPTH, QBASE); none: disabled (R195) -/
  waiting : List (Src × Option (Nat × Nat)) := []
  deriving DecidableEq, Repr

/-- A code block on an engine of a die (R197): queue, job count, block, a-cycle it is done. -/
structure CbRt where
  q : Nat
  j : Nat
  r : Nat
  until_ : Nat
  /-- a-cycle in which it began on the engine -/
  since : Nat := 0
  /-- a-cycle from which it occupies the engine: the end of its input stage (R204) -/
  from_ : Nat := 0
  deriving DecidableEq, Repr

/-- The coding unit of one die (R188, R197). -/
structure Coding where
  queues : Tab CodingQueue := []
  /-- engines busy, by kind × 16 + index (kind 4 decoder, 5 encoder, 6 polar, 7 CRC) -/
  busy : Tab CbRt := []
  /-- engines out of service (R394) -/
  out : Tab Bool := []
  /-- code blocks waiting: kind, queue, job, block -/
  waiting : List (Nat × Nat × Nat × Nat) := []
  /-- next queue of the round (R197) -/
  turn : Nat := 0
  /-- a-cycle in which the CRC and segmentation unit has served every encode job that has started (R208) -/
  crcEnd : Nat := 0
  deriving DecidableEq, Repr

/-! ### Timebase, egress, Teril -/

/-- A frame or flit waiting at an egress port (R246). -/
structure Frame where
  len : Nat
  /-- the queue it travels in (R246) -/
  queue : Nat := 0
  /-- CRC-16 of a flit as it left (R256) -/
  crc : Nat := 0
  /-- network time it was enqueued (R254) -/
  at_ : BitVec 64
  /-- window class and partition of an exchange flit (R250) -/
  wclass : Option (Nat × Nat) := none
  /-- carrier and slot whose token is checked at the start (R184) -/
  carrier : Option (Nat × Nat) := none
  /-- last U-plane or C-plane start time allowed (R168) -/
  before : Option (BitVec 64) := none
  bytes : Bytes
  /-- Teril: the flit header -/
  hdr : BitVec 96 := 0
  /-- exchange flit: the entry of the epoch of `wclass`'s partition it belongs to (R144) -/
  send : Option Nat := none
  /-- a message of the timebase (R237 to R239): 0 Sync, 1 Delay_Req, 2 Delay_Resp, 3 eCPRI delay request, 4 Announce, 5 ESMC -/
  ptp : Option Nat := none
  /-- section record × 2 + plane (0 C-plane, 1 U-plane) of a downlink message, for R168 -/
  sect : Option Nat := none
  /-- the first frame of its message (R167) -/
  lead : Bool := false
  /-- C-plane message of a section of type 3: its stream, first and last symbol (R177) -/
  prach : Option (Nat × Nat × Nat) := none
  deriving DecidableEq, Repr

/-- A gate list entry (R248). -/
structure GateEnt where
  dur : Nat
  gates : BitVec 8
  wclass : Nat
  wvalid : Bool
  deriving DecidableEq, Repr

/-- A gate control list (R248, R251). -/
structure GateList where
  ovh : Nat := 0
  base : BitVec 64 := 0
  cycle : Nat := 1000000
  /-- by queue: MODE (0 strict, 1 CBS, 2 SFQ), WEIGHT, IDLE -/
  mode : Tab Nat := []
  weight : Tab Nat := []
  idle : Tab Nat := []
  /-- owner of a window class, plus 1 -/
  owner : Tab Nat := []
  ents : List GateEnt := [{ dur := 1000000, gates := 255, wclass := 0, wvalid := false }]
  deriving DecidableEq, Repr

/-- An egress port (R246 to R254). Tags and credits reset to 0 -/
structure Port where
  active : GateList := {}
  pend : Option (GateList × BitVec 64 × Src) := none
  queues : Tab (List Frame) := []
  credit : Tab Int := []
  charge : Tab Int := []
  /-- queue that is sending and the network time its frame ends -/
  sending : Option (Nat × BitVec 64) := none
  /-- the frame that is leaving has outlasted its gate (R249). Reset 0 -/
  overran : Bool := false
  v : Nat := 0
  s : Tab Nat := []
  f : Tab Nat := []
  /-- histogram bins by queue × 32 + bin; delay bins at + 16 (R254). Reset 0 -/
  hist : Tab Nat := []
  /-- quality level last received by ESMC (R239) -/
  ql : Option Nat := none
  deriving DecidableEq, Repr

/-- The servo beside TB_STATUS, TB_OFFSET, TB_FADJ and TB_STEP_REQ (R240 to R245). -/
structure Servo where
  /-- integral term. Reset 0 -/
  i : Int := 0
  /-- frequency measured from the SyncE source, units of 2^-48. Reset 0 -/
  fsync : Int := 0
  /-- port in use as SyncE source (R239) -/
  src : Option Nat := none
  /-- Sync waiting for its exchange: t1, t2, c1 -/
  sync : Option (BitVec 64 × BitVec 64 × Int) := none
  /-- t3 of the Delay_Req after that Sync -/
  t3 : Option (BitVec 64) := none
  /-- consecutive offsets beyond SLEW_MAX of one sign, newest first -/
  outliers : List Int := []
  /-- consecutive offsets within SLEW_MAX -/
  good : Nat := 0
  everLocked : Bool := false
  /-- the last 256 loop outputs, newest first (R242) -/
  outs : List Int := []
  /-- network time of the last Announce and the last Sync on the slave port -/
  announce : BitVec 64 := 0
  lastSync : BitVec 64 := 0
  /-- MODE 1 slew in progress: the sign of the 100 ppb added (R244) -/
  slew : Option Int := none
  deriving DecidableEq, Repr

/-- A Teril link beside TL_LINK_STATUS, QS_LINK and QS_TL_PLAN (R258 to R262, R412 to R415). -/
structure Link where
  /-- next flit count to send and to accept, modulo 2^16 (R258). Reset 0 -/
  tx : Nat := 0
  rx : Nat := 0
  /-- unacknowledged flits, oldest first, at most 1,024: count and frame -/
  replay : List (Nat × Frame) := []
  /-- replays of the oldest flit (R259) -/
  tries : Nat := 0
  /-- a-cycle since which flits are outstanding without acknowledgement -/
  ackAt : Nat := 0
  /-- discarding until the missing count arrives (R258) -/
  naked : Bool := false
  /-- configuration under trial, 0 to 5 in the order of R414, and the phase: 0 train, 1 screen, 2 confirmation -/
  conf : Nat := 0
  phase : Nat := 0
  /-- it has been in service: the confirmation runs in service (R413) -/
  again : Bool := false
  /-- credits used per queue (R262) -/
  used : Tab Nat := []
  deriving DecidableEq, Repr

/-- An outstanding request of this device, by TAG (R267 to R272). -/
structure Req where
  /-- core and number of the operation, partition -/
  g : Nat
  op : Nat
  p : Nat
  /-- target fabric address and role -/
  dst : Nat
  role : Nat
  /-- ITIME, full network time of the first send, and of the last send -/
  itime : BitVec 64
  last : BitVec 64
  body : Bytes
  retries : Nat := 0
  bulk : Bool := false
  /-- local byte offset the reply's data lands at, and length -/
  off : Nat := 0
  len : Nat := 0
  wseq : Nat := 0
  /-- data flits of a bulk put, or units of a bulk get that have arrived -/
  data : Bytes := []
  units : Tab Nat := []
  /-- it went to the instance listed first (R265) -/
  first : Bool := true
  /-- an access of the far port to a lent frame (R265): the grant address and the virtual address of its unit, and who reads it: the move
  of a core (core, a-cycle of issue) or a migration (80 + partition, page) -/
  far : Option (Nat × Nat × Option (Nat × Nat)) := none
  deriving DecidableEq, Repr

/-- A reply-cache entry (R271), keyed by source × 2^16 + TAG. -/
structure Reply where
  status : Nat
  old : BitVec 64
  expiry : BitVec 64
  deriving DecidableEq, Repr

/-- A bulk transfer arriving (R278). -/
structure BulkRt where
  req : Bytes
  units : Tab Nat
  data : Mem
  lastSeen : Option Nat
  deriving DecidableEq, Repr

/-- Teril beside its registers (R255 to R288). -/
structure Teril where
  links : Tab Link := []
  reqs : Tab Req := []
  /-- tags resolved and not yet reusable: expiry (R267) -/
  tagBusy : Tab (BitVec 64) := []
  nextTag : Nat := 0
  /-- number of the next remote operation -/
  nextOp : Nat := 0
  /-- store maps by source: B and the bits set from B upward (R270) -/
  storeBase : Tab Nat := []
  storeSet : Tab (List Nat) := []
  /-- next WSEQ by target (R270), numbered from 1 -/
  wseq : Tab Nat := []
  replies : Tab Reply := []
  bulk : Tab BulkRt := []
  /-- flits whose writes wait for the switch of a page being migrated: header and payload, oldest first (R228) -/
  held : List (BitVec 96 × Bytes) := []
  /-- completed bulk pairs, newest first, with the time they were completed (R278) -/
  bulkDone : List (Nat × BitVec 64) := []
  /-- member table: fabric addresses (R398); none until the first MEMBER_CONFIRM -/
  members : Option (List Nat) := none
  /-- lease deadline LD (R184) -/
  ld : BitVec 64 := 0
  /-- network time of the last stale notice by source (R399) -/
  noticed : Tab (BitVec 64) := []
  /-- mirror: links, cap (R279); TL_MIR_STATUS holds partner and state. Reset 0 -/
  mirLinks : Nat := 0
  mirCap : Nat := 0
  /-- network time at which the rate cap allows the next chunk (R279) -/
  mirAt : BitVec 64 := 0
  /-- dirty chunks in first-dirty order: partition, page, chunk, network time of the write (R281) -/
  dirty : List (Nat × Nat × Nat × BitVec 64) := []
  /-- chunks being copied: the same, with the time sent -/
  copying : List (Nat × Nat × Nat × BitVec 64 × BitVec 64) := []
  /-- partitions taken over by MIRROR_TAKEOVER: BROKEN until a new MIRROR_MAP (R285) -/
  taken : List Nat := []
  /-- carrier records received from the partner, by carrier (R284): gains by stream, f̂, settle count, SEQ -/
  records : Tab (List Nat × Int × Nat × Nat) := []
  deriving DecidableEq, Repr

/-! ### Lending, shared groups, host, Lorgil, faults, bring-up -/

/-- A lending gate list (R302). -/
structure Lgl where
  groups : List Nat := []
  base : BitVec 64 := 0
  cycle : Nat := 500000
  /-- DUR in ns and HOLD -/
  ents : List (Nat × BitVec 16) := [(500000, 0)]
  digest : Bytes := []
  deriving DecidableEq, Repr

/-- A lend group's transition (R303, R304). -/
structure LendRt where
  /-- handle of the lend group -/
  handle : Nat := 0
  /-- 0 free; 2 taking; 3 held by p0; 4 returning; 5 returned, the lend span of R311 running to its end -/
  phase : Nat := 0
  /-- W_on and W_off of the take that the phase belongs to -/
  won : BitVec 64 := 0
  woff : BitVec 64 := 0
  /-- W_on of the next take -/
  next : Option (BitVec 64) := none
  /-- the notice of that take has been written -/
  noticed : Bool := false
  /-- TAKE_LATE or RETURN_LATE has been set for this take (R304, R305) -/
  late : Bool := false
  deriving DecidableEq, Repr

/-- A grant of a shared group: its context (R309 to R312). -/
structure SgGrant where
  part : Nat
  weight : Nat
  resident : Bool
  /-- start and finish tags, 64 bits. Reset 0 -/
  s : Nat := 0
  f : Nat := 0
  /-- a-cycles charged since it was switched in or renewed -/
  charge : Nat := 0
  /-- blocked since this a-cycle; none: runnable -/
  blocked : Option Nat := some 0
  /-- swapped out since -/
  outAt : Nat := 0
  deriving DecidableEq, Repr

/-- A shared group (R308 to R314). -/
structure SharedGroup where
  handle : Nat := 0
  fixed : Bool := false
  resM1 : Nat := 3
  slice : Nat := 20
  yield : Nat := 20
  grants : List SgGrant := []
  v : Nat := 0
  /-- grant running, and when its slice began -/
  run : Option Nat := none
  sliceAt : Nat := 0
  /-- slice has ended for the running context -/
  expired : Bool := false
  /-- lent: the time that remained of the slice (R306) -/
  suspended : Option Nat := none
  /-- changes waiting for the next decision point, oldest first (R308): the descriptor and its command -/
  pend : List (Bytes × Src) := []
  /-- SG_SET commands that wait for the scrub of a removed context (R308, R315) -/
  ending : List Src := []
  deriving DecidableEq, Repr

/-- A Lorgil session (R357 to R362). -/
structure Session where
  role : Nat
  part : Nat
  /-- waits for SESS_FINISH since this network time -/
  opening : Option (BitVec 64) := none
  th1 : Bytes := []
  sigL : Bytes := []
  qs : Bytes := []
  z : Bytes := []
  /-- TH of R358, the salt of its keys -/
  th : Bytes := []
  counter : BitVec 64 := 0
  deriving DecidableEq, Repr

/-- n cells of the byte 0xFF from an address. -/
def filled (a n : Nat) : Mem := (List.range n).map (fun i => (a + i, 0xFF#8))

/-- A Coppice map of a part without failures: on each die cores 0 to 19 enabled and core 20 spare, no failed row, octet or lane
(R408; log 4). -/
def plainMap : Mem :=
  [(0, 0x43#8), (1, 0x4F#8), (2, 0x43#8), (3, 0x50#8), (4, 1#8)] ++
    (List.range 4).flatMap (fun d => [(0x10 + 4 * d, 0xFF#8), (0x11 + 4 * d, 0xFF#8), (0x12 + 4 * d, 0x0F#8)]) ++
    filled 0x20 336 ++ filled 0x190 96

/-- What the card flash and the part hold over power cycles (R354, R408): inputs of the model, not state of a run. -/
structure Flash where
  helperOk : Bool := true
  seed : Bytes := []
  serial : Nat := 0
  stepping : Nat := 0x10
  fwDigest : Bytes := []
  fwMajor : Nat := 1
  fwMinor : Nat := 0
  fwSvn : Nat := 0
  cfgDigest : Bytes := []
  svnFloor : Nat := 0
  debug : Bool := false
  operRecord : Bytes := []
  operKey : Bytes := []
  fmKey : Bytes := []
  deviceCert : Bytes := []
  /-- the signed Coppice map, 512 bytes -/
  signed : Mem := plainMap
  /-- per-part VDD_Cd in mV (R431) -/
  vdd : List Nat := [700, 700, 700, 700]
  staged : Bytes := []
  deriving DecidableEq, Repr

/-- A watched engine (R391 to R394). Every field resets to 0 or empty. -/
structure Watch where
  /-- progress of an engine that is no core engine -/
  prog : Prog := {}
  /-- partitions still to be replayed; the head is on probation -/
  suspects : List Nat := []
  /-- progress events when the probation of the head began -/
  base : Nat := 0
  /-- a suspect of this replay has been killed -/
  killed : Bool := false
  /-- a-cycle of the last hang attributed to the engine (R394) -/
  lastHang : Option Nat := none
  deriving DecidableEq, Repr

/-- The ladder of one site (R396): last step and the network time it was taken. -/
structure Ladder where
  step : Nat := 0
  at_ : BitVec 64 := 0
  deriving DecidableEq, Repr

/-- A reset in progress (R382, R387): what it is, its bound, the command that waits. -/
structure ResetRt where
  site : SiteId
  scope : Nat
  target : Nat
  due : Nat
  cmd : Option Src
  deriving DecidableEq, Repr

/-- What a message of the timebase carries (R237 to R239). -/
structure PtpOut where
  /-- 0 Sync, 1 Delay_Req, 2 Delay_Resp, 4 Announce, 5 ESMC -/
  kind : Nat
  /-- originTimestamp or receiveTimestamp: PTP seconds and whole nanoseconds -/
  seconds : Nat := 0
  ns : Nat := 0
  /-- what is added to correctionField, in units of 2^-16 ns -/
  corr : Nat := 0
  twoStep : Bool := false
  /-- domain, and the multicast address: 0 01-80-C2-00-00-0E, 1 01-1B-19-00-00-00 (R238) -/
  domain : Nat := 0
  addr : Nat := 0
  /-- ESMC: the quality level of the current source (R239) -/
  ql : Option Nat := none
  deriving DecidableEq, Repr

/-- What left the block, newest first: the model's own record of its outputs (log 5). -/
inductive Out where
  /-- MSI-X vector raised (R350) -/
  | msix (v : Nat)
  /-- a frame or flit started on egress port e -/
  | frame (e : Nat) (f : Frame)
  /-- a link control word of a Teril link: 0 ACK, 1 NAK, with the count (R258) -/
  | control (link kind count : Nat)
  /-- a message of the timebase as it leaves port e (R237 to R239) -/
  | ptp (e : Nat) (m : PtpOut)
  /-- I3C bytes and in-band interrupts (R421) -/
  | i3c (bytes : Bytes)
  | i3cInt (b : Nat)
  | i3cNack
  /-- the answer of a TDISP or IDE_KM message: success, data (R325, R361, R368) -/
  | doe (ok : Bool) (data : Bytes)
  /-- the value a register read returned; zero for a rejected one (R19, R127) -/
  | read (off : Nat) (v : BitVec 64)
  /-- a heartbeat address written (R402) -/
  | dma (addr : Nat) (bytes : Bytes)
  deriving DecidableEq, Repr

/-- Pins and sensors (R429 to R445). -/
structure Pins where
  pwron : Bool := false
  pwrOk : BitVec 12 := 0
  pwrcycReq : Bool := false
  /-- network time PWRCYC_REQ_N was asserted (R434) -/
  pwrcycAt : BitVec 64 := 0
  thermtrip : Bool := false
  perst : Bool := false
  pcieReset : Bool := true
  ppsOut : Bool := false
  /-- network time of the last PPS_OUT rise -/
  ppsAt : Option (BitVec 64) := none
  /-- STRAP_FLASHV, STRAP_AVS, TEST_N (R440) -/
  straps : BitVec 3 := 0
  /-- every clock but S and T has stopped (R433, R442) -/
  stopped : Bool := false
  /-- voltage in mV and current in mA of each rail as last read (R431) -/
  rails : List (Nat × Nat) := []
  /-- package power and VDD_C power per die in µW, newest reading first, at most 150 (R443) -/
  power : List (Nat × List Nat) := []
  dieTemp : List Int := []
  stackTemp : List Int := []
  deriving DecidableEq, Repr

/-- The whole device. -/
structure Dev where
  /-- a-cycles since power-up (R12). Reset 0 -/
  acyc : Nat := 0
  /-- network time, 1/8 ns: TB_TIME (R233). Counts from zero at power-up -/
  nt : BitVec 64 := 0
  /-- the model's own counter of free values used (log 2). Reset 0, DESIGN CHOICE -/
  free : Nat := 0
  /-- BAR0 registers by byte offset; an unlisted one holds its reset value (R22) -/
  regs : Tab (BitVec 64) := []
  /-- W1C bits that hardware has set in this a-cycle, by byte offset and bit, and whether the event counted in SETCNT (R21, R381). Reset none -/
  raised : List ((Nat × Nat) × Bool) := []
  /-- W1C bits that a write has cleared in this a-cycle (R381). Reset none -/
  dropped : List (Nat × Nat) := []
  /-- host memory as the host's IOMMU maps it (log 6) -/
  host : Mem := []
  rings : Tab Ring := []
  sems : Tab Sem := []
  /-- MSI-X table at HI + 0x0020_0000 by 32-bit word; word 3 of a vector is Vector Control, which resets to 1, masked
  (R321, R322; PRESUMED from PCIe, log 4); other words reset to 0 -/
  msixTab : Tab (BitVec 32) := []
  /-- pending bits at HI + 0x0020_8000 by vector (R322). Reset 0 -/
  pba : Tab Bool := []
  parts : Tab Part := []
  cores : Tab Core := []
  /-- save areas by partition × 128 + core (R293) -/
  saves : Tab Saved := []
  carriers : Tab Carrier := []
  coding : Tab Coding := []
  mem : MemSys := {}
  servo : Servo := {}
  /-- egress ports 0 to 31 (R235, R246) -/
  ports : Tab Port := []
  teril : Teril := {}
  lgl : Lgl := {}
  lglPend : Option (Lgl × BitVec 64 × Src) := none
  lends : Tab LendRt := []
  shared : Tab SharedGroup := []
  sessions : Tab Session := []
  mboxReq : Mem := []
  mboxRsp : Mem := []
  flash : Flash := {}
  /-- IDE streams secure, by stream (0 link, 1 to 31 selective) (R324) -/
  ide : Tab Bool := []
  watch : Tab Watch := []
  ladders : Tab Ladder := []
  resets : List ResetRt := []
  /-- network times of step-3 resets in the window (R397) -/
  oosResets : List (BitVec 64) := []
  /-- events of the running 10 ms interval and e[c], by class 0 CE to 5 THERMAL (R403). Reset 0 -/
  hn : Tab Nat := []
  he : Tab Int := []
  /-- the last boundary of network time acted on, by 0 heartbeat, 1 health, 2 histogram, 3 frame, 4 throttle, 5 PPS, 8 Delay_Req,
  16 + e Sync: a backward step repeats none (R245). Reset 0 -/
  beats : Tab (BitVec 64) := []
  /-- SEQ of heartbeats (R402). Reset 0 -/
  hbSeq : Nat := 0
  /-- bring-up stage running (R405); none: no stage runs -/
  stage : Option Nat := none
  /-- a reduced pass in this bring-up -/
  reduced : Bool := false
  /-- stages a device reset reruns that remain -/
  rerun : List Nat := []
  /-- Quickset report records, 10 × 32 bytes (R420). Reset 0 -/
  qs : Mem := []
  /-- Coppice map in force, 512 bytes (R408) -/
  inForce : Mem := []
  /-- I3C read pointer (R421). Reset 0 -/
  i3c : Nat := 0
  /-- saturations of fronthaul egress: a count of the unit that no event source shows (R47, R51, log 155). Reset 0 -/
  fhSat : Nat := 0
  /-- fronthaul ports that have been up once (R416) -/
  fhOnce : Tab Bool := []
  /-- die links out of service, in map order 0 to 7 (R419) -/
  dieOut : Tab Bool := []
  /-- phase of a fronthaul port's acceptance: 0 train, 1 screen, 2 confirmation (R412) -/
  fhPhase : Tab Nat := []
  pins : Pins := {}
  /-- die and edge event banks: die d at d, E0 at 4, E1 at 5 (R422) -/
  banks : Tab EvBank := []
  /-- what left the block, newest first (log 5) -/
  out : List Out := []
  deriving DecidableEq, Repr

/-- The machine: the waiting commands, first in first out, and the device. -/
structure State where
  pending : List Instr
  dev : Dev
  deriving DecidableEq, Repr

/-- The machine after power-up, before PWRON_N rises: every register at its reset value, network time 0 (R233), and
no command waiting. -/
def State.reset : State := { pending := [], dev := {} }

end Sys2Proof.Machine
end

