-- ==== Sys2Proof/Machine/Tab.lean ====
section
/-! DEFINITION. Sparse tables and byte memories in canonical form, little-endian byte strings (R24), list helpers. -/

namespace Sys2Proof.Machine

open Sys2Proof

/-- x put into a sorted list, before the entries that do not precede it. -/
def insertL {α : Type} (le : α → α → Bool) (x : α) : List α → List α
  | [] => [x]
  | y :: r => if le x y then x :: y :: r else y :: insertL le x r

/-- A list in ascending order; equal entries keep their order. -/
def sortL {α : Type} (le : α → α → Bool) (l : List α) : List α := l.foldr (insertL le) []

/-- The entry of key k; d where none is listed. -/
def tabGet {α : Type} (d : α) : Tab α → Nat → α
  | [], _ => d
  | (k', v) :: r, k => if k = k' then v else tabGet d r k

/-- The table with key k holding v; an entry equal to the default d is not listed. -/
def tabSet {α : Type} [DecidableEq α] (d : α) : Tab α → Nat → α → Tab α
  | [], k, v => if v = d then [] else [(k, v)]
  | (k', v') :: r, k, v =>
    if k < k' then (if v = d then (k', v') :: r else (k, v) :: (k', v') :: r)
    else if k = k' then (if v = d then r else (k, v) :: r)
    else (k', v') :: tabSet d r k v

/-- The table with the entry of key k changed by f. -/
def tabMod {α : Type} [DecidableEq α] (d : α) (t : Tab α) (k : Nat) (f : α → α) : Tab α :=
  tabSet d t k (f (tabGet d t k))

/-- The entry of key k of a table without a default. -/
def tabFind {α : Type} : Tab α → Nat → Option α
  | [], _ => none
  | (k', v) :: r, k => if k = k' then some v else tabFind r k

/-- The table with key k holding v, whatever v is. -/
def tabPut {α : Type} : Tab α → Nat → α → Tab α
  | [], k, v => [(k, v)]
  | (k', v') :: r, k, v =>
    if k < k' then (k, v) :: (k', v') :: r else if k = k' then (k, v) :: r else (k', v') :: tabPut r k v

/-- The table without key k. -/
def tabDel {α : Type} (t : Tab α) (k : Nat) : Tab α := t.filter (fun c => c.1 ≠ k)

/-- Keys strictly rising from above `lo`, no entry equal to d. -/
def tabWfFrom {α : Type} [DecidableEq α] (d : α) : Option Nat → Tab α → Bool
  | _, [] => true
  | lo, (k, v) :: r => (lo.all (· < k)) && decide (v ≠ d) && tabWfFrom d (some k) r

/-- The canonical form of a table. -/
def tabWf {α : Type} [DecidableEq α] (d : α) (t : Tab α) : Bool := tabWfFrom d none t

/-- The canonical form of a byte memory: an unlisted byte reads 0 (log 3). -/
def Memory.wf (m : Mem) : Bool := tabWf (0 : Byte) m

/-- The byte at an address. -/
def memByte (m : Mem) (a : Nat) : Byte := tabGet (0 : Byte) m a

/-- n bytes from address a. -/
def memRead (m : Mem) (a n : Nat) : Bytes := (List.range n).map (fun i => memByte m (a + i))

/-- One byte written. -/
def memSet (m : Mem) (a : Nat) (b : Byte) : Mem := tabSet (0 : Byte) m a b

/-- Bytes written from address a upward. -/
def memWrite (m : Mem) (a : Nat) : Bytes → Mem
  | [] => m
  | b :: bs => memWrite (memSet m a b) (a + 1) bs

/-- n bytes from address a set to 0: none of them is listed any more. -/
def memZero (m : Mem) (a n : Nat) : Mem := m.filter (fun c => ¬ (a ≤ c.1 ∧ c.1 < a + n))

/-- A table without the keys of a range. -/
def tabDrop {α : Type} (t : Tab α) (a n : Nat) : Tab α := t.filter (fun c => ¬ (a ≤ c.1 ∧ c.1 < a + n))

/-- The number a little-endian byte string spells (R24). -/
def leNat : Bytes → Nat
  | [] => 0
  | b :: bs => b.toNat + 256 * leNat bs

/-- n bytes of a number, little-endian (R24). -/
def leBytes : Nat → Nat → Bytes
  | 0, _ => []
  | n + 1, v => BitVec.ofNat 8 v :: leBytes n (v / 256)

/-- n bytes of a structure from byte offset o, as a number; bytes beyond its end read 0. -/
def at_ (b : Bytes) (o n : Nat) : Nat := leNat ((b.drop o).take n)

/-- Bits [hi:lo] of the 8 bytes of a structure at byte offset o. -/
def fld (b : Bytes) (o hi lo : Nat) : Nat := (at_ b o 8 >>> lo) % 2 ^ (hi + 1 - lo)

/-- Bit i of the 8 bytes of a structure at byte offset o. -/
def bit (b : Bytes) (o i : Nat) : Bool := fld b o i i = 1

/-- Bits [hi:lo] of the 8 bytes at o are zero: a reserved field (R20). -/
def rsv (b : Bytes) (o hi lo : Nat) : Bool := fld b o hi lo = 0

/-- n zero bytes. -/
def zeros (n : Nat) : Bytes := List.replicate n 0

/-- A number below 2^w as the two's complement of w bits. -/
def toSigned (w v : Nat) : Int := if v % 2 ^ w < 2 ^ (w - 1) then (v % 2 ^ w : Nat) else (v % 2 ^ w : Nat) - (2 ^ w : Nat)

/-- The w-bit two's complement of an integer. -/
def ofSigned (w : Nat) (v : Int) : Nat := (v % (2 ^ w : Nat)).toNat

/-- Bits set among the first n. -/
def popcount (n x : Nat) : Nat := ((List.range n).filter (fun i => x.testBit i)).length

/-- Ceiling of a quotient. -/
def ceilDiv (a b : Nat) : Nat := (a + b - 1) / b

/-- Keys of a table. -/
def tabKeys {α : Type} (t : Tab α) : List Nat := t.map (·.1)

/-- A list with element i replaced by f of it. -/
def modAt {α : Type} (l : List α) (i : Nat) (f : α → α) : List α := l.modify i f

/-- The value clamped to [lo, hi]. -/
def clampI (lo hi v : Int) : Int := max lo (min hi v)

/-- Sum of a list of naturals. -/
def sumL (l : List Nat) : Nat := l.foldl (· + ·) 0

end Sys2Proof.Machine
end

