-- ==== Sys2Proof/Machine/Numbers.lean ====
section
/-! DEFINITION. Block-scaled numbers (R27 to R51): exact values, the one rounding rule, every encoding and conversion,
the span reduction of R49. -/

namespace Sys2Proof.Machine

open Sys2Proof

/-- Events counted by R51. -/
structure NumEv where
  nan : Nat := 0
  inf : Nat := 0
  sat : Nat := 0
  drop : Nat := 0
  deriving DecidableEq, Repr

def NumEv.add (a b : NumEv) : NumEv := ⟨a.nan + b.nan, a.inf + b.inf, a.sat + b.sat, a.drop + b.drop⟩
def NumEv.sum (l : List NumEv) : NumEv := l.foldl NumEv.add {}

/-- x × 2^-s rounded to the nearest integer, ties to even (R38). -/
def roundShift (x : Int) (s : Nat) : Int :=
  if s = 0 then x
  else
    let q := x.fdiv ((2 ^ s : Nat) : Int)
    let r := x - q * ((2 ^ s : Nat) : Int)
    let h : Int := ((2 ^ (s - 1) : Nat) : Int)
    if r > h ∨ (r = h ∧ q % 2 = 1) then q + 1 else q

/-- 0 as an exact value. -/
def Num.zero : Num := .fin false 0 0

/-- An integer times 2^e. -/
def Num.ofInt (v : Int) (e : Int := 0) : Num := .fin (decide (v < 0)) v.natAbs e

/-- The signed mantissa of a finite value. -/
def sgn (neg : Bool) (m : Nat) : Int := if neg then -(m : Int) else m

/-- Exact sum; a zero sum is -0 only when both terms are -0 (R35, R50). -/
def Num.add : Num → Num → Num
  | .nan, _ => .nan
  | _, .nan => .nan
  | .inf a, .inf b => if a = b then .inf a else .nan
  | .inf a, _ => .inf a
  | _, .inf b => .inf b
  | .fin na ma ea, .fin nb mb eb =>
    let e := min ea eb
    let v := sgn na ma * ((2 ^ (ea - e).toNat : Nat) : Int) + sgn nb mb * ((2 ^ (eb - e).toNat : Nat) : Int)
    if v = 0 then .fin (na && nb && ma = 0 && mb = 0) 0 e else .ofInt v e

/-- Exact product; 0 times an infinity is NaN (R50). -/
def Num.mul : Num → Num → Num
  | .nan, _ => .nan
  | _, .nan => .nan
  | .inf a, .inf b => .inf (a != b)
  | .inf a, .fin b m _ => if m = 0 then .nan else .inf (a != b)
  | .fin a m _, .inf b => if m = 0 then .nan else .inf (a != b)
  | .fin a ma ea, .fin b mb eb => .fin (a != b) (ma * mb) (ea + eb)

def Num.neg : Num → Num
  | .nan => .nan
  | .inf a => .inf (!a)
  | .fin a m e => .fin (!a) m e

def Num.abs : Num → Num
  | .nan => .nan
  | .inf _ => .inf false
  | .fin _ m e => .fin false m e

/-- A value times 2^k. -/
def Num.scale (k : Int) : Num → Num
  | .fin a m e => .fin a m (e + k)
  | x => x

/-- Finite, neither NaN nor an infinity. -/
def Num.isFin : Num → Bool
  | .fin _ _ _ => true
  | _ => false

/-- a < b on values that are not NaN; -0 equals +0. -/
def Num.lt (a b : Num) : Bool :=
  match a, b with
  | .nan, _ => false
  | _, .nan => false
  | .inf x, .inf y => x && !y
  | .inf x, _ => x
  | _, .inf y => !y
  | .fin na ma ea, .fin nb mb eb =>
    let e := min ea eb
    decide (sgn na ma * ((2 ^ (ea - e).toNat : Nat) : Int) < sgn nb mb * ((2 ^ (eb - e).toNat : Nat) : Int))

/-- The exponent of the largest power of two not above m × 2^e, m > 0. -/
def flog2 (m : Nat) (e : Int) : Int := (Nat.log2 m : Int) + e

/-- A finite value as an integer multiple of 2^q, rounded once (R38). -/
def gridUnits (m : Nat) (e q : Int) : Nat :=
  if q ≤ e then m * 2 ^ (e - q).toNat else (roundShift m (q - e).toNat).toNat

/-- Rounding to a binary format with p fraction bits, smallest normal exponent emin and largest exponent emax: ±inf beyond
the range, the subnormal grid below (R38, R45). -/
def roundFloat (p : Nat) (emin emax : Int) : Num → Num
  | .fin neg m e =>
    if m = 0 then .fin neg 0 0
    else
      let q := max (flog2 m e - p) (emin - p)
      let n := gridUnits m e q
      if n ≠ 0 ∧ emax < flog2 n q then .inf neg else .fin neg n q
  | x => x

/-- The code of a rounded value in a format of p fraction bits and eb exponent bits; NaN is canonical (R35). -/
def encodeFloat (p eb : Nat) : Num → Nat
  | .nan => (2 ^ eb - 1) * 2 ^ p + 2 ^ (p - 1)
  | .inf neg => (if neg then 2 ^ (eb + p) else 0) + (2 ^ eb - 1) * 2 ^ p
  | .fin neg n q =>
    let s := if neg then 2 ^ (eb + p) else 0
    if n = 0 then s
    else
      let e := flog2 n q + (2 ^ (eb - 1) - 1 : Nat)
      if e < 1 then s + n
      else s + e.toNat * 2 ^ p + (gridUnits n q (flog2 n q - p) - 2 ^ p)

/-- The value of a code in such a format. -/
def decodeFloat (p eb v : Nat) : Num :=
  let neg := v.testBit (eb + p)
  let ex := (v / 2 ^ p) % 2 ^ eb
  let f := v % 2 ^ p
  let bias : Int := (2 ^ (eb - 1) - 1 : Nat)
  if ex = 2 ^ eb - 1 then (if f = 0 then .inf neg else .nan)
  else if ex = 0 then .fin neg f (1 - bias - p)
  else .fin neg (2 ^ p + f) (ex - bias - p)

/-- fp32: rounding and code (R35, R38). -/
def roundF32 (x : Num) : Num := roundFloat 23 (-126) 127 x
def toF32 (x : Num) : Nat := encodeFloat 23 8 (roundF32 x)
def ofF32 (v : Nat) : Num := decodeFloat 23 8 v
/-- bf16: rounding and code. -/
def roundBf16 (x : Num) : Num := roundFloat 7 (-126) 127 x
def toBf16 (x : Num) : Nat := encodeFloat 7 8 (roundBf16 x)
def ofBf16 (v : Nat) : Num := decodeFloat 7 8 v

/-- What R51 counts of a result rounded to a float format: a NaN written, an infinity produced by the rounding. -/
def floatEv (round : Num → Num) (x : Num) : NumEv :=
  match x, round x with
  | .nan, _ => { nan := 1 }
  | .fin _ _ _, .inf _ => { inf := 1 }
  | _, _ => {}

/-- The nearest integer, ties to even; NaN gives 0, an infinity the limit of its sign (R45). -/
def toIntSat (lo hi : Int) : Num → Int
  | .nan => 0
  | .inf neg => if neg then lo else hi
  | .fin neg m e =>
    clampI lo hi (if 0 ≤ e then sgn neg m * ((2 ^ e.toNat : Nat) : Int) else roundShift (sgn neg m) (-e).toNat)

/-- The same without limits, of a finite value. -/
def toInt (x : Num) : Int :=
  match x with
  | .fin neg m e => if 0 ≤ e then sgn neg m * ((2 ^ e.toNat : Nat) : Int) else roundShift (sgn neg m) (-e).toNat
  | _ => 0

/-- A conversion to an integer type saturated (R51). -/
def intEv (lo hi : Int) (x : Num) : NumEv :=
  match x with
  | .nan => {}
  | .inf _ => { sat := 1 }
  | x => if toInt x < lo ∨ hi < toInt x then { sat := 1 } else {}

/-- Saturation of an exact integer to w bits, and whether it saturated (R37). -/
def satInt (w : Nat) (v : Int) : Int := clampI (-(2 ^ (w - 1) : Nat)) ((2 ^ (w - 1) : Nat) - 1) v
def satEv (w : Nat) (v : Int) : NumEv := if satInt w v = v then {} else { sat := 1 }

/-! ### bs formats (R30 to R32, R39 to R42) -/

/-- Layout of a bs element format by code of *Format codes*: width, exponent bits, fraction bits, bias, emax. -/
structure BsFmt where
  width : Nat
  eb : Nat
  p : Nat
  bias : Nat
  emax : Int
  deriving DecidableEq, Repr

/-- *Element parameters* of codes 0 to 4; bs4i (code 4) is a 4-bit integer. -/
def bsFmt : Nat → BsFmt
  | 0 => ⟨8, 4, 3, 7, 8⟩
  | 1 => ⟨8, 5, 2, 15, 16⟩
  | 2 => ⟨6, 3, 2, 3, 4⟩
  | 3 => ⟨4, 2, 1, 1, 2⟩
  | _ => ⟨4, 0, 0, 0, 2⟩

/-- Element value of a code (R31, R32): a zero with its sign bit set reads +0. -/
def bsElem (fmt c : Nat) : Num :=
  if fmt = 4 then .ofInt (toSigned 4 c)
  else
    let f := bsFmt fmt
    let neg := c.testBit (f.width - 1)
    let ex := (c / 2 ^ f.p) % 2 ^ f.eb
    let m := c % 2 ^ f.p
    if ex = 0 then (if m = 0 then .zero else .fin neg m (1 - (f.bias : Int) - f.p))
    else .fin neg (2 ^ f.p + m) ((ex : Int) - f.bias - f.p)

/-- Value of an element of a block with scale code x: 255 is a NaN block (R30). -/
def bsValue (fmt x c : Nat) : Num := if x = 255 then .nan else (bsElem fmt c).scale ((x : Int) - 127)

/-- Largest magnitude of the element format as units of its grid at emax, for saturation. -/
def bsMax (fmt : Nat) : Nat × Int :=
  if fmt = 4 then (7, 0) else (if fmt = 0 then 15 else if fmt = 3 then 3 else 7, (bsFmt fmt).emax - (bsFmt fmt).p)

/-- Rounding to the element grid and saturation; a rounded zero is code 0 (R39). -/
def bsEncode (fmt : Nat) : Num → Nat
  | .fin neg m e =>
    if m = 0 then 0
    else if fmt = 4 then
      let v := min (gridUnits m e 0) 7
      if neg then ofSigned 4 (-(v : Int)) else v
    else
      let f := bsFmt fmt
      let q := max (flog2 m e - f.p) (1 - (f.bias : Int) - f.p)
      let n := gridUnits m e q
      let s := if neg then 2 ^ (f.width - 1) else 0
      if n = 0 then 0
      else if f.emax < flog2 n q ∨ ((bsMax fmt).2 ≤ q ∧ (bsMax fmt).1 < n * 2 ^ (q - (bsMax fmt).2).toNat) then
        s + 2 ^ (f.width - 1) - 1
      else
        let ex := flog2 n q + f.bias
        if ex < 1 then s + n else s + ex.toNat * 2 ^ f.p + (gridUnits n q (flog2 n q - f.p) - 2 ^ f.p)
  | _ => 0

/-- The element saturated (R51): its rounded magnitude lies above the largest. -/
def bsSat (fmt : Nat) (y : Num) : Bool :=
  match y with
  | .fin _ m e =>
    if m = 0 then false
    else
      let f := bsFmt fmt
      let q := if fmt = 4 then 0 else max (flog2 m e - f.p) (1 - (f.bias : Int) - f.p)
      let n := gridUnits m e q
      if fmt = 4 then decide (7 < n)
      else decide (n ≠ 0 ∧ (f.emax < flog2 n q ∨
        ((bsMax fmt).2 ≤ q ∧ (bsMax fmt).1 < n * 2 ^ (q - (bsMax fmt).2).toNat)))
  | _ => false

/-- The largest magnitude of a list of finite values: its floor_log2, none when all are 0. -/
def amaxLog (vs : List Num) : Option Int :=
  vs.foldl (fun a v =>
    match v with
    | .fin _ m e => if m = 0 then a else some (a.elim (flog2 m e) (max (flog2 m e)))
    | _ => a) none

/-- quantise_block of R39: scale code, element codes, and what R51 counts. -/
def quantiseBs (fmt : Nat) (given : Option Nat) (vs : List Num) : Nat × List Nat × NumEv :=
  if vs.any (fun v => ¬ v.isFin) ∨ given = some 255 then (255, vs.map (fun _ => 0), { nan := 1 })
  else
    let x : Nat := match given, amaxLog vs with
      | some x, _ => x
      | none, none => 0
      | none, some l => (clampI 0 254 (l - (bsFmt fmt).emax + 127)).toNat
    let ys := vs.map (fun v => v.scale (127 - (x : Int)))
    (x, ys.map (bsEncode fmt), { sat := (ys.filter (bsSat fmt)).length })

/-! ### cq16 (R33, R34, R43, R46, R47) -/

/-- Value of a cq16 component. -/
def cqValue (m : Int) (e : Nat) : Num := .ofInt m ((e : Int) - 15)

/-- quantise_cq16 of R43: exponent, mantissas, and what R51 counts. -/
def quantiseCq (given : Option Nat) (xs : List Num) : Nat × List Int × NumEv :=
  if xs.any (fun v => ¬ v.isFin) then (0, xs.map (fun _ => 0), { drop := 1 })
  else
    let e : Nat := match given, amaxLog xs with
      | some e, _ => e
      | none, none => 0
      | none, some l => (clampI 0 15 (l + 1)).toNat
    let ys := xs.map (fun v => toInt (v.scale (15 - (e : Int))))
    (e, ys.map (clampI (-32767) 32767), { sat := (ys.filter (fun y => decide (y < -32767 ∨ 32767 < y))).length })

/-- Ingress of a resource block (R46): exponent, mantissas, dropped. -/
def ingress (ms : List Int) (x w method : Nat) : Nat × List Int × Bool :=
  let e := (if method = 0 then 0 else x) + w - 1
  if 15 < e then (0, ms.map (fun _ => 0), true) else (e, ms.map (· * ((2 ^ (16 - w) : Nat) : Int)), false)

/-- Egress of a resource block (R47): exponent, mantissas, saturations. -/
def egress (ms : List Int) (e w method : Nat) : Nat × List Int × Nat :=
  let x := if method = 0 then 0 else e + 1 - w
  let s := 15 + x - e
  let lim : Int := ((2 ^ (w - 1) : Nat) : Int) - 1
  let ys := ms.map (fun m => roundShift m s)
  (x, ys.map (clampI (-lim) lim), (ys.filter (fun y => decide (y < -lim ∨ lim < y))).length)

/-! ### Lines in memory (R28, R29, R58, R59) -/

/-- A format code of *Format codes* is defined. -/
def fmtOk (f : Nat) : Bool := f ≤ 10

/-- A format is one of the bs formats. -/
def isBs (f : Nat) : Bool := f ≤ 4

/-- Payload bytes of a block of a bs format (R28). -/
def bsPayload (f : Nat) : Nat := 4 * (bsFmt f).width

/-- Size of an element of a plain type or of cf32. -/
def plainSize (f : Nat) : Nat :=
  match f with
  | 6 => 2
  | 7 => 2
  | 10 => 8
  | _ => 4

/-- Line payload of a line of n elements (R59). -/
def linePayload (f n : Nat) : Nat :=
  if isBs f then ceilDiv n 32 * bsPayload f else if f = 5 then ceilDiv n 12 * 48 else n * plainSize f

/-- Scale bytes of a line of n elements (R59); 0 for plain types. -/
def lineScales (f n : Nat) : Nat :=
  if isBs f then ceilDiv n 32 else if f = 5 then ceilDiv (ceilDiv n 12) 2 else 0

/-- The bits of element i of a line, in its payload (R28): a bs code, or the bytes of a plain element or cq16 sample. -/
def elemBits (f : Nat) (pl : Bytes) (i : Nat) : Nat :=
  if isBs f then
    let w := (bsFmt f).width
    let o := i / 32 * bsPayload f * 8 + i % 32 * w
    (at_ pl (o / 8) 2 >>> (o % 8)) % 2 ^ w
  else if f = 5 then at_ pl (i * 4) 4
  else at_ pl (i * plainSize f) (plainSize f)

/-- The scale code or exponent of element i (R29). -/
def elemScale (f : Nat) (sc : Bytes) (i : Nat) : Nat :=
  if isBs f then at_ sc (i / 32) 1
  else (at_ sc (i / 12 / 2) 1 >>> (i / 12 % 2 * 4)) % 16

/-- The exact value of an element of format f from its bits and its scale code or exponent: real and imaginary part (imaginary 0 for real
formats). -/
def codeValue (f b x : Nat) : Num × Num :=
  match f with
  | 5 => (cqValue (toSigned 16 b) x, cqValue (toSigned 16 (b / 65536)) x)
  | 6 => (ofBf16 b, .zero)
  | 7 => (.ofInt (toSigned 16 b), .zero)
  | 8 => (ofF32 b, .zero)
  | 9 => (.ofInt (toSigned 32 b), .zero)
  | 10 => (ofF32 (b % 2 ^ 32), ofF32 (b / 2 ^ 32))
  | _ => (bsValue f x b, .zero)

/-- The exact value of element i of a line. -/
def elemValue (f : Nat) (pl sc : Bytes) (i : Nat) : Num × Num := codeValue f (elemBits f pl i) (elemScale f sc i)

/-- A list cut into blocks of n, the last padded with d. -/
def blocksOf {α : Type} (n : Nat) (d : α) : Nat → List α → List (List α)
  | 0, _ => []
  | k + 1, l => (l.take n ++ List.replicate (n - (l.take n).length) d) :: blocksOf n d k (l.drop n)

/-- Element codes packed w bits each into bytes, little-endian. -/
def packBits (w : Nat) (cs : List Nat) : Bytes :=
  leBytes (cs.length * w / 8) (cs.foldr (fun c a => c + a * 2 ^ w) 0)

/-- A line of values narrowed into format f: payload bytes, scale bytes, events. Slots beyond the line take no part and are
written 0 (R65). `shift` serves int16 (R45). -/
def narrowLine (f : Nat) (given : Option Nat) (shift : Nat) (vs : List (Num × Num)) : Bytes × Bytes × NumEv :=
  match f with
  | 5 =>
    let bl := (blocksOf 12 (Num.zero, Num.zero) (ceilDiv vs.length 12) vs).map (fun b =>
      quantiseCq given (b.flatMap (fun v => [v.1, v.2])))
    (bl.flatMap (fun q => q.2.1.flatMap (fun m => leBytes 2 (ofSigned 16 m))),
      (blocksOf 2 0 (ceilDiv bl.length 2) (bl.map (·.1))).map (fun p => BitVec.ofNat 8 (p.getD 0 0 + 16 * p.getD 1 0)),
      NumEv.sum (bl.map (·.2.2)))
  | 6 => (vs.flatMap (fun v => leBytes 2 (toBf16 v.1)), [], NumEv.sum (vs.map (fun v => floatEv roundBf16 v.1)))
  | 7 =>
    let xs := vs.map (fun v => roundShift (toInt v.1) shift)
    (xs.flatMap (fun x => leBytes 2 (ofSigned 16 (satInt 16 x))), [], NumEv.sum (xs.map (satEv 16)))
  | 8 => (vs.flatMap (fun v => leBytes 4 (toF32 v.1)), [], NumEv.sum (vs.map (fun v => floatEv roundF32 v.1)))
  | 9 => (vs.flatMap (fun v => leBytes 4 (ofSigned 32 (satInt 32 (toInt v.1)))), [], {})
  | 10 => (vs.flatMap (fun v => leBytes 4 (toF32 v.1) ++ leBytes 4 (toF32 v.2)), [],
      NumEv.sum (vs.flatMap (fun v => [floatEv roundF32 v.1, floatEv roundF32 v.2])))
  | f =>
    let bl := (blocksOf 32 Num.zero (ceilDiv vs.length 32) (vs.map (·.1))).map (quantiseBs f given)
    (bl.flatMap (fun q => packBits (bsFmt f).width q.2.1), bl.map (fun q => BitVec.ofNat 8 q.1),
      NumEv.sum (bl.map (·.2.2)))

/-! ### Products (R48 to R50) -/

/-- The accumulator an operand pair names: 0 acc32, 1 int32, 2 acc32 complex; with its mode: 0 8-bit, 1 4-bit, 2 16-bit
real, 3 cq16 complex (*Legal operand pairs*). None: the pair is illegal. -/
def pairMode (fa fb : Nat) : Option (Nat × Nat) :=
  if fa ≤ 2 ∧ fb ≤ 3 then some (0, 0)
  else if fa = 3 ∧ fb ≤ 2 then some (0, 0)
  else if fa = 3 ∧ fb = 3 then some (0, 1)
  else if fa = 4 ∧ fb = 4 then some (0, 1)
  else if fa = 6 ∧ fb = 6 then some (0, 2)
  else if fa = 7 ∧ fb = 7 then some (1, 2)
  else if fa = 5 ∧ fb = 5 then some (2, 3)
  else none

/-- Complex product. -/
def cmul (a b : Num × Num) : Num × Num :=
  ((a.1.mul b.1).add (a.2.mul b.2).neg, (a.1.mul b.2).add (a.2.mul b.1))

/-- Exact sum of a list from +0, so that a zero sum is +0 (R49, log 37). -/
def numSum (l : List Num) : Num := l.foldr Num.add .zero

/-- round_to_acc of R49 on an exact value, and what R51 counts of it: an infinity that the rounding made, an integer saturation. -/
def roundAcc (accKind : Nat) (x : Num) : Num × NumEv :=
  if accKind = 1 then (.ofInt (satInt 32 (toInt x)), satEv 32 (toInt x))
  else (roundF32 x, { (floatEv roundF32 x) with nan := 0 })

/-- The exact sum of one span's products, in both components (R49). -/
def spanSum (prods : List (Num × Num)) : Num × Num := (numSum (prods.map (·.1)), numSum (prods.map (·.2)))

/-- One span of R49 added to the accumulator: one rounding per component. -/
def spanStep (accKind : Nat) (acc sum : Num × Num) : (Num × Num) × NumEv :=
  let re := roundAcc accKind (acc.1.add sum.1)
  if accKind = 2 then
    let im := roundAcc accKind (acc.2.add sum.2)
    ((re.1, im.1), re.2.add im.2)
  else ((re.1, .zero), re.2)

/-- Spans added in ascending order (R49). -/
def addSpans (accKind : Nat) (acc : Num × Num) (sums : List (Num × Num)) : (Num × Num) × NumEv :=
  sums.foldl (fun a s =>
    let r := spanStep accKind a.1 s
    (r.1, a.2.add r.2)) (acc, {})

/-- The products of a row and a column, element by element; complex for a complex accumulator. -/
def products (accKind : Nat) (a b : List (Num × Num)) : List (Num × Num) :=
  List.zipWith (fun x y => if accKind = 2 then cmul x y else (x.1.mul y.1, Num.zero)) a b

/-- A list cut into runs of 32, the K-spans of R49. -/
def spansOf {α : Type} : Nat → List α → List (List α)
  | 0, _ => []
  | n + 1, l => l.take 32 :: spansOf n (l.drop 32)

/-- The exact sums of the spans of a row against a column (R49, R55). -/
def spanSums (accKind : Nat) (a b : List (Num × Num)) : List (Num × Num) :=
  let ps := products accKind a b
  (spansOf (ceilDiv ps.length 32) ps).map spanSum

/-- One output element: row a, column b, initial value c (R49), with what R51 counts. -/
def dotSpans (accKind : Nat) (a b : List (Num × Num)) (c : Num × Num) : (Num × Num) × NumEv :=
  addSpans accKind c (spanSums accKind a b)

/-- An accumulator as the bank holds it: fp32 or int32 in [31:0], an imaginary part in [63:32] (R56). -/
def accBits (accKind : Nat) (x : Num × Num) : BitVec 64 :=
  match accKind with
  | 0 => BitVec.ofNat 64 (toF32 x.1)
  | 1 => BitVec.ofNat 64 (ofSigned 32 (toInt x.1))
  | _ => BitVec.ofNat 64 (toF32 x.1 + 2 ^ 32 * toF32 x.2)

/-- The value of a bank entry. -/
def accValue (accKind : Nat) (b : BitVec 64) : Num × Num :=
  match accKind with
  | 0 => (ofF32 (b.toNat % 2 ^ 32), .zero)
  | 1 => (.ofInt (toSigned 32 (b.toNat % 2 ^ 32)), .zero)
  | _ => (ofF32 (b.toNat % 2 ^ 32), ofF32 (b.toNat / 2 ^ 32))

/-- Elements of a destination block of a format: 32 of a bs format, 12 samples of cq16, 1 of a plain type. -/
def blockLen (f : Nat) : Nat := if isBs f then 32 else if f = 5 then 12 else 1

end Sys2Proof.Machine
end

