-- ==== Sys2Proof/Machine/Operands.lean ====
section
/-! DEFINITION. The fields of every instruction word: Hornbeam words (R59), transfer-list words (R113, R143, R265 to R273,
chapter 16), signal-engine slots (R83), flit headers (R256). -/

namespace Sys2Proof.Machine

open Sys2Proof

/-- Bits [hi:lo] of the 32-bit (or wider) word at byte offset o of a 32-byte instruction word. -/
def wfld (w : Word256) (o hi lo : Nat) : Nat := (w.toNat >>> (8 * o + lo)) % 2 ^ (hi + 1 - lo)

/-- A bit of it. -/
def wbit (w : Word256) (o i : Nat) : Bool := wfld w o i i = 1

/-- Bits [hi:lo] at offset o are zero. -/
def wrsv (w : Word256) (o hi lo : Nat) : Bool := wfld w o hi lo = 0

/-! ### Hornbeam (R59) -/

/-- Operand descriptor, 16 bytes. -/
structure OdDesc where
  ebase : Nat
  sbase : Nat
  estride : Nat
  sstride : Nat
  rsvOk : Bool
  deriving DecidableEq, Repr

def odDesc (b : BitVec 128) : OdDesc :=
  let n := b.toNat
  ⟨n % 2 ^ 32, n / 2 ^ 32 % 2 ^ 32, n / 2 ^ 64 % 2 ^ 32, n / 2 ^ 96 % 2 ^ 24, n / 2 ^ 120 = 0⟩

/-- HB.MM instruction word. -/
structure MmOp where
  fa : Nat
  fb : Nat
  fc : Nat
  fd : Nat
  acc : Bool
  xgiven : Bool
  shift : Nat
  m : Nat
  k : Nat
  n : Nat
  gsize : Nat
  oda : Nat
  odb : Nat
  odc : Nat
  odd : Nat
  xd : Nat
  wctr : Nat
  wen : Bool
  sctr : Nat
  sen : Bool
  wval : Nat
  rsvOk : Bool
  deriving DecidableEq, Repr

def mmOp (w : Word256) : MmOp where
  fa := wfld w 0 11 8
  fb := wfld w 0 15 12
  fc := wfld w 0 19 16
  fd := wfld w 0 23 20
  acc := wbit w 0 24
  xgiven := wbit w 0 25
  shift := wfld w 0 30 26
  m := wfld w 4 19 0 + 1
  k := wfld w 8 20 0
  n := wfld w 12 15 0 + 1
  gsize := wfld w 12 19 16
  oda := wfld w 16 4 0
  odb := wfld w 16 12 8
  odc := wfld w 16 20 16
  odd := wfld w 16 28 24
  xd := wfld w 20 7 0
  wctr := wfld w 24 3 0
  wen := wbit w 24 4
  sctr := wfld w 24 11 8
  sen := wbit w 24 12
  wval := wfld w 28 31 0
  rsvOk := wrsv w 0 31 31 && wrsv w 4 31 20 && wrsv w 8 31 21 && wrsv w 12 31 20 && wrsv w 16 7 5 && wrsv w 16 15 13 &&
    wrsv w 16 23 21 && wrsv w 16 31 29 && wrsv w 20 31 8 && wrsv w 24 7 5 && wrsv w 24 31 13

/-- The destination scale or exponent that XGIVEN gives. -/
def MmOp.given (o : MmOp) : Option Nat := if o.xgiven then some o.xd else none

/-! ### Stream unit (R113) -/

/-- Stream descriptor, 24 bytes. -/
structure SdDesc where
  ebase : Nat
  tier : Nat
  sbase : Nat
  estride : Nat
  sstride : Nat
  rsvOk : Bool
  /-- EBASE_HI and SBASE_HI are zero -/
  hiZero : Bool
  deriving DecidableEq, Repr

def sdDesc (b : BitVec 192) : SdDesc :=
  let f := fun o hi lo => (b.toNat >>> (8 * o + lo)) % 2 ^ (hi + 1 - lo)
  ⟨f 0 31 0 + f 4 15 0 * 2 ^ 32, f 4 17 16, f 8 31 0 + f 12 15 0 * 2 ^ 32, f 16 31 0, f 20 23 0,
    f 4 31 18 = 0 ∧ f 12 31 16 = 0 ∧ f 20 31 24 = 0, f 4 15 0 = 0 ∧ f 12 15 0 = 0⟩

/-- SU.MV instruction word. -/
structure MvOp where
  fmt : Nat
  sds : Nat
  sdd : Nat
  xpose : Bool
  decomp : Bool
  gsize : Nat
  lines : Nat
  len : Nat
  wctr : Nat
  wen : Bool
  sctr : Nat
  sen : Bool
  wval : Nat
  rsvOk : Bool
  deriving DecidableEq, Repr

def mvOp (w : Word256) : MvOp where
  fmt := wfld w 0 11 8
  sds := wfld w 0 15 12
  sdd := wfld w 0 19 16
  xpose := wbit w 0 20
  decomp := wbit w 0 21
  gsize := wfld w 0 25 22
  lines := wfld w 4 19 0 + 1
  len := wfld w 8 20 0
  wctr := wfld w 24 3 0
  wen := wbit w 24 4
  sctr := wfld w 24 11 8
  sen := wbit w 24 12
  wval := wfld w 28 31 0
  rsvOk := wrsv w 0 31 26 && wrsv w 4 31 20 && wrsv w 8 31 21 && wrsv w 12 31 0 && wrsv w 16 31 0 && wrsv w 20 31 0 &&
    wrsv w 24 7 5 && wrsv w 24 31 13

/-- WCTR, WEN, SCTR, SEN, WVAL of any transfer-list word, and their reserved bits. -/
structure SuWait where
  wctr : Nat
  wen : Bool
  sctr : Nat
  sen : Bool
  wval : Nat
  rsvOk : Bool
  deriving DecidableEq, Repr

def suWait (w : Word256) : SuWait :=
  ⟨wfld w 24 3 0, wbit w 24 4, wfld w 24 11 8, wbit w 24 12, wfld w 28 31 0, wrsv w 24 7 5 && wrsv w 24 31 13⟩

/-! ### Signal engine (R83) -/

/-- Slot word fields. -/
structure SlotOp where
  opc : Nat
  stg : Nat
  vd : Nat
  va : Nat
  vb : Nat
  vc : Nat
  km : Nat
  t : Nat
  imm : Nat
  deriving DecidableEq, Repr

def slotOp (w : Slot64) : SlotOp :=
  let n := w.toNat
  ⟨n % 256, n / 2 ^ 8 % 16, n / 2 ^ 12 % 64, n / 2 ^ 18 % 64, n / 2 ^ 24 % 64, n / 2 ^ 30 % 64, n / 2 ^ 36 % 16,
    n / 2 ^ 40 % 16, n / 2 ^ 44 % 2 ^ 20⟩

/-- Modifier register (R82). -/
structure Modifier where
  inc : Nat
  log2len : Nat
  bitrev : Bool
  ok : Bool
  deriving DecidableEq, Repr

/-- The modifier and whether its encoding is legal: LOG2LEN 0 or 6 to 23, BITREV only in a buffer, reserved bits 0. -/
def modifierOf (b : BitVec 64) : Modifier :=
  let n := b.toNat
  let l := n / 2 ^ 32 % 32
  let r := n.testBit 37
  ⟨n % 2 ^ 32, l, r, (l = 0 ∨ (6 ≤ l ∧ l ≤ 23)) ∧ ¬ (r = true ∧ l = 0) ∧ n / 2 ^ 38 = 0⟩

/-- The low n bits of x reversed. -/
def revBits (n x : Nat) : Nat := (List.range n).foldl (fun a i => a + (if x.testBit i then 2 ^ (n - 1 - i) else 0)) 0

/-- post_modify of R82. -/
def postModify (a : Nat) (m : Modifier) : Nat :=
  if m.log2len = 0 then (a + m.inc) % 2 ^ 32
  else
    let sz := 2 ^ m.log2len
    let o := a % sz
    let i := m.inc % sz
    a - o + (if m.bitrev then revBits m.log2len ((revBits m.log2len o + revBits m.log2len i) % sz) else (o + i) % sz)

end Sys2Proof.Machine
end

