-- ==== Sys2Proof/Decode.lean ====
section
/-! DEFINITION. How bytes and words become commands: the table's words (none has bits), the packing of parameters (R334),
and *Command opcodes* (R345) with the opcodes of chapters 13 and 14. -/

namespace Sys2Proof

open Sys2Proof.Machine

/-- No row of spec/opcode_table.json gives bits: a word spells no command. -/
def decodeTableWord (_nbits _w : Nat) : Option Instr := none

/-- Parameters of the given sizes read from a parameter string, each at its natural alignment (R334): their values and the
offset after the last; none where a padding byte is not zero. -/
def unpack : List Nat → Bytes → Nat → Option (List Nat × Nat)
  | [], _, o => some ([], o)
  | n :: ns, b, o =>
    let o' := (o + n - 1) / n * n
    if at_ b o (o' - o) ≠ 0 then none
    else (unpack ns b (o' + n)).map (fun r => (at_ b o' n :: r.1, r.2))

/-- Parameters that must fill the string but for zero bytes after them (R334). -/
def params (sizes : List Nat) (b : Bytes) : Option (List Nat) :=
  match unpack sizes b 0 with
  | some (vs, o) => if o ≤ b.length ∧ (b.drop o).all (· = 0) then some vs else none
  | none => none

/-- Parameters followed by an inline descriptor, table or byte string from the next multiple of 16 bytes to the end (R334). -/
def paramsWith (sizes : List Nat) (b : Bytes) : Option (List Nat × Bytes) :=
  match unpack sizes b 0 with
  | some (vs, o) =>
    let o' := (o + 15) / 16 * 16
    if o ≤ b.length ∧ at_ b o (o' - o) = 0 then some (vs, b.drop o') else none
  | none => none

/-- `paramsWith` for a byte string of a fixed length. -/
def paramsLen (sizes : List Nat) (len : Nat) (b : Bytes) : Option (List Nat × Bytes) :=
  match paramsWith sizes b with
  | some (vs, x) => if x.length = len then some (vs, x) else none
  | none => none

/-- Opcodes of command rings (R345). -/
def ringOpsC : List Nat :=
  [0x0101, 0x0102, 0x0103, 0x0104, 0x0501, 0x0502, 0x0503, 0x0504, 0x0505, 0x0506, 0x0601, 0x0602, 0x0701, 0x0702, 0x0703] ++
  [0x0805, 0x0806, 0x0807, 0x0808, 0x0A06, 0x0A07]

/-- Opcodes of command rings of p0 only. -/
def ringOpsP0 : List Nat := [0x0601, 0x0602, 0x0701, 0x0702, 0x0703]

/-- Opcodes of management rings with the roles that issue them: 1 operator, 2 fabric manager, 3 tenant (R345, chapters 13, 14). -/
def ringOpsM : List (Nat × List Nat) :=
  [(0x0101, [1, 2, 3]), (0x0507, [2]), (0x0603, [2]), (0x0604, [2]), (0x0801, [1]), (0x0802, [1]), (0x0803, [1]),
    (0x0804, [1]), (0x0901, [1]), (0x0902, [1]), (0x0A01, [1]), (0x0A02, [1]), (0x0A03, [1]), (0x0A04, [1]), (0x0A05, [2])] ++
  [(0x0B01, [1]), (0x0B02, [1]), (0x0B03, [1]), (0x0B04, [1]), (0x0B05, [1]), (0x0B06, [1]), (0x0B07, [1]), (0x0B08, [1]),
    (0x0B09, [1]), (0x0B0A, [1]), (0x0B0B, [1]), (0x0B0C, [1])] ++
  [(0x0D01, [1, 3]), (0x0D02, [1, 3]), (0x0D03, [1, 3]), (0x0D04, [3]), (0x0D05, [3]), (0x0D06, [1, 2, 3]),
    (0x0D07, [1, 2, 3]), (0x0D08, [1]), (0x0E01, [1, 3]), (0x0E02, [2]), (0x0E03, [1]), (0x0E04, [2])]

/-- The command of a command ring, from its ARGS, 32 bytes (R333, R334); none: BAD_DESC. -/
def parseC (c : Src) (args : Bytes) : Option Instr :=
  match c.op with
  | 0x0101 => (params [] args).map (fun _ => .nop c)
  | 0x0102 => match params [2, 8] args with
    | some [s, v] => some (.semAdd c s (BitVec.ofNat 64 v))
    | _ => none
  | 0x0103 => match params [2] args with
    | some [s] => some (.semRead c s)
    | _ => none
  | 0x0104 => match params [2, 2, 8] args with
    | some [s, vec, v] => some (.semNotify c s vec (BitVec.ofNat 64 v))
    | _ => none
  | 0x0501 => match params [8, 8] args with
    | some [a, n] => some (.load c a n)
    | _ => none
  | 0x0502 => match params [1] args with
    | some [i] => some (.unload c i)
    | _ => none
  | 0x0503 => match params [8, 8, 4] args with
    | some [t, e, h] => some (.arm c (BitVec.ofNat 64 t) e h)
    | _ => none
  | 0x0504 => match params [8] args with
    | some [e] => some (.stop c e)
    | _ => none
  | 0x0505 => match params [8] args with
    | some [e] => some (.swap c e)
    | _ => none
  | 0x0506 => (params [] args).map (fun _ => .abort c)
  | 0x0601 => match params [8, 4] args with
    | some [a, n] => if a % 64 = 0 then some (.carrierCfg c a n) else none
    | _ => none
  | 0x0602 => match params [1] args with
    | some [i] => some (.carrierDel c i)
    | _ => none
  | 0x0701 => match params [8, 4] args with
    | some [a, n] => if a % 64 = 0 then some (.slotprocCfg c a n) else none
    | _ => none
  | 0x0702 => match params [1, 1, 4, 8] args with
    | some [i, dir, n, t] => some (.slotSubmit c i dir n t)
    | _ => none
  | 0x0703 => match params [1, 1, 1, 1, 8] args with
    | some [die, q, en, l, base] => some (.codingQueueCfg c die q en l base)
    | _ => none
  | 0x0805 => match params [8, 4, 1, 1, 1] args with
    | some [a, n, h, die, z] => some (.memMap c a n h die z)
    | _ => none
  | 0x0806 => match params [8, 4] args with
    | some [a, n] => some (.memUnmap c a n)
    | _ => none
  | 0x0807 => match params [8, 4, 1, 1, 4] args with
    | some [a, n, h, die, rate] => some (.memHint c a n h die rate)
    | _ => none
  | 0x0808 => match params [8, 4, 8] args with
    | some [a, n, r] => some (.memQuery c a n r)
    | _ => none
  | 0x0A06 => match params [1, 8, 4, 8] args with
    | some [p, h, pasid, n] => some (.ckptWrite c p h pasid n)
    | _ => none
  | 0x0A07 => match params [1, 8, 4, 8] args with
    | some [p, h, pasid, n] => some (.ckptRestore c p h pasid n)
    | _ => none
  | _ => none

/-- The command of a management ring, from its parameter block (R334, R343); none: BAD_DESC. -/
def parseM (c : Src) (blk : Bytes) : Option Instr :=
  match c.op with
  | 0x0101 => (params [] blk).map (fun _ => .nop c)
  | 0x0507 => match paramsWith [1, 4, 4] blk with
    | some ([p, job, jgen], r) => some (.jobBind c p job jgen r)
    | _ => none
  | 0x0603 => match params [1, 4] blk with
    | some [i, k] => some (.ownGrant c i k)
    | _ => none
  | 0x0604 => match params [1] blk with
    | some [i] => some (.ownRevoke c i)
    | _ => none
  | 0x0801 => match params [1, 4, 4] blk with
    | some [p, f, n] => some (.memRangeAdd c p f n)
    | _ => none
  | 0x0802 => match params [1, 4, 4] blk with
    | some [p, f, n] => some (.memRangeRemove c p f n)
    | _ => none
  | 0x0803 => match params [1, 1, 1, 8, 4, 4] blk with
    | some [p, g, k, b, n, t] => some (.memFarAdd c p g k b n t)
    | _ => none
  | 0x0804 => match params [1, 1] blk with
    | some [p, g] => some (.memFarRemove c p g)
    | _ => none
  | 0x0901 => match params [2, 1] blk with
    | some [q, m] => some (.tbStepAccept c q m)
    | _ => none
  | 0x0902 => some (.gateSet c blk)
  | 0x0A01 => match params [1, 4, 4, 2] blk with
    | some [l, f, n, b] => some (.tlLend c l f n b)
    | _ => none
  | 0x0A02 => match params [1] blk with
    | some [l] => some (.tlUnlend c l)
    | _ => none
  | 0x0A03 => match params [2, 2, 4] blk with
    | some [p, l, cap] => some (.mirrorSet c p l cap)
    | _ => none
  | 0x0A04 => match params [1, 1] blk with
    | some [p, q] => some (.mirrorMap c p q)
    | _ => none
  | 0x0A05 => match params [4, 8] blk with
    | some [m, r] => some (.mirrorTakeover c (BitVec.ofNat 32 m) r)
    | _ => none
  | 0x0B01 => some (.partCreate c blk)
  | 0x0B02 => match params [1] blk with
    | some [p] => some (.partDestroy c p)
    | _ => none
  | 0x0B03 => match params [1, 2, 1] blk with
    | some [p, h, o] => some (.partResize c p h o)
    | _ => none
  | 0x0B04 => some (.partRegulate c blk)
  | 0x0B05 => some (.lglSet c blk)
  | 0x0B06 => some (.sgSet c blk)
  | 0x0B07 => match params [1, 4] blk with
    | some [p, x] => some (.sliceAssign c p x)
    | _ => none
  | 0x0B08 => match params [1, 4] blk with
    | some [p, x] => some (.sliceRelease c p x)
    | _ => none
  | 0x0B09 => match params [1, 8] blk with
    | some [p, e] => some (.sliceFreeze c p e)
    | _ => none
  | 0x0B0A => match params [1, 8, 4, 8] blk with
    | some [p, h, x, n] => some (.sliceSave c p h x n)
    | _ => none
  | 0x0B0B => match params [1, 8, 4, 8] blk with
    | some [p, h, x, n] => some (.sliceRestore c p h x n)
    | _ => none
  | 0x0B0C => match params [1, 8, 1] blk with
    | some [p, t, a] => some (.sliceThaw c p (BitVec.ofNat 64 t) a)
    | _ => none
  | 0x0D01 => match paramsLen [1] 72 blk with
    | some ([p], w) => some (.keyLoad c p w)
    | _ => none
  | 0x0D02 => match paramsLen [1, 4] 72 blk with
    | some ([p, r], w) => some (.keyRotate c p r w)
    | _ => none
  | 0x0D03 => match paramsLen [1] 72 blk with
    | some ([p], w) => some (.fabricKeyLoad c p w)
    | _ => none
  | 0x0D04 => match paramsLen [1] 40 blk with
    | some ([p], w) => some (.migKeyLoad c p w)
    | _ => none
  | 0x0D05 => match paramsLen [1] 48 blk with
    | some ([p], x) => some (.imageAllow c p x)
    | _ => none
  | 0x0D06 => match paramsLen [1, 1, 8] 32 blk with
    | some ([k, p, r], n) => some (.attest c k p r n)
    | _ => none
  | 0x0D07 => (params [] blk).map (fun _ => .sessClose c)
  | 0x0D08 => match params [8, 8] blk with
    | some [h, n] => some (.fwStage c h n)
    | _ => none
  | 0x0E01 => match params [1, 1, 2] blk with
    | some [s, p, t] => some (.reset c s p t)
    | _ => none
  | 0x0E02 => match params [1] blk with
    | some [m] => some (.fltService c m)
    | _ => none
  | 0x0E03 => (params [] blk).map (fun _ => .fltReturn c)
  | 0x0E04 => match paramsLen [1, 4] 512 blk with
    | some ([f, k], b) => some (.memberConfirm c f k b)
    | _ => none
  | _ => none

/-- The partition a command names among its parameters, for the checks of R335 and R344; none: it names none. -/
def namedPart : Instr → Option Nat
  | .ckptWrite _ p _ _ _ => some p
  | .ckptRestore _ p _ _ _ => some p
  | .keyLoad _ p _ => some p
  | .keyRotate _ p _ _ => some p
  | .fabricKeyLoad _ p _ => some p
  | .migKeyLoad _ p _ => some p
  | .imageAllow _ p _ => some p
  | .attest _ k p _ _ => if k = 1 then some p else none
  | .reset _ _ p _ => some p
  | _ => none

/-- The semaphore a command of a command ring names (R335). -/
def namedSem : Instr → Option Nat
  | .semAdd _ s _ => some s
  | .semRead _ s => some s
  | .semNotify _ s _ _ => some s
  | _ => none

/-- The issuing role of a management command matches its session: the tenant on its own partition, the operator on p0
where the table says "operator for p0", KIND 0 for the fabric manager's ATTEST, SCOPE 2 for a tenant's RESET
(R344, R345, R363, R367, R387). -/
def roleMay (i : Instr) (op role part : Nat) : Bool :=
  ((ringOpsM.find? (fun e => e.1 = op)).any (fun e => decide (role ∈ e.2))) &&
  (if role = 3 then
    match i with
    | .reset _ scope p _ => decide (scope = 2 ∧ p = part)
    | _ => (namedPart i).all (· = part)
  else if role = 2 then
    match i with
    | .attest _ k _ _ _ => decide (k = 0)
    | _ => true
  else
    match i with
    | .keyLoad _ p _ => decide (p = 0)
    | .keyRotate _ p _ _ => decide (p = 0)
    | .fabricKeyLoad _ p _ => decide (p = 0)
    | .attest _ k p _ _ => decide (k = 0 ∨ p = 0)
    | _ => true)

end Sys2Proof
end

