-- ==== Sys2Proof/Config.lean ====
section
/-! DEFINITION. What the spec leaves open or takes from a standard it does not restate: free values (log 2) and the
functions of the cryptographic, coding and protocol standards it names (log 7). None has a body. -/

namespace Sys2Proof.Config

open Sys2Proof Sys2Proof.Machine

/-- The k-th free value, w bits wide: nothing constrains it (log 2). -/
opaque free (w k : Nat) : BitVec w

/-- A result the spec leaves open that an instruction gives alike for the same operands (R14): what it is of, and the operands (log 2). -/
opaque fixed (w what : Nat) (args : List Nat) : BitVec w

/-- The source element that VCVT converts into element e of its destination where the widths of the two types differ; none: no source
element (log 24). -/
opaque cvtSource (src dst e : Nat) : Option Nat

/-- A device of the tray has lent the range from `base` for a number of pages to this one, as it stands in an a-cycle (R221, R448, log 151). -/
opaque peerLent (peer base pages acyc : Nat) : Bool

/-- SHA-384 (R353). -/
opaque sha384 (msg : Bytes) : BitVec 384

/-- HMAC-SHA-384 under a key (R343). -/
opaque hmac384 (key msg : Bytes) : BitVec 384

/-- HKDF-SHA-384 of ikm, salt and info, n bytes of output (R353, R360). -/
opaque hkdf (ikm salt info : Bytes) (n : Nat) : BitVec (8 * n)

/-- A point lies on brainpoolP384r1 (R357). -/
opaque onCurve (point : Bytes) : Bool

/-- The x-coordinate of the ECDH product (R358). -/
opaque ecdh (scalar : Nat) (point : Bytes) : BitVec 384

/-- The public key of a private scalar, 97 bytes (R353). -/
opaque pubKey (scalar : Nat) : BitVec 776

/-- ECDSA signature on brainpoolP384r1 with SHA-384 (R354). -/
opaque sign (scalar : Nat) (msg : Bytes) : BitVec 768

/-- ECDSA verification (R354, R359). -/
opaque verify (pub msg sig : Bytes) : Bool

/-- A flash image that verifies under a root key, with the FW_MAJOR, FW_MINOR and FW_SVN it carries (R354, R356). -/
opaque fwImage (image : Bytes) : Option (Nat × Nat × Nat)

/-- The order n of brainpoolP384r1 (R353). -/
opaque curveOrder : Nat

/-- The AK certificate, X.509 v3 in DER form: signed under the DIK scalar over the AK point, with FW_DIGEST, FW_SVN and CFG_DIGEST in
an extension (R353). -/
opaque akCert (dik : Nat) (ak fw : Bytes) (svn : Nat) (cfg : Bytes) : Bytes

/-- AES key unwrap (RFC 3394) under the wrap key; none: the check fails (R363). -/
opaque unwrap (key wrapped : Bytes) : Option Bytes

/-- AES-256-XTS ciphertext of a data unit of 64 bytes under a key and a tweak, its first byte lowest (R218). -/
opaque xts (key : BitVec 512) (tweak : Nat) (plain : Bytes) : BitVec 512

/-- The inverse of `xts`. -/
opaque xtsInv (key : BitVec 512) (tweak : Nat) (cipher : Bytes) : BitVec 512

/-- The stream of a slice, sealed in records of 64 KiB under the migration key (AES-256-GCM, R318). -/
opaque sliceSeal (key : BitVec 256) (x : Slice) : Bytes

/-- What a sealed stream holds; none: a record fails its tag, is missing or out of order (R319). -/
opaque sliceOpen (key : BitVec 256) (b : Bytes) : Option Slice

/-- LDPC base graph bg (1, 2) for lifting size zc: the variable columns of check row r with their shifts (3GPP TS 38.212, R189, R203). -/
opaque ldpcRow (bg zc r : Nat) : List (Nat × Nat)

/-- A and G lie within the further limits of TS 38.212 for a kind of coding job (R196). -/
opaque codingLimits (kind bg qm layers a g : Nat) : Bool

/-- The LLR of a bit that shortening makes known to be 0: the spec states none (R207, log 162). -/
opaque knownLlr : Int

/-- Payload bytes of a downlink slot area, which the radio image sets (*Downlink egress*). -/
opaque dlPayload (carrier : Nat) : Nat

/-- Frames of the C-plane message of a section record (O-RAN, R161): descriptor, slot, record, extension data. -/
opaque cplaneFrames (desc : Bytes) (n : Nat) (rec ext : Bytes) : List Bytes

/-- Frames of the U-plane message of one symbol: exponent and mantissas of each block as R47 gives them. -/
opaque uplaneFrames (desc : Bytes) (n sym : Nat) (rec : Bytes) (blocks : List (Nat × List Int)) : List Bytes

/-- An eCPRI type 5 message (R160, R237): a request to a carrier's head, or the response to one; its TimeStamp in PTP seconds and
nanoseconds, and its compensation value. -/
opaque delayFrame (desc : Bytes) (response : Bool) (stamp : Nat × Nat) (compensation : Nat) : Bytes

/-- An eCPRI remote-memory write of bytes to an address of the head (R179, R183). -/
opaque rmaFrame (desc : Bytes) (addr : Nat) (data : Bytes) : Bytes

/-- The bytes of a switch list: KIND, the count, offsets in 1/8 ns and states (R183), whose layout the spec does not give. -/
opaque switchList (kind count : Nat) (ents : List (Nat × Nat)) : Bytes

/-- A landing address of an XDATA flit lies in tier 0; the header has no bit that says so (R256, log 41). -/
opaque xdataTier0 (hdr : BitVec 96) : Bool

/-- The bytes of a carrier record, whose layout the spec does not give (R284, log 42). -/
opaque carrierRecord (idx : Nat) (c : Carrier) : Bytes

/-- The carrier, gains, filtered offset, settle count and SEQ that a carrier record holds. -/
opaque recordOf (b : Bytes) : Option (Nat × List Nat × Int × Nat × Nat)

/-- The address field by which a MIRROR flit carries the record of a carrier (R284, log 42). -/
opaque recordAddr (idx : Nat) : BitVec 42

/-- The carrier whose record a MIRROR flit with this address field carries. -/
opaque recordIndex (a : BitVec 42) : Option Nat

end Sys2Proof.Config
end

