-- ==== Sys2Proof/Machine/RegMap.lean ====
section
/-! DEFINITION. The register maps of BAR0 (R18 to R22): every register, where it lies, its width and reset domain, and its
fields with their access codes and reset values. Event banks are apart (R422): their home is `EvBank`. -/

namespace Sys2Proof.Machine

open Sys2Proof

/-- Access codes (R21); WO does not occur. -/
inductive Acc where
  | ro | rov | rw | rwl | w1c | w1s
  deriving DecidableEq, Repr

/-- Reset domains that a register map names (R22, R382). -/
inductive Dom where
  | core | partition | die | function | device | power | always
  deriving DecidableEq, Repr

/-- The registers. -/
inductive RegName where
  | pkgId
  | setupLock
  | hbStatus
  | hbErrinfo
  | hbParam
  | seStatus
  | seErrinfo
  | seParam
  | coreState
  | suStatus
  | suErrinfo
  | hrStatus
  | dlStatus
  | esState
  | esEpoch
  | esSlips
  | esLag
  | esStatus
  | fhQuadCfg
  | fhPortStatus
  | fhLease
  | fhMember
  | fhFrameOfs
  | fhOwn
  | cdStatus
  | cdErrinfo
  | cdParam
  | memStatus
  | memUeLog
  | memPatrol
  | memOctets
  | memParam
  | ptMemUse
  | tbCtl
  | tbOrigin
  | tbTime
  | tbStatus
  | tbOffset
  | tbFadj
  | tbStepReq
  | tbHistCtl
  | tbPortCfg
  | tbPortStatus
  | tlSelf
  | tlRmCfg
  | tlRmStatus
  | tlLinkStatus
  | tlDest
  | tlGw
  | tlMirStatus
  | tlMirHorizon
  | tlCkptRate
  | ptLglStatus
  | ptStatus
  | ptLglDigest
  | ptSgStatus
  | ptPartState
  | ptAcct
  | ptLendNext
  | ptRegStatus
  | hiLink
  | hiStatus
  | hiDbCfg
  | hiTdi
  | semPart
  | ringSq
  | ringCq
  | ringDb
  | ringCtl
  | ringAux
  | ringState
  | lgMboxCtl
  | lgState
  | lgSess
  | lgKeys
  | fltState
  | fltStatus
  | fltHostErr
  | fltWdog
  | fltLadder
  | fltHealth
  | fltHbAddr
  | fltHbDest
  | fltVec
  | qsState
  | qsCfg
  | qsLink
  | qsTlPlan
  | pwrCfg
  | pwrStatus
  | pkgTemp
  | ppsIn
  | ppsCtl
  deriving DecidableEq, Repr

/-- A field of a register map: bits [hi:lo], access and reset value. -/
structure Field where
  reg : RegName
  hi : Nat
  lo : Nat
  acc : Acc
  reset : Nat
  deriving DecidableEq, Repr

/-- A register map: width in bits, offset of the first one, the arrays it is replicated in as (stride, count), outermost
first, its reset domain and its fields. -/
structure RegSpec where
  width : Nat
  base : Nat
  dims : List (Nat × Nat)
  dom : Dom
  fields : List Field
  deriving DecidableEq, Repr

/-! ### Fields -/

def F.pkgIdDevice : Field := ⟨.pkgId, 31, 16, .ro, 41010⟩
def F.pkgIdStepping : Field := ⟨.pkgId, 15, 8, .ro, 16⟩
def F.pkgIdVendor : Field := ⟨.pkgId, 7, 0, .ro, 78⟩
def F.setupLockLockedWrites : Field := ⟨.setupLock, 15, 8, .rov, 0⟩
def F.setupLockLock : Field := ⟨.setupLock, 0, 0, .w1s, 0⟩
def F.hbStatusSetcnt : Field := ⟨.hbStatus, 15, 8, .rov, 0⟩
def F.hbStatusAbort : Field := ⟨.hbStatus, 4, 4, .w1c, 0⟩
def F.hbStatusCe : Field := ⟨.hbStatus, 3, 3, .w1c, 0⟩
def F.hbStatusDataLost : Field := ⟨.hbStatus, 2, 2, .w1c, 0⟩
def F.hbStatusRange : Field := ⟨.hbStatus, 1, 1, .w1c, 0⟩
def F.hbStatusIllegal : Field := ⟨.hbStatus, 0, 0, .w1c, 0⟩
def F.hbErrinfoPart : Field := ⟨.hbErrinfo, 8, 4, .rov, 0⟩
def F.hbErrinfoCause : Field := ⟨.hbErrinfo, 3, 0, .rov, 0⟩
def F.hbParamRowsAct : Field := ⟨.hbParam, 31, 24, .ro, 128⟩
def F.hbParamRowsPhys : Field := ⟨.hbParam, 23, 16, .ro, 130⟩
def F.hbParamPipeLat : Field := ⟨.hbParam, 15, 0, .ro, 272⟩
def F.seStatusSetcnt : Field := ⟨.seStatus, 15, 8, .rov, 0⟩
def F.seStatusAbort : Field := ⟨.seStatus, 4, 4, .w1c, 0⟩
def F.seStatusCe : Field := ⟨.seStatus, 3, 3, .w1c, 0⟩
def F.seStatusDataLost : Field := ⟨.seStatus, 2, 2, .w1c, 0⟩
def F.seStatusRange : Field := ⟨.seStatus, 1, 1, .w1c, 0⟩
def F.seStatusIllegal : Field := ⟨.seStatus, 0, 0, .w1c, 0⟩
def F.seErrinfoPart : Field := ⟨.seErrinfo, 8, 4, .rov, 0⟩
def F.seErrinfoCause : Field := ⟨.seErrinfo, 3, 0, .rov, 0⟩
def F.seParamLanes : Field := ⟨.seParam, 31, 24, .ro, 32⟩
def F.seParamVregs : Field := ⟨.seParam, 23, 16, .ro, 64⟩
def F.seParamLoops : Field := ⟨.seParam, 15, 12, .ro, 4⟩
def F.seParamLdLat : Field := ⟨.seParam, 11, 8, .ro, 6⟩
def F.seParamMaxLat : Field := ⟨.seParam, 7, 0, .ro, 16⟩
def F.coreStateState : Field := ⟨.coreState, 10, 8, .rov, 0⟩
def F.coreStateLent : Field := ⟨.coreState, 7, 7, .rov, 0⟩
def F.coreStateOwned : Field := ⟨.coreState, 5, 5, .rov, 0⟩
def F.coreStatePart : Field := ⟨.coreState, 4, 0, .rov, 0⟩
def F.suStatusSetcnt : Field := ⟨.suStatus, 15, 8, .rov, 0⟩
def F.suStatusAbort : Field := ⟨.suStatus, 4, 4, .w1c, 0⟩
def F.suStatusCe : Field := ⟨.suStatus, 3, 3, .w1c, 0⟩
def F.suStatusDataLost : Field := ⟨.suStatus, 2, 2, .w1c, 0⟩
def F.suStatusRange : Field := ⟨.suStatus, 1, 1, .w1c, 0⟩
def F.suStatusIllegal : Field := ⟨.suStatus, 0, 0, .w1c, 0⟩
def F.suErrinfoPart : Field := ⟨.suErrinfo, 8, 4, .rov, 0⟩
def F.suErrinfoCause : Field := ⟨.suErrinfo, 3, 0, .rov, 0⟩
def F.hrStatusSetcnt : Field := ⟨.hrStatus, 15, 8, .rov, 0⟩
def F.hrStatusDrop : Field := ⟨.hrStatus, 2, 2, .w1c, 0⟩
def F.hrStatusUe : Field := ⟨.hrStatus, 1, 1, .w1c, 0⟩
def F.hrStatusCe : Field := ⟨.hrStatus, 0, 0, .w1c, 0⟩
def F.dlStatusReplays : Field := ⟨.dlStatus, 31, 24, .rov, 0⟩
def F.dlStatusSetcnt : Field := ⟨.dlStatus, 23, 16, .rov, 0⟩
def F.dlStatusDown : Field := ⟨.dlStatus, 3, 3, .w1c, 0⟩
def F.dlStatusLane : Field := ⟨.dlStatus, 2, 2, .w1c, 0⟩
def F.dlStatusReplay : Field := ⟨.dlStatus, 1, 1, .w1c, 0⟩
def F.dlStatusCe : Field := ⟨.dlStatus, 0, 0, .w1c, 0⟩
def F.esStateJgen : Field := ⟨.esState, 31, 16, .rov, 0⟩
def F.esStateTimingUnassured : Field := ⟨.esState, 10, 10, .rov, 0⟩
def F.esStateNondet : Field := ⟨.esState, 9, 9, .rov, 0⟩
def F.esStateStandby : Field := ⟨.esState, 8, 8, .rov, 0⟩
def F.esStateState : Field := ⟨.esState, 3, 0, .rov, 0⟩
def F.esEpochEpoch : Field := ⟨.esEpoch, 47, 0, .rov, 0⟩
def F.esSlipsSlips : Field := ⟨.esSlips, 23, 0, .rov, 0⟩
def F.esLagLag : Field := ⟨.esLag, 31, 0, .rov, 0⟩
def F.esStatusSetcnt : Field := ⟨.esStatus, 15, 8, .rov, 0⟩
def F.esStatusIdleInsert : Field := ⟨.esStatus, 6, 6, .w1c, 0⟩
def F.esStatusTimeStep : Field := ⟨.esStatus, 5, 5, .w1c, 0⟩
def F.esStatusOverrun : Field := ⟨.esStatus, 4, 4, .w1c, 0⟩
def F.esStatusLoadFail : Field := ⟨.esStatus, 3, 3, .w1c, 0⟩
def F.esStatusStale : Field := ⟨.esStatus, 2, 2, .w1c, 0⟩
def F.esStatusHeld : Field := ⟨.esStatus, 1, 1, .w1c, 0⟩
def F.esStatusSlip : Field := ⟨.esStatus, 0, 0, .w1c, 0⟩
def F.fhQuadCfgMtu : Field := ⟨.fhQuadCfg, 29, 16, .rwl, 9216⟩
def F.fhQuadCfgMode : Field := ⟨.fhQuadCfg, 1, 0, .rwl, 0⟩
def F.fhPortStatusUp : Field := ⟨.fhPortStatus, 24, 24, .rov, 0⟩
def F.fhPortStatusSetcnt : Field := ⟨.fhPortStatus, 23, 16, .rov, 0⟩
def F.fhPortStatusDup : Field := ⟨.fhPortStatus, 9, 9, .w1c, 0⟩
def F.fhPortStatusDir : Field := ⟨.fhPortStatus, 8, 8, .w1c, 0⟩
def F.fhPortStatusStaleEgress : Field := ⟨.fhPortStatus, 7, 7, .w1c, 0⟩
def F.fhPortStatusDlLate : Field := ⟨.fhPortStatus, 6, 6, .w1c, 0⟩
def F.fhPortStatusEarlyUl : Field := ⟨.fhPortStatus, 5, 5, .w1c, 0⟩
def F.fhPortStatusLateUl : Field := ⟨.fhPortStatus, 4, 4, .w1c, 0⟩
def F.fhPortStatusUnknown : Field := ⟨.fhPortStatus, 3, 3, .w1c, 0⟩
def F.fhPortStatusFrameErr : Field := ⟨.fhPortStatus, 2, 2, .w1c, 0⟩
def F.fhPortStatusLinkDown : Field := ⟨.fhPortStatus, 0, 0, .w1c, 0⟩
def F.fhLeaseLease : Field := ⟨.fhLease, 6, 0, .rwl, 5⟩
def F.fhMemberLapsed : Field := ⟨.fhMember, 33, 33, .w1c, 0⟩
def F.fhMemberLeaseOk : Field := ⟨.fhMember, 32, 32, .rov, 0⟩
def F.fhMemberMepoch : Field := ⟨.fhMember, 31, 0, .rov, 0⟩
def F.fhFrameOfsOfs : Field := ⟨.fhFrameOfs, 26, 0, .rwl, 0⟩
def F.fhOwnState : Field := ⟨.fhOwn, 33, 32, .rov, 0⟩
def F.fhOwnEpoch : Field := ⟨.fhOwn, 31, 0, .rov, 0⟩
def F.cdStatusSetcnt : Field := ⟨.cdStatus, 15, 8, .rov, 0⟩
def F.cdStatusOverflow : Field := ⟨.cdStatus, 4, 4, .w1c, 0⟩
def F.cdStatusDeadline : Field := ⟨.cdStatus, 3, 3, .w1c, 0⟩
def F.cdStatusCe : Field := ⟨.cdStatus, 2, 2, .w1c, 0⟩
def F.cdStatusDataLost : Field := ⟨.cdStatus, 1, 1, .w1c, 0⟩
def F.cdStatusIllegal : Field := ⟨.cdStatus, 0, 0, .w1c, 0⟩
def F.cdErrinfoQueue : Field := ⟨.cdErrinfo, 7, 4, .rov, 0⟩
def F.cdErrinfoCause : Field := ⟨.cdErrinfo, 3, 0, .rov, 0⟩
def F.cdParamPolar : Field := ⟨.cdParam, 31, 28, .ro, 2⟩
def F.cdParamEnc : Field := ⟨.cdParam, 27, 24, .ro, 6⟩
def F.cdParamDec : Field := ⟨.cdParam, 23, 16, .ro, 12⟩
def F.cdParamRefDec : Field := ⟨.cdParam, 15, 0, .ro, 840⟩
def F.memStatusSetcnt : Field := ⟨.memStatus, 15, 8, .rov, 0⟩
def F.memStatusHot : Field := ⟨.memStatus, 4, 4, .w1c, 0⟩
def F.memStatusPatrolUe : Field := ⟨.memStatus, 3, 3, .w1c, 0⟩
def F.memStatusUe : Field := ⟨.memStatus, 2, 2, .w1c, 0⟩
def F.memStatusCe : Field := ⟨.memStatus, 1, 1, .w1c, 0⟩
def F.memStatusOctetOut : Field := ⟨.memStatus, 0, 0, .ro, 0⟩
def F.memUeLogValid : Field := ⟨.memUeLog, 63, 63, .w1c, 0⟩
def F.memUeLogOwned : Field := ⟨.memUeLog, 35, 35, .rov, 0⟩
def F.memUeLogPart : Field := ⟨.memUeLog, 34, 30, .rov, 0⟩
def F.memUeLogPatrol : Field := ⟨.memUeLog, 29, 29, .rov, 0⟩
def F.memUeLogStack : Field := ⟨.memUeLog, 28, 26, .rov, 0⟩
def F.memUeLogPc : Field := ⟨.memUeLog, 25, 20, .rov, 0⟩
def F.memUeLogFrame : Field := ⟨.memUeLog, 19, 0, .rov, 0⟩
def F.memPatrolPasses : Field := ⟨.memPatrol, 31, 16, .rov, 0⟩
def F.memPatrolEnable : Field := ⟨.memPatrol, 8, 8, .rwl, 1⟩
def F.memPatrolPeriod : Field := ⟨.memPatrol, 7, 0, .rwl, 24⟩
def F.memOctetsOut : Field := ⟨.memOctets, 63, 0, .ro, 0⟩
def F.memParamStacks : Field := ⟨.memParam, 31, 24, .ro, 8⟩
def F.memParamFrames : Field := ⟨.memParam, 17, 0, .ro, 196608⟩
def F.ptMemUseGrants : Field := ⟨.ptMemUse, 55, 52, .rov, 0⟩
def F.ptMemUseFarPages : Field := ⟨.ptMemUse, 51, 20, .rov, 0⟩
def F.ptMemUseHbmFrames : Field := ⟨.ptMemUse, 19, 0, .rov, 0⟩
def F.tbCtlStepThr : Field := ⟨.tbCtl, 63, 48, .rwl, 100⟩
def F.tbCtlSlewMax : Field := ⟨.tbCtl, 47, 32, .rwl, 20⟩
def F.tbCtlKiSh : Field := ⟨.tbCtl, 23, 20, .rwl, 10⟩
def F.tbCtlKpSh : Field := ⟨.tbCtl, 19, 16, .rwl, 4⟩
def F.tbCtlHybrid : Field := ⟨.tbCtl, 9, 9, .rwl, 1⟩
def F.tbCtlFwd : Field := ⟨.tbCtl, 8, 8, .rwl, 0⟩
def F.tbCtlDomain : Field := ⟨.tbCtl, 7, 0, .rwl, 24⟩
def F.tbOriginSeconds : Field := ⟨.tbOrigin, 47, 0, .rwl, 0⟩
def F.tbTimeNt : Field := ⟨.tbTime, 63, 0, .rov, 0⟩
def F.tbStatusSteps : Field := ⟨.tbStatus, 63, 48, .rov, 0⟩
def F.tbStatusSlave : Field := ⟨.tbStatus, 31, 27, .rov, 0⟩
def F.tbStatusSlaveValid : Field := ⟨.tbStatus, 26, 26, .rov, 0⟩
def F.tbStatusGridLive : Field := ⟨.tbStatus, 25, 25, .rov, 0⟩
def F.tbStatusFreqOk : Field := ⟨.tbStatus, 24, 24, .rov, 0⟩
def F.tbStatusState : Field := ⟨.tbStatus, 18, 16, .rov, 0⟩
def F.tbStatusSetcnt : Field := ⟨.tbStatus, 15, 8, .rov, 0⟩
def F.tbStatusPullLimit : Field := ⟨.tbStatus, 5, 5, .w1c, 0⟩
def F.tbStatusOutlier : Field := ⟨.tbStatus, 4, 4, .w1c, 0⟩
def F.tbStatusFreqLost : Field := ⟨.tbStatus, 3, 3, .w1c, 0⟩
def F.tbStatusHoldover : Field := ⟨.tbStatus, 2, 2, .w1c, 0⟩
def F.tbStatusStepped : Field := ⟨.tbStatus, 1, 1, .w1c, 0⟩
def F.tbStatusStepRefused : Field := ⟨.tbStatus, 0, 0, .w1c, 0⟩
def F.tbOffsetMpd : Field := ⟨.tbOffset, 63, 32, .rov, 0⟩
def F.tbOffsetTheta : Field := ⟨.tbOffset, 31, 0, .rov, 0⟩
def F.tbFadjFadj : Field := ⟨.tbFadj, 39, 0, .rov, 0⟩
def F.tbStepReqPending : Field := ⟨.tbStepReq, 56, 56, .rov, 0⟩
def F.tbStepReqSeq : Field := ⟨.tbStepReq, 55, 40, .rov, 0⟩
def F.tbStepReqStep : Field := ⟨.tbStepReq, 39, 0, .rov, 0⟩
def F.tbHistCtlClear : Field := ⟨.tbHistCtl, 1, 1, .w1s, 0⟩
def F.tbHistCtlFreeze : Field := ⟨.tbHistCtl, 0, 0, .rw, 0⟩
def F.tbPortCfgPortMbps : Field := ⟨.tbPortCfg, 51, 32, .rov, 0⟩
def F.tbPortCfgAsym : Field := ⟨.tbPortCfg, 31, 16, .rwl, 0⟩
def F.tbPortCfgLocalPrio : Field := ⟨.tbPortCfg, 10, 3, .rwl, 128⟩
def F.tbPortCfgFsrc : Field := ⟨.tbPortCfg, 2, 2, .rwl, 0⟩
def F.tbPortCfgNotSlave : Field := ⟨.tbPortCfg, 1, 1, .rwl, 0⟩
def F.tbPortCfgPtpEn : Field := ⟨.tbPortCfg, 0, 0, .rwl, 0⟩
def F.tbPortStatusPending : Field := ⟨.tbPortStatus, 17, 17, .rov, 0⟩
def F.tbPortStatusBank : Field := ⟨.tbPortStatus, 16, 16, .rov, 0⟩
def F.tbPortStatusSetcnt : Field := ⟨.tbPortStatus, 15, 8, .rov, 0⟩
def F.tbPortStatusFsrcLost : Field := ⟨.tbPortStatus, 3, 3, .w1c, 0⟩
def F.tbPortStatusPtpRxErr : Field := ⟨.tbPortStatus, 2, 2, .w1c, 0⟩
def F.tbPortStatusGuardDrop : Field := ⟨.tbPortStatus, 1, 1, .w1c, 0⟩
def F.tbPortStatusOverrun : Field := ⟨.tbPortStatus, 0, 0, .w1c, 0⟩
def F.tlSelfFaddr : Field := ⟨.tlSelf, 11, 0, .rwl, 0⟩
def F.tlRmCfgGwRto : Field := ⟨.tlRmCfg, 31, 24, .rw, 4⟩
def F.tlRmCfgRto : Field := ⟨.tlRmCfg, 23, 16, .rw, 10⟩
def F.tlRmCfgLifetime : Field := ⟨.tlRmCfg, 6, 0, .rw, 10⟩
def F.tlRmStatusRcUsed : Field := ⟨.tlRmStatus, 50, 38, .rov, 0⟩
def F.tlRmStatusSetcnt : Field := ⟨.tlRmStatus, 15, 8, .rov, 0⟩
def F.tlRmStatusStaleRx : Field := ⟨.tlRmStatus, 3, 3, .w1c, 0⟩
def F.tlRmStatusUnknown : Field := ⟨.tlRmStatus, 2, 2, .w1c, 0⟩
def F.tlRmStatusBusy : Field := ⟨.tlRmStatus, 1, 1, .w1c, 0⟩
def F.tlRmStatusRetry : Field := ⟨.tlRmStatus, 0, 0, .w1c, 0⟩
def F.tlLinkStatusReplays : Field := ⟨.tlLinkStatus, 31, 24, .rov, 0⟩
def F.tlLinkStatusSetcnt : Field := ⟨.tlLinkStatus, 23, 16, .rov, 0⟩
def F.tlLinkStatusUp : Field := ⟨.tlLinkStatus, 15, 15, .rov, 0⟩
def F.tlLinkStatusWidth : Field := ⟨.tlLinkStatus, 14, 13, .rov, 0⟩
def F.tlLinkStatusHalf : Field := ⟨.tlLinkStatus, 12, 12, .rov, 0⟩
def F.tlLinkStatusHandover : Field := ⟨.tlLinkStatus, 4, 4, .w1c, 0⟩
def F.tlLinkStatusDown : Field := ⟨.tlLinkStatus, 3, 3, .w1c, 0⟩
def F.tlLinkStatusCrc : Field := ⟨.tlLinkStatus, 2, 2, .w1c, 0⟩
def F.tlLinkStatusReplay : Field := ⟨.tlLinkStatus, 1, 1, .w1c, 0⟩
def F.tlLinkStatusCe : Field := ⟨.tlLinkStatus, 0, 0, .w1c, 0⟩
def F.tlDestValid : Field := ⟨.tlDest, 31, 31, .rw, 0⟩
def F.tlDestHops : Field := ⟨.tlDest, 16, 16, .rw, 0⟩
def F.tlDestLinks : Field := ⟨.tlDest, 15, 0, .rw, 0⟩
def F.tlGwLinks : Field := ⟨.tlGw, 15, 0, .rw, 0⟩
def F.tlMirStatusPartner : Field := ⟨.tlMirStatus, 63, 52, .rov, 0⟩
def F.tlMirStatusLag : Field := ⟨.tlMirStatus, 47, 32, .rov, 0⟩
def F.tlMirStatusSetcnt : Field := ⟨.tlMirStatus, 23, 16, .rov, 0⟩
def F.tlMirStatusState : Field := ⟨.tlMirStatus, 10, 8, .rov, 0⟩
def F.tlMirStatusUnmapped : Field := ⟨.tlMirStatus, 3, 3, .w1c, 0⟩
def F.tlMirStatusWdrop : Field := ⟨.tlMirStatus, 2, 2, .w1c, 0⟩
def F.tlMirStatusBroken : Field := ⟨.tlMirStatus, 1, 1, .w1c, 0⟩
def F.tlMirStatusTakeover : Field := ⟨.tlMirStatus, 0, 0, .w1c, 0⟩
def F.tlMirHorizonH : Field := ⟨.tlMirHorizon, 63, 0, .rov, 0⟩
def F.tlCkptRateRate : Field := ⟨.tlCkptRate, 7, 0, .rw, 32⟩
def F.ptLglStatusNlg : Field := ⟨.ptLglStatus, 24, 20, .rov, 0⟩
def F.ptLglStatusNent : Field := ⟨.ptLglStatus, 16, 8, .rov, 1⟩
def F.ptLglStatusPending : Field := ⟨.ptLglStatus, 1, 1, .rov, 0⟩
def F.ptLglStatusBank : Field := ⟨.ptLglStatus, 0, 0, .rov, 0⟩
def F.ptStatusSetcnt : Field := ⟨.ptStatus, 15, 8, .rov, 0⟩
def F.ptStatusBwShort : Field := ⟨.ptStatus, 4, 4, .w1c, 0⟩
def F.ptStatusSaveUe : Field := ⟨.ptStatus, 3, 3, .w1c, 0⟩
def F.ptStatusEvict : Field := ⟨.ptStatus, 2, 2, .w1c, 0⟩
def F.ptStatusReturnLate : Field := ⟨.ptStatus, 1, 1, .w1c, 0⟩
def F.ptStatusTakeLate : Field := ⟨.ptStatus, 0, 0, .w1c, 0⟩
def F.ptLglDigestD : Field := ⟨.ptLglDigest, 63, 0, .rov, 0⟩
def F.ptSgStatusResident : Field := ⟨.ptSgStatus, 63, 32, .rov, 0⟩
def F.ptSgStatusFixed : Field := ⟨.ptSgStatus, 10, 10, .rov, 0⟩
def F.ptSgStatusValid : Field := ⟨.ptSgStatus, 9, 9, .rov, 0⟩
def F.ptSgStatusRunValid : Field := ⟨.ptSgStatus, 8, 8, .rov, 0⟩
def F.ptSgStatusRun : Field := ⟨.ptSgStatus, 4, 0, .rov, 0⟩
def F.ptPartStateCtx : Field := ⟨.ptPartState, 31, 25, .rov, 0⟩
def F.ptPartStateSlices : Field := ⟨.ptPartState, 24, 16, .rov, 0⟩
def F.ptPartStateSaved : Field := ⟨.ptPartState, 7, 7, .rov, 0⟩
def F.ptPartStateShared : Field := ⟨.ptPartState, 6, 6, .rov, 0⟩
def F.ptPartStateCr : Field := ⟨.ptPartState, 5, 5, .rov, 0⟩
def F.ptPartStateClass : Field := ⟨.ptPartState, 4, 4, .rov, 0⟩
def F.ptPartStateState : Field := ⟨.ptPartState, 2, 0, .rov, 0⟩
def F.ptAcctCoreAcycles : Field := ⟨.ptAcct, 63, 0, .rov, 0⟩
def F.ptLendNextT : Field := ⟨.ptLendNext, 63, 0, .rov, 0⟩
def F.ptRegStatusSetcnt : Field := ⟨.ptRegStatus, 15, 8, .rov, 0⟩
def F.ptRegStatusTeril : Field := ⟨.ptRegStatus, 2, 2, .w1c, 0⟩
def F.ptRegStatusHedgerow : Field := ⟨.ptRegStatus, 1, 1, .w1c, 0⟩
def F.ptRegStatusHbm : Field := ⟨.ptRegStatus, 0, 0, .w1c, 0⟩
def F.hiLinkGen : Field := ⟨.hiLink, 11, 8, .rov, 0⟩
def F.hiLinkWidth : Field := ⟨.hiLink, 7, 3, .rov, 0⟩
def F.hiLinkFlit : Field := ⟨.hiLink, 2, 2, .rov, 0⟩
def F.hiLinkIde : Field := ⟨.hiLink, 1, 1, .rov, 0⟩
def F.hiLinkUp : Field := ⟨.hiLink, 0, 0, .rov, 0⟩
def F.hiStatusSetcnt : Field := ⟨.hiStatus, 15, 8, .rov, 0⟩
def F.hiStatusIdeFail : Field := ⟨.hiStatus, 5, 5, .w1c, 0⟩
def F.hiStatusLockedWrite : Field := ⟨.hiStatus, 4, 4, .w1c, 0⟩
def F.hiStatusSemWrite : Field := ⟨.hiStatus, 3, 3, .w1c, 0⟩
def F.hiStatusSemSat : Field := ⟨.hiStatus, 2, 2, .w1c, 0⟩
def F.hiStatusHostFault : Field := ⟨.hiStatus, 1, 1, .w1c, 0⟩
def F.hiStatusAuth : Field := ⟨.hiStatus, 0, 0, .w1c, 0⟩
def F.hiDbCfgRate : Field := ⟨.hiDbCfg, 15, 8, .ro, 128⟩
def F.hiDbCfgIdlePolls : Field := ⟨.hiDbCfg, 7, 0, .rw, 64⟩
def F.hiTdiState : Field := ⟨.hiTdi, 1, 0, .rov, 0⟩
def F.semPartValid : Field := ⟨.semPart, 5, 5, .rw, 0⟩
def F.semPartPart : Field := ⟨.semPart, 4, 0, .rw, 0⟩
def F.ringSqBase : Field := ⟨.ringSq, 63, 6, .rw, 0⟩
def F.ringCqBase : Field := ⟨.ringCq, 63, 6, .rw, 0⟩
def F.ringDbBase : Field := ⟨.ringDb, 63, 6, .rw, 0⟩
def F.ringCtlImod : Field := ⟨.ringCtl, 63, 56, .rw, 0⟩
def F.ringCtlPoll : Field := ⟨.ringCtl, 54, 45, .rw, 10⟩
def F.ringCtlIen : Field := ⟨.ringCtl, 44, 44, .rw, 0⟩
def F.ringCtlVector : Field := ⟨.ringCtl, 43, 33, .rw, 0⟩
def F.ringCtlPasid : Field := ⟨.ringCtl, 32, 13, .rw, 0⟩
def F.ringCtlPasidEn : Field := ⟨.ringCtl, 12, 12, .rw, 0⟩
def F.ringCtlPart : Field := ⟨.ringCtl, 11, 7, .rw, 0⟩
def F.ringCtlLog2n : Field := ⟨.ringCtl, 6, 3, .rw, 4⟩
def F.ringCtlKind : Field := ⟨.ringCtl, 2, 1, .rw, 0⟩
def F.ringCtlEnable : Field := ⟨.ringCtl, 0, 0, .rw, 0⟩
def F.ringAuxSession : Field := ⟨.ringAux, 39, 32, .rw, 0⟩
def F.ringAuxEpoch : Field := ⟨.ringAux, 31, 0, .rw, 0⟩
def F.ringStateLost : Field := ⟨.ringState, 63, 32, .rov, 0⟩
def F.ringStateSetcnt : Field := ⟨.ringState, 23, 16, .rov, 0⟩
def F.ringStateErr : Field := ⟨.ringState, 11, 8, .rov, 0⟩
def F.ringStateEpochBad : Field := ⟨.ringState, 6, 6, .w1c, 0⟩
def F.ringStateKickStale : Field := ⟨.ringState, 5, 5, .w1c, 0⟩
def F.ringStateRecDrop : Field := ⟨.ringState, 4, 4, .w1c, 0⟩
def F.ringStateState : Field := ⟨.ringState, 2, 0, .rov, 0⟩
def F.lgMboxCtlLen : Field := ⟨.lgMboxCtl, 20, 8, .rw, 0⟩
def F.lgMboxCtlStatus : Field := ⟨.lgMboxCtl, 7, 4, .rov, 0⟩
def F.lgMboxCtlDone : Field := ⟨.lgMboxCtl, 2, 2, .w1c, 0⟩
def F.lgMboxCtlBusy : Field := ⟨.lgMboxCtl, 1, 1, .rov, 0⟩
def F.lgMboxCtlGo : Field := ⟨.lgMboxCtl, 0, 0, .w1s, 0⟩
def F.lgStateFwSvn : Field := ⟨.lgState, 31, 16, .ro, 0⟩
def F.lgStateSessions : Field := ⟨.lgState, 15, 8, .rov, 0⟩
def F.lgStateFwStaged : Field := ⟨.lgState, 3, 3, .rov, 0⟩
def F.lgStateDebug : Field := ⟨.lgState, 2, 2, .ro, 0⟩
def F.lgStateConfigOk : Field := ⟨.lgState, 1, 1, .ro, 0⟩
def F.lgStateIdentityOk : Field := ⟨.lgState, 0, 0, .ro, 0⟩
def F.lgSessPart : Field := ⟨.lgSess, 8, 4, .rov, 0⟩
def F.lgSessRole : Field := ⟨.lgSess, 3, 2, .rov, 0⟩
def F.lgSessValid : Field := ⟨.lgSess, 0, 0, .rov, 0⟩
def F.lgKeysMig : Field := ⟨.lgKeys, 5, 5, .rov, 0⟩
def F.lgKeysFabric : Field := ⟨.lgKeys, 4, 4, .rov, 0⟩
def F.lgKeysRotating : Field := ⟨.lgKeys, 3, 3, .rov, 0⟩
def F.lgKeysWgen : Field := ⟨.lgKeys, 2, 2, .rov, 0⟩
def F.lgKeysSlot1 : Field := ⟨.lgKeys, 1, 1, .rov, 0⟩
def F.lgKeysSlot0 : Field := ⟨.lgKeys, 0, 0, .rov, 0⟩
def F.fltStateHangs : Field := ⟨.fltState, 31, 16, .rov, 0⟩
def F.fltStateResets : Field := ⟨.fltState, 11, 8, .rov, 0⟩
def F.fltStateLadder : Field := ⟨.fltState, 6, 4, .rov, 0⟩
def F.fltStateFenced : Field := ⟨.fltState, 2, 2, .rov, 0⟩
def F.fltStateService : Field := ⟨.fltState, 1, 0, .rov, 0⟩
def F.fltStatusSetcnt : Field := ⟨.fltStatus, 15, 8, .rov, 0⟩
def F.fltStatusCoreHalt : Field := ⟨.fltStatus, 7, 7, .w1c, 0⟩
def F.fltStatusEngineOut : Field := ⟨.fltStatus, 6, 6, .w1c, 0⟩
def F.fltStatusOutOfService : Field := ⟨.fltStatus, 5, 5, .w1c, 0⟩
def F.fltStatusFenced : Field := ⟨.fltStatus, 4, 4, .w1c, 0⟩
def F.fltStatusLadder : Field := ⟨.fltStatus, 3, 3, .w1c, 0⟩
def F.fltStatusKill : Field := ⟨.fltStatus, 2, 2, .w1c, 0⟩
def F.fltStatusHang : Field := ⟨.fltStatus, 1, 1, .w1c, 0⟩
def F.fltStatusHostAccess : Field := ⟨.fltStatus, 0, 0, .w1c, 0⟩
def F.fltHostErrValid : Field := ⟨.fltHostErr, 63, 63, .w1c, 0⟩
def F.fltHostErrBar2 : Field := ⟨.fltHostErr, 34, 34, .rov, 0⟩
def F.fltHostErrWrite : Field := ⟨.fltHostErr, 33, 33, .rov, 0⟩
def F.fltHostErrMisaligned : Field := ⟨.fltHostErr, 32, 32, .rov, 0⟩
def F.fltHostErrOffset : Field := ⟨.fltHostErr, 25, 0, .rov, 0⟩
def F.fltWdogProbe : Field := ⟨.fltWdog, 23, 16, .rw, 64⟩
def F.fltWdogTimeout : Field := ⟨.fltWdog, 15, 0, .rw, 200⟩
def F.fltLadderOosHours : Field := ⟨.fltLadder, 23, 16, .rwl, 24⟩
def F.fltLadderOosCount : Field := ⟨.fltLadder, 11, 8, .rwl, 3⟩
def F.fltLadderWindow : Field := ⟨.fltLadder, 7, 0, .rwl, 10⟩
def F.fltHealthPThermal : Field := ⟨.fltHealth, 58, 52, .rov, 0⟩
def F.fltHealthPFault : Field := ⟨.fltHealth, 51, 43, .rov, 0⟩
def F.fltHealthPLinkdown : Field := ⟨.fltHealth, 42, 34, .rov, 0⟩
def F.fltHealthPReplay : Field := ⟨.fltHealth, 33, 26, .rov, 0⟩
def F.fltHealthPUe : Field := ⟨.fltHealth, 25, 17, .rov, 0⟩
def F.fltHealthPCe : Field := ⟨.fltHealth, 16, 10, .rov, 0⟩
def F.fltHealthScore : Field := ⟨.fltHealth, 9, 0, .rov, 1000⟩
def F.fltHbAddrBase : Field := ⟨.fltHbAddr, 63, 6, .rw, 0⟩
def F.fltHbDestValid : Field := ⟨.fltHbDest, 51, 48, .rw, 0⟩
def F.fltHbDestAddr : Field := ⟨.fltHbDest, 47, 0, .rw, 0⟩
def F.fltVecIen : Field := ⟨.fltVec, 11, 11, .rw, 0⟩
def F.fltVecVector : Field := ⟨.fltVec, 10, 0, .rw, 0⟩
def F.qsStateRuns : Field := ⟨.qsState, 31, 24, .rov, 0⟩
def F.qsStateFailStage : Field := ⟨.qsState, 11, 8, .rov, 0⟩
def F.qsStateFailed : Field := ⟨.qsState, 7, 7, .rov, 0⟩
def F.qsStateReduced : Field := ⟨.qsState, 6, 6, .rov, 0⟩
def F.qsStateReady : Field := ⟨.qsState, 5, 5, .rov, 0⟩
def F.qsStateStage : Field := ⟨.qsState, 3, 0, .rov, 0⟩
def F.qsCfgQ8Wait : Field := ⟨.qsCfg, 7, 0, .rw, 30⟩
def F.qsLinkPostfec : Field := ⟨.qsLink, 63, 56, .rov, 0⟩
def F.qsLinkPrefec : Field := ⟨.qsLink, 55, 32, .rov, 0⟩
def F.qsLinkAttempts : Field := ⟨.qsLink, 23, 20, .rov, 0⟩
def F.qsLinkLanesOut : Field := ⟨.qsLink, 19, 16, .rov, 0⟩
def F.qsLinkGen : Field := ⟨.qsLink, 13, 10, .rov, 0⟩
def F.qsLinkHalf : Field := ⟨.qsLink, 9, 9, .rov, 0⟩
def F.qsLinkLanes : Field := ⟨.qsLink, 8, 4, .rov, 0⟩
def F.qsLinkState : Field := ⟨.qsLink, 3, 0, .rov, 0⟩
def F.qsTlPlanRetrain : Field := ⟨.qsTlPlan, 3, 3, .w1s, 0⟩
def F.qsTlPlanPlanHalf : Field := ⟨.qsTlPlan, 2, 2, .rw, 0⟩
def F.qsTlPlanPlanWidth : Field := ⟨.qsTlPlan, 1, 0, .rw, 2⟩
def F.pwrCfgLmax : Field := ⟨.pwrCfg, 37, 32, .rw, 48⟩
def F.pwrCfgTThr : Field := ⟨.pwrCfg, 31, 24, .rw, 95⟩
def F.pwrCfgWindow : Field := ⟨.pwrCfg, 19, 16, .rw, 1⟩
def F.pwrCfgLimit : Field := ⟨.pwrCfg, 12, 0, .rw, 4000⟩
def F.pwrStatusRailLost : Field := ⟨.pwrStatus, 63, 52, .rov, 0⟩
def F.pwrStatusPower : Field := ⟨.pwrStatus, 47, 35, .rov, 0⟩
def F.pwrStatusLevel : Field := ⟨.pwrStatus, 34, 29, .rov, 0⟩
def F.pwrStatusSetcnt : Field := ⟨.pwrStatus, 23, 16, .rov, 0⟩
def F.pwrStatusAtMax : Field := ⟨.pwrStatus, 4, 4, .w1c, 0⟩
def F.pwrStatusHbmTemp : Field := ⟨.pwrStatus, 3, 3, .w1c, 0⟩
def F.pwrStatusTemp : Field := ⟨.pwrStatus, 2, 2, .w1c, 0⟩
def F.pwrStatusDieCap : Field := ⟨.pwrStatus, 1, 1, .w1c, 0⟩
def F.pwrStatusCap : Field := ⟨.pwrStatus, 0, 0, .w1c, 0⟩
def F.pkgTempHbm : Field := ⟨.pkgTemp, 47, 40, .rov, 0⟩
def F.pkgTempE : Field := ⟨.pkgTemp, 39, 32, .rov, 0⟩
def F.pkgTempC : Field := ⟨.pkgTemp, 31, 0, .rov, 0⟩
def F.ppsInNt : Field := ⟨.ppsIn, 63, 0, .rov, 0⟩
def F.ppsCtlSetcnt : Field := ⟨.ppsCtl, 15, 8, .rov, 0⟩
def F.ppsCtlOutStepped : Field := ⟨.ppsCtl, 2, 2, .w1c, 0⟩
def F.ppsCtlInSeen : Field := ⟨.ppsCtl, 1, 1, .w1c, 0⟩
def F.ppsCtlOutEn : Field := ⟨.ppsCtl, 0, 0, .rw, 0⟩

/-! ### Maps -/

/-- The register maps of the chapters; "per part" values are those of the flash contents at reset (log 4). -/
def RegName.spec : RegName → RegSpec
  | .pkgId => ⟨32, 0x0, [], .power,
      [F.pkgIdDevice, F.pkgIdStepping, F.pkgIdVendor]⟩
  | .setupLock => ⟨32, 0x8, [], .device,
      [F.setupLockLockedWrites, F.setupLockLock]⟩
  | .hbStatus => ⟨32, 0x2401000, [(0x800000, 4), (0x10000, 20), (0x40, 2)], .core,
      [F.hbStatusSetcnt, F.hbStatusAbort, F.hbStatusCe, F.hbStatusDataLost, F.hbStatusRange, F.hbStatusIllegal]⟩
  | .hbErrinfo => ⟨32, 0x2401008, [(0x800000, 4), (0x10000, 20), (0x40, 2)], .core,
      [F.hbErrinfoPart, F.hbErrinfoCause]⟩
  | .hbParam => ⟨32, 0x2401080, [(0x800000, 4), (0x10000, 20)], .power,
      [F.hbParamRowsAct, F.hbParamRowsPhys, F.hbParamPipeLat]⟩
  | .seStatus => ⟨32, 0x2401100, [(0x800000, 4), (0x10000, 20)], .core,
      [F.seStatusSetcnt, F.seStatusAbort, F.seStatusCe, F.seStatusDataLost, F.seStatusRange, F.seStatusIllegal]⟩
  | .seErrinfo => ⟨32, 0x2401108, [(0x800000, 4), (0x10000, 20)], .core,
      [F.seErrinfoPart, F.seErrinfoCause]⟩
  | .seParam => ⟨32, 0x2401180, [(0x800000, 4), (0x10000, 20)], .power,
      [F.seParamLanes, F.seParamVregs, F.seParamLoops, F.seParamLdLat, F.seParamMaxLat]⟩
  | .coreState => ⟨32, 0x2400000, [(0x800000, 4), (0x10000, 20)], .core,
      [F.coreStateState, F.coreStateLent, F.coreStateOwned, F.coreStatePart]⟩
  | .suStatus => ⟨32, 0x2401200, [(0x800000, 4), (0x10000, 20)], .core,
      [F.suStatusSetcnt, F.suStatusAbort, F.suStatusCe, F.suStatusDataLost, F.suStatusRange, F.suStatusIllegal]⟩
  | .suErrinfo => ⟨32, 0x2401208, [(0x800000, 4), (0x10000, 20)], .core,
      [F.suErrinfoPart, F.suErrinfoCause]⟩
  | .hrStatus => ⟨32, 0x2200000, [(0x800000, 4)], .always,
      [F.hrStatusSetcnt, F.hrStatusDrop, F.hrStatusUe, F.hrStatusCe]⟩
  | .dlStatus => ⟨32, 0x2300000, [(0x800000, 4), (0x40, 3)], .always,
      [F.dlStatusReplays, F.dlStatusSetcnt, F.dlStatusDown, F.dlStatusLane, F.dlStatusReplay, F.dlStatusCe]⟩
  | .esState => ⟨32, 0x500000, [(0x100, 32)], .partition,
      [F.esStateJgen, F.esStateTimingUnassured, F.esStateNondet, F.esStateStandby, F.esStateState]⟩
  | .esEpoch => ⟨64, 0x500008, [(0x100, 32)], .partition,
      [F.esEpochEpoch]⟩
  | .esSlips => ⟨32, 0x500010, [(0x100, 32)], .partition,
      [F.esSlipsSlips]⟩
  | .esLag => ⟨32, 0x500014, [(0x100, 32)], .partition,
      [F.esLagLag]⟩
  | .esStatus => ⟨32, 0x500018, [(0x100, 32)], .partition,
      [F.esStatusSetcnt, F.esStatusIdleInsert, F.esStatusTimeStep, F.esStatusOverrun, F.esStatusLoadFail, F.esStatusStale, F.esStatusHeld, F.esStatusSlip]⟩
  | .fhQuadCfg => ⟨32, 0xa00000, [(0x10, 4)], .device,
      [F.fhQuadCfgMtu, F.fhQuadCfgMode]⟩
  | .fhPortStatus => ⟨32, 0xa00100, [(0x10, 16)], .always,
      [F.fhPortStatusUp, F.fhPortStatusSetcnt, F.fhPortStatusDup, F.fhPortStatusDir, F.fhPortStatusStaleEgress, F.fhPortStatusDlLate, F.fhPortStatusEarlyUl, F.fhPortStatusLateUl, F.fhPortStatusUnknown, F.fhPortStatusFrameErr, F.fhPortStatusLinkDown]⟩
  | .fhLease => ⟨32, 0xa00200, [], .device,
      [F.fhLeaseLease]⟩
  | .fhMember => ⟨64, 0xa00208, [], .device,
      [F.fhMemberLapsed, F.fhMemberLeaseOk, F.fhMemberMepoch]⟩
  | .fhFrameOfs => ⟨32, 0xa00210, [], .device,
      [F.fhFrameOfsOfs]⟩
  | .fhOwn => ⟨64, 0xa01000, [(0x8, 256)], .device,
      [F.fhOwnState, F.fhOwnEpoch]⟩
  | .cdStatus => ⟨32, 0x2100000, [(0x800000, 4)], .die,
      [F.cdStatusSetcnt, F.cdStatusOverflow, F.cdStatusDeadline, F.cdStatusCe, F.cdStatusDataLost, F.cdStatusIllegal]⟩
  | .cdErrinfo => ⟨32, 0x2100008, [(0x800000, 4)], .die,
      [F.cdErrinfoQueue, F.cdErrinfoCause]⟩
  | .cdParam => ⟨32, 0x2100080, [(0x800000, 4)], .power,
      [F.cdParamPolar, F.cdParamEnc, F.cdParamDec, F.cdParamRefDec]⟩
  | .memStatus => ⟨32, 0x2000000, [(0x800000, 4)], .die,
      [F.memStatusSetcnt, F.memStatusHot, F.memStatusPatrolUe, F.memStatusUe, F.memStatusCe, F.memStatusOctetOut]⟩
  | .memUeLog => ⟨64, 0x2000008, [(0x800000, 4)], .die,
      [F.memUeLogValid, F.memUeLogOwned, F.memUeLogPart, F.memUeLogPatrol, F.memUeLogStack, F.memUeLogPc, F.memUeLogFrame]⟩
  | .memPatrol => ⟨32, 0x2000010, [(0x800000, 4)], .device,
      [F.memPatrolPasses, F.memPatrolEnable, F.memPatrolPeriod]⟩
  | .memOctets => ⟨64, 0x2000018, [(0x800000, 4)], .power,
      [F.memOctetsOut]⟩
  | .memParam => ⟨32, 0x2000080, [(0x800000, 4)], .power,
      [F.memParamStacks, F.memParamFrames]⟩
  | .ptMemUse => ⟨64, 0x500040, [(0x100, 32)], .partition,
      [F.ptMemUseGrants, F.ptMemUseFarPages, F.ptMemUseHbmFrames]⟩
  | .tbCtl => ⟨64, 0x800000, [], .device,
      [F.tbCtlStepThr, F.tbCtlSlewMax, F.tbCtlKiSh, F.tbCtlKpSh, F.tbCtlHybrid, F.tbCtlFwd, F.tbCtlDomain]⟩
  | .tbOrigin => ⟨64, 0x800008, [], .device,
      [F.tbOriginSeconds]⟩
  | .tbTime => ⟨64, 0x800010, [], .always,
      [F.tbTimeNt]⟩
  | .tbStatus => ⟨64, 0x800018, [], .always,
      [F.tbStatusSteps, F.tbStatusSlave, F.tbStatusSlaveValid, F.tbStatusGridLive, F.tbStatusFreqOk, F.tbStatusState, F.tbStatusSetcnt, F.tbStatusPullLimit, F.tbStatusOutlier, F.tbStatusFreqLost, F.tbStatusHoldover, F.tbStatusStepped, F.tbStatusStepRefused]⟩
  | .tbOffset => ⟨64, 0x800020, [], .always,
      [F.tbOffsetMpd, F.tbOffsetTheta]⟩
  | .tbFadj => ⟨64, 0x800028, [], .always,
      [F.tbFadjFadj]⟩
  | .tbStepReq => ⟨64, 0x800030, [], .always,
      [F.tbStepReqPending, F.tbStepReqSeq, F.tbStepReqStep]⟩
  | .tbHistCtl => ⟨32, 0x800040, [], .device,
      [F.tbHistCtlClear, F.tbHistCtlFreeze]⟩
  | .tbPortCfg => ⟨64, 0x801000, [(0x100, 32)], .device,
      [F.tbPortCfgPortMbps, F.tbPortCfgAsym, F.tbPortCfgLocalPrio, F.tbPortCfgFsrc, F.tbPortCfgNotSlave, F.tbPortCfgPtpEn]⟩
  | .tbPortStatus => ⟨32, 0x801010, [(0x100, 32)], .always,
      [F.tbPortStatusPending, F.tbPortStatusBank, F.tbPortStatusSetcnt, F.tbPortStatusFsrcLost, F.tbPortStatusPtpRxErr, F.tbPortStatusGuardDrop, F.tbPortStatusOverrun]⟩
  | .tlSelf => ⟨32, 0xc00000, [], .device,
      [F.tlSelfFaddr]⟩
  | .tlRmCfg => ⟨32, 0xc00008, [], .device,
      [F.tlRmCfgGwRto, F.tlRmCfgRto, F.tlRmCfgLifetime]⟩
  | .tlRmStatus => ⟨64, 0xc00010, [], .always,
      [F.tlRmStatusRcUsed, F.tlRmStatusSetcnt, F.tlRmStatusStaleRx, F.tlRmStatusUnknown, F.tlRmStatusBusy, F.tlRmStatusRetry]⟩
  | .tlLinkStatus => ⟨32, 0xc01000, [(0x40, 16)], .always,
      [F.tlLinkStatusReplays, F.tlLinkStatusSetcnt, F.tlLinkStatusUp, F.tlLinkStatusWidth, F.tlLinkStatusHalf, F.tlLinkStatusHandover, F.tlLinkStatusDown, F.tlLinkStatusCrc, F.tlLinkStatusReplay, F.tlLinkStatusCe]⟩
  | .tlDest => ⟨32, 0xc02000, [(0x8, 8)], .device,
      [F.tlDestValid, F.tlDestHops, F.tlDestLinks]⟩
  | .tlGw => ⟨32, 0xc02040, [], .device,
      [F.tlGwLinks]⟩
  | .tlMirStatus => ⟨64, 0xc03000, [], .always,
      [F.tlMirStatusPartner, F.tlMirStatusLag, F.tlMirStatusSetcnt, F.tlMirStatusState, F.tlMirStatusUnmapped, F.tlMirStatusWdrop, F.tlMirStatusBroken, F.tlMirStatusTakeover]⟩
  | .tlMirHorizon => ⟨64, 0xc03100, [(0x8, 32)], .always,
      [F.tlMirHorizonH]⟩
  | .tlCkptRate => ⟨32, 0xc03200, [], .device,
      [F.tlCkptRateRate]⟩
  | .ptLglStatus => ⟨32, 0x400000, [], .device,
      [F.ptLglStatusNlg, F.ptLglStatusNent, F.ptLglStatusPending, F.ptLglStatusBank]⟩
  | .ptStatus => ⟨32, 0x400008, [], .device,
      [F.ptStatusSetcnt, F.ptStatusBwShort, F.ptStatusSaveUe, F.ptStatusEvict, F.ptStatusReturnLate, F.ptStatusTakeLate]⟩
  | .ptLglDigest => ⟨64, 0x400040, [(0x8, 6)], .device,
      [F.ptLglDigestD]⟩
  | .ptSgStatus => ⟨64, 0x401000, [(0x10, 32)], .device,
      [F.ptSgStatusResident, F.ptSgStatusFixed, F.ptSgStatusValid, F.ptSgStatusRunValid, F.ptSgStatusRun]⟩
  | .ptPartState => ⟨32, 0x500080, [(0x100, 32)], .device,
      [F.ptPartStateCtx, F.ptPartStateSlices, F.ptPartStateSaved, F.ptPartStateShared, F.ptPartStateCr, F.ptPartStateClass, F.ptPartStateState]⟩
  | .ptAcct => ⟨64, 0x500088, [(0x100, 32)], .device,
      [F.ptAcctCoreAcycles]⟩
  | .ptLendNext => ⟨64, 0x500090, [(0x100, 32)], .device,
      [F.ptLendNextT]⟩
  | .ptRegStatus => ⟨32, 0x500098, [(0x100, 32)], .partition,
      [F.ptRegStatusSetcnt, F.ptRegStatusTeril, F.ptRegStatusHedgerow, F.ptRegStatusHbm]⟩
  | .hiLink => ⟨32, 0x100000, [], .device,
      [F.hiLinkGen, F.hiLinkWidth, F.hiLinkFlit, F.hiLinkIde, F.hiLinkUp]⟩
  | .hiStatus => ⟨32, 0x100008, [], .function,
      [F.hiStatusSetcnt, F.hiStatusIdeFail, F.hiStatusLockedWrite, F.hiStatusSemWrite, F.hiStatusSemSat, F.hiStatusHostFault, F.hiStatusAuth]⟩
  | .hiDbCfg => ⟨32, 0x100010, [], .device,
      [F.hiDbCfgRate, F.hiDbCfgIdlePolls]⟩
  | .hiTdi => ⟨32, 0x100100, [(0x8, 32)], .function,
      [F.hiTdiState]⟩
  | .semPart => ⟨32, 0x110000, [(0x4, 8192)], .device,
      [F.semPartValid, F.semPartPart]⟩
  | .ringSq => ⟨64, 0x200000, [(0x40, 16384)], .function,
      [F.ringSqBase]⟩
  | .ringCq => ⟨64, 0x200008, [(0x40, 16384)], .function,
      [F.ringCqBase]⟩
  | .ringDb => ⟨64, 0x200010, [(0x40, 16384)], .function,
      [F.ringDbBase]⟩
  | .ringCtl => ⟨64, 0x200018, [(0x40, 16384)], .function,
      [F.ringCtlImod, F.ringCtlPoll, F.ringCtlIen, F.ringCtlVector, F.ringCtlPasid, F.ringCtlPasidEn, F.ringCtlPart, F.ringCtlLog2n, F.ringCtlKind, F.ringCtlEnable]⟩
  | .ringAux => ⟨64, 0x200020, [(0x40, 16384)], .function,
      [F.ringAuxSession, F.ringAuxEpoch]⟩
  | .ringState => ⟨64, 0x200028, [(0x40, 16384)], .function,
      [F.ringStateLost, F.ringStateSetcnt, F.ringStateErr, F.ringStateEpochBad, F.ringStateKickStale, F.ringStateRecDrop, F.ringStateState]⟩
  | .lgMboxCtl => ⟨32, 0x600000, [], .always,
      [F.lgMboxCtlLen, F.lgMboxCtlStatus, F.lgMboxCtlDone, F.lgMboxCtlBusy, F.lgMboxCtlGo]⟩
  | .lgState => ⟨32, 0x600008, [], .power,
      [F.lgStateFwSvn, F.lgStateSessions, F.lgStateFwStaged, F.lgStateDebug, F.lgStateConfigOk, F.lgStateIdentityOk]⟩
  | .lgSess => ⟨32, 0x600100, [(0x8, 65)], .always,
      [F.lgSessPart, F.lgSessRole, F.lgSessValid]⟩
  | .lgKeys => ⟨32, 0x600400, [(0x8, 32)], .always,
      [F.lgKeysMig, F.lgKeysFabric, F.lgKeysRotating, F.lgKeysWgen, F.lgKeysSlot1, F.lgKeysSlot0]⟩
  | .fltState => ⟨32, 0xe00000, [], .always,
      [F.fltStateHangs, F.fltStateResets, F.fltStateLadder, F.fltStateFenced, F.fltStateService]⟩
  | .fltStatus => ⟨32, 0xe00008, [], .always,
      [F.fltStatusSetcnt, F.fltStatusCoreHalt, F.fltStatusEngineOut, F.fltStatusOutOfService, F.fltStatusFenced, F.fltStatusLadder, F.fltStatusKill, F.fltStatusHang, F.fltStatusHostAccess]⟩
  | .fltHostErr => ⟨64, 0xe00010, [], .function,
      [F.fltHostErrValid, F.fltHostErrBar2, F.fltHostErrWrite, F.fltHostErrMisaligned, F.fltHostErrOffset]⟩
  | .fltWdog => ⟨32, 0xe00018, [], .device,
      [F.fltWdogProbe, F.fltWdogTimeout]⟩
  | .fltLadder => ⟨32, 0xe00020, [], .device,
      [F.fltLadderOosHours, F.fltLadderOosCount, F.fltLadderWindow]⟩
  | .fltHealth => ⟨64, 0xe00028, [], .device,
      [F.fltHealthPThermal, F.fltHealthPFault, F.fltHealthPLinkdown, F.fltHealthPReplay, F.fltHealthPUe, F.fltHealthPCe, F.fltHealthScore]⟩
  | .fltHbAddr => ⟨64, 0xe00030, [], .device,
      [F.fltHbAddrBase]⟩
  | .fltHbDest => ⟨64, 0xe00038, [], .device,
      [F.fltHbDestValid, F.fltHbDestAddr]⟩
  | .fltVec => ⟨32, 0xe00040, [], .function,
      [F.fltVecIen, F.fltVecVector]⟩
  | .qsState => ⟨32, 0x40000, [], .power,
      [F.qsStateRuns, F.qsStateFailStage, F.qsStateFailed, F.qsStateReduced, F.qsStateReady, F.qsStateStage]⟩
  | .qsCfg => ⟨32, 0x40008, [], .power,
      [F.qsCfgQ8Wait]⟩
  | .qsLink => ⟨64, 0x41000, [(0x8, 33)], .always,
      [F.qsLinkPostfec, F.qsLinkPrefec, F.qsLinkAttempts, F.qsLinkLanesOut, F.qsLinkGen, F.qsLinkHalf, F.qsLinkLanes, F.qsLinkState]⟩
  | .qsTlPlan => ⟨32, 0x42000, [(0x8, 16)], .device,
      [F.qsTlPlanRetrain, F.qsTlPlanPlanHalf, F.qsTlPlanPlanWidth]⟩
  | .pwrCfg => ⟨64, 0x10000, [], .device,
      [F.pwrCfgLmax, F.pwrCfgTThr, F.pwrCfgWindow, F.pwrCfgLimit]⟩
  | .pwrStatus => ⟨64, 0x10008, [], .power,
      [F.pwrStatusRailLost, F.pwrStatusPower, F.pwrStatusLevel, F.pwrStatusSetcnt, F.pwrStatusAtMax, F.pwrStatusHbmTemp, F.pwrStatusTemp, F.pwrStatusDieCap, F.pwrStatusCap]⟩
  | .pkgTemp => ⟨64, 0x10010, [], .power,
      [F.pkgTempHbm, F.pkgTempE, F.pkgTempC]⟩
  | .ppsIn => ⟨64, 0x10020, [], .always,
      [F.ppsInNt]⟩
  | .ppsCtl => ⟨32, 0x10028, [], .device,
      [F.ppsCtlSetcnt, F.ppsCtlOutStepped, F.ppsCtlInSeen, F.ppsCtlOutEn]⟩

/-- Registers by chapter, part 1. -/
def regList1 : List RegName :=
  [.pkgId, .setupLock, .hbStatus, .hbErrinfo, .hbParam, .seStatus, .seErrinfo, .seParam, .coreState, .suStatus, .suErrinfo, .hrStatus, .dlStatus, .esState, .esEpoch, .esSlips, .esLag, .esStatus, .fhQuadCfg, .fhPortStatus]

/-- Registers by chapter, part 2. -/
def regList2 : List RegName :=
  [.fhLease, .fhMember, .fhFrameOfs, .fhOwn, .cdStatus, .cdErrinfo, .cdParam, .memStatus, .memUeLog, .memPatrol, .memOctets, .memParam, .ptMemUse, .tbCtl, .tbOrigin, .tbTime, .tbStatus, .tbOffset, .tbFadj, .tbStepReq]

/-- Registers by chapter, part 3. -/
def regList3 : List RegName :=
  [.tbHistCtl, .tbPortCfg, .tbPortStatus, .tlSelf, .tlRmCfg, .tlRmStatus, .tlLinkStatus, .tlDest, .tlGw, .tlMirStatus, .tlMirHorizon, .tlCkptRate, .ptLglStatus, .ptStatus, .ptLglDigest, .ptSgStatus, .ptPartState, .ptAcct, .ptLendNext, .ptRegStatus]

/-- Registers by chapter, part 4. -/
def regList4 : List RegName :=
  [.hiLink, .hiStatus, .hiDbCfg, .hiTdi, .semPart, .ringSq, .ringCq, .ringDb, .ringCtl, .ringAux, .ringState, .lgMboxCtl, .lgState, .lgSess, .lgKeys, .fltState, .fltStatus, .fltHostErr, .fltWdog, .fltLadder]

/-- Registers by chapter, part 5. -/
def regList5 : List RegName :=
  [.fltHealth, .fltHbAddr, .fltHbDest, .fltVec, .qsState, .qsCfg, .qsLink, .qsTlPlan, .pwrCfg, .pwrStatus, .pkgTemp, .ppsIn, .ppsCtl]

/-- Every register. -/
def RegName.all : List RegName :=
  regList1 ++ regList2 ++ regList3 ++ regList4 ++ regList5

/-- Offset of the element of a replicated register: the index counts through the arrays, innermost fastest. -/
def dimOff : List (Nat × Nat) → Nat → Nat
  | [], _ => 0
  | (stride, _) :: ds, i =>
    let inner := (ds.map (·.2)).foldl (· * ·) 1
    (i / inner) * stride + dimOff ds (i % inner)

/-- BAR0 byte offset of register r, element i (R18). -/
def RegName.off (r : RegName) (i : Nat := 0) : Nat := r.spec.base + dimOff r.spec.dims i

/-- The element of a replicated register that lies `x` bytes above its first one, if any. -/
def dimFind : List (Nat × Nat) → Nat → Option Nat
  | [], x => if x = 0 then some 0 else none
  | (stride, count) :: ds, x =>
    let inner := (ds.map (·.2)).foldl (· * ·) 1
    let q := x / stride
    if q < count then (dimFind ds (x % stride)).map (fun j => q * inner + j) else none

/-- The register and element at a BAR0 offset; none: the offset is reserved. LG_SESS begins at s = 1. -/
def findReg (off : Nat) : Option (RegName × Nat) :=
  RegName.all.findSome? (fun r =>
    if r.spec.base ≤ off ∧ off ≠ 0x600100 then (dimFind r.spec.dims (off - r.spec.base)).map (fun i => (r, i))
    else none)

/-- Bits [hi:lo] of a value. -/
def bitsOf (v hi lo : Nat) : Nat := (v >>> lo) % 2 ^ (hi + 1 - lo)

/-- A value with bits [hi:lo] replaced by x modulo their width. -/
def setBits (v hi lo x : Nat) : Nat :=
  v - (bitsOf v hi lo) * 2 ^ lo + (x % 2 ^ (hi + 1 - lo)) * 2 ^ lo

/-- The value element i of a register holds when its domain is reset: every field's reset value in place;
PT_PART_STATE.STATE resets to 1 for p0 (R290). -/
def RegName.resetVal (r : RegName) (i : Nat := 0) : BitVec 64 :=
  BitVec.ofNat 64 (r.spec.fields.foldl (fun a f => a + f.reset % 2 ^ (f.hi + 1 - f.lo) * 2 ^ f.lo)
    (if r = .ptPartState ∧ i = 0 then 1 else 0))

end Sys2Proof.Machine
end

