-- ==== Sys2Proof/Machine/Ops.lean ====
section
/-! DEFINITION. The named operations every meaning is built from: registers and status bits (R21, R381), free values, time
(R12), event counters (R425, R426), interrupts (R350), semaphores (R348), completion and report records (R336, R340). -/

namespace Sys2Proof.Machine

open Sys2Proof

/-- What a meaning answers. -/
abbrev Res := Host.Outcome State Fault Refusal

/-- The next state of what the S-clock and the T-clock drive: the device changed by f, the queue as it stands. -/
def updS (s : State) (f : Dev → Dev) : Res := .next { s with dev := f s.dev }

/-- The next state: the device changed by f, the queue as it stands. Once every clock but the S-clock and the T-clock has stopped, nothing
changes (R433, R442). -/
def upd (s : State) (f : Dev → Dev) : Res := .next { s with dev := if s.dev.pins.stopped then s.dev else f s.dev }

/-- k where c holds; else the fault e. -/
def need (c : Bool) (e : Fault) (k : Res) : Res := if c then k else .fault e

/-- A row that names a partition, die, link, port, stack, queue or rail the package does not have occurs nowhere: nothing changes (log 150). -/
def there (c : Bool) (s : State) (k : Res) : Res := if c then k else .next s

/-! ### Free values, outputs and time -/

/-- A free value of w bits and the device with the counter of free values advanced (log 2). -/
def takeFree (w : Nat) (d : Dev) : BitVec w × Dev := (Config.free w d.free, { d with free := d.free + 1 })

/-- n free bytes (log 2). -/
def takeBytes (n : Nat) (d : Dev) : Bytes × Dev :=
  let read := takeFree (8 * n) d
  let v := read.1
  let d := read.2
  (leBytes n v.toNat, d)

/-- Records an output of the block (log 5). -/
def emit (o : Out) (d : Dev) : Dev := { d with out := o :: d.out }

/-- A-cycles per nanosecond (R12). -/
def nsA : Nat := 3

/-- Network time of a span of a-cycles, in 1/8 ns, rounded down. -/
def ntOfA (a : Nat) : Nat := a * 8 / 3

/-- The a-cycle in which network time reaches T: network time moves by 1 ns, 8 units, every third a-cycle (R12, R13). -/
def acycOf (d : Dev) (t : BitVec 64) : Int :=
  (d.acyc / 3 * 3 : Nat) + ((t - d.nt).toInt * 3 + 7) / 8

/-- Network time a is at or before b, and before b, by their signed difference modulo 2^64 (R233). -/
def ntLe (a b : BitVec 64) : Bool := decide (0 ≤ (b - a).toInt)
def ntLt (a b : BitVec 64) : Bool := ! ntLe b a

/-- Network time has reached T. -/
def reached (d : Dev) (t : BitVec 64) : Bool := ntLe t d.nt

/-- A network time later by n units of 1/8 ns. -/
def later (t : BitVec 64) (n : Nat) : BitVec 64 := BitVec.ofNat 64 (t.toNat + n)

/-- The latest boundary of a period of network time, of grid offset `ofs`, if it has not been acted on yet (R245). -/
def Dev.beat (d : Dev) (k period ofs : Nat) : Option (BitVec 64) :=
  let b := BitVec.ofNat 64 (d.nt.toNat - (d.nt.toNat - ofs) % period)
  if ofs ≤ d.nt.toNat ∧ ntLt (tabGet 0 d.beats k) b then some b else none

/-- That boundary has been acted on. -/
def beatDone (k : Nat) (b : BitVec 64) (d : Dev) : Dev := { d with beats := tabSet 0 d.beats k b }

/-! ### Registers -/

/-- The value register r, element i, holds. -/
def Dev.rd (d : Dev) (r : RegName) (i : Nat := 0) : BitVec 64 := tabGet (r.resetVal i) d.regs (r.off i)

/-- The device with register r, element i, holding v. -/
def Dev.wr (d : Dev) (r : RegName) (i : Nat) (v : BitVec 64) : Dev :=
  { d with regs := tabSet (r.resetVal i) d.regs (r.off i) v }

/-- A field's value. -/
def Dev.getF (d : Dev) (f : Field) (i : Nat := 0) : Nat := bitsOf (d.rd f.reg i).toNat f.hi f.lo

/-- The device with a field holding x modulo its width. -/
def Dev.setF (d : Dev) (f : Field) (i : Nat) (x : Nat) : Dev :=
  d.wr f.reg i (BitVec.ofNat 64 (setBits (d.rd f.reg i).toNat f.hi f.lo x))

/-- A one-bit field is 1. -/
def Dev.flag (d : Dev) (f : Field) (i : Nat := 0) : Bool := d.getF f i = 1

/-- The value an RW or RWL field acts with: its reset value when the written one lies outside lo to hi (R446). -/
def Dev.eff (d : Dev) (f : Field) (lo hi : Nat) (i : Nat := 0) : Nat :=
  let v := d.getF f i
  if lo ≤ v ∧ v ≤ hi then v else f.reset

/-- FRAME_OFS of the frame grid (R165, R446). -/
def Dev.gridOfs (d : Dev) : Nat := d.eff F.fhFrameOfsOfs 0 79999999

/-- A field counted up by n, saturating at its width. -/
def Dev.addSat (d : Dev) (f : Field) (i n : Nat) : Dev :=
  d.setF f i (min (d.getF f i + n) (2 ^ (f.hi + 1 - f.lo) - 1))

/-- The SETCNT field of a status register (R381). -/
def setcntOf : RegName → Option Field
  | .hbStatus => some F.hbStatusSetcnt
  | .seStatus => some F.seStatusSetcnt
  | .suStatus => some F.suStatusSetcnt
  | .hrStatus => some F.hrStatusSetcnt
  | .dlStatus => some F.dlStatusSetcnt
  | .esStatus => some F.esStatusSetcnt
  | .fhPortStatus => some F.fhPortStatusSetcnt
  | .cdStatus => some F.cdStatusSetcnt
  | .memStatus => some F.memStatusSetcnt
  | .tbStatus => some F.tbStatusSetcnt
  | .tbPortStatus => some F.tbPortStatusSetcnt
  | .tlRmStatus => some F.tlRmStatusSetcnt
  | .tlLinkStatus => some F.tlLinkStatusSetcnt
  | .tlMirStatus => some F.tlMirStatusSetcnt
  | .ptStatus => some F.ptStatusSetcnt
  | .ptRegStatus => some F.ptRegStatusSetcnt
  | .hiStatus => some F.hiStatusSetcnt
  | .ringState => some F.ringStateSetcnt
  | .fltStatus => some F.fltStatusSetcnt
  | .pwrStatus => some F.pwrStatusSetcnt
  | .ppsCtl => some F.ppsCtlSetcnt
  | _ => none

/-- A hardware event sets a W1C bit, which a write in this a-cycle then does not clear (R21); on a bit already 1, or one that a write
has cleared in this a-cycle, it counts in SETCNT (R381). -/
def Dev.raise (d : Dev) (f : Field) (i : Nat := 0) : Dev :=
  let again : Bool := d.flag f i || d.dropped.contains (f.reg.off i, f.lo)
  let d := { d with raised := ((f.reg.off i, f.lo), again) :: d.raised }
  let d := if d.flag f i then d else d.setF f i 1
  match again, setcntOf f.reg with
  | true, some c => d.addSat c i 1
  | _, _ => d

/-- `raise` where c holds. -/
def Dev.raiseIf (d : Dev) (c : Bool) (f : Field) (i : Nat := 0) : Dev := if c then d.raise f i else d

/-- Age in µs of the oldest chunk not yet acknowledged as copied (TL_MIR_STATUS.LAG, R281). -/
def Dev.mirrorLag (d : Dev) : Nat :=
  let t := (d.teril.dirty.map (·.2.2.2) ++ d.teril.copying.map (·.2.2.2.1)).foldl (fun a b => if ntLt b a then b else a) d.nt
  (d.nt - t).toNat / 8000

/-- SHA-384 as 48 bytes. -/
def sha384 (b : Bytes) : Bytes := leBytes 48 (Config.sha384 b).toNat

/-- The lease stands: network time is before LD (R186). -/
def Dev.leaseOk (d : Dev) : Bool := ntLt d.nt d.teril.ld

/-- The digest of the active lending gate list (R302). -/
def Dev.lglSum (d : Dev) : Bytes := if d.lgl.digest = [] then sha384 [] else d.lgl.digest

/-- What a read of a register returns. What hardware computes is laid over the value it holds: TB_TIME is network time;
TB_STATUS.GRID_LIVE is `live`; MEM_STATUS.OCTET_OUT and MEM_PARAM.FRAMES follow the octets mapped out, TL_MIR_STATUS.LAG the oldest dirty
chunk, FH_MEMBER.LEASE_OK the lease, PT_LGL_DIGEST the active lending gate list (R21, R186, R213, R233, R243, R281, R302). -/
def Dev.view (d : Dev) (live : Bool) (r : RegName) (i : Nat := 0) : BitVec 64 :=
  match r with
  | .tbTime => d.nt
  | .tbStatus => BitVec.ofNat 64 (setBits (d.rd r i).toNat F.tbStatusGridLive.hi F.tbStatusGridLive.lo (if live then 1 else 0))
  | .memStatus => BitVec.ofNat 64 (setBits (d.rd r i).toNat F.memStatusOctetOut.hi F.memStatusOctetOut.lo (if d.rd .memOctets i = 0 then 0 else 1))
  | .memParam => BitVec.ofNat 64 (setBits (d.rd r i).toNat F.memParamFrames.hi F.memParamFrames.lo
      (196608 - 3072 * popcount 64 (d.rd .memOctets i).toNat))
  | .tlMirStatus => BitVec.ofNat 64 (setBits (d.rd r i).toNat F.tlMirStatusLag.hi F.tlMirStatusLag.lo (min 65535 d.mirrorLag))
  | .fhMember => BitVec.ofNat 64 (setBits (d.rd r i).toNat F.fhMemberLeaseOk.hi F.fhMemberLeaseOk.lo (if d.leaseOk then 1 else 0))
  | .ptLglDigest => BitVec.ofNat 64 (leNat ((d.lglSum.drop (8 * i)).take 8))
  | _ => d.rd r i

/-- RESULT of a Quickset stage's record (R420). -/
def Dev.qsResult (d : Dev) (k : Nat) : Nat := (memByte d.qs (32 * k + 1)).toNat

/-! ### Parts of the device -/

def Dev.ring (d : Dev) (r : Nat) : Ring := tabGet {} d.rings r
def Dev.setRing (d : Dev) (r : Nat) (x : Ring) : Dev := { d with rings := tabSet {} d.rings r x }
def Dev.modRing (d : Dev) (r : Nat) (f : Ring → Ring) : Dev := d.setRing r (f (d.ring r))
def Dev.part (d : Dev) (p : Nat) : Part := tabGet {} d.parts p
def Dev.setPart (d : Dev) (p : Nat) (x : Part) : Dev := { d with parts := tabSet {} d.parts p x }
def Dev.modPart (d : Dev) (p : Nat) (f : Part → Part) : Dev := d.setPart p (f (d.part p))
def Dev.sched (d : Dev) (p : Nat) : Sched := (d.part p).sched
def Dev.modSched (d : Dev) (p : Nat) (f : Sched → Sched) : Dev := d.modPart p (fun x => { x with sched := f x.sched })
def Dev.core (d : Dev) (g : Nat) : Core := tabGet {} d.cores g
def Dev.setCore (d : Dev) (g : Nat) (x : Core) : Dev := { d with cores := tabSet {} d.cores g x }
def Dev.modCore (d : Dev) (g : Nat) (f : Core → Core) : Dev := d.setCore g (f (d.core g))
def Dev.modCtx (d : Dev) (g : Nat) (f : Ctx → Ctx) : Dev := d.modCore g (fun c => { c with ctx := f c.ctx })
def Dev.modSe (d : Dev) (g : Nat) (f : SeEngine → SeEngine) : Dev := d.modCore g (fun c => { c with se := f c.se })
def Dev.hb (d : Dev) (g e : Nat) : HbEngine := if e = 0 then (d.core g).hb0 else (d.core g).hb1
def Dev.modHb (d : Dev) (g e : Nat) (f : HbEngine → HbEngine) : Dev :=
  d.modCore g (fun c => if e = 0 then { c with hb0 := f c.hb0 } else { c with hb1 := f c.hb1 })
def Dev.carrier (d : Dev) (c : Nat) : Carrier := tabGet {} d.carriers c
def Dev.setCarrier (d : Dev) (c : Nat) (x : Carrier) : Dev := { d with carriers := tabSet {} d.carriers c x }
def Dev.modCarrier (d : Dev) (c : Nat) (f : Carrier → Carrier) : Dev := d.setCarrier c (f (d.carrier c))
def Dev.cod (d : Dev) (die : Nat) : Coding := tabGet {} d.coding die
def Dev.modCod (d : Dev) (die : Nat) (f : Coding → Coding) : Dev :=
  { d with coding := tabMod {} d.coding die f }
def Dev.cq (d : Dev) (die q : Nat) : CodingQueue := tabGet {} (d.cod die).queues q
def Dev.modCq (d : Dev) (die q : Nat) (f : CodingQueue → CodingQueue) : Dev :=
  d.modCod die (fun c => { c with queues := tabMod {} c.queues q f })
def Dev.modMem (d : Dev) (f : MemSys → MemSys) : Dev := { d with mem := f d.mem }
def Dev.port (d : Dev) (e : Nat) : Port := tabGet {} d.ports e
def Dev.modPort (d : Dev) (e : Nat) (f : Port → Port) : Dev := { d with ports := tabMod {} d.ports e f }
def Dev.modTeril (d : Dev) (f : Teril → Teril) : Dev := { d with teril := f d.teril }
def Dev.link (d : Dev) (l : Nat) : Link := tabGet {} d.teril.links l
def Dev.modLink (d : Dev) (l : Nat) (f : Link → Link) : Dev :=
  d.modTeril (fun t => { t with links := tabMod {} t.links l f })
def Dev.sg (d : Dev) (i : Nat) : SharedGroup := tabGet {} d.shared i
def Dev.modSg (d : Dev) (i : Nat) (f : SharedGroup → SharedGroup) : Dev :=
  { d with shared := tabMod {} d.shared i f }
def Dev.lend (d : Dev) (i : Nat) : LendRt := tabGet {} d.lends i
def Dev.modLend (d : Dev) (i : Nat) (f : LendRt → LendRt) : Dev := { d with lends := tabMod {} d.lends i f }
def Dev.sess (d : Dev) (i : Nat) : Session := tabGet { role := 0, part := 0 } d.sessions i
def Dev.setSess (d : Dev) (i : Nat) (x : Session) : Dev :=
  { d with sessions := tabSet { role := 0, part := 0 } d.sessions i x }
def Dev.sem (d : Dev) (i : Nat) : Sem := tabGet {} d.sems i
def Dev.setSem (d : Dev) (i : Nat) (x : Sem) : Dev := { d with sems := tabSet {} d.sems i x }
def Dev.modServo (d : Dev) (f : Servo → Servo) : Dev := { d with servo := f d.servo }
def Dev.modPins (d : Dev) (f : Pins → Pins) : Dev := { d with pins := f d.pins }

/-! ### Event counters and health -/

/-- OVF bit i is set by an event; one already set counts in SETCNT (R381, R426). -/
def EvBank.over (b : EvBank) (i : Nat) : EvBank :=
  { b with ovf := b.ovf ||| (1 <<< i : BitVec 8), ovfNow := b.ovfNow ||| (1 <<< i : BitVec 8)
           setcnt := min (b.setcnt + if b.ovf.getLsbD i then 1 else 0) 255 }

/-- Counter i adds n and wraps with OVF (R426). -/
def EvBank.bump (b : EvBank) (i n : Nat) : EvBank :=
  let v := tabGet 0 b.cnt i + n
  let b := { b with cnt := tabSet 0 b.cnt i (v % 2 ^ 48) }
  if v < 2 ^ 48 then b else b.over i

/-- The events of this a-cycle are not counted: the bank freezes in it (R427). -/
def EvBank.undo (b : EvBank) : EvBank :=
  { b with cnt := (List.range 8).foldl (fun t i => tabMod 0 t i (fun v => (v + 2 ^ 48 - tabGet 0 b.tally i % 2 ^ 48) % 2 ^ 48)) b.cnt
           setcnt := b.setcnt - popcount 8 (b.ovfNow &&& b.ovfWas).toNat, ovf := b.ovf &&& (~~~ b.ovfNow ||| b.ovfWas), ovfNow := 0 }

/-- FREEZE takes a value: an event of the cycle in which it becomes 1 is not counted, one of the cycle in which it becomes 0 is (R427). -/
def EvBank.setFreeze (b : EvBank) (f : Bool) : EvBank :=
  let b' := if b.freeze = f then b else if f then b.undo else (List.range 8).foldl (fun b i => b.bump i (tabGet 0 b.tally i)) b
  { b' with freeze := f }

/-- n events of a source in one bank: every counter that selects it adds them; with FRZ_OVF a counter that would wrap stops at 2^48 - 1, the
bank freezes, and nothing else is counted in that cycle (R425 to R427). -/
def EvBank.count (b : EvBank) (src sub n : Nat) : EvBank :=
  let hit := (List.range 8).filter (fun i => tabGet 0 b.sel i = src + 256 * sub)
  let wraps := hit.filter (fun i => 2 ^ 48 ≤ tabGet 0 b.cnt i + n)
  if n = 0 ∨ src = 0 ∨ hit = [] then b
  else
    let b' := { b with tally := hit.foldl (fun t i => tabMod 0 t i (fun v => v + n)) b.tally }
    if b.freeze then b'
    else if b.frzOvf ∧ wraps ≠ [] then
      wraps.foldl (fun x i => { x with cnt := tabSet 0 x.cnt i (2 ^ 48 - 1) }.over i) { b.undo with tally := b'.tally, freeze := true }
    else hit.foldl (fun x i => x.bump i n) b'

/-- The bank remembers its counters as they stood before the first change of this a-cycle (R428). -/
def EvBank.mark (now : Nat) (b : EvBank) : EvBank :=
  if b.seen = now then b else { b with seen := now, before := b.cnt, ovfNow := 0, ovfWas := b.ovf, tally := [] }

/-- n events of a source in this a-cycle. -/
def EvBank.countAt (now src sub n : Nat) (b : EvBank) : EvBank := if n = 0 then b else (b.mark now).count src sub n

/-- A tick samples every counter as it stood at the end of the previous a-cycle, with the epoch that ended (R428). -/
def EvBank.sampleAt (now epoch : Nat) (b : EvBank) : EvBank :=
  if b.sample then { b with samp := if b.seen = now then b.before else b.cnt, sampEpoch := epoch } else b

/-- Events of a core-bank source on core g. -/
def evCore (g src sub n : Nat) (d : Dev) : Dev := d.modCtx g (fun c => { c with bank := c.bank.countAt d.acyc src sub n })

/-- Events of a partition-bank source. -/
def evPart (p src sub n : Nat) (d : Dev) : Dev := d.modPart p (fun x => { x with bank := x.bank.countAt d.acyc src sub n })

/-- Events of a die-bank source. -/
def evDie (die src sub n : Nat) (d : Dev) : Dev :=
  { d with banks := tabMod {} d.banks die (fun b => b.countAt d.acyc src sub n) }

/-- Events of an edge-bank source: both edge banks offer it (R422). -/
def evEdge (src sub n : Nat) (d : Dev) : Dev :=
  { d with banks := tabMod {} (tabMod {} d.banks 4 (fun b => b.countAt d.acyc src sub n)) 5 (fun b => b.countAt d.acyc src sub n) }

/-- n events of a health class: 0 CE, 1 UE, 2 REPLAY, 3 LINKDOWN, 4 FAULT, 5 THERMAL (R403). -/
def health (cls n : Nat) (d : Dev) : Dev := { d with hn := tabSet 0 d.hn cls (tabGet 0 d.hn cls + n) }

/-! ### Interrupts -/

/-- MSI-X vector v is raised; a masked vector sets its pending bit (R350). -/
def raiseVector (v : Nat) (d : Dev) : Dev :=
  if (tabGet (1 : BitVec 32) d.msixTab (v * 4 + 3)).getLsbD 0 then { d with pba := tabSet false d.pba v true }
  else emit (.msix v) d

/-- A ring raises its vector when IEN is 1; raises within IMOD µs of the last one merge (R350). -/
def raiseRing (r : Nat) (d : Dev) : Dev :=
  if ¬ d.flag F.ringCtlIen r then d
  else if d.acyc < (d.ring r).imodUntil then d.modRing r (fun x => { x with merged := true })
  else raiseVector (d.getF F.ringCtlVector r)
    (d.modRing r (fun x => { x with imodUntil := d.acyc + d.getF F.ringCtlImod r * 1000 * nsA }))

/-- A bit of FLT_STATUS is set; with FLT_VEC.IEN the vector is raised. -/
def raiseFlt (f : Field) (d : Dev) : Dev :=
  let d := d.raise f
  if d.flag F.fltVecIen then raiseVector (d.getF F.fltVecVector) d else d

/-! ### Host memory and semaphores -/

/-- The device writes host memory. -/
def hostWrite (a : Nat) (b : Bytes) (d : Dev) : Dev := { d with host := memWrite d.host a b }

/-- The device reads host memory. -/
def Dev.hostRead (d : Dev) (a n : Nat) : Bytes := memRead d.host a n

/-- An add to a semaphore: min(value + a, 2^64 - 1), SEM_SAT on saturation, and the armed notification once its condition
holds (R348, R349). -/
def semAddTo (i : Nat) (a : BitVec 64) (d : Dev) : Dev :=
  let s := d.sem i
  let sum := s.value.toNat + a.toNat
  let d := d.raiseIf (decide (2 ^ 64 ≤ sum)) F.hiStatusSemSat
  let v := BitVec.ofNat 64 (min sum (2 ^ 64 - 1))
  match s.armed with
  | some (w, vec) =>
    if w ≤ v then raiseVector vec (d.setSem i { value := v, armed := none }) else d.setSem i { s with value := v }
  | none => d.setSem i { s with value := v }

/-! ### Records -/

/-- Entries of a ring (R326). -/
def Dev.ringN (d : Dev) (r : Nat) : Nat := 2 ^ d.getF F.ringCtlLog2n r

/-- The state code of a ring. -/
def Dev.ringSt (d : Dev) (r : Nat) : Nat := d.getF F.ringStateState r

/-- Rings whose RING_CTL has been written, in ascending order. -/
def Dev.ringsSet (d : Dev) : List Nat :=
  d.regs.filterMap (fun e =>
    if 0x200000 ≤ e.1 ∧ e.1 < 0x300000 ∧ e.1 % 64 = 24 then some ((e.1 - 0x200000) / 64) else none)

/-- The first n bytes of an HMAC-SHA-384. -/
def hmacFirst (n : Nat) (key msg : Bytes) : Bytes := (leBytes 48 (Config.hmac384 key msg).toNat).take n

/-- Bytes of an ASCII string. -/
def ascii (s : String) : Bytes := s.toList.map (fun c => BitVec.ofNat 8 c.toNat)

/-- A key of session i: HKDF over Z with salt TH and the label followed by the index (R360). -/
def Dev.sessKey (d : Dev) (i : Nat) (label : Bytes) (n : Nat) : Bytes :=
  let x := d.sess i
  leBytes n (Config.hkdf x.z x.th (label ++ [BitVec.ofNat 8 i]) n).toNat

/-- The command key of a session. -/
def Dev.cmdKey (d : Dev) (i : Nat) : Bytes := d.sessKey i (ascii "av32 cmd") 48

/-- Word 0 of record k: PHASE and SEQ (R336). -/
def recWord (k n : Nat) : Bytes := leBytes 4 ((1 - k / n % 2) + k % 2 ^ 31 * 2)

/-- Completion record k of a ring, 32 bytes; on a management ring RESULT1 authenticates it (R344). -/
def compRecord (d : Dev) (c : Src) (st : Nat) (r0 r1 : BitVec 64) : Bytes :=
  let body := leBytes 4 (c.op % 65536 + st * 65536) ++ leBytes 4 c.ctag.toNat ++ leBytes 4 (d.ring c.ring).fetched
  let body := body ++ leBytes 8 r0.toNat
  let tail := if d.getF F.ringCtlKind c.ring = 2 then
      hmacFirst 8 (d.cmdKey (d.getF F.ringAuxSession c.ring)) (leBytes 8 c.counter.toNat ++ body)
    else leBytes 8 r1.toNat
  recWord (d.ring c.ring).recs (d.ringN c.ring) ++ body ++ tail

/-- A completion record is written to its slot and the vector raised after it (R336, R350). -/
def writeComp (c : Src) (st : Nat) (r0 r1 : BitVec 64) (d : Dev) : Dev :=
  let k := (d.ring c.ring).recs
  let d := hostWrite (d.getF F.ringCqBase c.ring * 64 + k % d.ringN c.ring * 32) (compRecord d c st r0 r1) d
  let d := d.modRing c.ring (fun x => { x with recs := (k + 1) % 2 ^ 32 })
  if c.notify then raiseRing c.ring d else d

/-- The doorbell record last read shows a free completion slot (R339). -/
def Dev.compSpace (d : Dev) (r : Nat) : Bool :=
  ((d.ring r).recs + 2 ^ 32 - (d.ring r).ccons) % 2 ^ 32 < d.ringN r

/-- The command has ended: it leaves the list of started commands. -/
def endStarted (c : Src) (d : Dev) : Dev :=
  d.modRing c.ring (fun x => { x with started := x.started.filter (fun y => y.src ≠ c) })

/-- The record of a command that has ended, without its signal: written while there is space, held while ACTIVE or IDLE,
discarded with REC_DROP while ERROR or full and DRAINING, lost once the ring is disabled (R328, R339, R341, R385). -/
def finish (c : Src) (st : Nat) (r0 r1 : BitVec 64) (d : Dev) : Dev :=
  let d := endStarted c d
  let r := c.ring
  match d.ringSt r with
  | 0 => d
  | 3 => d.raise F.ringStateRecDrop r
  | 4 => if d.compSpace r then writeComp c st r0 r1 d else d.raise F.ringStateRecDrop r
  | _ =>
    if d.compSpace r ∧ (d.ring r).waiting = [] then writeComp c st r0 r1 d
    else d.modRing r (fun x => { x with waiting := x.waiting ++ [(c, st, r0, r1)] })

/-- A command completes with a status: the add of SSIG, then its record (R336). -/
def complete (c : Src) (st : Nat) (r0 r1 : BitVec 64) (d : Dev) : Dev :=
  finish c st r0 r1 (match c.ssig with
    | some (i, a) => semAddTo i a d
    | none => d)

/-- A command completes with a status and no results. -/
def done (c : Src) (st : Nat) (d : Dev) : Dev := complete c st 0 0 d

/-- Report record k, 128 bytes: KIND, LEN, the network time of writing and the payload (R340). -/
def reportRecord (d : Dev) (r : Nat) (x : Report) : Bytes :=
  recWord (d.ring r).recs (d.ringN r) ++ leBytes 4 (x.kind + x.payload.length * 256) ++ leBytes 8 d.nt.toNat ++
    x.payload ++ zeros (112 - x.payload.length)

/-- An epoch report takes into MERGED the reports of its kind that could not be written (R152). -/
def foldMerged (r : Nat) (x : Report) (d : Dev) : Report × Dev :=
  if x.kind ≠ 1 then (x, d)
  else
    let p := d.getF F.ringCtlPart r
    let k := at_ x.payload 6 1
    let n := tabGet 0 (d.sched p).merged k
    (⟨1, x.payload.take 7 ++ leBytes 1 (min n 255) ++ x.payload.drop 8⟩,
      d.modSched p (fun y => { y with merged := tabSet 0 y.merged k 0 }))

/-- A report record is written and its vector raised (R336, R350). -/
def writeReport (r : Nat) (x : Report) (d : Dev) : Dev :=
  let read := foldMerged r x d
  let x := read.1
  let d := read.2
  let k := (d.ring r).recs
  let d := hostWrite (d.getF F.ringSqBase r * 64 + k % d.ringN r * 128) (reportRecord d r x) d
  raiseRing r (d.modRing r (fun y => { y with recs := (k + 1) % 2 ^ 32 }))

/-- A lost report: RING_STATE.LOST and the sources RPT_DROP or MGMT_RPT_DROP count it (R340). -/
def loseReport (r : Nat) (d : Dev) : Dev :=
  let d := d.addSat F.ringStateLost r 1
  if d.getF F.ringCtlKind r = 3 then evEdge 0xC6 0 1 d else evPart (d.getF F.ringCtlPart r) 0x48 0 1 d

/-- A report that a doorbell read still finds without space: an epoch report folds (R152), a slot report counts in RPT_DROP
(R209), any other is lost (R340). -/
def foldReport (r : Nat) (x : Report) (d : Dev) : Dev :=
  let p := d.getF F.ringCtlPart r
  if d.getF F.ringCtlKind r = 3 then loseReport r d
  else if x.kind = 1 then
    d.modSched p (fun y => { y with merged := tabMod 0 y.merged (at_ x.payload 6 1) (· + 1) })
  else if x.kind = 2 then evPart p 0x48 0 1 d
  else loseReport r d

/-- A report for ring r: written while the last known CCONS shows space, else queued for the doorbell read that the device
issues (R330); lost while the ring is in ERROR (R341). -/
def reportTo (r : Nat) (x : Report) (d : Dev) : Dev :=
  if d.ringSt r = 3 then loseReport r d
  else if d.compSpace r ∧ (d.ring r).reports = [] then writeReport r x d
  else d.modRing r (fun y => { y with reports := y.reports ++ [x] })

/-- A ring that can be a partition's report ring: enabled, of kind 1. -/
def Dev.reportRing (d : Dev) (p : Nat) : Option Nat :=
  d.ringsSet.find? (fun r => d.flag F.ringCtlEnable r ∧ d.getF F.ringCtlKind r = 1 ∧ d.getF F.ringCtlPart r = p)

/-- The management report ring. -/
def Dev.mgmtReportRing (d : Dev) : Option Nat :=
  d.ringsSet.find? (fun r => d.flag F.ringCtlEnable r ∧ d.getF F.ringCtlKind r = 3)

/-- A report of partition p; without a report ring it is discarded and counted in RPT_DROP (R340). -/
def report (p kind : Nat) (payload : Bytes) (d : Dev) : Dev :=
  match d.reportRing p with
  | some r => reportTo r ⟨kind, payload⟩ d
  | none => evPart p 0x48 0 1 d

/-- A management report; without its ring it is lost and counted in MGMT_RPT_DROP. -/
def mgmtReport (kind : Nat) (payload : Bytes) (d : Dev) : Dev :=
  match d.mgmtReportRing with
  | some r => reportTo r ⟨kind, payload⟩ d
  | none => evEdge 0xC6 0 1 d

/-! ### Identity of places -/

/-- Die and logical index of global core g. -/
def dieOf (g : Nat) : Nat := g / 20

/-- The state code of core g. -/
def Dev.coreSt (d : Dev) (g : Nat) : Nat := d.getF F.coreStateState g

/-- The partition that owns core g. -/
def Dev.coreOwner (d : Dev) (g : Nat) : Option Nat :=
  if d.flag F.coreStateOwned g then some (d.getF F.coreStatePart g) else none

/-- The state code of a partition (R290). -/
def Dev.pstate (d : Dev) (p : Nat) : Nat := d.getF F.ptPartStateState p

/-- The state code of a partition's schedule (R135). -/
def Dev.esState (d : Dev) (p : Nat) : Nat := d.getF F.esStateState p

/-- The device is OUT_OF_SERVICE (R397). -/
def Dev.oos (d : Dev) : Bool := d.getF F.fltStateService = 2

/-- The device is DEGRADED (R404). -/
def Dev.degraded (d : Dev) : Bool := d.getF F.fltStateService = 1

/-- The device is FENCED (R400). -/
def Dev.fenced (d : Dev) : Bool := d.flag F.fltStateFenced

/-! ### Completion counters (R110) -/

/-- The value of counter i of core g. -/
def Dev.cc (d : Dev) (g i : Nat) : Nat := (tabGet {} (d.core g).ctx.cc i).val

/-- One increment of a completion counter, in a-cycle t; a saturating one counts in CC_SAT (R110). -/
def ccIncAt (g i t : Nat) (d : Dev) : Dev :=
  let c : Counter := tabGet {} (d.core g).ctx.cc i
  if c.val = 0xFFFFFFFF then evCore g 0x0B 0 1 d
  else d.modCtx g (fun x => { x with cc := tabSet {} x.cc i { val := c.val + 1, hist := t :: c.hist } })

/-- One increment in this a-cycle. -/
def ccInc (g i : Nat) (d : Dev) : Dev := ccIncAt g i d.acyc d

/-- The a-cycle in which a counter first held at least v since it was cleared; none: it does not hold it (R68, R140).
A value that held from the start counts from a-cycle 0. -/
def Dev.ccSince (d : Dev) (g i v : Nat) : Option Nat :=
  let c : Counter := tabGet {} (d.core g).ctx.cc i
  if c.val < v then none else some (if v = 0 then 0 else c.hist.getD (c.val - v) 0)

/-! ### Progress (R391) and replay (R392) -/

/-- n progress events in this a-cycle. -/
def Prog.more (p : Prog) (now n : Nat) : Prog := { at_ := now, n := p.n + n }

/-- A progress event of the edge engine of a kind: 8 exchange, 9 mirror, 10 migration. -/
def edgeProg (kind n : Nat) (d : Dev) : Dev :=
  { d with watch := tabMod {} d.watch (600 + kind) (fun w => { w with prog := w.prog.more d.acyc n }) }

/-- Partition p may issue work to an edge engine: no other partition is on probation there (R392). -/
def Dev.mayIssue (d : Dev) (kind p : Nat) : Bool :=
  match (tabGet {} d.watch (600 + kind)).suspects with
  | [] => true
  | q :: _ => q = p

/-! ### Device fault records (R379, R392 to R400) -/

/-- Device fault record: EVENT, STEP, PART, engine kind, index and die (report KIND 7). -/
def faultRecord (event step part kind index die : Nat) (d : Dev) : Dev :=
  mgmtReport 7 (leBytes 4 (event + step * 16 + part * 128) ++ leBytes 4 (kind + index * 16 + die * 512) ++
    leBytes 4 (if event = 4 ∨ event = 5 then d.getF F.fhMemberMepoch else 0) ++ zeros 4) d

end Sys2Proof.Machine
end

