-- ==== Sys2Proof/Machine/Rings.lean ====
section
/-! DEFINITION. Welto rings (R326 to R344), semaphores (R347 to R349), interrupt moderation (R350), the TDISP interfaces
and IDE streams (R324, R325, R361), the link (R321). -/

namespace Sys2Proof.Machine

open Sys2Proof

/-! ### Ring errors and disabling -/

/-- A ring that is enabled and not draining enters ERROR with a cause: completions that wait are discarded with REC_DROP,
queued reports are lost, the vector is raised once (R341). -/
def ringError (r cause : Nat) (d : Dev) : Dev :=
  if d.ringSt r ≠ 1 ∧ d.ringSt r ≠ 2 then d
  else
    let d := (d.setF F.ringStateState r 3).setF F.ringStateErr r cause
    let d := (d.ring r).waiting.foldl (fun d _ => d.raise F.ringStateRecDrop r) d
    let d := (d.ring r).reports.foldl (fun d _ => loseReport r d) d
    raiseRing r (d.modRing r (fun x => { x with waiting := [], reports := [] }))

/-- ENABLE = 0: nothing more is fetched, fetched submissions are discarded, the ring drains, or is DISABLED at once when
no command runs; a full completion area drops what waits (R328). -/
def ringDisableAt (r : Nat) (d : Dev) : Dev :=
  let d := d.setF F.ringCtlEnable r 0
  let d := (d.ring r).waiting.foldl (fun d _ => d.raise F.ringStateRecDrop r) d
  let d := d.modRing r (fun x => { x with subs := [], waiting := [], reports := [] })
  d.setF F.ringStateState r (if (d.ring r).started = [] then 0 else 4)

/-- Rings of partition p that are enabled, of kinds 0 and 1. -/
def Dev.ringsOf (d : Dev) (p : Nat) : List Nat :=
  d.ringsSet.filter (fun r => d.flag F.ringCtlEnable r ∧ d.getF F.ringCtlKind r < 2 ∧ d.getF F.ringCtlPart r = p)

/-- A partition's TDISP interface is locked: it has left CONFIG_UNLOCKED and not returned (R325). -/
def Dev.tdiLocked (d : Dev) (p : Nat) : Bool := p ≠ 0 ∧ d.getF F.hiTdiState p ≠ 0

/-- The interface of p moves to ERROR, with every ring of p, cause 9 (R325). -/
def tdiError (p : Nat) (d : Dev) : Dev :=
  (d.ringsOf p).foldl (fun d r => ringError r 9 d) (d.setF F.hiTdiState p 3)

/-- SLICE_ASSIGN, SLICE_RELEASE and PART_DESTROY while CONFIG_LOCKED or RUN put the interface into ERROR first (R325). -/
def tdiTouched (p : Nat) (d : Dev) : Dev :=
  if d.getF F.hiTdiState p = 1 ∨ d.getF F.hiTdiState p = 2 then tdiError p d else d

/-! ### RING_CTL (R327, R328) -/

/-- The cause that a write of ENABLE = 1 fails with, in the order of *Ring registers*' codes; 0: it succeeds. -/
def enableErr (d : Dev) (r : Nat) : Nat :=
  let kind := d.getF F.ringCtlKind r
  let p := d.getF F.ringCtlPart r
  let others := d.ringsSet.filter (fun q => q ≠ r ∧ d.flag F.ringCtlEnable q)
  if (d.ring r).skew ≠ [] then 1
  else if d.getF F.ringCtlLog2n r < 4 then 5
  else if kind < 2 ∧ p ≠ 0 ∧ ¬ (d.flag F.ringCtlPasidEn r ∧ d.getF F.ringCtlPasid r ∈ (d.part p).pasids) then 2
  else if kind = 1 ∧ others.any (fun q => d.getF F.ringCtlKind q = 1 ∧ d.getF F.ringCtlPart q = p) then 3
  else if kind = 3 ∧ others.any (fun q => d.getF F.ringCtlKind q = 3) then 3
  else if kind = 2 ∧ ¬ (1 ≤ d.getF F.ringAuxSession r ∧ d.getF F.ringAuxSession r ≤ 64 ∧
      d.flag F.lgSessValid (d.getF F.ringAuxSession r)) then 4
  else if kind = 2 ∧ 64 ≤ (others.filter (fun q => d.getF F.ringCtlKind q = 2)).length then 11
  else 0

/-- The fields of RING_CTL other than ENABLE take the written values. -/
def ringCtlFields (r : Nat) (v : BitVec 64) (d : Dev) : Dev :=
  [F.ringCtlImod, F.ringCtlPoll, F.ringCtlIen, F.ringCtlVector, F.ringCtlPasid, F.ringCtlPasidEn, F.ringCtlPart,
    F.ringCtlLog2n, F.ringCtlKind].foldl (fun d f => d.setF f r (bitsOf v.toNat f.hi f.lo)) d

/-- ENABLE = 1 on a disabled ring: the checks, then ACTIVE with every device-side index at 0 (R327). -/
def ringEnableAt (r : Nat) (d : Dev) : Dev :=
  let e := enableErr d r
  let d := d.setF F.ringStateErr r e
  if e ≠ 0 then d
  else ((d.setRing r { skew := (d.ring r).skew, polled := d.nt }).setF F.ringCtlEnable r 1).setF F.ringStateState r 2

/-- A write of RING_CTL (R325, R327, R328); one with ENABLE = 1 is ignored until Q9 ends (R406). -/
def ringCtlWrite (r : Nat) (v : BitVec 64) (d : Dev) : Dev :=
  if v.getLsbD 0 ∧ ¬ d.flag F.qsStateReady then d
  else if d.getF F.ringCtlKind r < 2 ∧ d.tdiLocked (d.getF F.ringCtlPart r) then d.raise F.hiStatusLockedWrite
  else if d.ringSt r = 4 then d
  else if d.flag F.ringCtlEnable r then
    if v.getLsbD 0 then d else ringDisableAt r (ringCtlFields r v d)
  else
    let d := ringCtlFields r v d
    if v.getLsbD 0 then ringEnableAt r d else d

/-- A write of RING_SQ, RING_CQ, RING_DB (area 0 to 2) or RING_AUX (area 3): ignored while enabled or draining, or frozen
by the interface (R325, R328). -/
def ringAreaWrite (r area : Nat) (v : BitVec 64) (d : Dev) : Dev :=
  if d.getF F.ringCtlKind r < 2 ∧ d.tdiLocked (d.getF F.ringCtlPart r) then d.raise F.hiStatusLockedWrite
  else if d.ringSt r = 4 ∨ d.flag F.ringCtlEnable r then d
  else
    match area with
    | 3 => (d.setF F.ringAuxSession r (bitsOf v.toNat 39 32)).setF F.ringAuxEpoch r (bitsOf v.toNat 31 0)
    | _ =>
      let f := if area = 0 then F.ringSqBase else if area = 1 then F.ringCqBase else F.ringDbBase
      let d := d.setF f r (bitsOf v.toNat 63 6)
      d.modRing r (fun x => { x with skew := tabSet false x.skew area (decide (bitsOf v.toNat 5 0 ≠ 0)) })

/-! ### Doorbell records (R329 to R333) -/

/-- Host address of the doorbell record. -/
def Dev.dbAddr (d : Dev) (r : Nat) : Nat := d.getF F.ringDbBase r * 64

/-- A read of the doorbell record: another EPOCH changes nothing and sets EPOCH_BAD (R333); CCONS ahead of the records
written and, on kinds 0 and 2, PROD more than N ahead of the fetched submissions put the ring into ERROR (R341). -/
def readDoorbell (r : Nat) (d : Dev) : Dev :=
  let b := d.hostRead (d.dbAddr r) 12
  let d := d.modRing r (fun x => { x with polled := d.nt })
  if at_ b 8 4 ≠ d.getF F.ringAuxEpoch r then d.raise F.ringStateEpochBad r
  else
    let x := d.ring r
    let prod := at_ b 0 4
    let ccons := at_ b 4 4
    let cmd : Bool := d.getF F.ringCtlKind r = 0 ∨ d.getF F.ringCtlKind r = 2
    if d.ringN r < (x.recs + 2 ^ 32 - ccons) % 2 ^ 32 then ringError r 6 d
    else if cmd ∧ d.ringN r < (prod + 2 ^ 32 - x.fetched) % 2 ^ 32 then ringError r 7 d
    else
      d.modRing r (fun x =>
        { x with prod := prod, ccons := ccons,
                 idlePolls := if prod = x.prod ∧ prod = x.fetched ∧ x.waiting = [] then x.idlePolls + 1 else 0 })

/-- Completions that waited are written while there is space. -/
def flushWaiting (r : Nat) : Nat → Dev → Dev
  | 0, d => d
  | n + 1, d =>
    match (d.ring r).waiting with
    | [] => d
    | (c, st, r0, r1) :: rest =>
      if d.compSpace r then flushWaiting r n (writeComp c st r0 r1 (d.modRing r (fun x => { x with waiting := rest })))
      else d

/-- Completion slots not yet reserved by a fetched or started command or a waiting record (R339). -/
def Dev.freeSlots (d : Dev) (r : Nat) : Nat :=
  let x := d.ring r
  d.ringN r - ((x.recs + 2 ^ 32 - x.ccons) % 2 ^ 32 + x.subs.length + x.started.length + x.waiting.length)

/-- Produced submissions are fetched, no more than there are free completion slots (R330, R339); a ring of p1 to p31 takes
them only while its interface is RUN (R325). -/
def fetchSubs (r : Nat) (d : Dev) : Dev :=
  let x := d.ring r
  let p := d.getF F.ringCtlPart r
  if d.getF F.ringCtlKind r = 0 ∧ p ≠ 0 ∧ d.getF F.hiTdiState p ≠ 2 then d
  else
    let n := min ((x.prod + 2 ^ 32 - x.fetched) % 2 ^ 32) (d.freeSlots r)
    let new := (List.range n).map (fun i =>
      d.hostRead (d.getF F.ringSqBase r * 64 + (x.fetched + i) % d.ringN r * 64) 64)
    d.modRing r (fun x => { x with fetched := (x.fetched + n) % 2 ^ 32, subs := x.subs ++ new })

/-- The doorbell read of an ACTIVE command or management ring and what follows it. -/
def pollRing (r : Nat) (d : Dev) : Dev :=
  let d := readDoorbell r d
  if d.ringSt r ≠ 2 then d else fetchSubs r (flushWaiting r (d.ring r).waiting.length d)

/-- The ring is a command or management ring. -/
def Dev.isCmdRing (d : Dev) (r : Nat) : Bool := d.getF F.ringCtlKind r = 0 ∨ d.getF F.ringCtlKind r = 2

/-- Queued reports are written while there is space, the rest folded or lost (R330, R340). -/
def flushReports (r : Nat) (d : Dev) : Dev :=
  let q := (d.ring r).reports
  q.foldl (fun d x => if d.compSpace r then writeReport r x d else foldReport r x d)
    (d.modRing r (fun x => { x with reports := [] }))

/-! ### Meanings of the ring rows -/

/-- RING_ENABLE (R327): the write of RING_CTL with ENABLE = 1. -/
def execRingEnable (r : Nat) (ctl : BitVec 64) (s : State) : Res :=
  need (r < 16384) .noSuchRing (upd s (ringCtlWrite r (ctl ||| 1)))

/-- RING_DISABLE (R328): the write of RING_CTL with ENABLE = 0. -/
def execRingDisable (r : Nat) (ctl : BitVec 64) (s : State) : Res :=
  need (r < 16384) .noSuchRing (upd s (ringCtlWrite r (ctl &&& ~~~ 1)))

/-- RING_DRAIN_COMPLETE (R328): a DRAINING ring with no started command becomes DISABLED. -/
def drainComplete (r : Nat) (d : Dev) : Dev :=
  if d.ringSt r = 4 ∧ (d.ring r).started = [] then d.setF F.ringStateState r 0 else d

def execRingDrainComplete (r : Nat) (s : State) : Res := need (r < 16384) .noSuchRing (upd s (drainComplete r))

/-- A kick word (R332): an IDLE ring with the right EPOCH becomes ACTIVE, its record shows IDLE = 0 and is read. -/
def kickRing (r : Nat) (v : BitVec 32) (d : Dev) : Dev :=
  if (d.ringSt r = 1 ∨ d.ringSt r = 2) ∧ v.toNat = d.getF F.ringAuxEpoch r then
    if d.ringSt r = 1 then
      pollRing r (hostWrite (d.dbAddr r + 0x20) (zeros 4)
        ((d.setF F.ringStateState r 2).modRing r (fun x => { x with idlePolls := 0 })))
    else d
  else d.raise F.ringStateKickStale r

def execKick (r : Nat) (v : BitVec 32) (s : State) : Res := need (r < 16384) .noSuchRing (upd s (kickRing r v))

/-- DOORBELL_POLL (R330): due POLL × 100 ns after the last read of an ACTIVE command or management ring. -/
def doorbellPoll (r : Nat) (d : Dev) : Dev :=
  if d.ringSt r = 2 ∧ d.isCmdRing r ∧ reached d (later (d.ring r).polled (d.eff F.ringCtlPoll 1 1000 r * 800)) then
    pollRing r d
  else d

def execDoorbellPoll (r : Nat) (s : State) : Res := need (r < 16384) .noSuchRing (upd s (doorbellPoll r))

/-- IDLE_HANDSHAKE (R331): after IDLE_POLLS unchanged reads the device writes IDLE = 1, reads again, and goes IDLE unless
PROD has changed; then it writes IDLE = 0 and stays ACTIVE. -/
def idleHandshake (r : Nat) (d : Dev) : Dev :=
  let limit := if d.getF F.hiDbCfgIdlePolls = 0 then 64 else d.getF F.hiDbCfgIdlePolls
  if d.ringSt r = 2 ∧ d.isCmdRing r ∧ limit ≤ (d.ring r).idlePolls ∧ (d.ring r).waiting = [] then
    let old := (d.ring r).prod
    let d := readDoorbell r (hostWrite (d.dbAddr r + 0x20) [1, 0, 0, 0] d)
    if d.ringSt r ≠ 2 then d
    else if (d.ring r).prod ≠ old then hostWrite (d.dbAddr r + 0x20) (zeros 4) d
    else d.setF F.ringStateState r 1
  else d

def execIdleHandshake (r : Nat) (s : State) : Res := need (r < 16384) .noSuchRing (upd s (idleHandshake r))

/-- REPORT_DOORBELL_READ (R330): the record of a report ring is read and the queued reports written, folded or lost. -/
def reportDoorbell (r : Nat) (d : Dev) : Dev :=
  if d.ringSt r = 2 ∧ ¬ d.isCmdRing r then
    let d := readDoorbell r d
    if d.ringSt r = 2 then flushReports r d else d
  else d

def execReportDoorbellRead (r : Nat) (s : State) : Res := need (r < 16384) .noSuchRing (upd s (reportDoorbell r))

/-! ### Acceptance (R333 to R335, R344) -/

/-- Semaphore i is assigned to partition p. -/
def Dev.semOf (d : Dev) (i p : Nat) : Bool := d.flag F.semPartValid i ∧ d.getF F.semPartPart i = p

/-- The reserved fields of a submission are zero (R333). -/
def subReserved (b : Bytes) : Bool := rsv b 0 31 20 && rsv b 0x28 15 13 && rsv b 0x28 31 29 && rsv b 0x2C 31 0

/-- The source of a submission of a command ring. -/
def subSrc (r : Nat) (b : Bytes) : Src :=
  { ring := r, op := fld b 0 15 0, ctag := BitVec.ofNat 32 (at_ b 4 4), notify := bit b 0 16,
    ssig := if bit b 0 19 then some (fld b 0x28 28 16, BitVec.ofNat 64 (at_ b 0x38 8)) else none, counter := 0 }

/-- The first of the four common checks that a submission fails, as its status; else the command (R335). -/
def checkC (d : Dev) (r : Nat) (b : Bytes) : Nat ⊕ Instr :=
  let c := subSrc r b
  let p := d.getF F.ringCtlPart r
  if c.op ∉ ringOpsC then .inl 1
  else if ¬ subReserved b then .inl 2
  else match parseC c ((b.drop 8).take 32) with
    | none => .inl 2
    | some i =>
      if ¬ ((namedPart i).all (· = p)) ∨ (c.op ∈ ringOpsP0 ∧ p ≠ 0) then .inl 3
      else if ¬ ((namedSem i).all (fun x => d.semOf x p)) ∨ (bit b 0 18 ∧ ¬ d.semOf (fld b 0x28 12 0) p) ∨
          (bit b 0 19 ∧ ¬ d.semOf (fld b 0x28 28 16) p) then .inl 7
      else .inr i

/-- The first submission of a command ring is accepted: a failed common check completes it, without wait, act or signal;
SWAIT and ORDER hold it, and with it every later one; else it is started (R335). -/
def acceptC (r : Nat) (b : Bytes) (d : Dev) : Dev :=
  let pop := d.modRing r (fun x => { x with subs := x.subs.tail })
  let c := subSrc r b
  match checkC d r b with
  | .inl st => finish { c with ssig := none } st 0 0 pop
  | .inr i =>
    if bit b 0 18 ∧ (d.sem (fld b 0x28 12 0)).value.toNat < at_ b 0x30 8 then d
    else if bit b 0 17 ∧ (d.ring r).started ≠ [] then d
    else pop.modRing r (fun x => { x with started := x.started ++ [⟨c, i⟩] })

/-- The source of a management descriptor. -/
def mgmtSrc (r : Nat) (b : Bytes) : Src :=
  { ring := r, op := fld b 0 15 0, ctag := BitVec.ofNat 32 (at_ b 4 4), notify := bit b 0 16, ssig := none,
    counter := BitVec.ofNat 64 (at_ b 0x18 8) }

/-- The checks of Lorgil firmware on a management descriptor, in the order of R344: the failing status, or the command. -/
def checkM (d : Dev) (r : Nat) (b : Bytes) : Nat ⊕ Instr :=
  let i := d.getF F.ringAuxSession r
  let x := d.sess i
  let c := mgmtSrc r b
  let pblk := at_ b 8 8
  let plen := at_ b 0x10 4
  let blk := d.hostRead pblk plen
  if ¬ d.flag F.lgSessValid i then .inl 8
  else if pblk % 64 ≠ 0 ∨ 65536 < plen ∨ (pblk = 0 ∧ 0 < plen) then .inl 2
  else if hmacFirst 24 (d.cmdKey i) (b.take 0x28 ++ blk) ≠ (b.drop 0x28).take 24 then .inl 4
  else if c.counter ≤ x.counter then .inl 5
  else if ¬ ringOpsM.any (fun e => e.1 = c.op) then .inl 1
  else if ¬ (rsv b 0 31 17 ∧ rsv b 0x14 31 0 ∧ at_ b 0x20 8 = 0) then .inl 2
  else match parseM c blk with
    | none => .inl 2
    | some cmd => if roleMay cmd c.op x.role x.part then .inr cmd else .inl 3

/-- The first descriptor of a management ring is accepted (R344): AUTH on a failed MAC or counter; the counter moves with
any command that passes step 3. -/
def acceptM (r : Nat) (b : Bytes) (d : Dev) : Dev :=
  let pop := d.modRing r (fun x => { x with subs := x.subs.tail })
  let c := mgmtSrc r b
  let i := d.getF F.ringAuxSession r
  let count := fun (d : Dev) => d.setSess i { d.sess i with counter := c.counter }
  let early : Bool := ¬ d.flag F.lgSessValid i ∨ at_ b 8 8 % 64 ≠ 0 ∨ 65536 < at_ b 0x10 4 ∨
    (at_ b 8 8 = 0 ∧ 0 < at_ b 0x10 4)
  match checkM d r b with
  | .inl st =>
    let d := pop.raiseIf (decide (st = 4 ∨ st = 5)) F.hiStatusAuth
    let d := if early ∨ st = 4 ∨ st = 5 then d else count d
    finish c st 0 0 d
  | .inr cmd => (count pop).modRing r (fun x => { x with started := x.started ++ [⟨c, cmd⟩] })

/-- COMMAND_ACCEPT (R335, R344): the oldest fetched submission of an enabled command or management ring. -/
def commandAccept (r : Nat) (d : Dev) : Dev :=
  if d.ringSt r ≠ 1 ∧ d.ringSt r ≠ 2 then d
  else match (d.ring r).subs with
    | [] => d
    | b :: _ => if d.getF F.ringCtlKind r = 0 then acceptC r b d else if d.getF F.ringCtlKind r = 2 then acceptM r b d else d

def execCommandAccept (r : Nat) (s : State) : Res := need (r < 16384) .noSuchRing (upd s (commandAccept r))

/-- INTERRUPT_MODERATION_END (R350): raises merged in the interval become one raise at its end. -/
def imodEnd (r : Nat) (d : Dev) : Dev :=
  if (d.ring r).imodUntil ≤ d.acyc ∧ (d.ring r).merged then
    raiseVector (d.getF F.ringCtlVector r) (d.modRing r (fun x =>
      { x with merged := false, imodUntil := d.acyc + d.getF F.ringCtlImod r * 1000 * nsA }))
  else d

def execInterruptModerationEnd (r : Nat) (s : State) : Res := need (r < 16384) .noSuchRing (upd s (imodEnd r))

/-! ### Interfaces, IDE, the link -/

/-- IDE_INTEGRITY_FAIL (R324): the stream is insecure, IDE_FAIL is set, and every ring whose traffic uses it enters ERROR:
the rings of p for selective stream p, for the link stream 0 every ring whose partition has no secure stream of its own. -/
def ideFail (stream : Nat) (d : Dev) : Dev :=
  let d := ({ d with ide := tabSet false d.ide stream false } : Dev).raise F.hiStatusIdeFail
  let d := if stream = 0 then d.setF F.hiLinkIde 0 0 else d
  let uses := fun (d : Dev) r =>
    let own := d.getF F.ringCtlKind r < 2
    let p := d.getF F.ringCtlPart r
    if stream = 0 then ¬ own ∨ p = 0 ∨ ¬ tabGet false d.ide p else own ∧ p = stream
  (d.ringsSet.filter (fun r => decide (uses d r))).foldl (fun d r => ringError r 10 d) d

def execIdeIntegrityFail (stream : Nat) (s : State) : Res := there (stream < 32) s (upd s (ideFail stream))

/-- The key derived for an IDE stream, set and direction in a session (R360, R361). -/
def Dev.ideKey (d : Dev) (i kset dir : Nat) : BitVec 256 :=
  BitVec.ofNat 256 (leNat (d.sessKey i (ascii "av32 ide" ++ [BitVec.ofNat 8 kset, BitVec.ofNat 8 dir]) 32))

/-- KEY_PROG (R361): success only with the key derived in the operator session (link stream) or p's tenant session. -/
def keyProg (stream kset dir : Nat) (key : BitVec 256) (d : Dev) : Dev :=
  let holder := (List.range 65).any (fun i => d.flag F.lgSessValid i ∧ i ≠ 0 ∧
    (if stream = 0 then (d.sess i).role = 1 else (d.sess i).role = 3 ∧ (d.sess i).part = stream) ∧
    d.ideKey i kset dir = key)
  if holder then
    let d := { d with ide := tabSet false d.ide stream true }
    emit (.doe true []) (if stream = 0 then d.setF F.hiLinkIde 0 1 else d)
  else emit (.doe false []) d

def execKeyProg (stream kset dir : Nat) (key : BitVec 256) (s : State) : Res :=
  there (stream < 32) s (upd s (keyProg stream kset dir key))

/-- LOCK_INTERFACE (R325): CONFIG_UNLOCKED to CONFIG_LOCKED; in any other state the message fails. -/
def lockIf (p : Nat) (d : Dev) : Dev :=
  if d.getF F.hiTdiState p = 0 then emit (.doe true []) (d.setF F.hiTdiState p 1) else emit (.doe false []) d

def execLockInterface (p : Nat) (s : State) : Res := upd s (if 1 ≤ p ∧ p < 32 then lockIf p else emit (.doe false []))

/-- START_INTERFACE (R325): CONFIG_LOCKED to RUN; in any other state the message fails. -/
def startIf (p : Nat) (d : Dev) : Dev :=
  if d.getF F.hiTdiState p = 1 then emit (.doe true []) (d.setF F.hiTdiState p 2) else emit (.doe false []) d

def execStartInterface (p : Nat) (s : State) : Res := upd s (if 1 ≤ p ∧ p < 32 then startIf p else emit (.doe false []))

/-- STOP_INTERFACE (R325): back to CONFIG_UNLOCKED, with every ring of p disabled as by ENABLE = 0. -/
def stopIf (p : Nat) (d : Dev) : Dev :=
  emit (.doe true []) ((d.ringsOf p).foldl (fun d r => ringDisableAt r d) (d.setF F.hiTdiState p 0))

def execStopInterface (p : Nat) (s : State) : Res := upd s (if 1 ≤ p ∧ p < 32 then stopIf p else emit (.doe false []))

/-- A PCIe link change (R321): HI_LINK shows generation, width, flit mode and whether it is up. -/
def pcieChange (up flit : Bool) (gen width : Nat) (d : Dev) : Dev :=
  let d := (d.setF F.hiLinkUp 0 (if up then 1 else 0)).setF F.hiLinkGen 0 (if up then gen else 0)
  (d.setF F.hiLinkWidth 0 (if up then width else 0)).setF F.hiLinkFlit 0 (if up ∧ flit then 1 else 0)

/-! ### Semaphores -/

/-- A write of SEM_PART (R325, R347). -/
def semPartWrite (i : Nat) (v : BitVec 32) (d : Dev) : Dev :=
  let p := d.getF F.semPartPart i
  let valid := d.flag F.semPartValid i
  if valid ∧ d.tdiLocked p then d.raise F.hiStatusLockedWrite
  else if ¬ valid ∨ d.pstate p = 0 then
    ((d.setF F.semPartValid i (bitsOf v.toNat 5 5)).setF F.semPartPart i (bitsOf v.toNat 4 0)).setSem i {}
  else d.raise F.hiStatusSemWrite

def execSemPartWrite (i : Nat) (v : BitVec 32) (s : State) : Res := need (i < 8192) .noSuchRing (upd s (semPartWrite i v))

/-- NOP (R345) completes with OK. -/
def execNop (c : Src) (s : State) : Res := need (c.ring < 16384) .noSuchRing (upd s (done c 0))

/-- The command's ring belongs to partition p: its PART field. -/
def Dev.cpart (d : Dev) (c : Src) : Nat := d.getF F.ringCtlPart c.ring

/-- SEM_ADD (R348): the add, then completion. -/
def semAddCmd (c : Src) (i : Nat) (v : BitVec 64) (d : Dev) : Dev :=
  if d.semOf i (d.cpart c) then done c 0 (semAddTo i v d) else finish c 7 0 0 d

def execSemAdd (c : Src) (i : Nat) (v : BitVec 64) (s : State) : Res :=
  need (c.ring < 16384) .noSuchRing (upd s (semAddCmd c i v))

/-- SEM_READ (R347): RESULT0 returns the value. -/
def semReadCmd (c : Src) (i : Nat) (d : Dev) : Dev :=
  if d.semOf i (d.cpart c) then complete c 0 (d.sem i).value 0 d else finish c 7 0 0 d

def execSemRead (c : Src) (i : Nat) (s : State) : Res := need (c.ring < 16384) .noSuchRing (upd s (semReadCmd c i))

/-- SEM_NOTIFY (R349): arms the single notification; a condition that already holds raises the vector at once. -/
def semNotifyCmd (c : Src) (i vec : Nat) (w : BitVec 64) (d : Dev) : Dev :=
  if ¬ d.semOf i (d.cpart c) then finish c 7 0 0 d
  else if w ≤ (d.sem i).value then done c 0 (raiseVector vec (d.setSem i { d.sem i with armed := none }))
  else done c 0 (d.setSem i { d.sem i with armed := some (w, vec) })

def execSemNotify (c : Src) (i vec : Nat) (w : BitVec 64) (s : State) : Res :=
  need (c.ring < 16384) .noSuchRing (upd s (semNotifyCmd c i vec w))

/-- A session ends (R362): its keys and its record go. -/
def endSession (i : Nat) (d : Dev) : Dev :=
  if ¬ d.flag F.lgSessValid i then d
  else (d.wr .lgSess i 0).setF F.lgStateSessions 0 (d.getF F.lgStateSessions - 1) |>.setSess i { role := 0, part := 0 }

/-- Every tenant session of a partition ends. -/
def endTenant (p : Nat) (d : Dev) : Dev :=
  ((List.range 65).filter (fun i => decide (i ≠ 0) && d.flag F.lgSessValid i && decide ((d.sess i).role = 3 ∧ (d.sess i).part = p))).foldl
    (fun d i => endSession i d) d

/-- The semaphores of a partition return to 0 without notification; the assignment stays (R347). -/
def clearSems (p : Nat) (d : Dev) : Dev := { d with sems := d.sems.filter (fun e => ¬ d.semOf e.1 p) }

/-! ### Function reset (R385) -/

/-- Registers whose map and element the predicate selects return to their reset values. -/
def resetRegs (sel : RegName → Nat → Bool) (d : Dev) : Dev :=
  { d with regs := d.regs.filter (fun e =>
      match findReg e.1 with
      | some (r, i) => ¬ sel r i
      | none => true) }

/-- A function reset: rings disabled without records, fetched commands discarded, MSI-X and interface state at reset,
selective IDE streams insecure; everything outside the host interface goes on. -/
def fnReset (d : Dev) : Dev :=
  let d := resetRegs (fun r _ => r.spec.dom = .function) d
  { d with rings := [], msixTab := [], pba := [], ide := d.ide.filter (fun e => e.1 = 0) }

def execFunctionReset (s : State) : Res := upd s fnReset

end Sys2Proof.Machine
end

