-- ==== Sys2Proof/Machine/Units.lean ====
section
/-! DEFINITION. Groups and their logical scratchpad (R5, R120 to R122, R294), failures of units (R379, R449) and the
abort of a unit, shared by every engine. -/

namespace Sys2Proof.Machine

open Sys2Proof

/-! ### Groups -/

/-- Cores of the legal group of size 2^k whose first core is g, in ascending order; none: no such group (*Legal groups*). -/
def groupAt (g k : Nat) : Option (List Nat) :=
  let kk := g % 20
  let row := fun (die : Nat) => (List.range 16).map (fun i => die * 20 + i)
  if 80 ≤ g then none
  else match k with
    | 0 => some [g]
    | 1 => if kk % 2 = 0 then some [g, g + 1] else none
    | 2 => if kk % 4 = 0 then some [g, g + 1, g + 2, g + 3] else none
    | 3 => if kk = 0 ∨ kk = 8 then some ((List.range 8).map (g + ·)) else none
    | 4 => if kk = 0 then some (row (g / 20)) else none
    | 5 => if g = 0 then some (row 0 ++ row 1) else if g = 40 then some (row 2 ++ row 3) else none
    | 6 => if g = 0 then some (row 0 ++ row 1 ++ row 2 ++ row 3) else none
    | _ => none

/-- Cores of the group a 16-bit handle names (R121); none: it names no legal group. -/
def handleCores (h : Nat) : Option (List Nat) :=
  if h.testBit 7 ∨ 0x1000 ≤ h then none
  else if h.testBit 11 then (if h = 0x800 then some (List.range 80) else none)
  else groupAt (h % 128) (h / 256 % 8)

/-- Cores of the group that GSIZE names at the issuing core g (R59, R113). -/
def gsizeCores (g gsize : Nat) : Option (List Nat) :=
  if gsize ≤ 1 then some [g]
  else if gsize ≤ 7 then groupAt g (gsize - 1)
  else if gsize = 8 ∧ g = 0 then some (List.range 80)
  else none

/-- Bytes of a core's scratchpad (R107). -/
def spadSize : Nat := 0xA00000

/-- Handles partition p holds: its dedicated groups and the shared groups on which it holds a grant (R132). -/
def Dev.heldGroups (d : Dev) (p : Nat) : List Nat :=
  (d.part p).groups ++
    (d.shared.filter (fun e => e.2.grants.any (fun g => g.part = p))).map (fun e => e.2.handle)

/-- Partition p holds core g: in a group it holds, or lent to p0 (R7, R304). -/
def Dev.holdsCore (d : Dev) (p g : Nat) : Bool :=
  (d.heldGroups p).any (fun h => ((handleCores h).getD []).contains g) || (p = 0 && d.flag F.coreStateLent g)

/-- The context of partition p stands on core g: not yet saved, or restored (states 1 to 3, 6). -/
def Dev.inCore (d : Dev) (p g : Nat) : Bool :=
  d.coreOwner g = some p && (d.coreSt g = 1 || d.coreSt g = 2 || d.coreSt g = 3 || d.coreSt g = 6)

/-- Key of the save area of partition p on core g. -/
def saveKey (p g : Nat) : Nat := p * 128 + g

def Dev.saved (d : Dev) (p g : Nat) : Saved := tabGet {} d.saves (saveKey p g)

/-- The context of partition p on core g, in the core or in its save area, changed. -/
def Dev.modPctx (d : Dev) (p g : Nat) (f : Ctx → Ctx) : Dev :=
  if d.inCore p g then d.modCtx g f
  else { d with saves := tabMod {} d.saves (saveKey p g) (fun s => { s with ctx := f s.ctx }) }

/-- One increment of a completion counter of the context of p on core g, in a-cycle t (R110, R294). -/
def ccIncFor (p g i t : Nat) (d : Dev) : Dev :=
  if d.inCore p g then ccIncAt g i t d
  else d.modPctx p g (fun x =>
    let c : Counter := tabGet {} x.cc i
    if c.val = 0xFFFFFFFF then { x with bank := x.bank.countAt d.acyc 0x0B 0 1 }
    else { x with cc := tabSet {} x.cc i { val := c.val + 1, hist := t :: c.hist } })

/-- The logical scratchpad address L of a group as (core, offset) (R122). -/
def spadAt (cores : List Nat) (l : Nat) : Nat × Nat := (cores.getD (l / spadSize) 0, l % spadSize)

/-- n bytes of the logical scratchpad of a group of partition p: a part whose context is out of its core is read in the
save area (R122, R294). -/
def Dev.spadRead (d : Dev) (p : Nat) (cores : List Nat) (l n : Nat) : Bytes :=
  (List.range n).map (fun i =>
    let (g, o) := spadAt cores (l + i)
    if d.inCore p g then memByte d.mem.spad (g * spadSize + o) else memByte (d.saved p g).spad o)

/-- One byte written to a core's part; a part the partition does not hold is not written. -/
def spadPut (p g o : Nat) (b : Byte) (d : Dev) : Dev :=
  if d.inCore p g then
    d.modMem (fun m => { m with spad := memSet m.spad (g * spadSize + o) b,
                                spadUe := tabSet false m.spadUe ((g * spadSize + o) / 4) false,
                                spadCe := tabSet false m.spadCe ((g * spadSize + o) / 4) false })
  else if d.holdsCore p g then
    { d with saves := tabMod {} d.saves (saveKey p g) (fun s => { s with spad := memSet s.spad o b }) }
  else d

/-- Bytes written to the logical scratchpad of a group from address l. -/
def spadWrite (p : Nat) (cores : List Nat) (l : Nat) : Bytes → Dev → Dev
  | [], d => d
  | b :: bs, d =>
    let (g, o) := spadAt cores l
    spadWrite p cores (l + 1) bs (spadPut p g o b d)

/-- A 4-byte word of core g's scratchpad turns out to have one wrong bit, or to be uncorrectable (R75, R105). -/
def strikeSpad (g word : Nat) (found : MemFinding) (d : Dev) : Dev :=
  let k := g * spadSize / 4 + word
  if spadSize / 4 ≤ word then d
  else match found with
    | .clean => d
    | .corrected => d.modMem (fun m => { m with spadCe := tabSet false m.spadCe k true })
    | .uncorrectable => d.modMem (fun m => { m with spadUe := tabSet false m.spadUe k true })

/-- A byte of the range lies in an uncorrectable word (R75, R105). -/
def Dev.spadDamaged (d : Dev) (p : Nat) (cores : List Nat) (l n : Nat) : Bool :=
  d.mem.spadUe.any (fun e => e.2 && (List.range n).any (fun i =>
    let (g, o) := spadAt cores (l + i)
    d.inCore p g && decide ((g * spadSize + o) / 4 = e.1)))

/-- The partition whose work core g carries. -/
def Dev.workOf (d : Dev) (g : Nat) : Nat := (d.coreOwner g).getD 0

/-! ### Units -/

/-- The number of p's current epoch. -/
def Dev.epoch (d : Dev) (p : Nat) : Nat := d.getF F.esEpochEpoch p

/-- The epoch that runs or is about to tick. -/
def Dev.currentEpoch (d : Dev) (p : Nat) : Nat :=
  if d.esState p = 3 then (d.sched p).eS else if (d.sched p).endAt.isSome then d.epoch p + 1 else d.epoch p

/-- The dispatched unit i of partition p. -/
def Dev.unitRt (d : Dev) (p i : Nat) : Option UnitRt := (d.sched p).units[i]?

/-- The dispatched unit i changed. -/
def Dev.modUnit (d : Dev) (p i : Nat) (f : UnitRt → UnitRt) : Dev :=
  d.modSched p (fun s => { s with units := modAt s.units i f })

/-- A failure of the epoch (R379): the first by a-cycle, first core and engine is kept, the others are counted. -/
def noteFail (p : Nat) (f : FailRec) (d : Dev) : Dev :=
  d.modSched p (fun s =>
    match s.fail with
    | none => { s with fail := some f }
    | some o =>
      if f.at_ = o.at_ ∧ (f.core < o.core ∨ (f.core = o.core ∧ f.engine < o.engine)) then
        { s with fail := some { f with merged := o.merged + 1 } }
      else { s with fail := some { o with merged := o.merged + 1 } })

/-- Image-relative handle of size 1 of core g in the active image of p (R379). -/
def Dev.imageHandle (d : Dev) (p g : Nat) : Nat :=
  match (d.sched p).active with
  | some im => (im.binding.findIdx? (· = g)).getD 0
  | none => 0

/-- A failure of the transfer list of core g: UNIT 0xFFFF, ENGINE 3 (R379). -/
def noteListFail (p g status cause : Nat) (d : Dev) : Dev :=
  noteFail p { at_ := d.acyc, core := g, engine := 3, status := status, unit := 0xFFFF, group := d.imageHandle p g,
               cause := cause, merged := 0 } d

/-- Lands a value in a context register of the signal engine: lanes of a v-register, bits of a k-register, under their
mask (R89). -/
def landReg (dest : SeDest) (lanes : BitVec 32) (val : BitVec 1024) (r : SeRegs) : SeRegs :=
  match dest with
  | .v i =>
    let m : BitVec 1024 := (List.range 32).foldl (fun a j =>
      if lanes.getLsbD j then a ||| (0xFFFFFFFF#1024 <<< (32 * j)) else a) 0
    { r with v := tabSet 0 r.v i ((val &&& m) ||| (tabGet 0 r.v i &&& ~~~ m)) }
  | .s i => { r with s := tabSet 0 r.s i (val.truncate 64) }
  | .a i => { r with a := tabSet 0 r.a i (val.truncate 32) }
  | .m i => { r with m := tabSet 0 r.m i (val.truncate 64) }
  | .k i =>
    if i = 0 then r
    else { r with k := tabSet 0 r.k i ((val.truncate 32 &&& lanes) ||| (tabGet 0 r.k i &&& ~~~ lanes)) }

/-- Result y was issued later than x: a later cycle, or a higher slot of the same bundle (R86). -/
def SeRes.after (y x : SeRes) : Bool := decide (x.issued < y.issued ∨ (x.issued = y.issued ∧ x.slot < y.slot))

/-- Results land in the order of their due cycles. Of two that land in one register in one a-cycle the later-issued is kept, and the other
has no effect, whatever lanes each writes (R86). -/
def landAll (l : List SeRes) (r : SeRegs) : SeRegs :=
  (sortL (fun a b => decide (a.due ≤ b.due)) (l.filter (fun x => ! l.any (fun y =>
    decide (y.due = x.due ∧ y.dest = x.dest) && y.after x)))).foldl (fun r x => landReg x.dest x.lanes x.val r) r

/-- Results of core g due by the engine's present cycle land (R85, R87). -/
def landDue (g : Nat) (d : Dev) : Dev :=
  let due := (d.core g).se.inflight.filter (fun x => x.due ≤ (d.core g).se.cyc)
  if due = [] then d
  else d.modCore g (fun c =>
    { c with ctx := { c.ctx with se := landAll due c.ctx.se },
             se := { c.se with inflight := c.se.inflight.filter (fun x => ¬ x.due ≤ c.se.cyc) } })

/-- Every result in flight lands (R106, R449). -/
def landInflight (g : Nat) (d : Dev) : Dev :=
  d.modCore g (fun c => { c with ctx := { c.ctx with se := landAll c.se.inflight c.ctx.se },
                                 se := { c.se with inflight := [] } })

/-- n free bytes written to the logical scratchpad at l: bytes the spec calls unpredictable (log 2). -/
def spadFree (p : Nat) (cores : List Nat) (l n : Nat) (d : Dev) : Dev :=
  let read := takeBytes n d
  let b := read.1
  let d := read.2
  spadWrite p cores l b d

/-- The bank and the row of a scratchpad byte (R107). -/
def bankOf (a : Nat) : Nat × Nat := (Nat.xor (a / 128 % 64) (a / 8192 % 64), a / 8192)

/-- Lowest-numbered engine whose stream has not ended, on the first core of the unit that has one (R379). -/
def Dev.openEngine (d : Dev) (cores : List Nat) : Nat :=
  (cores.findSome? (fun g =>
    let c := d.core g
    if c.hb0.running then some 0 else if c.hb1.running then some 1 else if c.se.running then some 2 else none)).getD 0

/-- NUM counts of R51 on engine e (0, 1 Hornbeam, 2 se, 3 stream unit) of core g. -/
def evNum (g e : Nat) (n : NumEv) (d : Dev) : Dev :=
  evCore g 0x0F e n.drop (evCore g 0x0E e n.sat (evCore g 0x0D e n.inf (evCore g 0x0C e n.nan d)))

/-- An uncorrectable error reached the unit on core g, at an engine: it completes with DATA_LOST (R75, R105, R379). -/
def unitLost (g engine : Nat) (d : Dev) : Dev :=
  match (d.core g).unit with
  | some (p, i) => d.modUnit p i (fun u => if u.status = 0 then { u with status := 2, engine := engine } else u)
  | none => d

end Sys2Proof.Machine
end

