-- ==== Sys2Proof/Machine/Array.lean ====
section
/-! DEFINITION. What an HB.MM is before its data: the fold onto arrays and passes with its times (R57, R60, R66 to R69, R74), the byte ranges
of its lines and of a move's, the ports of a scratchpad at work at the same time (R79, R109), the abort of an HB.MM and of a unit (R76,
R449). -/

namespace Sys2Proof.Machine

open Sys2Proof

/-! ### Folding and times (R57, R60, R66 to R69, R74) -/

/-- Arrays of the group, in the numbering of R60. -/
def mmArrays (g e gsize : Nat) : List (Nat × Nat) :=
  if gsize = 0 then [(g, e)] else ((gsizeCores g gsize).getD [g]).flatMap (fun c => [(c, 0), (c, 1)])

/-- Feed and completion latency, equal for each size (*Group feed and completion latencies*). -/
def groupLat (gsize : Nat) : Nat :=
  match gsize with
  | 2 => 6
  | 3 => 12
  | 4 => 18
  | 5 => 24
  | 6 => 48
  | 7 => 60
  | 8 => 72
  | _ => 0

/-- Kp, Nt, Mc and MACs per array per a-cycle of a mode (*Array organisation per mode*). -/
def modeShape (mode : Nat) : Nat × Nat × Nat × Nat :=
  match mode with
  | 0 => (128, 128, 256, 16384)
  | 1 => (256, 128, 256, 32768)
  | 2 => (64, 64, 512, 4096)
  | _ => (32, 32, 512, 1024)

/-- Mode of an HB.MM. -/
def mmMode (o : MmOp) : Nat := ((pairMode o.fa o.fb).getD (0, 0)).2

/-- Accumulator of an HB.MM. -/
def mmAcc (o : MmOp) : Nat := ((pairMode o.fa o.fb).getD (0, 0)).1

/-- A pass of an array (R66): column tile, chunk, K pass, the a-cycle it begins after t0, its rows, whether it loads a tile, and its half of
the accumulator bank (R56). -/
structure MmPass where
  tile : Nat
  chunk : Nat
  pass : Nat
  start : Nat
  rows : Nat
  loads : Bool
  half : Nat
  deriving DecidableEq, Repr

/-- Passes of array a of n in fold order (R66), each without its start; the halves alternate chunk by chunk (R56). -/
def mmFold (o : MmOp) (a n : Nat) : List MmPass :=
  let (kp, nt, mc, _) := modeShape (mmMode o)
  let tiles := ceilDiv o.n nt
  let passes := ceilDiv o.k kp
  let chunks := ceilDiv o.m mc
  (List.range (if a < tiles then (tiles - a - 1) / n + 1 else 0)).flatMap (fun i =>
    (List.range chunks).flatMap (fun c =>
      (List.range passes).map (fun p =>
        { tile := a + i * n, chunk := c, pass := p, start := 0, rows := min mc (o.m - c * mc),
          loads := decide (passes ≠ 1 ∨ c = 0), half := (i * chunks + c) % 2 })))

/-- The starts of R69: a pass follows the rows of the one before, and 128 a-cycles after it when it loads a tile. -/
def passStarts : Nat → List MmPass → List MmPass
  | _, [] => []
  | s, [q] => [{ q with start := s }]
  | s, q :: r :: qs => { q with start := s } :: passStarts (s + if r.loads then max q.rows 128 else q.rows) (r :: qs)

/-- The passes of array a of n with their starts. -/
def mmSched (o : MmOp) (a n : Nat) : List MmPass := passStarts 0 (mmFold o a n)

/-- A-cycles an array waits for B tiles between the passes of an HB.MM (R69, R70). -/
def tileWaits : List MmPass → Nat
  | q :: r :: qs => (r.start - q.start - q.rows) + tileWaits (r :: qs)
  | _ => 0

/-- The a-cycles from t0 to the entry of the last row on the busiest array, plus 1. -/
def mmStream (o : MmOp) (n : Nat) : Nat :=
  ((List.range n).map (fun a => ((mmSched o a n).getLast?.map (fun q => q.start + q.rows)).getD 0)).foldl max 0

/-- The completion a-cycle after t0 without stalls (R69, R74). -/
def mmLatency (o : MmOp) (n : Nat) : Nat :=
  if o.k = 0 then 15 + o.m + groupLat o.gsize else mmStream o n + 271 + groupLat o.gsize

/-- How far an HB.MM has run is counted from 129 a-cycles before t0, so that the loading of the first tile counts too. -/
def runBase : Nat := 129

/-- Destination row m has been written on every array (R67, R74). -/
def MmRt.rowDone (x : MmRt) (arrays m : Nat) : Bool :=
  let o := mmOp x.w
  x.t0.isSome &&
    (if o.k = 0 then decide (runBase + 15 + m ≤ x.ran)
     else (List.range arrays).all (fun a => (mmSched o a arrays).all (fun q =>
       let (_, _, mc, _) := modeShape (mmMode o)
       decide (q.chunk ≠ m / mc ∨ runBase + q.start + 271 + m % mc ≤ x.ran))))

/-! ### Byte ranges -/

/-- Byte ranges of the lines of an operand: element plane and scale plane. -/
def odRanges (x : OdDesc) (f lines n : Nat) : List (Nat × Nat) :=
  (List.range lines).flatMap (fun i =>
    [(x.ebase + i * x.estride, linePayload f n), (x.sbase + i * x.sstride, lineScales f n)])

/-- A byte lies in one of the ranges. -/
def inRanges (l : List (Nat × Nat)) (a : Nat) : Bool := l.any (fun r => decide (r.1 ≤ a ∧ a < r.1 + r.2))

/-- Ranges of a group's logical scratchpad as ranges of all scratchpads, core g's byte o at g × 0x00A0_0000 + o. -/
def globalRanges (cores : List Nat) (l : List (Nat × Nat)) : List (Nat × Nat) :=
  l.flatMap (fun r =>
    let (c, off) := spadAt cores r.1
    let first := min r.2 (spadSize - off)
    let (c', off') := spadAt cores (r.1 + first)
    [(c * spadSize + off, first), (c' * spadSize + off', r.2 - first)])

/-- Destination lines of an HB.MM. -/
def mmDest (x : MmRt) : List (Nat × Nat) := let o := mmOp x.w; odRanges (odDesc x.odd) o.fd o.m o.n

/-- D coincides exactly with C (R63). -/
def mmSame (x : MmRt) : Bool := (mmOp x.w).acc && decide (x.odc = x.odd ∧ (mmOp x.w).fc = (mmOp x.w).fd)

/-- Lines that D must not overlap (R63): A, B and, where it does not coincide with D, C. -/
def mmSources (x : MmRt) : List (Nat × Nat) :=
  let o := mmOp x.w
  (if o.k = 0 then [] else odRanges (odDesc x.oda) o.fa o.m o.k ++ odRanges (odDesc x.odb) o.fb o.n o.k) ++
    (if o.acc ∧ ¬ mmSame x then odRanges (odDesc x.odc) o.fc o.m o.n else [])

/-- Source lines and elements, destination lines and elements of a move (R114). -/
def mvShape (o : MvOp) : (Nat × Nat) × (Nat × Nat) :=
  ((o.lines, o.len), if o.xpose then (o.len, o.lines) else (o.lines, o.len))

/-- Byte ranges of one side of a move, as (space, start, length): space 0 the scratchpads by global byte, 2 tier 2, 3 + d the die d's share. -/
def mvRanges (g : Nat) (o : MvOp) (x : SdDesc) (sh : Nat × Nat) : List (Nat × Nat × Nat) :=
  let cores := (gsizeCores g o.gsize).getD [g]
  let l := (List.range sh.1).flatMap (fun i =>
    [(x.ebase + i * x.estride, linePayload o.fmt sh.2), (x.sbase + i * x.sstride, lineScales o.fmt sh.2)])
  if x.tier = 0 then (globalRanges cores l).map (fun r => (0, r.1, r.2))
  else l.map (fun r => (if x.tier = 1 then 3 + dieOf g else 2, r.1, r.2))

/-- The destination of a move. -/
def mvDest (g : Nat) (w : Word256) (sdd : BitVec 192) : List (Nat × Nat × Nat) := mvRanges g (mvOp w) (sdDesc sdd) (mvShape (mvOp w)).2
/-- Its source. -/
def mvSource (g : Nat) (w : Word256) (sds : BitVec 192) : List (Nat × Nat × Nat) := mvRanges g (mvOp w) (sdDesc sds) (mvShape (mvOp w)).1

/-! ### Ports at work at the same time (R79, R109) -/

/-- Who writes: core, engine (0, 1 Hornbeam, 2 se, 3 stream unit, 4 Hedgerow inbound), word number or a-cycle of issue. -/
abbrev Who := Nat × Nat × Nat

/-- Scratchpad bytes that operations in flight other than `who` write, with the operation: destinations of HB.MMs whose row 0 has entered
and of started moves (R79, R109). -/
def Dev.opsWriting (d : Dev) (who : Who) : List (Who × List (Nat × Nat)) :=
  d.cores.flatMap (fun c =>
    ([0, 1].flatMap (fun e => ((d.hb c.1 e).mms.filter (fun x => x.t0.isSome && decide (who ≠ (c.1, e, x.seq)))).map (fun x =>
      ((c.1, e, x.seq), globalRanges ((gsizeCores c.1 (mmOp x.w).gsize).getD [c.1]) (mmDest x))))) ++
    (c.2.moves.filter (fun m => m.started.isSome && decide (who ≠ (c.1, 3, m.issued)))).map (fun m =>
      ((c.1, 3, m.issued), ((mvDest c.1 m.w m.sdd).filter (fun r => r.1 = 0)).map (·.2))))

/-- Some operation in flight began by a-cycle t. -/
def Dev.opSince (d : Dev) (t : Nat) : Bool :=
  d.cores.any (fun c =>
    c.2.hb0.mms.any (fun x => decide (x.issued ≤ t)) || c.2.hb1.mms.any (fun x => decide (x.issued ≤ t)) ||
      c.2.moves.any (fun m => decide (m.started.getD (t + 1) ≤ t)))

/-- The word number of byte o of core g's scratchpad. -/
def wordOf (c : Nat × Nat) : Nat := (c.1 * spadSize + c.2) / 4

/-- The words overwritten at the same time as an operation that began in `since`, or by another one still in flight. -/
def Dev.racing (d : Dev) (who : Who) (since : Nat) : List Overwrite :=
  d.mem.overwritten.filter (fun e => decide (e.who ≠ who) && (decide (since ≤ e.at_) || (d.opsWriting who).any (fun o => o.1 = e.who)))

/-- Byte i of a word. -/
def wordByte (w : BitVec 32) (i : Nat) : Byte := BitVec.ofNat 8 (w.toNat / 2 ^ (8 * i))

/-- What byte i of a read by `who` from logical address l may not be relied on for: it lies in `taint` (R63, R117), in the
destination of another operation in flight, or in an uncorrectable word. -/
def Dev.openByte (d : Dev) (who : Who) (taint : List (Nat × Nat)) (p : Nat) (cores : List Nat) (a : Nat) : Bool :=
  let c := spadAt cores a
  inRanges taint a || (d.opsWriting who).any (fun o => inRanges o.2 (c.1 * spadSize + c.2)) ||
    (d.inCore p c.1 && tabGet false d.mem.spadUe (wordOf c))

/-- The read meets nothing that another port is writing, no unreliable byte and no wrong bit. -/
def Dev.portClear (d : Dev) (who : Who) (since : Nat) (taint : List (Nat × Nat)) (p : Nat) (cores : List Nat) (l n : Nat) : Bool :=
  (List.range n).all (fun i =>
    ! d.openByte who taint p cores (l + i) && ! (d.racing who since).any (fun e => e.word = wordOf (spadAt cores (l + i))) &&
      ! (d.inCore p (spadAt cores (l + i)).1 && tabGet false d.mem.spadCe (wordOf (spadAt cores (l + i)))))

/-- A read of n bytes by an operation that began in `since` (R75, R79, R105, R109): each 4-byte word that another port is writing holds its
old or its new contents, unpredictably; an uncorrectable word reads unpredictably. With the bytes: 0, 1 a corrected word, 2 an
uncorrectable one. -/
def portRead (who : Who) (since : Nat) (taint : List (Nat × Nat)) (p : Nat) (cores : List Nat) (l n : Nat) (d : Dev) :
    (Bytes × Nat) × Dev :=
  let cur := d.spadRead p cores l n
  if d.portClear who since taint p cores l n then ((cur, 0), d)
  else
    let cell := fun i => spadAt cores (l + i)
    let old := d.racing who since
    let one := fun (x : Byte × Nat) =>
      let o := (cell x.2).2 % 4
      if d.openByte who taint p cores (l + x.2) then Config.free 8 (d.free + x.2)
      else
        let c := x.1 :: (old.filter (fun e => e.word = wordOf (cell x.2))).map (fun e => wordByte e.old o)
        c.getD ((Config.free 8 (d.free + (x.2 - min x.2 o))).toNat % c.length) x.1
    let hit := fun (t : Tab Bool) => (List.range n).any (fun i => d.inCore p (cell i).1 && tabGet false t (wordOf (cell i)))
    ((cur.zipIdx.map one, if hit d.mem.spadUe then 2 else if hit d.mem.spadCe then 1 else 0), { d with free := d.free + n })

/-- What the words about to be written hold is kept while operations are in flight. -/
def noteOld (who : Who) (p : Nat) (cores : List Nat) (l n : Nat) (d : Dev) : Dev :=
  if ¬ d.opSince d.acyc then d
  else
    let ws := ((List.range n).filter (fun i => i = 0 ∨ (spadAt cores (l + i)).2 % 4 = 0)).map (fun i => spadAt cores (l + i))
    d.modMem (fun m => { m with overwritten := (ws.filter (fun c => d.inCore p c.1)).map (fun c =>
      { word := wordOf c, at_ := d.acyc, who := who, old := BitVec.ofNat 32 (leNat (memRead m.spad (wordOf c * 4) 4)) }) ++ m.overwritten })

/-- A write of an operation that began in `since`: of two unordered writes to one word one of the two values stays (R109). -/
def portWrite (who : Who) (since p : Nat) (cores : List Nat) (l : Nat) (b : Bytes) (d : Dev) : Dev :=
  let old := d.racing who since
  let d' := noteOld who p cores l b.length d
  if (List.range b.length).all (fun i => ! old.any (fun e => e.word = wordOf (spadAt cores (l + i)))) then spadWrite p cores l b d'
  else
    let keep := fun i =>
      let c := spadAt cores (l + i)
      old.any (fun e => e.word = wordOf c) && decide (Config.free 1 (d.free + (i - min i (c.2 % 4))) = 1)
    b.zipIdx.foldl (fun d x => if keep x.2 then d else spadWrite p cores (l + x.2) [x.1] d) { d' with free := d'.free + b.length }

/-- Words overwritten before every operation still in flight began are ordered (R69, R109). -/
def pruneOld (d : Dev) : Dev :=
  if d.mem.overwritten = [] then d
  else d.modMem (fun m => { m with overwritten := m.overwritten.filter (fun e =>
    d.opSince e.at_ || (d.opsWriting (80, 0, 0)).any (fun o => o.1 = e.who)) })

/-! ### Aborts (R76, R106, R449) -/

/-- An HB.MM of core g no longer holds the other streams of its group (R60). -/
def releaseHold (g e : Nat) (x : MmRt) (d : Dev) : Dev :=
  (mmArrays g e (mmOp x.w).gsize).foldl (fun d a =>
    if a = (g, e) then d else d.modHb a.1 a.2 (fun h => { h with heldBy := h.heldBy.erase g })) d

/-- An executing HB.MM aborts on every array of its group: HB_STATUS.ABORT, SCTR not incremented; destination lines already written keep
what they hold, the remaining ones are unpredictable (R76). -/
def abortMm (g e : Nat) (x : MmRt) (d : Dev) : Dev :=
  let o := mmOp x.w
  let p := d.workOf g
  let od := odDesc x.odd
  let cores := (gsizeCores g o.gsize).getD [g]
  let arrays := mmArrays g e o.gsize
  let d := (List.range o.m).foldl (fun d i =>
    if x.rowDone arrays.length i then d
    else spadFree p cores (od.sbase + i * od.sstride) (lineScales o.fd o.n)
      (spadFree p cores (od.ebase + i * od.estride) (linePayload o.fd o.n) d)) (d.raise F.hbStatusAbort (g * 2 + e))
  let d := arrays.foldl (fun d a => d.modHb a.1 a.2 (fun h => { h with pipe := h.pipe.filter (fun r => r.mm ≠ (g, e, x.seq)) })) d
  releaseHold g e x (d.modHb g e (fun h => { h with mms := h.mms.filter (fun y => y.seq ≠ x.seq) }))

/-- The stream of engine e of core g stops, and its executing HB.MMs abort (R76, R449). -/
def abortHb (e : Nat) (d : Dev) (g : Nat) : Dev :=
  ((d.hb g e).mms.foldl (fun d x => abortMm g e x d) d).modHb g e (fun x =>
    { x with running := false, ending := false, mms := [], heldBy := [], shadow := [], active := [], pipe := [] })

/-- Every HB.MM with an array among engine e of core g aborts (R76). -/
def abortArray (g e : Nat) (d : Dev) : Dev :=
  d.cores.foldl (fun d c => [0, 1].foldl (fun d e' =>
    ((d.hb c.1 e').mms.filter (fun x => (mmArrays c.1 e' (mmOp x.w).gsize).contains (g, e))).foldl (fun d x => abortMm c.1 e' x d) d) d) d

/-- Every stream of a core stops (R449). -/
def stopCore (d : Dev) (g : Nat) : Dev :=
  let d := landInflight g (abortHb 1 (abortHb 0 d g) g)
  d.modSe g (fun s => { s with running := false, wait := none, branch := none, sig := [], drain := none, fresh := false, again := [] })

/-- The abort of unit i of partition p with a status, and the engine and cause that R379 reports (R449). A second cause
changes nothing. -/
def abortUnit (p i status engine cause : Nat) (d : Dev) : Dev :=
  match d.unitRt p i with
  | none => d
  | some u =>
    if u.issued = none ∨ u.aborted ≠ none ∨ u.ended ≠ none then d
    else
      pruneOld (u.cores.foldl stopCore (d.modUnit p i (fun u =>
        { u with aborted := some (d.acyc, status), status := status, engine := engine, cause := cause })))

/-- The unit that runs on core g aborts. -/
def abortOn (g status engine cause : Nat) (d : Dev) : Dev :=
  match (d.core g).unit with
  | some (p, i) => abortUnit p i status engine cause d
  | none => pruneOld (stopCore d g)

end Sys2Proof.Machine
end

