-- ==== Sys2Proof/Machine/Tier2.lean ====
section
/-! DEFINITION. Tier-2 memory as every unit reaches it: HBM addresses (R212), page tables and translation (R223 to R225),
encryption of data units (R218, R219), uncorrectable words (R215), the marks of the mirror (R281, R282). -/

namespace Sys2Proof.Machine

open Sys2Proof

/-- Bytes of a page, a far page and a frame (R212, R223). -/
def pageSize : Nat := 0x200000

/-- Frames of the device and of one die (R212). -/
def frameCount : Nat := 786432
def dieFrames : Nat := 196608

/-- Where a data unit lies: HBM, host memory of a grant, memory lent by a peer. -/
inductive PAddr where
  | hbm (a : Nat)
  | host (a : Nat)
  | peer (a : Nat)
  deriving DecidableEq, Repr

/-- A device physical address as die, stack, pseudo-channel and offset in it (R212). -/
def locate (pa : Nat) : Nat × Nat × Nat × Nat :=
  let f := pa / pageSize
  let o := pa % pageSize
  let r := f % dieFrames
  (f / dieFrames, r % 8, r / 8 % 8 * 8 + o / 256 % 8, r / 64 * 2 ^ 18 + o / 2048 * 256 + o % 256)

/-- The octet of a frame is mapped out, or the frame lies beyond the last one (R213). -/
def Dev.frameAbsent (d : Dev) (f : Nat) : Bool :=
  decide (frameCount ≤ f) || (d.rd .memOctets (f / dieFrames)).getLsbD (f % dieFrames % 8 * 8 + f % dieFrames / 8 % 8)

/-- Far page `page` of a grant. -/
def Grant.addr (g : Grant) (page off : Nat) : PAddr :=
  if g.kind = 0 then .host (g.base + page * pageSize + off) else .peer (g.tgt * 2 ^ 48 + g.base + page * pageSize + off)

/-- The page table entry of a page of partition p (R223). -/
def Dev.pte (d : Dev) (p vpn : Nat) : Option Pte := tabFind (d.part p).pt vpn

/-- Where byte `off` of a mapped page lies. -/
def Dev.physOf (d : Dev) (p : Nat) (e : Pte) (off : Nat) : PAddr :=
  if e.far then (tabGet { kind := 0, base := 0, pages := 0, tgt := 0 } (d.part p).grants e.grant).addr e.gpage off
  else .hbm (e.frame * pageSize + off)

/-- The ciphertext that a unit given as bytes and tag is stored as. -/
def cipherUnit (t : UnitTag) (raw : Bytes) : Bytes :=
  match t.key with
  | none => raw
  | some k => leBytes 64 (Config.xts k t.tweak raw).toNat

/-- A far unit as this device last wrote it, where the stored bytes are still those; else the stored bytes as they stand (R220). -/
def farUnit (stored : Bytes) (x : UnitTag × Bytes) : Bytes × UnitTag :=
  if stored = cipherUnit x.1 x.2 then (x.2, x.1) else (stored, {})

/-- The bytes given at the last write of a unit, and how they were written. -/
def Dev.unitAt (d : Dev) : PAddr → Bytes × UnitTag
  | .hbm a => (memRead d.mem.hbm a 64, tabGet {} d.mem.tags (a / 64))
  | .host a => farUnit (memRead d.host a 64) (tabGet ({}, []) d.mem.farTags (a / 64))
  | .peer a => farUnit (memRead d.mem.peer a 64) (tabGet ({}, []) d.mem.farTags (2 ^ 60 + a / 64))

/-- How the unit at an address was last written. -/
def Dev.tagAt (d : Dev) (a : PAddr) : UnitTag := (d.unitAt a).2

/-- The bytes given at the last write of a unit. -/
def Dev.rawUnit (d : Dev) (a : PAddr) : Bytes := (d.unitAt a).1

/-- A unit written with its tag. Host memory and a peer's frames receive ciphertext (R218); a unit for a peer leaves as a request (R265). -/
def putUnit (a : PAddr) (b : Bytes) (t : UnitTag) (d : Dev) : Dev :=
  match a with
  | .hbm x => d.modMem (fun m => { m with hbm := memWrite m.hbm x b, tags := tabSet {} m.tags (x / 64) t })
  | .host x =>
    ({ d with host := memWrite d.host x (cipherUnit t b) } : Dev).modMem (fun m =>
      { m with farTags := tabSet ({}, []) m.farTags (x / 64) (t, b) })
  | .peer x => d.modMem (fun m =>
      { m with peer := memWrite m.peer x (cipherUnit t b), farTags := tabSet ({}, []) m.farTags (2 ^ 60 + x / 64) (t, b),
               farOut := m.farOut ++ [(x, cipherUnit t b)] })

/-- A unit read under a key and a tweak: the bytes written under them, else what decryption makes of the ciphertext (R218,
R226). -/
def openUnit (key : BitVec 512) (tweak : Nat) (t : UnitTag) (raw : Bytes) : Bytes :=
  if t.key = some key ∧ t.tweak = tweak then raw else leBytes 64 (Config.xtsInv key tweak (cipherUnit t raw)).toNat

/-- The key of generation `gen` of partition p (R218); an empty slot holds no key of anyone and reads as the zero key. -/
def Dev.pkey (d : Dev) (p : Nat) (gen : Bool) : BitVec 512 :=
  (if gen then (d.part p).slot1 else (d.part p).slot0).getD 0

/-- The write generation of p (R219). -/
def Dev.wgen (d : Dev) (p : Nat) : Bool := d.flag F.lgKeysWgen p

/-- What translates a virtual address: the page's entry, none: not mapped (R223). -/
abbrev Look := Nat → Option Pte

/-- The page tables of p as they stand. -/
def Dev.look (d : Dev) (p : Nat) : Look := fun va => d.pte p (va / pageSize)

/-- The unit of p at virtual address va (a multiple of 64) under a page entry: its plaintext, and whether it holds an uncorrectable word. -/
def Dev.unitVia (d : Dev) (p : Nat) (e : Pte) (va : Nat) : Bytes × Bool :=
  let a := d.physOf p e (va % pageSize)
  (openUnit (d.pkey p e.gen) (va / 64) (d.tagAt a) (d.rawUnit a), (d.tagAt a).ue)

/-- The 64-byte unit at virtual address va (a multiple of 64) of p: its plaintext and whether it holds an uncorrectable word;
none: the page is not mapped. -/
def Dev.vUnit (d : Dev) (p va : Nat) : Option (Bytes × Bool) := (d.look p va).map (fun e => d.unitVia p e va)

/-- First addresses of the units that hold n bytes from a. -/
def unitsOf (a n : Nat) : List Nat :=
  if n = 0 then [] else (List.range ((a % 64 + n + 63) / 64)).map (fun i => a / 64 * 64 + 64 * i)

/-- Pages that hold n bytes from a. -/
def pagesOf (a n : Nat) : List Nat :=
  if n = 0 then [] else (List.range ((a % pageSize + n + pageSize - 1) / pageSize)).map (a / pageSize + ·)

/-- n bytes of p's tier-2 memory under a translation; bytes of a page that is not mapped read 0 (R225). -/
def Dev.vReadBy (d : Dev) (look : Look) (p a n : Nat) : Bytes :=
  (((unitsOf a n).flatMap (fun u => match look u with
    | some e => (d.unitVia p e u).1
    | none => zeros 64)).drop (a % 64)).take n

/-- n bytes of p's tier-2 memory. -/
def Dev.vRead (d : Dev) (p a n : Nat) : Bytes := d.vReadBy (d.look p) p a n

/-- The first page of the range that is not mapped. -/
def missingBy (look : Look) (a n : Nat) : Option Nat :=
  ((unitsOf a n).find? (fun u => (look u).isNone)).map (fun u => u / pageSize * pageSize)

def Dev.vMissing (d : Dev) (p a n : Nat) : Option Nat :=
  ((pagesOf a n).find? (fun v => (d.pte p v).isNone)).map (· * pageSize)

/-- A unit of the range holds an uncorrectable word (R215). -/
def Dev.vLost (d : Dev) (p a n : Nat) : Bool :=
  (unitsOf a n).any (fun u => (d.vUnit p u).any (·.2))

/-- A unit of the range in HBM holds a word with one wrong bit, which a read corrects (R214). -/
def Dev.vCorrected (d : Dev) (p a n : Nat) : Bool :=
  (unitsOf a n).any (fun u => match d.look p u with
    | some e => (match d.physOf p e (u % pageSize) with
      | .hbm x => let t := tabGet {} d.mem.tags (x / 64); t.ce && ! t.ue
      | _ => false)
    | none => false)

/-- A page of the range is being migrated (R228): writes wait. -/
def Dev.vMigrating (d : Dev) (p a n : Nat) : Bool :=
  (pagesOf a n).any (fun v => match d.pte p v with
    | some e => e.mig
    | none => false)

/-- An uncorrectable word of HBM: MEM_STATUS, MEM_UE_LOG where it is free (R214 to R216), and the health class (R403). -/
def ueLog (pa : Nat) (patrol : Bool) (d : Dev) : Dev :=
  let (die, stack, pc, _) := locate pa
  let f := pa / pageSize
  let d := health 1 1 (d.raise (if patrol then F.memStatusPatrolUe else F.memStatusUe) die)
  if d.flag F.memUeLogValid die then d
  else
    let o := tabGet 0 d.mem.owner f
    let held : Bool := 1 ≤ o ∧ o ≤ 32
    ((((((d.setF F.memUeLogValid die 1).setF F.memUeLogOwned die (if held then 1 else 0)).setF F.memUeLogPart die
      (if held then o - 1 else 0)).setF F.memUeLogPatrol die (if patrol then 1 else 0)).setF F.memUeLogStack die
      stack).setF F.memUeLogPc die pc).setF F.memUeLogFrame die f

/-- A corrected word of HBM: MEM_STATUS.CE, the source MEM_CE and the health class (R214, R403). -/
def memCe (pa : Nat) (d : Dev) : Dev :=
  let die := pa / pageSize / dieFrames
  health 0 1 (evDie die 0x84 0 1 (d.raise F.memStatusCe die))

/-- A data unit was read, by the patrol or the walker or by another unit: its damage is logged, its correction counted (R214 to R216, R371). -/
def unitNote (patrol : Bool) (a : PAddr) (d : Dev) : Dev :=
  match a with
  | .hbm x =>
    let t := tabGet {} d.mem.tags (x / 64)
    if t.ue then ueLog x patrol d else if t.ce then memCe x d else d
  | _ => d

/-- The damaged units of a range that was read are logged, the corrected ones counted. -/
def noteBy (look : Look) (p a n : Nat) (d : Dev) : Dev :=
  (unitsOf a n).foldl (fun d u => match look u with
    | none => d
    | some e => unitNote false (d.physOf p e (u % pageSize)) d) d

def vNote (p a n : Nat) (d : Dev) : Dev := noteBy (d.look p) p a n d

/-- A bit error has struck a data unit of HBM: one wrong bit, or an uncorrectable word (R214, R215). -/
def strikeUnit (unit : Nat) (ue : Bool) (d : Dev) : Dev :=
  d.modMem (fun m => { m with tags := tabMod {} m.tags unit (fun t => if ue then { t with ue := true } else { t with ce := true }) })

/-- The partner's partition that p mirrors into: p0 into p0; none after a takeover (R280, R285). -/
def Dev.mirrorOf (d : Dev) (p : Nat) : Option Nat :=
  if d.teril.taken.contains p then none else if p = 0 then some 0 else (d.part p).mirror

/-- A chunk of 64 KiB of a mirrored page becomes dirty (R281): the page has HINT 3, its partition is mapped, the pair is
ACTIVE. -/
def markDirty (p vpn chunk : Nat) (d : Dev) : Dev :=
  let hint3 : Bool := match d.pte p vpn with
    | some e => decide (e.hint = 3)
    | none => false
  if hint3 ∧ d.mirrorOf p ≠ none ∧ d.getF F.tlMirStatusState = 2 then
    d.modTeril (fun t =>
      if t.dirty.any (fun x => x.1 = p ∧ x.2.1 = vpn ∧ x.2.2.1 = chunk) then t
      else { t with dirty := t.dirty ++ [(p, vpn, chunk, d.nt)] })
  else d

/-- Every chunk of a page becomes dirty. -/
def markPage (p vpn : Nat) (d : Dev) : Dev := (List.range 32).foldl (fun d c => markDirty p vpn c d) d

/-! ### Bandwidth regulators (R296 to R299) -/

/-- Regulator word r of p: what PART_CREATE or PART_REGULATE gave; p0 starts with the settings of R299. -/
def Dev.regWord (d : Dev) (p r : Nat) : Nat :=
  (tabFind (d.part p).reg r).getD (if p ≠ 0 ∨ r = 8 then 64 * 65536 * (if p = 0 then 1 else 0)
    else (if r < 4 then 2048 else 1024) + 64 * 65536)

def regRate (w : Nat) : Nat := w % 65536
def regCr (w : Nat) : Bool := w.testBit 28

/-- Payload rate of the Teril links in service, in GB/s (R300, R415). -/
def Dev.terilGbs (d : Dev) : Nat :=
  sumL ((List.range 16).map (fun l =>
    if d.flag F.tlLinkStatusUp l ∧ d.getF F.qsLinkState (16 + l) ≠ 5 then d.getF F.tbPortCfgPortMbps (16 + l) / 8000 else 0))

/-- Sum of the constant-rate Teril allocations. -/
def Dev.crTeril (d : Dev) : Nat :=
  sumL ((List.range 32).map (fun p => if regCr (d.regWord p 8) then regRate (d.regWord p 8) else 0))

/-- The rate regulator r of p runs at: constant-rate Teril allocations are scaled down while the links cannot carry them (R300). -/
def Dev.rateOf (d : Dev) (p r : Nat) : Nat :=
  let w := d.regWord p r
  if r = 8 ∧ regCr w ∧ d.terilGbs < d.crTeril then regRate w * d.terilGbs / d.crTeril else regRate w

/-- Bucket depth in half-bytes; a constant-rate regulator keeps no burst. -/
def regDepth (w : Nat) : Nat := if regCr w then 0 else 2048 * (w / 65536 % 4096)

/-- Every bucket of p filled up to this f-cycle. -/
def regFill (p : Nat) (d : Dev) : Dev :=
  let now := d.acyc * 2 / 3
  let dt := now - (d.part p).tokensAt
  d.modPart p (fun x =>
    { x with tokensAt := now
             tokens := x.tokens.filterMap (fun e =>
               let v : Int := max 0 (e.2 - ((d.rateOf p e.1 * dt : Nat) : Int))
               if v = 0 then none else some (e.1, v)) })

/-- A request of kind r of p waits: RATE is 0, or its tokens are below 0. -/
def Dev.regWaits (d : Dev) (p r : Nat) : Bool :=
  let w := (regFill p d).regWord p r
  decide (d.rateOf p r = 0) || decide ((regDepth w : Int) < tabGet 0 ((regFill p d).part p).tokens r)

/-- b bytes of kind r issue for p. -/
def regCharge (p r b : Nat) (d : Dev) : Dev :=
  let d := evPart p 0x47 r b (regFill p d)
  d.modPart p (fun x => { x with tokens := tabSet 0 x.tokens r (tabGet 0 x.tokens r + (2 * b : Nat)) })

/-- A request waited for tokens: PT_REG_STATUS, by kind 0 HBM, 1 Hedgerow, 2 Teril, and REG_THROTTLE by regulator. -/
def regWaited (p r : Nat) (d : Dev) : Dev :=
  evPart p 0x46 r 1 (d.raise (if r < 4 then F.ptRegStatusHbm else if r < 8 then F.ptRegStatusHedgerow else F.ptRegStatusTeril) p)

/-- The regulator that counts the accesses to a page: that of its HBM die, the Teril regulator for a page that a peer lends, none for host
memory (R296). -/
def Dev.pageReg (d : Dev) (p : Nat) (e : Pte) : Option Nat :=
  match d.physOf p e 0 with
  | .hbm _ => some (e.frame / dieFrames)
  | .host _ => none
  | .peer _ => some 8

/-- b bytes of a page count. -/
def pageCharge (p : Nat) (e : Pte) (b : Nat) (d : Dev) : Dev :=
  match d.pageReg p e with
  | some r => regCharge p r b d
  | none => d

/-- An access to a page waits on its regulator. -/
def Dev.pageWaits (d : Dev) (p : Nat) (e : Pte) : Bool := (d.pageReg p e).any (d.regWaits p)

/-- The regulators that count n bytes of p at a, each with its bytes. -/
def Dev.servedBy (d : Dev) (p a n : Nat) : List (Nat × Nat) :=
  (unitsOf a n).foldl (fun l u =>
    match (d.pte p (u / pageSize)).bind (d.pageReg p) with
    | some r => tabMod 0 l r (· + 64)
    | none => l) []

/-- An access of n bytes of p's tier-2 memory counts in its regulators (R296). -/
def hbmCharge (p a n : Nat) (d : Dev) : Dev := (d.servedBy p a n).foldl (fun d x => regCharge p x.1 x.2 d) d

/-- The first regulator of its memory on which an access waits. -/
def Dev.hbmWaits (d : Dev) (p a n : Nat) : Option Nat := ((d.servedBy p a n).find? (fun x => d.regWaits p x.1)).map (·.1)

/-! ### Entries and writes -/

/-- The page's entry replaced. -/
def setPte (p vpn : Nat) (e : Pte) (d : Dev) : Dev := d.modPart p (fun x => { x with pt := tabPut x.pt vpn e })

/-- A page rewritten under the write generation (R370, R371): every unit read under the old key and written under the new one in
ascending order, uncorrectable words kept and logged; then GEN = W. It counts against RATE, in RESULT0 (R372) and, read and written, in
the page's regulator (R370). -/
def rewritePage (p vpn : Nat) (e : Pte) (d : Dev) : Dev :=
  let w := d.wgen p
  let d := pageCharge p e (2 * pageSize) d
  let d := (List.range (pageSize / 64)).foldl (fun d i =>
    let a := d.physOf p e (64 * i)
    let t := d.tagAt a
    let tweak := vpn * (pageSize / 64) + i
    let b := openUnit (d.pkey p e.gen) tweak t (d.rawUnit a)
    putUnit a b { key := some (d.pkey p w), tweak := tweak, ue := t.ue } (unitNote true a d)) d
  d.modPart p (fun x => { x with pt := tabPut x.pt vpn { e with gen := w },
                                 rot := x.rot.map (fun r => { r with pages := r.pages + 1, used := r.used + 1 }) })

/-- Part of a unit written under a page entry: bytes b at offset o of the unit at va, under the write generation. A page of the old
generation is rewritten first (R219); the other bytes of a damaged unit become unpredictable (R215). -/
def putVia (e : Pte) (p va o : Nat) (b : Bytes) (d : Dev) : Dev :=
  let d := if e.gen = d.wgen p ∨ d.look p va ≠ some e then d else rewritePage p (va / pageSize) e d
  let w := d.wgen p
  let a := d.physOf p e (va % pageSize)
  let t := d.tagAt a
  let old := openUnit (d.pkey p w) (va / 64) t (d.rawUnit a)
  let (old, d) := if b.length < 64 then
      (if t.ue then takeBytes 64 (unitNote false a d) else (old, unitNote false a d))
    else (old, d)
  markDirty p (va / pageSize) (va % pageSize / 65536)
    (putUnit a (old.take o ++ b ++ old.drop (o + b.length)) { key := some (d.pkey p w), tweak := va / 64 } d)

/-- A write under a translation: it waits for the switch of a page being migrated (R228); what falls on a receive-only page is discarded and
counted in WDROP (R282); one that finds no page is discarded (R225). -/
def vWriteBy (look : Look) (p a : Nat) (b : Bytes) (d : Dev) : Dev :=
  (unitsOf a b.length).foldl (fun d u =>
    let lo := max u a
    let part := (b.drop (lo - a)).take (min (u + 64) (a + b.length) - lo)
    match look u with
    | some e =>
      if e.recvOnly then d.raise F.tlMirStatusWdrop
      else if e.mig then d.modMem (fun m => { m with held := m.held ++ [{ p := p, addr := lo, data := part }] })
      else putVia e p u (lo - u) part d
    | none => d) d

/-- A write of the partition's own engines. -/
def vWrite (p a : Nat) (b : Bytes) (d : Dev) : Dev := vWriteBy (d.look p) p a b d

/-- The writes held for a page of p are done at its place after the switch (R228). -/
def releaseHeld (p vpn : Nat) (d : Dev) : Dev :=
  let mine := fun (h : HeldWrite) => decide (h.p = p ∧ h.addr / pageSize = vpn)
  (d.mem.held.filter mine).foldl (fun d h => vWrite p h.addr h.data d)
    (d.modMem (fun m => { m with held := m.held.filter (fun h => ! mine h) }))

/-- The translation-fault record of an operation (R225): unit 1 stream unit, 2 coding, 3 fronthaul, 4 exchange, 5 mirror, 6
memory-semantic target. -/
def xlateFault (p page unit g : Nat) (write : Bool) (d : Dev) : Dev :=
  report p 3 (leBytes 8 page ++ leBytes 4 (unit + g * 16 + (if write then 2048 else 0)) ++ zeros 4) d

/-- The key, the size and the miss source of a translation cache (R224): unit 1 is the stream unit of core g. -/
def tlbOf (unit g p : Nat) : Nat × Nat :=
  if unit = 1 then (g, 64)
  else if unit = 2 then (80 + g, 128)
  else if unit = 3 then (84, 256)
  else if unit = 5 then (160 + p, 8)
  else (128 + p, 8)

/-- A unit translates pages: a page its cache lacks is a miss, counted; a mapped one takes a place in the cache, tagged with the partition
generation in the sections of the exchange and mirror engines (R388), and replaces an entry when the cache is full. Which one, the spec
leaves open: a free value (R224, log 29). -/
def xlate (unit g p a n : Nat) (d : Dev) : Dev :=
  let (k, size) := tlbOf unit g p
  (pagesOf a n).foldl (fun d v =>
    let l := tabGet [] d.mem.tlbs k
    let x := (if k < 128 then 0 else (d.part p).gen, v)
    if l.contains x then d
    else
      let d := if unit = 1 then evCore g 0x0A 0 1 d
        else evPart p 0x49 (if unit = 2 then 1 else if unit = 3 then 2 else if unit = 5 then 4 else 3) 1 d
      if (d.pte p v).isNone then d
      else
        let (r, d) := if l.length < size then (0, d) else
          let read := takeFree 8 d
          (read.1.toNat % size, read.2)
        let l := if l.length < size then l else l.eraseIdx r
        d.modMem (fun m => { m with tlbs := tabSet [] m.tlbs k (x :: l) })) d

/-- Every cached translation of pages of p that the predicate selects is dropped: stream units that work for p, p's sections,
and for p0 the coding and fronthaul caches (R224, R228, R229, R374). -/
def tlbDrop (p : Nat) (sel : Nat → Bool) (d : Dev) : Dev :=
  let mine := fun k => if k < 80 then decide (d.coreOwner k = some p) else if k < 128 then decide (p = 0)
    else decide (k = 128 + p ∨ k = 160 + p)
  d.modMem (fun m => { m with tlbs := m.tlbs.filterMap (fun e =>
    if mine e.1 then
      let l := e.2.filter (fun v => ! sel v.2)
      if l = [] then none else some (e.1, l)
    else some e) })

/-- The bytes that lie in bad data units are unpredictable (R119, R215). -/
def freeUnits (bad : Nat → Bool) (a : Nat) (b : Bytes) (d : Dev) : Bytes × Dev :=
  (b.zipIdx.map (fun x => if bad ((a + x.2) / 64 * 64) then Config.free 8 (d.free + x.2) else x.1), { d with free := d.free + b.length })

/-- A read of p's tier-2 memory by a unit, as it happens: translation, the fault record, the logging; damaged units read as unpredictable
bytes (R215, R378). -/
def tierRead (unit g p a n : Nat) (d : Dev) : Bytes × Dev :=
  let bad := fun u => (d.vUnit p u).any (·.2)
  let read := if d.vLost p a n then freeUnits bad a (d.vRead p a n) d else (d.vRead p a n, d)
  let after := vNote p a n (xlate unit g p a n (hbmCharge p a n read.2))
  (read.1, match d.vMissing p a n with
    | some page => xlateFault p page unit g false after
    | none => after)

/-- A write of p's tier-2 memory by one of its units. -/
def tierWrite (unit g p a : Nat) (b : Bytes) (d : Dev) : Dev :=
  let miss := d.vMissing p a b.length
  let d := vWrite p a b (xlate unit g p a b.length (hbmCharge p a b.length d))
  match miss with
  | some page => xlateFault p page unit g true d
  | none => d

/-! ### Page tables in memory (R223) -/

/-- *First-level entry*. -/
def tableWord (e : Option (Nat × Nat)) : Nat := e.elim 0 (fun x => 1 + x.1 * 2 ^ 12 + x.2 * 2 ^ 32)

/-- V, FAR, GEN, MIG, HINT and DIE of *Page table entry*. -/
def pteFlags (e : Pte) : Nat :=
  1 + (if e.far then 2 else 0) + (if e.gen then 4 else 0) + (if e.mig then 8 else 0) + e.hint * 16 + e.die * 64

/-- *Page table entry*. -/
def pteWord (e : Option Pte) : Nat :=
  e.elim 0 (fun e => pteFlags e + if e.far then e.grant * 2 ^ 12 + e.gpage * 2 ^ 16 else e.frame * 2 ^ 12)

/-- The unit at offset o of table frame f: eight entries of the first-level table or of a second-level table. -/
def Part.tableUnit (x : Part) (f o : Nat) : Bytes :=
  (List.range 8).flatMap (fun i =>
    let k := o / 8 + i
    leBytes 8 (if x.tableFrames.head? = some f then tableWord (tabFind x.tables k)
      else ((x.tables.find? (fun t => decide (t.2 = (f, k / 512)))).map (fun t => pteWord (tabFind x.pt (t.1 * 512 + k % 512)))).getD 0))

/-- A frame holds tables no more: what it held stays in it, under the table key of p (R223; the tweak, log 149). -/
def leaveTable (p f : Nat) (d : Dev) : Dev :=
  let x := d.part p
  (List.range (pageSize / 64)).foldl (fun d i =>
    putUnit (.hbm (f * pageSize + 64 * i)) (x.tableUnit f (64 * i)) { key := x.tableKey, tweak := f * (pageSize / 64) + i } d) d

end Sys2Proof.Machine
end

