-- ==== Sys2Proof/Machine/Memory.lean ====
section
/-! DEFINITION. The memory commands (R221, R222, R225 to R229, R448), placement and migration (R227, R228), patrol and refresh
(R216, R217), the re-encryption walker (R370 to R372). -/

namespace Sys2Proof.Machine

open Sys2Proof

/-! ### The free pool (R221, R227) -/

/-- HBM frames of p in use: mapped, holding tables, not yet retired, or target of a migration. -/
def Dev.usedFrames (d : Dev) (p : Nat) : List Nat :=
  let x := d.part p
  x.pt.filterMap (fun e => if e.2.far then none else some e.2.frame) ++ x.tableFrames ++
    x.retiring.filterMap (fun r => if r.1 = 0 then some r.2.1 else none) ++
    d.mem.mig.filterMap (fun m => if m.p = p then m.target.bind (fun t => if t.far then none else some t.frame) else none)

/-- Far pages of p in use, as (grant, page). -/
def Dev.usedFar (d : Dev) (p : Nat) : List (Nat × Nat) :=
  let x := d.part p
  x.pt.filterMap (fun e => if e.2.far then some (e.2.grant, e.2.gpage) else none) ++
    x.retiring.filterMap (fun r => if r.1 = 1 then some (r.2.1, r.2.2.1) else none) ++
    d.mem.mig.filterMap (fun m => if m.p = p then
      m.target.bind (fun t => if t.far then some (t.grant, t.gpage) else none) else none)

/-- The lowest of n numbers from f that is not used. -/
def firstFree (used : List Nat) : Nat → Nat → Option Nat
  | _, 0 => none
  | f, n + 1 => if used.contains f then firstFree used (f + 1) n else some f

/-- What a page can be placed on: HBM ranges, far grants, and what is in use. -/
structure Pool where
  ranges : List (Nat × Nat)
  grants : List (Nat × Nat)
  frames : List Nat
  far : List (Nat × Nat)
  deriving DecidableEq, Repr

/-- The free pool of p without the range or grant that a command removes. -/
def Dev.pool (d : Dev) (p : Nat) : Pool :=
  let x := d.part p
  { ranges := sortL (fun a b => decide (a.1 ≤ b.1)) (x.ranges.filter (fun r => ¬ (x.memGone = some r ∧ r.2 ≠ 0)))
    grants := (x.grants.filter (fun g => ¬ (x.memGone = some (g.1 + 1, 0)))).map (fun g => (g.1, g.2.pages))
    frames := d.usedFrames p
    far := d.usedFar p }

/-- The lowest free frame of a die. -/
def Pool.onDie (q : Pool) (die : Nat) : Option Nat :=
  q.ranges.findSome? (fun r =>
    let lo := max r.1 (die * dieFrames)
    let hi := min (r.1 + r.2) ((die + 1) * dieFrames)
    firstFree q.frames lo (hi - lo))

/-- The lowest free frame, dies in the order from `die`. -/
def Pool.frame (q : Pool) (die : Nat) : Option Nat :=
  (List.range 4).findSome? (fun k => q.onDie ((die + k) % 4))

/-- The first free far page, grants in ascending index. -/
def Pool.farPage (q : Pool) : Option (Nat × Nat) :=
  q.grants.findSome? (fun g =>
    (firstFree (q.far.filterMap (fun x => if x.1 = g.1 then some x.2 else none)) 0 g.2).map (fun i => (g.1, i)))

/-- The place of page i of a command for a hint and a die, and the pool without it (R227). -/
def Pool.place (q : Pool) (hint die i : Nat) : Option ((Bool × Nat × Nat) × Pool) :=
  if hint = 2 then
    q.farPage.map (fun x => ((true, x.1, x.2), { q with far := x :: q.far }))
  else
    (q.frame (if hint = 1 then (die + i) % 4 else die)).map (fun f => ((false, f, 0), { q with frames := f :: q.frames }))

/-- Places for a list of (hint, die, i); none: the pool cannot take them all. -/
def Pool.placeAll (q : Pool) : List (Nat × Nat × Nat) → Option (List (Bool × Nat × Nat))
  | [] => some []
  | (h, die, i) :: r =>
    match q.place h die i with
    | none => none
    | some (x, q) => (q.placeAll r).map (x :: ·)

/-- Second-level tables that the given pages need and p has not: their first-level indices, ascending. -/
def newTables (x : Part) (pages : List Nat) : List Nat :=
  (pages.map (· / 512)).foldl (fun l t => if (tabFind x.tables t).isSome ∨ l.contains t then l else l ++ [t]) []

/-- Frames p needs for n more tables: one at the first MEM_MAP and one for every 512 second-level tables (R221). -/
def tableCount (x : Part) (n : Nat) : Nat :=
  (if x.tableFrames = [] then 1 else 0) + ceilDiv (x.tables.length + n) 512 - ceilDiv x.tables.length 512

/-- p's tables with new ones: each takes the next 4 KiB slot in order of creation (R223; the order of slots, log 149). -/
def addTables (frames new : List Nat) (x : Part) : Part :=
  let all := x.tableFrames ++ frames
  { x with tableFrames := all
           tables := new.zipIdx.foldl (fun t y =>
             let k := x.tables.length + y.2
             tabPut t y.1 (all.getD (1 + k / 512) 0, k % 512)) x.tables }

/-- Table frames replaced by others, in the first-level entries too (R222). -/
def moveTables (l : List (Nat × Nat)) (x : Part) : Part :=
  let next := fun f => (tabFind l f).getD f
  { x with tableFrames := x.tableFrames.map next, tables := x.tables.map (fun t => (t.1, next t.2.1, t.2.2)) }

/-- The first n table frames, and the pool without them. -/
def Pool.takeTables (q : Pool) : Nat → Option (List Nat × Pool)
  | 0 => some ([], q)
  | n + 1 =>
    match q.frame 0 with
    | none => none
    | some f => (Pool.takeTables { q with frames := f :: q.frames } n).map (fun r => (f :: r.1, r.2))

/-- Address and pages of a command: a multiple of 2 MiB, 1 to `most` pages, within 2^48 bytes (MEM_BAD). -/
def vRange (a pages most : Nat) : Bool := a % pageSize = 0 ∧ 1 ≤ pages ∧ pages ≤ most ∧ a + pages * pageSize ≤ 2 ^ 48

/-- The pages of a command, ascending. -/
def vPages (a pages : Nat) : List Nat := (List.range pages).map (a / pageSize + ·)

/-! ### The commands, run one at a time per partition -/

/-- MEM_RANGE_ADD (R448). -/
def memRangeAddDo (c : Src) (p first frames : Nat) (d : Dev) : Dev :=
  if d.pstate p = 0 ∨ d.pstate p = 4 then done c 0xA3 d
  else if frames = 0 then done c 0x61 d
  else if frameCount < first + frames ∨ (List.range frames).any (fun i => d.frameAbsent (first + i)) then done c 0x66 d
  else if 8 ≤ (d.part p).ranges.length then done c 0x68 d
  else if (List.range frames).any (fun i => tabGet 0 d.mem.owner (first + i) ≠ 0) then done c 0x62 d
  else
    let d := d.modMem (fun m => { m with owner := (List.range frames).foldl (fun o i => tabSet 0 o (first + i) (p + 1)) m.owner })
    let d := d.modPart p (fun x => { x with ranges := x.ranges ++ [(first, frames)] })
    done c 0 (d.addSat F.ptMemUseHbmFrames p frames)

/-- MEM_FAR_ADD (R221, R448): a host grant names a PASID of p, a peer grant a range that a device of the own tray has lent. How the device
learns what a peer has lent, the spec does not say: `Config.peerLent` (log 151). An index in use: MEM_BAD after LIMIT (log 151). -/
def memFarAddDo (c : Src) (p grant kind base pages tgt : Nat) (d : Dev) : Dev :=
  if d.pstate p = 0 ∨ d.pstate p = 4 then done c 0xA3 d
  else if 15 < grant ∨ 1 < kind ∨ pages = 0 ∨ base % pageSize ≠ 0 ∨ 2 ^ 48 < base + pages * pageSize then done c 0x61 d
  else if 16 ≤ (d.part p).grants.length then done c 0x68 d
  else if (tabFind (d.part p).grants grant).isSome then done c 0x61 d
  else if (kind = 0 ∧ tgt ∉ (d.part p).pasids) ∨
      (kind = 1 ∧ (4096 ≤ tgt ∨ tgt / 8 ≠ d.getF F.tlSelfFaddr / 8 ∨ tgt = d.getF F.tlSelfFaddr ∨
        Config.peerLent tgt base pages d.acyc = false)) then done c 0x67 d
  else
    let d := d.modPart p (fun x => { x with grants := tabPut x.grants grant { kind := kind, base := base, pages := pages, tgt := tgt } })
    done c 0 ((d.setF F.ptMemUseGrants p (min (d.part p).grants.length 15)).addSat F.ptMemUseFarPages p pages)

/-- Migrations queued for pages of p, in order; the command waits for them. -/
def queueMigs (p : Nat) (c : Src) (rate : Nat) (pages : List (Nat × Nat)) (d : Dev) : Dev :=
  (d.modMem (fun m => { m with mig := m.mig ++ pages.map (fun x =>
    { p := p, vpn := x.1, cmd := some c, rate := rate, i := x.2 }) })).modPart p (fun x => { x with memBusy := some c })

/-- The pages of p that lie in the range or grant a command removes, ascending, each with its number. -/
def Dev.pagesInside (d : Dev) (p first frames : Nat) : List (Nat × Nat) :=
  ((d.part p).pt.filter (fun e =>
    if frames = 0 then e.2.far && decide (e.2.grant + 1 = first)
    else (! e.2.far) && decide (first ≤ e.2.frame ∧ e.2.frame < first + frames))).zipIdx.map (fun e => (e.1.1, e.2))

/-- The removal's end: frames unassigned, or the grant dropped, and the command completes (R222). -/
def memRemoved (p : Nat) (d : Dev) : Dev :=
  match (d.part p).memGone, (d.part p).memBusy with
  | some (first, frames), some c =>
    let d := d.modPart p (fun x => { x with memGone := none, memBusy := none })
    if frames = 0 then
      let n := (tabGet { kind := 0, base := 0, pages := 0, tgt := 0 } (d.part p).grants (first - 1)).pages
      let d := d.modPart p (fun x => { x with grants := tabDel x.grants (first - 1) })
      done c 0 ((d.setF F.ptMemUseGrants p (min (d.part p).grants.length 15)).setF F.ptMemUseFarPages p
        (d.getF F.ptMemUseFarPages p - n))
    else
      let d := d.modMem (fun m => { m with owner := tabDrop m.owner first frames })
      let d := d.modPart p (fun x => { x with ranges := x.ranges.filter (· ≠ (first, frames)) })
      done c 0 (d.setF F.ptMemUseHbmFrames p (d.getF F.ptMemUseHbmFrames p - frames))
  | _, _ => d

/-- Something of the removed range or grant is still mapped, queued or not retired. -/
def Dev.memGoing (d : Dev) (p : Nat) : Bool :=
  match (d.part p).memGone with
  | none => false
  | some (first, frames) =>
    d.mem.mig.any (fun m => m.p = p && m.cmd.isSome) ||
      (d.part p).retiring.any (fun r => if frames = 0 then decide (r.1 = 1 ∧ r.2.1 + 1 = first)
        else decide (r.1 = 0 ∧ first ≤ r.2.1 ∧ r.2.1 < first + frames))

/-- MEM_RANGE_REMOVE and MEM_FAR_REMOVE after their first checks (R222): table frames inside move first, then each page, in
ascending virtual address, is queued for migration; NO_SPACE where the rest of the pool cannot take them. -/
def memRemoveDo (c : Src) (p first frames : Nat) (d : Dev) : Dev :=
  let inside := fun f => decide (frames ≠ 0 ∧ first ≤ f ∧ f < first + frames)
  let pages := d.pagesInside p first frames
  let d' := d.modPart p (fun x => { x with memGone := some (first, frames) })
  let tabs := (d.part p).tableFrames.filter inside
  match (d'.pool p).takeTables tabs.length with
  | none => done c 0x63 d
  | some (new, q) =>
    let want := pages.map (fun x => match d.pte p x.1 with
      | some e => ((if frames = 0 then 2 else e.hint), e.die, x.2)
      | none => (0, 0, 0))
    match q.placeAll want with
    | none => done c 0x63 d
    | some _ =>
      let d := tabs.foldl (fun d f => leaveTable p f d) d'
      let d := d.modPart p (fun x =>
        { moveTables (tabs.zip new) x with
          memBusy := some c, retiring := x.retiring ++ tabs.map (fun f => (0, f, 0, d.acyc + 30000)) })
      let d := queueMigs p c 0 pages d
      if d.memGoing p then d else memRemoved p d

def memRangeRemoveDo (c : Src) (p first frames : Nat) (d : Dev) : Dev :=
  if d.pstate p = 0 ∨ d.pstate p = 4 then done c 0xA3 d
  else if frames = 0 ∨ (first, frames) ∉ (d.part p).ranges then done c 0x61 d
  else memRemoveDo c p first frames d

def memFarRemoveDo (c : Src) (p grant : Nat) (d : Dev) : Dev :=
  if d.pstate p = 0 ∨ d.pstate p = 4 then done c 0xA3 d
  else if 15 < grant ∨ (tabFind (d.part p).grants grant).isNone then done c 0x61 d
  else memRemoveDo c p (grant + 1) 0 d

/-- The write-generation slot of p is empty (R226). -/
def Dev.noKey (d : Dev) (p : Nat) : Bool := ((if d.wgen p then (d.part p).slot1 else (d.part p).slot0)).isNone

/-- Every data unit of a page written as encrypted zeros (R226), which its regulator counts (R296). -/
def zeroPage (p vpn : Nat) (d : Dev) : Dev :=
  match d.pte p vpn with
  | none => d
  | some e => (List.range (pageSize / 64)).foldl (fun d i =>
      putUnit (d.physOf p e (64 * i)) (zeros 64)
        { key := some (d.pkey p (d.wgen p)), tweak := vpn * (pageSize / 64) + i, ue := false } d) (pageCharge p e pageSize d)

/-- MEM_MAP (R226): MEM_BAD, MEM_OVERLAP, NO_SPACE, NO_KEY; else every page at once. -/
def memMapDo (c : Src) (p a pages hint die zr : Nat) (d : Dev) : Dev :=
  let l := vPages a pages
  let new := newTables (d.part p) l
  if ¬ vRange a pages 1048576 ∨ 3 < hint ∨ 3 < die ∨ 1 < zr then done c 0x61 d
  else if l.any (fun v => (d.pte p v).isSome) then done c 0x62 d
  else match (d.pool p).takeTables (tableCount (d.part p) new.length) with
    | none => done c 0x63 d
    | some (tf, q) =>
      match q.placeAll ((List.range pages).map (fun i => (hint, die, i))) with
      | none => done c 0x63 d
      | some places =>
        if d.noKey p then done c 0x65 d
        else
          let w := d.wgen p
          let d := d.modPart p (fun x =>
            { addTables tf new x with
              pt := (l.zip places).foldl (fun t y => tabPut t y.1
                { far := y.2.1, gen := w, mig := false, hint := hint, die := die,
                  frame := if y.2.1 then 0 else y.2.2.1, grant := if y.2.1 then y.2.2.1 else 0, gpage := y.2.2.2 }) x.pt })
          let d := if zr = 1 then l.foldl (fun d v => zeroPage p v d) d else d
          done c 0 (l.foldl (fun d v => markPage p v d) d)

/-- The a-cycle at which a source may return to the pool: 10 µs for HBM, 2 ms for a far page (R229, the bounds). -/
def Dev.retireAt (d : Dev) (e : Pte) : Nat × Nat × Nat × Nat :=
  if e.far then (1, e.grant, e.gpage, d.acyc + 6000000) else (0, e.frame, 0, d.acyc + 30000)

/-- Tier-2 byte ranges of a move of p on core g: its source, the compressed stream of a DECOMP move, and its destination. -/
def Dev.mvTier2 (d : Dev) (p g : Nat) (m : Move) : List (Nat × Nat) × List (Nat × Nat) :=
  let far := fun (l : List (Nat × Nat × Nat)) => (l.filter (fun r => r.1 = 2)).map (·.2)
  let e := (sdDesc m.sds).ebase
  (if (mvOp m.w).decomp then [(e, max 64 (at_ (d.vRead p e 64) 0x14 4))] else far (mvSource g m.w m.sds), far (mvDest g m.w m.sdd))

/-- A started move keeps the old entry of a page that is unmapped for the accesses it has issued: those below an offset the spec leaves
open, a free value (R229, log 152). -/
def pinMove (p g : Nat) (pages : List Nat) (m : Move) (d : Dev) : Move × Dev :=
  if m.started.isNone ∨ m.wrote then (m, d)
  else
    let r := d.mvTier2 p g m
    ((r.1 ++ r.2).flatMap (fun x => pagesOf x.1 x.2)).eraseDups.foldl (fun (x : Move × Dev) v =>
      match pages.contains v, d.pte p v with
      | true, some e =>
        let read := takeFree 22 x.2
        ({ x.1 with pins := (v, e, read.1.toNat % (pageSize + 1)) :: x.1.pins }, read.2)
      | _, _ => x) (m, d)

/-- Every move of p keeps what it has issued to pages that are unmapped. -/
def pinMoves (p : Nat) (pages : List Nat) (d : Dev) : Dev :=
  ((tabKeys d.cores).filter (fun g => d.workOf g = p)).foldl (fun d g =>
    let r := (d.core g).moves.foldl (fun (x : List Move × Dev) m => let y := pinMove p g pages m x.2; (x.1 ++ [y.1], y.2)) ([], d)
    if r.1 = (d.core g).moves then d else r.2.modCore g (fun c => { c with moves := r.1 })) d

/-- A move in flight still has accesses to a frame under an old entry. -/
def Dev.pinned (d : Dev) (f : Nat) : Bool := d.cores.any (fun c => c.2.moves.any (fun m => m.pins.any (fun x => (! x.2.1.far) && x.2.1.frame = f)))

/-- MEM_UNMAP (R229). -/
def memUnmapDo (c : Src) (p a pages : Nat) (d : Dev) : Dev :=
  let l := vPages a pages
  if ¬ vRange a pages 1048576 then done c 0x61 d
  else if l.any (fun v => (d.pte p v).isNone) then done c 0x64 d
  else
    let gone := l.filterMap (fun v => (d.pte p v).map d.retireAt)
    let d := (pinMoves p l d).modPart p (fun x => { x with pt := l.foldl tabDel x.pt, retiring := x.retiring ++ gone })
    done c 0 (tlbDrop p (fun v => l.contains v) d)

/-- The page satisfies the hint and die where it lies: it was placed for them, or its place is one they allow (R227). -/
def hintMet (e : Pte) (hint die : Nat) : Bool :=
  let nearly : Bool := (e.hint = 0 ∨ e.hint = 3) ∧ (hint = 0 ∨ hint = 3)
  if hint = 2 then e.far
  else (! e.far) && (decide (hint = 1) || (nearly && decide (e.die = die)) || decide (e.frame / dieFrames = die))

/-- The mapped page no longer satisfies a hint and die. -/
def Dev.hintUnmet (d : Dev) (p hint die v : Nat) : Bool := (d.pte p v).any (fun e => ! hintMet e hint die)

/-- A mapped page takes a hint and die. -/
def setHint (p hint die : Nat) (d : Dev) (v : Nat) : Dev :=
  match d.pte p v with
  | some e => setPte p v { e with hint := hint, die := die } d
  | none => d

/-- MEM_HINT (R227): the hints change, and pages that no longer satisfy theirs are queued, if the pool can take them all. -/
def memHintDo (c : Src) (p a pages hint die rate : Nat) (d : Dev) : Dev :=
  let l := vPages a pages
  if ¬ vRange a pages 1048576 ∨ 3 < hint ∨ 3 < die then done c 0x61 d
  else if l.any (fun v => (d.pte p v).isNone) then done c 0x64 d
  else
    let moved := l.zipIdx.filter (fun v => d.hintUnmet p hint die v.1)
    match (d.pool p).placeAll (moved.map (fun v => (hint, die, v.2))) with
    | none => done c 0x63 d
    | some _ =>
      let d := l.foldl (setHint p hint die) d
      let d := l.foldl (fun d v => markPage p v d) d
      if moved = [] then done c 0 d else queueMigs p c rate moved d

/-- One memory command runs. -/
def memRun (i : Instr) (d : Dev) : Dev :=
  match i with
  | .memRangeAdd c p first frames => memRangeAddDo c p first frames d
  | .memRangeRemove c p first frames => memRangeRemoveDo c p first frames d
  | .memFarAdd c p g k b n t => memFarAddDo c p g k b n t d
  | .memFarRemove c p g => memFarRemoveDo c p g d
  | .memMap c a n h die z => memMapDo c (d.cpart c) a n h die z d
  | .memUnmap c a n => memUnmapDo c (d.cpart c) a n d
  | .memHint c a n h die r => memHintDo c (d.cpart c) a n h die r d
  | _ => d

/-- Waiting memory commands of p run while none is in progress. -/
def memPump (p : Nat) : Nat → Dev → Dev
  | 0, d => d
  | n + 1, d =>
    match (d.part p).memBusy, (d.part p).memWait with
    | none, i :: r => memPump p n (memRun i (d.modPart p (fun x => { x with memWait := r })))
    | _, _ => d

/-- A memory command of p is accepted: it runs at once where none is in progress, else after those before it (R220). -/
def memSubmit (p : Nat) (i : Instr) (d : Dev) : Dev :=
  if (d.part p).memBusy.isNone then memRun i d else d.modPart p (fun x => { x with memWait := x.memWait ++ [i] })

/-- The memory command in progress has ended; the next ones run. -/
def memNext (p : Nat) (d : Dev) : Dev := memPump p (d.part p).memWait.length d

/-- An operator's memory command: a partition number above 31 is a field out of range, MEM_BAD (R448). -/
def opSubmit (c : Src) (p : Nat) (i : Instr) (d : Dev) : Dev := if p < 32 then memSubmit p i d else done c 0x61 d

def execMemRangeAdd (c : Src) (p first frames : Nat) (s : State) : Res :=
  upd s (opSubmit c p (.memRangeAdd c p first frames))

def execMemRangeRemove (c : Src) (p first frames : Nat) (s : State) : Res :=
  upd s (opSubmit c p (.memRangeRemove c p first frames))

def execMemFarAdd (c : Src) (p grant kind base pages tgt : Nat) (s : State) : Res :=
  upd s (opSubmit c p (.memFarAdd c p grant kind base pages tgt))

def execMemFarRemove (c : Src) (p grant : Nat) (s : State) : Res :=
  upd s (opSubmit c p (.memFarRemove c p grant))

def execMemMap (c : Src) (a pages hint die zr : Nat) (s : State) : Res :=
  upd s (fun d => memSubmit (d.cpart c) (.memMap c a pages hint die zr) d)

def execMemUnmap (c : Src) (a pages : Nat) (s : State) : Res :=
  upd s (fun d => memSubmit (d.cpart c) (.memUnmap c a pages) d)

def execMemHint (c : Src) (a pages hint die rate : Nat) (s : State) : Res :=
  upd s (fun d => memSubmit (d.cpart c) (.memHint c a pages hint die rate) d)

/-- The 8-byte result of MEM_QUERY: V, FAR, GEN, MIG, HINT and DIE in the positions of *Page table entry*. -/
def queryWord (e : Option Pte) : Bytes := leBytes 8 (e.elim 0 pteFlags)

/-- MEM_QUERY runs at once (R220). -/
def memQuery (c : Src) (a pages result : Nat) (d : Dev) : Dev :=
  if ¬ vRange a pages 64 then done c 0x61 d
  else done c 0 (hostWrite result ((vPages a pages).flatMap (fun v => queryWord (d.pte (d.cpart c) v))) d)

def execMemQuery (c : Src) (a pages result : Nat) (s : State) : Res := upd s (memQuery c a pages result)

/-! ### Migration (R228, R229) -/

/-- The 100 µs interval of network time. -/
def Dev.interval (d : Dev) : Nat := d.nt.toNat / 800000

/-- The head migration may start: no other partition is on probation (R392), the page's regulator has tokens (R297), and RATE leaves room in
this interval (R227). -/
def Dev.migReady (d : Dev) (m : Mig) : Bool :=
  d.mayIssue 10 m.p && ! (d.pte m.p m.vpn).any (d.pageWaits m.p) && decide (m.rate = 0 ∨ (d.part m.p).migUsed.2 ≠ d.interval ∨ (d.part m.p).migUsed.1 < m.rate)

/-- A migration of the command has ended: a MEM_HINT completes with its last one, a removal once its sources have drained. -/
def migEnded (m : Mig) (d : Dev) : Dev :=
  match m.cmd with
  | none => d
  | some c =>
    if d.mem.mig.any (fun x => x.cmd = some c) then d
    else if (d.part m.p).memGone ≠ none then
      if d.memGoing m.p then d else memNext m.p (memRemoved m.p d)
    else memNext m.p (done c 0 (d.modPart m.p (fun x => { x with memBusy := none })))

/-- The migrations with the one at the head that runs or comes next: those of a partition that is being frozen, or is, wait (R317). -/
def Dev.migOrder (d : Dev) : List Mig :=
  match d.mem.mig with
  | [] => []
  | m :: rest =>
    if m.target ≠ none then m :: rest
    else match (m :: rest).find? (fun x => decide (d.pstate x.p ≠ 2 ∧ d.pstate x.p ≠ 3)) with
      | some x => x :: (m :: rest).erase x
      | none => []

/-- MIGRATION_START (R228): the engine moves one page at a time; the target is chosen by the hint and MIG is set. -/
def migStart (d : Dev) : Dev :=
  match d.migOrder with
  | [] => d
  | m :: rest =>
    if m.target ≠ none ∨ ¬ d.migReady m then d
    else match d.pte m.p m.vpn with
      | none => migEnded m (d.modMem (fun x => { x with mig := rest }))
      | some e =>
        let far : Bool := (d.part m.p).memGone.any (fun g => g.2 = 0)
        match (d.pool m.p).place (if far then 2 else e.hint) e.die m.i with
        | none => migEnded m (d.modMem (fun x => { x with mig := rest }))
        | some (t, _) =>
          let e := { e with mig := true }
          let target : Pte := { e with mig := false, far := t.1, frame := if t.1 then 0 else t.2.1,
                                       grant := if t.1 then t.2.1 else 0, gpage := t.2.2 }
          let used := if (d.part m.p).migUsed.2 = d.interval then (d.part m.p).migUsed.1 + 1 else 1
          (setPte m.p m.vpn e d).modPart m.p (fun x => { x with migUsed := (used, d.interval) })
            |>.modMem (fun x => { x with mig := { m with target := some target, started := d.acyc } :: rest })

def execMigrationStart (s : State) : Res := upd s migStart

/-- The time of a copy in a-cycles: 20 µs between HBM frames, 2 MiB at 256 GB/s to host memory, at 100 GB/s to a peer (R228,
the bounds). -/
def Dev.copyTime (d : Dev) (p : Nat) (a b : Pte) : Nat :=
  let t := fun (e : Pte) => match d.physOf p e 0 with
    | .hbm _ => 60000
    | .host _ => 24576
    | .peer _ => 62915
  max (t a) (t b)

/-- The 2 MiB of ciphertext of a page copied as it stands (R228), counted where it is read and where it is written (R296). -/
def copyPage (p : Nat) (a b : Pte) (d : Dev) : Dev :=
  (List.range (pageSize / 64)).foldl (fun d i =>
    let x := d.physOf p a (64 * i)
    putUnit (d.physOf p b (64 * i)) (d.rawUnit x) (d.tagAt x) d) (pageCharge p b pageSize (pageCharge p a pageSize d))

/-- MIGRATION_SWITCH (R228): the ciphertext stands at the target, the entry switches, MIG clears, caches drop the page, the held writes are
done at the target, the source retires (R229). -/
def migSwitch (d : Dev) : Dev :=
  match d.mem.mig with
  | [] => d
  | m :: rest =>
    match m.target, d.pte m.p m.vpn with
    | some t, some e =>
      if d.acyc < m.started + d.copyTime m.p e t then d
      else
        let t := { t with gen := e.gen, hint := e.hint, die := e.die, recvOnly := e.recvOnly }
        let d := setPte m.p m.vpn t (copyPage m.p e t d)
        let d := releaseHeld m.p m.vpn (tlbDrop m.p (· = m.vpn) d)
        let d := d.modPart m.p (fun x => { x with retiring := x.retiring ++ [d.retireAt e] })
        migEnded m (edgeProg 10 (pageSize / 64) (d.modMem (fun x => { x with mig := rest })))
    | some _, none => migEnded m (d.modMem (fun x => { x with mig := rest }))
    | none, _ => d

/-- FRAME_RELEASE (R229): sources of p whose accesses have retired return to the pool. -/
def frameRelease (p : Nat) (d : Dev) : Dev :=
  let d := d.modPart p (fun x => { x with retiring := x.retiring.filter (fun r => d.acyc < r.2.2.2 ∨ (r.1 = 0 ∧ d.pinned r.2.1)) })
  if (d.part p).memGone ≠ none ∧ ¬ d.memGoing p then memNext p (memRemoved p d) else d

def execFrameRelease (p : Nat) (s : State) : Res := there (p < 32) s (upd s (frameRelease p))

/-! ### The re-encryption walker (R370 to R372) -/

/-- The next page the walker visits: the lowest mapped page of the old generation that is neither being migrated nor receive-only
(R370); none also while its regulator has no tokens (R297). -/
def Dev.walkNext (d : Dev) (p : Nat) : Option (Nat × Pte) :=
  ((d.part p).pt.find? (fun e => e.2.gen ≠ d.wgen p ∧ ¬ e.2.mig ∧ ¬ e.2.recvOnly)).filter (fun e => ! d.pageWaits p e.2)

/-- The rotation ends once no page carries the old generation: the old slot is emptied and KEY_ROTATE completes with the number
of pages rewritten (R372). -/
def rotateEnd (p : Nat) (d : Dev) : Dev :=
  match (d.part p).rot with
  | none => d
  | some r =>
    if (d.part p).pt.any (fun e => e.2.gen ≠ d.wgen p) then d
    else
      let w := d.wgen p
      let d := d.modPart p (fun x => if w then { x with slot0 := none, rot := none } else { x with slot1 := none, rot := none })
      let d := (d.setF F.lgKeysRotating p 0).setF (if w then F.lgKeysSlot0 else F.lgKeysSlot1) p 0
      complete r.cmd 0 (BitVec.ofNat 64 r.pages) 0 d

/-- WALKER_PAGE_REWRITE (R370): within RATE pages per 100 µs (0: no cap) the walker rewrites its next page. -/
def walkerRewrite (p : Nat) (d : Dev) : Dev :=
  match (d.part p).rot with
  | none => d
  | some r =>
    let r := if r.interval = d.interval then r else { r with used := 0, interval := d.interval }
    if r.rate ≠ 0 ∧ r.rate ≤ r.used then d
    else
      let d := d.modPart p (fun x => { x with rot := some r })
      match d.walkNext p with
      | some (v, e) => rotateEnd p (rewritePage p v e d)
      | none => rotateEnd p d

def execWalkerPageRewrite (p : Nat) (s : State) : Res := there (p < 32) s (upd s (walkerRewrite p))

/-! ### Patrol and refresh (R214, R216, R217) -/

/-- 64-byte units of a die. -/
def dieUnits : Nat := dieFrames * (pageSize / 64)

/-- The a-cycle from which the patrol of a die may read its next unit: a pass lasts MEM_PATROL.PERIOD hours (R216). -/
def Dev.patrolDue (d : Dev) (die : Nat) : Nat :=
  tabGet 0 d.mem.patrolAt die + tabGet 0 d.mem.patrol die * (d.eff F.memPatrolPeriod 1 168 die * 3600 * (1000000000 * nsA)) / dieUnits

/-- PATROL_READ (R216): the scrubber of a die reads its next unit, in the pace of its period. A correctable error is written back corrected
and counted; an uncorrectable one is logged and left. The last unit of a die completes a pass. `found` is what the stored word turns out
to be. -/
def patrolRead (unit : Nat) (found : MemFinding) (d : Dev) : Dev :=
  let die := unit / dieUnits
  let pos := unit % dieUnits
  if ¬ d.flag F.memPatrolEnable die ∨ pos ≠ tabGet 0 d.mem.patrol die ∨ d.acyc < d.patrolDue die then d
  else
    let d := match found with
      | .clean => d
      | .corrected => strikeUnit unit false d
      | .uncorrectable => strikeUnit unit true d
    let d := unitNote true (.hbm (unit * 64)) d
    let d := d.modMem (fun m =>
      { m with tags := tabMod {} m.tags unit (fun t => { t with ce := false })
               patrol := tabSet 0 m.patrol die ((pos + 1) % dieUnits)
               patrolAt := if pos + 1 = dieUnits then tabSet 0 m.patrolAt die d.acyc else m.patrolAt })
    if pos + 1 = dieUnits then d.addSat F.memPatrolPasses die 1 else d

def execPatrolRead (unit : Nat) (found : MemFinding) (s : State) : Res :=
  there (unit < 4 * dieUnits) s (upd s (patrolRead unit found))

/-- BANK_REFRESH (R217): the controller refreshes a bank. -/
def bankRefresh (die stack pc bank : Nat) (d : Dev) : Dev :=
  d.modMem (fun m => { m with refresh := tabSet (0, 0) m.refresh ((die * 8 + stack) * 64 + pc) (bank, d.acyc) })

def execBankRefresh (die stack pc bank : Nat) (s : State) : Res :=
  there (die < 4 && stack < 8 && pc < 64) s (upd s (bankRefresh die stack pc bank))

/-! ### Ends of a partition's memory (R221, R290, R374, R375) -/

/-- A frame of a save area holds, once the area is given up, what was saved there under the table key (R293, R375). -/
def leaveSave (key : Option (BitVec 512)) (f : Nat) (d : Dev) : Dev :=
  d.modMem (fun m => { m with tags := (List.range (pageSize / 64)).foldl (fun t i =>
    tabSet {} t (f * (pageSize / 64) + i) { key := key, tweak := 2 ^ 60 + f * (pageSize / 64) + i }) m.tags })

/-- Every mapping, range, grant, save frame and table of p returns; keys are destroyed (steps 4 and 5 of R290). -/
def freeMemory (p : Nat) (d : Dev) : Dev :=
  let x := d.part p
  let d := x.tableFrames.foldl (fun d f => leaveTable p f d) d
  let d := (List.range 4).foldl (fun d k =>
    (List.range (tabGet 0 x.saveCount k)).foldl (fun d i => leaveSave x.tableKey (tabGet 0 x.saveFirst k + i) d) d) d
  let d := d.modMem (fun m => { m with owner := m.owner.filter (fun e => e.2 ≠ p + 1), mig := m.mig.filter (fun x => x.p ≠ p)
                                       held := m.held.filter (fun h => h.p ≠ p) })
  let d := tlbDrop p (fun _ => true) d
  let d := d.modPart p (fun x =>
    { x with ranges := [], grants := [], pt := [], tableFrames := [], tables := [], retiring := [], saveFirst := [],
             saveCount := [], slot0 := none, slot1 := none, tableKey := none, fabricKey := none, migKey := none,
             tenantKey := none, rot := none, memBusy := none, memWait := [], memGone := none })
  d.wr .ptMemUse p 0

end Sys2Proof.Machine
end

