-- ==== Sys2Proof/Machine/Egress.lean ====
section
/-! DEFINITION. Egress ports: queues (R246), gate lists (R248 to R251), guards, credit-based shapers (R252), fair queueing
(R253), the choice of the next frame (R247), histograms (R254), and the build of Teril flits (R256). -/

namespace Sys2Proof.Machine

open Sys2Proof

/-- Egress ports (R235): 16 fronthaul ports, then 16 Teril links. -/
def portCount : Nat := 32

/-- The accounting rate of a port in Mb/s; 0 while it is down (R249). -/
def Dev.mbps (d : Dev) (e : Nat) : Nat := d.getF F.tbPortCfgPortMbps e

/-- A port is a Teril link. -/
def isTeril (e : Nat) : Bool := 16 ≤ e

/-! ### Gate lists (R248) -/

/-- Whole nanoseconds since the last cycle start of a list. -/
def GateList.ofs (l : GateList) (t : BitVec 64) : Nat :=
  if l.cycle = 0 then 0 else ((((t - l.base).toInt) / 8) % (l.cycle : Int)).toNat

/-- The entries from the one in force at offset o onward, in cyclic order, and how far into it o lies. -/
def entriesFrom : List GateEnt → List GateEnt → Nat → List GateEnt × Nat
  | [], before, _ => (before, 0)
  | x :: xs, before, o => if o < x.dur then (x :: xs ++ before, o) else entriesFrom xs (before ++ [x]) (o - x.dur)

/-- The entry in force. -/
def GateList.entry (l : GateList) (t : BitVec 64) : Option GateEnt := (entriesFrom l.ents [] (l.ofs t)).1.head?

/-- Sum of the durations at the head of a list whose entries are open. -/
def openRun (op : GateEnt → Bool) : List GateEnt → Nat
  | [] => 0
  | x :: xs => if op x then x.dur + openRun op xs else 0

/-- Eighths of a ns until the gate closes; none: it is open in every entry. 0: it is closed. -/
def GateList.closeIn (l : GateList) (op : GateEnt → Bool) (t : BitVec 64) : Option Nat :=
  if l.ents.all op then none
  else
    let (es, o) := entriesFrom l.ents [] (l.ofs t)
    let run := openRun op es
    if run = 0 then some 0 else some ((run - o) * 8 - (t - l.base).toNat % 8)

/-- The longest open interval in ns, taken cyclically; none: always open (R249). -/
def GateList.longest (l : GateList) (op : GateEnt → Bool) : Option Nat :=
  if l.ents.all op then none
  else some (((List.range l.ents.length).map (fun i => openRun op (l.ents.drop i ++ l.ents.take i))).foldl max 0)

/-- The first cycle start of a list at or after a time. -/
def GateList.nextStart (l : GateList) (t : BitVec 64) : BitVec 64 :=
  if l.cycle = 0 then t
  else
    let r := ((t - l.base).toInt % ((l.cycle * 8 : Nat) : Int)).toNat
    if r = 0 then t else later t (l.cycle * 8 - r)

/-- An entry is open for queue q of port e: its gate, or on queue 0 of a Teril link a window of the frame's class that its owner
map gives the frame's partition (R247, R250). -/
def GateList.isOpen (l : GateList) (e q : Nat) (f : Frame) (x : GateEnt) : Bool :=
  if isTeril e ∧ q = 0 then
    match f.wclass with
    | some (c, p) => x.wvalid && decide (x.wclass = c) && decide (tabGet 0 l.owner c = p + 1)
    | none => false
  else x.gates.getLsbD q

/-- Eighths of a ns until the gate of queue q closes for a frame, under the active list and, from T_sw, the pending one (R249, R251); none:
it does not close. -/
def Port.closeIn (p : Port) (e q : Nat) (f : Frame) (t : BitVec 64) : Option Nat :=
  let now := p.active.closeIn (p.active.isOpen e q f) t
  match p.pend with
  | none => now
  | some (l, sw, _) =>
    let wait := (sw - t).toInt.toNat
    if now.any (fun c => decide (c ≤ wait)) then now
    else (l.closeIn (l.isOpen e q f) sw).map (wait + ·)

/-- Bytes that the medium of a port adds to a frame: 20 on Ethernet, none on a Teril link (log 156). -/
def mediumOvh (e : Nat) : Nat := if isTeril e then 0 else 20

/-- Duration of a frame by the port's accounting, in eighths of a ns (R249). -/
def Dev.frameTime (d : Dev) (e : Nat) (f : Frame) : Nat := ceilDiv ((f.len + (d.port e).active.ovh) * 64000) (d.mbps e)

/-! ### Queues and fair queueing (R246, R253) -/

/-- Time for which a frame holds the transmitter: its accounted time, or longer where OVH understates the medium (R249). -/
def Dev.leaveTime (d : Dev) (e : Nat) (f : Frame) : Nat :=
  ceilDiv ((f.len + max (d.port e).active.ovh (mediumOvh e)) * 64000) (d.mbps e)

/-- Frames of a queue. -/
def Port.q (p : Port) (i : Nat) : List Frame := tabGet [] p.queues i

/-- Signed comparison of 48-bit tags. -/
def tagLt (a b : Nat) : Bool := decide (0 < (b + 2 ^ 48 - a) % 2 ^ 48 ∧ (b + 2 ^ 48 - a) % 2 ^ 48 < 2 ^ 47)

/-- The later of two tags. -/
def tagMax (a b : Nat) : Nat := if tagLt a b then b else a

/-- A frame becomes the head of an SFQ queue: its tags (R253). -/
def sfqHead (i : Nat) (woken : Bool) (f : Frame) (p : Port) : Port :=
  if tabGet 0 p.active.mode i ≠ 2 then p
  else
    let s := if woken then tagMax p.v (tabGet 0 p.f i) else tabGet 0 p.f i
    let w := max 1 (tabGet 0 p.active.weight i)
    { p with s := tabSet 0 p.s i s, f := tabSet 0 p.f i ((s + (f.len + p.active.ovh) * 65536 / w) % 2 ^ 48) }

/-- A frame joins queue i of port e (R246). -/
def enqueue (e i : Nat) (f : Frame) (d : Dev) : Dev :=
  let f := { f with at_ := d.nt, queue := i }
  d.modPort e (fun p =>
    let p := if p.q i = [] then sfqHead i true f p else p
    { p with queues := tabSet [] p.queues i (p.q i ++ [f]) })

/-- SFQ members of a port. -/
def Port.sfq (p : Port) : List Nat := (List.range 8).filter (fun i => tabGet 0 p.active.mode i = 2)

/-- The head frame of queue i leaves the queue; the next head gets its tags; with no member backlogged v moves to the largest f. -/
def popHead (i : Nat) (p : Port) : Port :=
  let rest := (p.q i).tail
  let p := { p with queues := tabSet [] p.queues i rest }
  let p := match rest with
    | f :: _ => sfqHead i false f p
    | [] => p
  if tabGet 0 p.active.mode i = 2 ∧ p.sfq.all (fun j => p.q j = []) then
    { p with v := (p.sfq.map (fun j => tabGet 0 p.f j)).foldl tagMax p.v }
  else p

/-! ### Link credits (R262) -/

/-- Receive buffers a link grants per queue, in flits. -/
def queueCredit (q : Nat) : Nat :=
  if q = 0 then 256 else if q = 1 then 32 else if q = 2 then 64 else if q ≤ 5 then 128 else 0

/-- A frame longer than the longest open interval of its queue is discarded at the head (R249). -/
def Dev.tooLong (d : Dev) (e i : Nat) (f : Frame) : Bool :=
  match (d.port e).active.longest ((d.port e).active.isOpen e i f) with
  | none => false
  | some ns => decide (0 < ns ∧ ns * 8 < d.frameTime e f)

/-- Data flits may leave link l: the device is a member and not fenced (R399, R400), and the link is not OUT (R415). -/
def Dev.dataOpen (d : Dev) (l : Nat) : Bool :=
  ! d.fenced && d.teril.members.isSome && decide (d.getF F.qsLinkState (16 + l) ≠ 5)

/-- A flit other than a CTRL flit carries data (R399). -/
def Frame.isData (f : Frame) : Bool := f.hdr.toNat % 16 ≠ 8

/-- The head frame of queue i may start now: gate, guard, credit (R247, R249, R252, R262). -/
def Dev.mayStart (d : Dev) (e i : Nat) (f : Frame) : Bool :=
  let p := d.port e
  let gate := match p.closeIn e i f d.nt with
    | none => true
    | some c => decide (d.frameTime e f ≤ c)
  gate && decide (d.mbps e ≠ 0) && (tabGet 0 p.active.mode i ≠ 1 || decide (0 ≤ tabGet 0 p.credit i)) &&
    (! isTeril e || (decide (tabGet 0 (d.link (e - 16)).used i < queueCredit i) && (! f.isData || d.dataOpen (e - 16))))

/-- The flit of queue 0 whose window is open: the first of its class, since sends of different classes do not wait for each
other (R144, R247). -/
def Dev.windowFlit (d : Dev) (e : Nat) : Option Nat :=
  (((d.port e).q 0).findIdx? (fun f => d.mayStart e 0 f))

/-- The next item of a free transmitter, as queue and position in it (R247). -/
def Dev.nextItem (d : Dev) (e : Nat) : Option (Nat × Nat) :=
  let p := d.port e
  let head := fun i => match p.q i with
    | f :: _ => d.mayStart e i f
    | [] => false
  let win := if isTeril e then (d.windowFlit e).map (fun j => (0, j)) else none
  match win with
  | some x => some x
  | none =>
    let strict := (List.range 8).find? (fun i => (! (isTeril e && i = 0)) && tabGet 0 p.active.mode i ≠ 2 && head i)
    match strict with
    | some i => some (i, 0)
    | none =>
      (p.sfq.filter (fun i => head i)).foldl (fun b i => match b with
        | none => some (i, 0)
        | some (j, _) => if tagLt (tabGet 0 p.s i) (tabGet 0 p.s j) then some (i, 0) else b) none

/-- A frame starts: it leaves its queue, takes the transmitter for its time, and sets its queue's charge and tag. -/
def startFrame (e i j : Nat) (f : Frame) (d : Dev) : Dev :=
  let fin := later d.nt (d.leaveTime e f)
  d.modPort e (fun p =>
    let p := if tabGet 0 p.active.mode i = 2 then { p with v := tabGet 0 p.s i } else p
    let p := if j = 0 then popHead i p else { p with queues := tabSet [] p.queues i ((p.q i).eraseIdx j) }
    { p with sending := some (i, fin), overran := false,
             charge := if tabGet 0 p.active.mode i = 1 then tabSet 0 p.charge i ((f.len + p.active.ovh : Nat) * 8000) else p.charge })

/-- The transmitter of a port is free. -/
def Dev.txFree (d : Dev) (e : Nat) : Bool :=
  match (d.port e).sending with
  | none => true
  | some (_, t) => reached d t

/-- Head frames that can never pass their gates are discarded, with GUARD_DROP (R249). -/
def guardDrop (e : Nat) (d : Dev) : Dev :=
  (List.range 8).foldl (fun d i =>
    match (d.port e).q i with
    | f :: _ => if d.mbps e ≠ 0 ∧ d.tooLong e i f then (d.modPort e (popHead i)).raise F.tbPortStatusGuardDrop e else d
    | [] => d) d

/-! ### Credit-based shapers, one T-cycle (R252) -/

/-- The gate of queue i of port e is open at a time; that of queue 0 of a Teril link is a window (R250). -/
def Port.gateOpen (p : Port) (e i : Nat) (t : BitVec 64) : Bool :=
  match p.active.entry t with
  | some x => if isTeril e ∧ i = 0 then x.wvalid else x.gates.getLsbD i
  | none => false

/-- The T-cycle of a CBS queue that begins at network time t and has just ended. -/
def cbsQueue (e mbps : Nat) (t : BitVec 64) (i : Nat) (p : Port) : Port :=
  let opn := p.gateOpen e i t
  if tabGet 0 p.active.mode i ≠ 1 ∨ ¬ opn then p
  else
    let idle : Int := (tabGet 0 p.active.idle i : Nat)
    let c := tabGet 0 p.credit i
    let ch := tabGet 0 p.charge i
    let sat := clampI (-(2 ^ 40)) (2 ^ 40)
    let sends : Bool := match p.sending with
      | some (j, fin) => decide (j = i) && ntLt t fin
      | none => false
    if sends then
      let dd := min (mbps : Int) ch
      { p with charge := tabSet 0 p.charge i (ch - dd), credit := tabSet 0 p.credit i (sat (c + idle - dd)) }
    else if p.q i ≠ [] then { p with credit := tabSet 0 p.credit i (sat (c + idle)) }
    else if c < 0 then { p with credit := tabSet 0 p.credit i (min 0 (c + idle)) }
    else { p with credit := tabSet 0 p.credit i 0 }

/-- One T-cycle of every CBS queue. -/
def cbsTick (d : Dev) : Dev :=
  (tabKeys d.ports).foldl (fun d e =>
    if (d.port e).active.mode.any (fun m => m.2 = 1) then
      d.modPort e (fun p => (List.range 8).foldl (fun p i => cbsQueue e (d.mbps e) (d.nt - 8) i p) p)
    else d) d

/-! ### GATE_SET (R251) -/

/-- The list a descriptor describes. -/
def gateDesc (b : Bytes) : GateList :=
  let n := fld b 0x04 8 0
  { ovh := fld b 0x04 23 16, base := BitVec.ofNat 64 (at_ b 0x10 8), cycle := at_ b 0x18 4
    mode := (List.range 8).foldl (fun t q => tabSet 0 t q (fld b (0x40 + 8 * q) 1 0)) []
    weight := (List.range 8).foldl (fun t q => tabSet 0 t q (fld b (0x40 + 8 * q) 15 8)) []
    idle := (List.range 8).foldl (fun t q => tabSet 0 t q (fld b (0x40 + 8 * q) 35 16)) []
    owner := (List.range 256).foldl (fun t c =>
      tabSet 0 t c (if bit b (0x80 + c) 5 then fld b (0x80 + c) 4 0 + 1 else 0)) []
    ents := (List.range n).map (fun i =>
      { dur := fld b (0x180 + 8 * i) 31 0, gates := BitVec.ofNat 8 (fld b (0x180 + 8 * i) 39 32)
        wclass := fld b (0x180 + 8 * i) 47 40, wvalid := bit b (0x180 + 8 * i) 48 }) }

/-- The checks of GCL_BAD (R251); WEIGHT and IDLE have their ranges whatever the queue's mode. -/
def gateOk (d : Dev) (b : Bytes) : Bool :=
  let e := fld b 0 4 0
  let n := fld b 0x04 8 0
  let l := gateDesc b
  let used := if isTeril e then 6 else 3
  rsv b 0 31 5 && decide (1 ≤ n ∧ n ≤ 256) && rsv b 0x04 15 9 && rsv b 0x04 31 24 && decide (64 ≤ l.cycle) &&
    decide (l.cycle ≤ 1000000000) && (List.range 9).all (fun i => at_ b (0x1C + 4 * i) 4 = 0) &&
    (List.range 8).all (fun q =>
      let m := fld b (0x40 + 8 * q) 1 0
      rsv b (0x40 + 8 * q) 7 2 && rsv b (0x40 + 8 * q) 63 36 && decide (m < 3) && (decide (q < used) || decide (m = 0)) &&
        decide (1 ≤ fld b (0x40 + 8 * q) 15 8) && decide (1 ≤ fld b (0x40 + 8 * q) 35 16 ∧ fld b (0x40 + 8 * q) 35 16 ≤ d.mbps e)) &&
    decide (sumL ((List.range 8).map (fun q => if fld b (0x40 + 8 * q) 1 0 = 1 then fld b (0x40 + 8 * q) 35 16 else 0)) ≤ d.mbps e) &&
    (List.range 256).all (fun c => if isTeril e then rsv b (0x80 + c) 7 6 else rsv b (0x80 + c) 7 0) &&
    (List.range n).all (fun i => decide (16 ≤ fld b (0x180 + 8 * i) 31 0) && rsv b (0x180 + 8 * i) 63 49 &&
      (isTeril e || ! bit b (0x180 + 8 * i) 48)) &&
    decide (sumL (l.ents.map (·.dur)) = l.cycle)

/-- Bytes of the descriptor of n entries. -/
def gateLen (b : Bytes) : Nat := 0x180 + 8 * fld b 0x04 8 0

/-- The descriptor of a critical command: inline in its parameter block (R334). -/
def gateSet (c : Src) (b : Bytes) (d : Dev) : Dev :=
  let e := fld b 0 4 0
  let apply := BitVec.ofNat 64 (at_ b 0x08 8)
  if b.length ≠ gateLen b then done c 2 d
  else if ¬ gateOk d b then done c 0x72 d
  else if (apply - d.nt).toInt < 800000 then done c 0x73 d
  else
    let d := match (d.port e).pend with
      | some (_, _, old) => done old 0x74 d
      | none => d
    (d.modPort e (fun p => { p with pend := some (gateDesc b, p.active.nextStart apply, c) })).setF F.tbPortStatusPending e 1

def execGateSet (c : Src) (desc : List Byte) (s : State) : Res := upd s (gateSet c desc)

/-- A frame still leaving as its gate has closed: TB_PORT_STATUS.OVERRUN, once (R249). -/
def gateOverrun (e : Nat) (d : Dev) : Dev :=
  match (d.port e).sending with
  | none => d
  | some (i, fin) =>
    if reached d fin ∨ (d.port e).overran ∨ (d.port e).gateOpen e i d.nt then d
    else (d.modPort e (fun p => { p with overran := true })).raise F.tbPortStatusOverrun e

/-- GATE_LIST_SWITCH (R251): at T_sw the pending list takes over; credits of queues that stay CBS carry over, others become 0;
SFQ tags carry over; the GATE_SET completes. -/
def gateSwitch (e : Nat) (d : Dev) : Dev :=
  match (d.port e).pend with
  | none => d
  | some (l, t, c) =>
    if ¬ reached d t then d
    else
      let d := d.modPort e (fun p =>
        { p with active := l, pend := none
                 credit := p.credit.filter (fun x => tabGet 0 p.active.mode x.1 = 1 ∧ tabGet 0 l.mode x.1 = 1) })
      let d := (d.setF F.tbPortStatusPending e 0).setF F.tbPortStatusBank e (1 - d.getF F.tbPortStatusBank e)
      done c 0 d

def execGateListSwitch (e : Nat) (s : State) : Res := there (e < portCount) s (upd s (gateSwitch e))

/-! ### Histograms (R254) -/

/-- Depth bin of a number of waiting bytes. -/
def depthBin (n : Nat) : Nat :=
  if n = 0 then 0 else if n ≤ 255 then 1 else if 2097152 ≤ n then 15 else Nat.log2 n - 6

/-- Delay bin of a head delay in eighths of a ns; none: the queue is empty. -/
def delayBin : Option Nat → Nat
  | none => 0
  | some x => if x < 64 * 8 then 1 else if 524288 * 8 ≤ x then 15 else Nat.log2 (x / 8) - 4

/-- One queue of a port is sampled. -/
def sampleQueue (now : BitVec 64) (p : Port) (i : Nat) : Port :=
  let q := p.q i
  let dep := i * 32 + depthBin (sumL (q.map (·.len)))
  let dly := i * 32 + 16 + delayBin (q.head?.map (fun f => (now - f.at_).toNat))
  let inc := fun (h : Tab Nat) k => tabSet 0 h k (min (tabGet 0 h k + 1) 0xFFFFFFFF)
  { p with hist := inc (inc p.hist dep) dly }

/-- HISTOGRAM_SAMPLE (R254): in the T-cycle in which network time reaches a whole microsecond, once, unless frozen; a boundary skipped by a
step is not sampled. -/
def histSample (d : Dev) : Dev :=
  match d.beat 2 8000 0 with
  | none => d
  | some b =>
    if d.flag F.tbHistCtlFreeze ∨ 8 ≤ (d.nt - b).toNat then beatDone 2 b d
    else (List.range portCount).foldl (fun d e => d.modPort e (fun p => (List.range 8).foldl (sampleQueue d.nt) p)) (beatDone 2 b d)

def execHistogramSample (s : State) : Res := upd s histSample

/-- HIST_CLEAR: a write of TB_HIST_CTL with CLEAR zeroes every bin; FREEZE takes its written value (R254). -/
def histClear (v : BitVec 32) (d : Dev) : Dev :=
  let d := d.setF F.tbHistCtlFreeze 0 (bitsOf v.toNat 0 0)
  if v.getLsbD 1 then { d with ports := d.ports.filterMap (fun e =>
      let p := { e.2 with hist := [] }
      if p = {} then none else some (e.1, p)) } else d

def execHistClear (v : BitVec 32) (s : State) : Res := upd s (histClear v)

/-! ### Flits (R256, R257) -/

/-- A header as the value of its fields (offset, value). -/
def hdrOf (fs : List (Nat × Nat)) : BitVec 96 := BitVec.ofNat 96 (fs.foldl (fun a f => a + f.2 * 2 ^ f.1) 0)

/-- Bits [hi:lo] of a header. -/
def hf (h : BitVec 96) (hi lo : Nat) : Nat := (h.toNat >>> lo) % 2 ^ (hi + 1 - lo)

/-- The low 16 bits of a TAG field split over [31:28] and [43:32]. -/
def hdrTag (tag : Nat) : List (Nat × Nat) := [(28, tag % 16), (32, tag / 16 % 4096)]
def hTag (h : BitVec 96) : Nat := hf h 31 28 + hf h 43 32 * 16

/-- The subtype of a control flit. -/
def hSub (h : BitVec 96) : Nat := hf h 31 28 + hf h 35 32 * 16

/-- Links in service of a mask, in index order. -/
def Dev.upLinks (d : Dev) (mask : Nat) : List Nat :=
  (List.range 16).filter (fun l => mask.testBit l && d.flag F.tlLinkStatusUp l)

/-- Those of them that carry data: not OUT (R415). -/
def Dev.dataLinks (d : Dev) (mask : Nat) : List Nat := (d.upLinks mask).filter (fun l => d.getF F.qsLinkState (16 + l) ≠ 5)

/-- One bit of a CRC-16 with polynomial 0x1021. -/
def crcBit (c : Nat) (b : Bool) : Nat :=
  let t := if b = decide (32768 ≤ c) then 0 else 0x1021
  (c * 2 % 65536) ^^^ t

/-- CRC-16 of bytes, initial value 0xFFFF, the high bit of each byte first (R256, log 153). -/
def crc16 (b : Bytes) : Nat :=
  b.foldl (fun c x => (List.range 8).foldl (fun c i => crcBit c (x.toNat.testBit (7 - i))) c) 0xFFFF

/-- The CRC of a flit: over its header, its payload and the low 16 bits of its count (R256). -/
def flitCrc (f : Frame) (count : Nat) : Nat := crc16 (leBytes 12 f.hdr.toNat ++ f.bytes ++ leBytes 2 count)

/-- A flit for queue q of a link. -/
def flitFrame (hdr : BitVec 96) (payload : Bytes) : Frame :=
  { len := 256, at_ := 0, bytes := payload ++ zeros (256 - payload.length), hdr := hdr }

/-- A flit joins queue q of the first link in service of a mask (R272: any link toward the target); with none it is not sent. -/
def sendFlit (mask q : Nat) (hdr : BitVec 96) (payload : Bytes) (d : Dev) : Dev :=
  let f := flitFrame hdr payload
  match (if f.isData then d.dataLinks mask else d.upLinks mask) with
  | [] => d
  | l :: _ => enqueue (16 + l) q f d

/-- Links toward a fabric address: TL_DEST of a member of the own tray, else TL_GW (R264). -/
def Dev.linksTo (d : Dev) (dst : Nat) : Nat :=
  if dst / 8 = d.getF F.tlSelfFaddr / 8 then
    (if d.flag F.tlDestValid (dst % 8) then d.getF F.tlDestLinks (dst % 8) else 0)
  else d.getF F.tlGwLinks

/-- A control flit of a subtype to an address, with header bits above 36 given. -/
def sendCtrl (dst sub extra : Nat) (payload : Bytes) (d : Dev) : Dev :=
  sendFlit (d.linksTo dst) 1 (hdrOf ([(0, 8), (4, dst), (16, d.getF F.tlSelfFaddr), (28, sub % 16), (32, sub / 16), (36, extra)]))
    payload d

end Sys2Proof.Machine
end

