-- ==== Sys2Proof/Machine/Remote.lean ====
section
/-! DEFINITION. Memory-semantic operations at their initiator: the tiers of a stream unit (R112), requests and their TAGs
(R267), the link cipher (R263), sequence numbers (R270), resolution (R269, R272), bulk transfers of the gateway (R277). -/

namespace Sys2Proof.Machine

open Sys2Proof

/-! ### Tiers of a stream unit (R112) -/

/-- Bytes of a die's stream buffer. -/
def sbSize : Nat := 0x3000000

/-- p's share of a die's stream buffer in bytes: what PART_CREATE gave; p0 has the rest of the die (log 30). -/
def Dev.sbShare (d : Dev) (p die : Nat) : Nat :=
  if p ≠ 0 then tabGet 0 (d.part p).sb die * 1048576
  else sbSize - sumL ((List.range 32).map (fun q => if q = 0 then 0 else tabGet 0 (d.part q).sb die)) * 1048576

/-- Address of byte o of p's share on a die. -/
def sbAt (p die o : Nat) : Nat := (p * 4 + die) * sbSize + o

/-- A tier as an access of core g's stream unit of p meets it: the operation and the a-cycle it began in (R79, R109), the group, the
translation in force, and the units of peers that were answered with DATA_LOST, by virtual address / 64. -/
structure SuPort where
  g : Nat
  p : Nat
  who : Who
  since : Nat
  cores : List Nat
  look : Look
  lost : List Nat := []

/-- The unit of tier 2 at u reads as uncorrectable (R215, R272). -/
def SuPort.badUnit (x : SuPort) (d : Dev) (u : Nat) : Bool :=
  x.lost.contains (u / 64) || (x.look u).any (fun e => (d.unitVia x.p e u).2)

/-- n bytes of a tier, and what the read met: 0, 1 a corrected word, 2 an uncorrectable one (R112, R119). -/
def tierLoad (x : SuPort) (tier a n : Nat) (d : Dev) : (Bytes × Nat) × Dev :=
  match tier with
  | 0 => portRead x.who x.since [] x.p x.cores a n d
  | 1 => ((memRead d.mem.sb (sbAt x.p (dieOf x.g) a) n, 0), d)
  | _ =>
    let b := d.vReadBy x.look x.p a n
    if (unitsOf a n).any (x.badUnit d) then
      let read := freeUnits (x.badUnit d) a b d
      ((read.1, 2), read.2)
    else ((b, 0), d)

/-- Bytes written to a tier; a page without mapping takes none (R225). -/
def tierStore (x : SuPort) (tier a : Nat) (b : Bytes) (d : Dev) : Dev :=
  match tier with
  | 0 => portWrite x.who x.since x.p x.cores a b d
  | 1 => d.modMem (fun m => { m with sb := memWrite m.sb (sbAt x.p (dieOf x.g) a) b })
  | _ => vWriteBy x.look x.p a b d

/-- End of a tier: bytes of the group's logical scratchpad, of the share, of the virtual address space. -/
def Dev.tierEnd (d : Dev) (g p : Nat) (cores : List Nat) (tier : Nat) : Nat :=
  match tier with
  | 0 => cores.length * spadSize
  | 1 => d.sbShare p (dieOf g)
  | _ => 2 ^ 48

/-- The group a word of core g names, where it is formed in p. -/
def Dev.suGroup (d : Dev) (p g gsize : Nat) : Option (List Nat) :=
  match gsizeCores g gsize with
  | some cs => if cs.all (fun c => d.holdsCore p c) then some cs else none
  | none => none

/-! ### The fabric cipher (R263) -/

/-- Data in units of 64 bytes, each put through f with its number; a last part of a unit keeps its length. -/
def byUnits (f : Nat → Bytes → BitVec 512) (b : Bytes) : Bytes :=
  (List.range (ceilDiv b.length 64)).flatMap (fun i =>
    let u := (b.drop (64 * i)).take 64
    (leBytes 64 (f i u).toNat).take u.length)

/-- Data of a flit enciphered unit by unit under p's fabric key, the tweak the address of each unit / 64; without a fabric
key the data travels as it stands (log 31). -/
def linkSeal (d : Dev) (p a : Nat) (b : Bytes) : Bytes :=
  match (d.part p).fabricKey with
  | none => b
  | some k => byUnits (fun i u => Config.xts k (a / 64 + i) u) b

/-- The inverse at the receiver. -/
def linkOpen (d : Dev) (p a : Nat) (b : Bytes) : Bytes :=
  match (d.part p).fabricKey with
  | none => b
  | some k => byUnits (fun i u => Config.xtsInv k (a / 64 + i) u) b

/-! ### Requests (R267) -/

/-- ITIME of a network time: bits [28:13]. -/
def itimeOf (t : BitVec 64) : Nat := t.toNat / 8192 % 65536

/-- LIFETIME, RTO and GW_RTO in eighths of a ns (R272, R278, R446). -/
def Dev.lifetime (d : Dev) : Nat := d.eff F.tlRmCfgLifetime 1 100 * 800000
def Dev.rto (d : Dev) : Nat := d.eff F.tlRmCfgRto 1 100 * 80000
def Dev.gwRto (d : Dev) : Nat := d.eff F.tlRmCfgGwRto 1 20 * 4000000

/-- A TAG can be taken: no request holds it and its lifetime has passed. -/
def Dev.tagFree (d : Dev) (t : Nat) : Bool :=
  (tabFind d.teril.reqs t).isNone && reached d (tabGet 0 d.teril.tagBusy t)

/-- The first free TAG from `t` upward, within n. -/
def findTag (d : Dev) (t : Nat) : Nat → Option Nat
  | 0 => none
  | n + 1 => if d.tagFree (t % 65536) then some (t % 65536) else findTag d (t + 1) n

/-- n different free TAGs from `t` upward. -/
def findTags (d : Dev) (t : Nat) : Nat → Option (List Nat)
  | 0 => some []
  | n + 1 => match findTag d t 65536 with
    | none => none
    | some x => ((findTags d (x + 1) n).map (fun l => x :: l)).filter (fun l => ! l.tail.contains x)

/-- n free TAGs, with at most 32,768 requests outstanding (R267). -/
def Dev.newTags (d : Dev) (n : Nat) : Option (List Nat) :=
  if 32768 < d.teril.reqs.length + n then none else findTags d d.teril.nextTag n

/-- Stores outstanding to a target (R270). -/
def Dev.storesTo (d : Dev) (dst : Nat) : List Nat :=
  d.teril.reqs.filterMap (fun r => if r.2.dst = dst ∧ r.2.wseq ≠ 0 then some r.2.wseq else none)

/-- The header of a request flit. -/
def Dev.reqHdr (d : Dev) (r : Req) (tag : Nat) (retry : Bool) : BitVec 96 :=
  hdrOf ([(0, 3), (4, r.dst), (16, d.getF F.tlSelfFaddr), (44, itimeOf r.itime % 16), (48, itimeOf r.itime / 16),
    (60, if retry then 1 else 0), (61, if r.bulk then 1 else 0)] ++ hdrTag tag)

/-- Flits of a bulk put: three units of 64 bytes or up to four in each, placed by OFS, LAST on the last (R256, R277). -/
def bulkFlits (d : Dev) (dst tag : Nat) (b : Bytes) : List (BitVec 96 × Bytes) :=
  let n := ceilDiv b.length 256
  (List.range n).map (fun i =>
    let part := (b.drop (256 * i)).take 256
    (hdrOf ([(0, 5), (4, dst), (16, d.getF F.tlSelfFaddr), (44, 4 * i % 16), (48, 4 * i / 16),
      (76, ceilDiv part.length 64 - 1), (78, if i + 1 = n then 1 else 0)] ++ hdrTag tag), part))

/-- The queue of a request: bulk 3, the far port 5, other requests 2 (R246). -/
def Req.queue (r : Req) : Nat := if r.bulk then 3 else if r.far.isSome then 5 else 2

/-- A request is sent, or sent again: its flit, and for a bulk put the data flits after it. -/
def sendReq (tag : Nat) (r : Req) (retry : Bool) (d : Dev) : Dev :=
  let links := d.linksTo r.dst
  let d := sendFlit links r.queue (d.reqHdr r tag retry) r.body d
  if r.bulk then (bulkFlits d r.dst tag r.data).foldl (fun d f => sendFlit links 3 f.1 f.2 d) d else d

/-- The request body of *Request body*, store data after it; a bulk request names its length behind the body (log 31). -/
def reqBody (op atype space len code wseq low addr opnd0 opnd1 : Nat) (data : Bytes) : Bytes :=
  leBytes 4 (op + atype * 16 + space * 64 + min (len - 1) 191 * 256 + code * 65536) ++ leBytes 4 wseq ++ leBytes 4 low ++
    zeros 4 ++ leBytes 8 addr ++ leBytes 8 opnd0 ++ leBytes 8 opnd1 ++ zeros 24 ++ data

/-- A request enters under a TAG and is sent. -/
def openReq (tag : Nat) (r : Req) (d : Dev) : Dev :=
  sendReq tag r false (d.modTeril (fun t =>
    { t with reqs := tabPut t.reqs tag r, nextTag := (tag + 1) % 65536
             tagBusy := tabSet 0 t.tagBusy tag (later d.nt d.lifetime)
             wseq := if r.wseq = 0 then t.wseq else tabSet 0 t.wseq r.dst r.wseq }))

/-- WSEQ and LOW of the next store to a target (R270). -/
def Dev.storeSeq (d : Dev) (dst : Nat) : Nat × Nat :=
  let w := tabGet 0 d.teril.wseq dst + 1
  (w, (d.storesTo dst).foldl min w)

/-- One request of an operation of p on core g to an instance; the store sequence number of a store (R270). -/
def issueReq (g op p dst role code kind atype off len addr opnd0 opnd1 : Nat) (first : Bool) (data : Bytes) (tag : Nat) (d : Dev) : Dev :=
  let (w, low) := if kind = 1 then d.storeSeq dst else (0, 0)
  let bulk : Bool := dst / 8 ≠ d.getF F.tlSelfFaddr / 8
  let sealed := linkSeal d p addr data
  openReq tag
    { g := g, op := op, p := p, dst := dst, role := role, itime := d.nt, last := d.nt
      body := if bulk then reqBody kind atype 0 len code w low addr opnd0 opnd1 (leBytes 4 (len - 1))
        else reqBody kind atype 0 len code w low addr opnd0 opnd1 sealed
      bulk := bulk, off := off, len := len, wseq := w, data := if bulk then sealed else [], first := first } d

/-! ### The far port (R218, R265, R276; log 151) -/

/-- A grant address at a peer: its fabric address, the lend index, the offset in the lend. -/
def farPlace (x : Nat) : Nat × Nat × Nat := (x / 2 ^ 48, x / 2 ^ 44 % 16, x % 2 ^ 44)

/-- The partition whose grant holds an address at a peer. -/
def Dev.farOwner (d : Dev) (x : Nat) : Nat :=
  ((List.range 32).find? (fun p => (d.part p).grants.any (fun e => e.2.kind = 1 &&
    decide (e.2.tgt * 2 ^ 48 + e.2.base ≤ x ∧ x < e.2.tgt * 2 ^ 48 + e.2.base + e.2.pages * pageSize)))).getD 0

/-- A load or store of one unit of a lent frame (SPACE 1), as ciphertext, in queue 5. -/
def farReq (p x va : Nat) (store : Option Bytes) (asker : Option (Nat × Nat)) (tag : Nat) (d : Dev) : Dev :=
  let (dst, lend, off) := farPlace x
  let (w, low) := if store.isSome then d.storeSeq dst else (0, 0)
  openReq tag
    { g := 0, op := 0, p := p, dst := dst, role := 0, itime := d.nt, last := d.nt
      body := reqBody (if store.isSome then 1 else 0) 0 1 64 lend w low off 0 0 (store.getD [])
      off := 0, len := 64, wseq := w, far := some (x, va, asker) } d

/-- A store to this unit of a peer has not been answered. -/
def Dev.farStoring (d : Dev) (x : Nat) : Bool :=
  d.mem.farOut.any (fun e => e.1 = x) || d.teril.reqs.any (fun r => decide (r.2.wseq ≠ 0) && r.2.far.any (fun f => f.1 = x))

/-- The units written to lent frames leave as stores, in order, while TAGs and sequence numbers are free (R267, R270). -/
def farPump : Nat → Dev → Dev
  | 0, d => d
  | n + 1, d =>
    match d.mem.farOut with
    | [] => d
    | (x, b) :: rest =>
      if 4096 ≤ (d.storesTo (farPlace x).1).length then d
      else match d.newTags 1 with
        | some [t] =>
          let va := (d.tagAt (.peer x)).tweak * 64
          farPump n (farReq (d.farOwner x) x va (some b) none t (d.modMem (fun m => { m with farOut := rest })))
        | _ => d

/-- Units of lent frames asked for: each as its address, virtual address and asker, while TAGs are free; with the number asked. -/
def farAsk (p : Nat) (asker : Nat × Nat) : List (Nat × Nat) → Nat × Dev → Nat × Dev
  | [], x => x
  | (a, va) :: rest, (n, d) =>
    match d.newTags 1 with
    | some [t] => farAsk p asker rest (n + 1, farReq p a va none (some asker) t d)
    | _ => (n, d)

/-- The request of a far unit is still out for an asker. -/
def Dev.farAsking (d : Dev) (asker : Nat × Nat) : Bool :=
  d.teril.reqs.any (fun r => r.2.far.any (fun f => decide (f.2.2 = some asker)))

/-! ### Operations of a stream unit (R265 to R269) -/

/-- The operations of core g changed. -/
def Dev.modRemote (d : Dev) (g id : Nat) (f : RemoteOp → RemoteOp) : Dev :=
  d.modCore g (fun c => { c with remote := c.remote.map (fun o => if o.id = id then f o else o) })

/-- Instances of a role in p's route table as (fabric address, sender code). -/
def Dev.instances (d : Dev) (p role : Nat) : List (Nat × Nat) :=
  match (d.sched p).route[role]? with
  | none => []
  | some r => (if r.v0 then [(r.faddr0, r.scode0)] else []) ++ (if r.v1 then [(r.faddr1, r.scode1)] else [])

/-- The sender code p's own role carries in the current job: that of the instance at this device (R145, Sender codes). -/
def Dev.ownCode (d : Dev) (p : Nat) : Nat :=
  match (d.sched p).active with
  | none => 0
  | some im =>
    match (d.sched p).route[im.role]? with
    | none => 0
    | some r => if r.v1 ∧ r.faddr1 = d.getF F.tlSelfFaddr ∧ ¬ (r.v0 ∧ r.faddr0 = d.getF F.tlSelfFaddr) then r.scode1 else r.scode0

/-- SU.RMA fields. -/
def rmaPut (w : Word256) : Bool := wbit w 0 8
def rmaSd (w : Word256) : Nat := wfld w 0 15 12
def remRole (w : Word256) : Nat := wfld w 0 24 16
def remGsize (w : Word256) : Nat := wfld w 0 28 25
def rmaLen (w : Word256) : Nat := wfld w 4 23 0 + 1
def remAddr (w : Word256) : Nat := wfld w 8 31 0 + wfld w 12 15 0 * 2 ^ 32
def remRes (w : Word256) : Nat := wfld w 16 31 0
def amoOp (w : Word256) : Nat := wfld w 0 9 8
def amoType (w : Word256) : Nat := wfld w 0 11 10
def amoOpnd (w : Word256) : Nat := wfld w 20 31 0
def remOpc (w : Word256) : Nat := wfld w 0 7 0

/-- Bytes of an atomic's operand. -/
def amoSize (w : Word256) : Nat := if amoType w = 1 then 8 else 4

/-- Bytes of the next request of an SU.RMA, `done` bytes of it being sent: at most three 64-byte units of RADDR (R267). -/
def rmaRun (w : Word256) (sent left : Nat) : Nat := min left (192 - (remAddr w + sent) % 64)

/-- A status of an operation that no request returned. -/
def remoteFail (g id status : Nat) (d : Dev) : Dev := d.modRemote g id (fun o => { o with fails := status :: o.fails })

/-- Core g's stream unit as an operation of p reaches its tiers. -/
def Dev.remotePort (d : Dev) (g : Nat) (o : RemoteOp) : SuPort :=
  { g := g, p := o.p, who := (g, 3, o.issued), since := o.issued, cores := (gsizeCores g (remGsize o.w)).getD [g], look := d.look o.p }

/-- n bytes from offset `ofs` of the local side of a put: an unmapped page gives RANGE and a record, a damaged unit DATA_LOST (R215,
R225). -/
def putData (g : Nat) (o : RemoteOp) (ofs n : Nat) (d : Dev) : Bytes × Dev :=
  let sd := sdDesc o.sd
  let a := sd.ebase + ofs
  let read := tierLoad (d.remotePort g o) sd.tier a n d
  let d := if sd.tier = 2 then vNote o.p a n (xlate 1 g o.p a n (hbmCharge o.p a n read.2)) else read.2
  let d := if read.1.2 = 2 then remoteFail g o.id 0x95 (d.raise F.suStatusDataLost g)
    else if read.1.2 = 1 then health 0 1 (d.raise F.suStatusCe g) else d
  (read.1.1, match if sd.tier = 2 then d.vMissing o.p a n else none with
    | some page => remoteFail g o.id 0x91 (xlateFault o.p page 1 g false d)
    | none => d)

/-- One request of an operation leaves for an instance under a TAG. -/
def sendOne (g : Nat) (o : RemoteOp) (first : Bool) (i : Nat × Nat) (ofs n tag : Nat) (d : Dev) : Dev :=
  let w := o.w
  let code := d.ownCode o.p
  let d := d.modRemote g o.id (fun o => { o with tags := o.tags ++ [tag] })
  if remOpc w = 0x84 then
    let read := tierLoad (d.remotePort g o) 0 (amoOpnd w) 16 d
    let ops := read.1.1
    let d := if read.1.2 = 2 then remoteFail g o.id 0x95 (read.2.raise F.suStatusDataLost g) else read.2
    issueReq g o.id o.p i.1 (remRole w) code (amoOp w + 2) (amoType w) 0 (amoSize w) (remAddr w)
      (at_ ops 0 (amoSize w)) (if amoOp w = 3 then at_ ops 8 (amoSize w) else 0) first [] tag d
  else
    let read := if rmaPut w then putData g o ofs n d else ([], d)
    issueReq g o.id o.p i.1 (remRole w) code (if rmaPut w then 1 else 0) 0 ofs n (remAddr w + ofs) 0 0 first read.1 tag
      (regCharge o.p 8 n read.2)

/-- The next requests of one operation are sent, one to each instance involved, while TAGs and sequence numbers are free (R265, R267). An
instance beyond the tray takes the whole operation as one bulk transfer at the first send (R277). -/
def sendNext (g : Nat) (o : RemoteOp) (d : Dev) : Dev :=
  let p := o.p
  let w := o.w
  let amo : Bool := remOpc w = 0x84
  let all := d.instances p (remRole w)
  let inst := if remOpc w = 0x83 ∧ ¬ rmaPut w then all.take 1 else all
  let beyond := fun (i : Nat × Nat) => decide (i.1 / 8 ≠ d.getF F.tlSelfFaddr / 8)
  let reach := inst.filter (fun i => d.dataLinks (d.linksTo i.1) ≠ [])
  if o.left = 0 ∨ o.fence then d
  else if reach = [] ∨ (amo ∧ inst.any beyond) then
    d.modRemote g o.id (fun o => { o with left := 0, fails := 0x93 :: o.fails, failed := o.failed + 1 })
  else
    let total := if amo then 1 else rmaLen w
    let sent := total - o.left
    let n := if amo then 1 else if inst.all beyond then o.left else rmaRun w sent o.left
    let now := inst.zipIdx.filter (fun i => sent = 0 || ! beyond i.1)
    let full : Bool := remOpc w = 0x83 ∧ rmaPut w ∧ now.any (fun i => decide (4096 ≤ (d.storesTo i.1.1).length))
    if full then d
    else if d.regWaits p 8 then regWaited p 8 d
    else match d.newTags now.length with
      | none => d
      | some tags =>
        (now.zip tags).foldl (fun d x =>
          sendOne g o (x.1.2 = 0) x.1.1 sent (if beyond x.1.1 ∧ ¬ amo then total else n) x.2 d)
          (d.modRemote g o.id (fun o => { o with left := o.left - n }))

/-- The counter wait of a word is met on core g. -/
def Dev.waitMet (d : Dev) (g : Nat) (w : Word256) : Bool := ! (suWait w).wen || decide ((suWait w).wval ≤ d.cc g (suWait w).wctr)

/-- Sends of a list of operations in order: an operation whose wait is not met and those after it wait, and an incomplete
fence holds what was issued after it (R273). -/
def pumpOps (g : Nat) : List RemoteOp → Dev → Dev
  | [], d => d
  | o :: os, d =>
    if o.fence then d
    else if ¬ d.waitMet g o.w then d
    else
      let d := sendNext g o d
      pumpOps g os d

/-- Everything the remote operations of core g can send now. -/
def remotePump (g : Nat) (d : Dev) : Dev := pumpOps g (d.core g).remote d

/-- A request resolves with a status (R269, R272, R278): the operation takes it, OLD from the instance listed first (R265); the TAG is
free once its lifetime has passed. -/
def resolveReq (tag status : Nat) (old : BitVec 64) (d : Dev) : Dev :=
  match tabFind d.teril.reqs tag with
  | none => d
  | some r =>
    let d := d.modTeril (fun t => { t with reqs := tabDel t.reqs tag })
    let d := if status = 0x94 then d.raise F.tlRmStatusUnknown else d
    let d := if r.far.isSome then d else d.modRemote r.g r.op (fun o =>
      { o with tags := o.tags.filter (· ≠ tag), retries := max o.retries r.retries
               old := if r.first then old else o.old
               fails := if status = 0 then o.fails else status :: o.fails
               failed := if status = 0 then o.failed else o.failed + 1 })
    if r.far.isSome then d else remotePump r.g d

/-- The status of an operation: the first failing status in the order DATA_LOST, OUTCOME_UNKNOWN, RANGE, STALE, NO_ROUTE. -/
def opStatus (o : RemoteOp) : Nat :=
  ([0x95, 0x94, 0x91, 0x92, 0x93].find? (fun s => o.fails.contains s)).getD 0

/-- An operation has ended: everything sent and resolved; a fence: every put and atomic before it that it covers (R273). -/
def opEnded (before : List RemoteOp) (o : RemoteOp) : Bool :=
  if o.fence then
    before.all (fun b =>
      let writes : Bool := remOpc b.w = 0x84 ∨ (remOpc b.w = 0x83 ∧ rmaPut b.w)
      b.fence || ! writes || decide (b.left = 0 ∧ b.tags = []) || (! wbit o.w 0 8 && decide (remRole b.w ≠ remRole o.w)))
  else decide (o.left = 0 ∧ o.tags = [])

end Sys2Proof.Machine
end

