-- ==== Sys2Proof/Machine/Stream.lean ====
section
/-! DEFINITION. Stream units: the words of a transfer list (R113 to R119, R143, R265 to R273, R422 to R428), moves with
transposition and decompression (R114, R115, R230 to R232), completion (R116 to R119, R269). -/

namespace Sys2Proof.Machine

open Sys2Proof

/-! ### The list -/

/-- The next word of the list of core g may issue: the list runs, is not paused, no SU.AT holds it (R142, R143). -/
def Dev.suReady (d : Dev) (g : Nat) : Bool :=
  let l := (d.core g).ctx.list
  l.active && ! l.paused && l.held.isNone

/-- The list of core g changed. -/
def Dev.modList (d : Dev) (g : Nat) (f : SuList → SuList) : Dev := d.modCtx g (fun c => { c with list := f c.list })

/-- n progress events of the stream unit (R391). -/
def suProgress (g n : Nat) (d : Dev) : Dev := d.modCore g (fun c => { c with suProg := c.suProg.more d.acyc n })

/-- A word has issued. -/
def suStep (g : Nat) (d : Dev) : Dev := suProgress g 1 (d.modList g (fun l => { l with pos := l.pos + 1 }))

/-- An illegal word: cause recorded, RANGE for causes 5 and 10 and ILLEGAL for others, the list stops at it, the failure is
noted with ILLEGAL_INSTRUCTION (R119, R266). -/
def suIllegal (g cause : Nat) (d : Dev) : Dev :=
  let p := d.workOf g
  let d := (d.setF F.suErrinfoCause g cause).setF F.suErrinfoPart g p
  let d := d.raise (if cause = 5 ∨ cause = 10 then F.suStatusRange else F.suStatusIllegal) g
  noteListFail p g 1 cause (d.modList g (fun l => { l with active := false }))

/-- A word with its cause of illegality: nothing while the list cannot issue; illegal; or its effect. -/
def suWord (g cause : Nat) (eff : Dev → Dev) (d : Dev) : Dev :=
  if ¬ d.suReady g then d else if cause ≠ 0 then suIllegal g cause d else eff (suStep g d)

/-! ### SU.SD (R113) -/

/-- The stream descriptor that an SU.SD holds. -/
def sdOf (w : Word256) : BitVec 192 := (w >>> 64).truncate 192

/-- The cause of illegality of an SU.SD: 9 reserved, 2 tier, 5 a high part in tiers 0 and 1. -/
def sdCause (w : Word256) : Nat :=
  let s := sdDesc (sdOf w)
  if wfld w 0 7 0 ≠ 0x81 then 11
  else if ¬ (wrsv w 0 31 12 ∧ wrsv w 4 31 0 ∧ s.rsvOk) then 9
  else if s.tier = 3 then 2
  else if s.tier < 2 ∧ ¬ s.hiZero then 5
  else 0

def suSdWord (g : Nat) (w : Word256) (d : Dev) : Dev :=
  suWord g (sdCause w) (fun d => d.modCtx g (fun c => { c with sd := tabSet 0 c.sd (wfld w 0 11 8) (sdOf w) })) d

def execSuSd (g : Nat) (w : Word256) (s : State) : Res := need (g < 80) .noSuchCore (upd s (suSdWord g w))

/-! ### SU.MV (R113 to R119) -/

/-- Lines of a side lie in their tier. -/
def mvInRange (x : SdDesc) (f : Nat) (sh : Nat × Nat) (top : Nat) : Bool :=
  decide (x.ebase + (sh.1 - 1) * x.estride + linePayload f sh.2 ≤ top) &&
    (decide (lineScales f sh.2 = 0) || decide (x.sbase + (sh.1 - 1) * x.sstride + lineScales f sh.2 ≤ top))

/-- Alignment and stride of a side. -/
def mvAligned (x : SdDesc) (f : Nat) : Bool := decide (x.ebase % 64 = 0) && (decide (lineScales f 1 = 0) || decide (x.sbase % 64 = 0))
def mvStrides (x : SdDesc) (f : Nat) (sh : Nat × Nat) : Bool :=
  decide (x.estride % 64 = 0) && decide (linePayload f sh.2 ≤ x.estride) && decide (lineScales f sh.2 ≤ x.sstride)

/-- Descriptor i of core g. -/
def Dev.sdReg (d : Dev) (g i : Nat) : BitVec 192 := tabGet 0 (d.core g).ctx.sd i

/-- The cause of illegality of an SU.MV, in the order 9, 1, 12, 7, 6, 8, 2, 3, 4, 5 (R119, log 32). -/
def mvCause (d : Dev) (g : Nat) (w : Word256) : Nat :=
  let o := mvOp w
  let p := d.workOf g
  let s := sdDesc (d.sdReg g o.sds)
  let t := sdDesc (d.sdReg g o.sdd)
  let (a, b) := mvShape o
  if wfld w 0 7 0 ≠ 0x80 then 11
  else if ¬ o.rsvOk then 9
  else if ¬ fmtOk o.fmt then 1
  else if o.len = 0 ∨ 1048576 < o.len then 12
  else if o.decomp ∧ (s.tier ≠ 2 ∨ t.tier = 2 ∨ o.xpose ∨ ¬ isBs o.fmt) then 7
  else if o.xpose ∧ (65536 < o.lines ∨ 65536 < o.len) then 6
  else match d.suGroup p g o.gsize with
    | none => 8
    | some cs =>
      if s.tier = 3 ∨ t.tier = 3 then 2
      else if ¬ (mvAligned s o.fmt ∧ mvAligned t o.fmt) then 3
      else if ¬ ((o.decomp ∨ mvStrides s o.fmt a) ∧ mvStrides t o.fmt b) then 4
      else if (s.tier < 2 ∧ ¬ s.hiZero) ∨ (t.tier < 2 ∧ ¬ t.hiZero) ∨
          ¬ ((o.decomp ∨ mvInRange s o.fmt a (d.tierEnd g p cs s.tier)) ∧ mvInRange t o.fmt b (d.tierEnd g p cs t.tier)) then 5
      else 0

/-- SU.MV issues: the move joins the moves in flight, at most eight (R116); each remembers those in flight at the same time (R117). -/
def suMvWord (g : Nat) (w : Word256) (d : Dev) : Dev :=
  if d.suReady g ∧ 8 ≤ (d.core g).moves.length ∧ wfld w 0 7 0 = 0x80 then d
  else suWord g (mvCause d g w) (fun d =>
    let o := mvOp w
    d.modCore g (fun c =>
      let me := (w, tabGet 0 c.ctx.sd o.sds, tabGet 0 c.ctx.sd o.sdd)
      { c with moves := c.moves.map (fun m => { m with met := m.met ++ [me] }) ++
          [{ w := w, sds := me.2.1, sdd := me.2.2, issued := d.acyc, met := c.moves.map (fun m => (m.w, m.sds, m.sdd)) }] })) d

def execSuMv (g : Nat) (w : Word256) (s : State) : Res := need (g < 80) .noSuchCore (upd s (suMvWord g w))

/-- The first move that has not started starts, if its wait is met (R116). -/
def startFirst (now : Nat) (ok : Word256 → Bool) : List Move → List Move
  | [] => []
  | m :: ms => if m.started.isSome then m :: startFirst now ok ms else if ok m.w then { m with started := some now } :: ms else m :: ms

/-- MOVE_START (R116): moves start in issue order, those of a paused list too (R142). -/
def moveStart (g : Nat) (d : Dev) : Dev :=
  d.modCore g (fun c => { c with moves := startFirst d.acyc (d.waitMet g) c.moves })

def execMoveStart (g : Nat) (s : State) : Res := need (g < 80) .noSuchCore (upd s (moveStart g))

/-! ### The block-plane code (R230 to R232) -/

/-- Canonical codes of RFC 1951 from the code lengths of 16 symbols: (symbol, length, code). -/
def canonCodes (lens : List Nat) : List (Nat × Nat × Nat) :=
  ((List.range 15).foldl (fun (x : Nat × List (Nat × Nat × Nat)) i =>
    let l := i + 1
    let first := x.1 * 2
    let syms := (lens.zipIdx.filter (fun y => y.1 = l)).map (·.2)
    (first + syms.length, x.2 ++ syms.zipIdx.map (fun y => (y.1, l, first + y.2)))) (0, [])).2

/-- The lengths form a code: a symbol is named and the Kraft sum is at most 1 (R232). -/
def kraftOk (lens : List Nat) : Bool :=
  lens.any (· ≠ 0) && decide (sumL (lens.map (fun l => if l = 0 then 0 else 2 ^ (15 - l))) ≤ 2 ^ 15)

/-- Symbols read from a bitstream, and the bits after them; none: a pattern that is no code, or too few bits. -/
def readSyms (codes : List (Nat × Nat × Nat)) : List Bool → Nat → Nat → Nat → Option (List Nat × List Bool)
  | [], _, _, n => if n = 0 then some ([], []) else none
  | b :: bs, len, code, n =>
    if n = 0 then some ([], b :: bs)
    else
      let code := 2 * code + (if b then 1 else 0)
      match codes.find? (fun c => c.2.1 = len + 1 ∧ c.2.2 = code) with
      | some c => (readSyms codes bs 0 0 (n - 1)).map (fun r => (c.1 :: r.1, r.2))
      | none => if 15 ≤ len + 1 then none else readSyms codes bs (len + 1) code n

/-- Bits of a byte string, the lowest of each byte first. -/
def bitsOfBytes (b : Bytes) : List Bool := b.flatMap (fun x => (List.range 8).map (fun i => x.getLsbD i))

/-- One plane: n symbols, nothing after them but zero bits of the last byte. -/
def readPlane (lens : List Nat) (b : Bytes) (n : Nat) : Option (List Nat) :=
  if ¬ kraftOk lens then none
  else match readSyms (canonCodes lens) (bitsOfBytes b) 0 0 n with
    | some (s, rest) => if rest.length < 8 ∧ rest.all (· = false) then some s else none
    | none => none

/-- Code lengths of a chunk header word. -/
def planeLens (b : Bytes) (o : Nat) : List Nat := (List.range 16).map (fun s => fld b o (4 * s + 3) (4 * s))

/-- Bytes of a chunk, padded (*Chunk header*). -/
def chunkLen (f : Nat) (b : Bytes) : Nat :=
  let n := fld b 0 8 0
  ceilDiv (32 + n + (if bit b 0 9 then n * bsPayload f else at_ b 4 4 + at_ b 8 4)) 64 * 64

/-- One chunk: the scale codes and the payloads of its blocks; none: corrupt. -/
def readChunk (f blocks : Nat) (b : Bytes) : Option (Bytes × Bytes) :=
  let n := fld b 0 8 0
  let hb := at_ b 4 4
  let lb := at_ b 8 4
  let scales := (b.drop 32).take n
  let body := b.drop (32 + n)
  if n ≠ blocks ∨ b.length < chunkLen f b ∨ ¬ rsv b 0 31 10 ∨ at_ b 0xC 4 ≠ 0 then none
  else if bit b 0 9 then (if hb = 0 ∧ lb = 0 then some (scales, body.take (n * bsPayload f)) else none)
  else
    let high : Option (List Nat) :=
      if f = 3 ∨ f = 4 then (if hb = 0 ∧ at_ b 0x10 8 = 0 then some (List.replicate (n * 32) 0) else none)
      else readPlane (planeLens b 0x10) (body.take hb) (n * 32)
    match high, readPlane (planeLens b 0x18) ((body.drop hb).take lb) (n * 32) with
    | some h, some l => some (scales, packBits (bsFmt f).width ((h.zip l).map (fun x => (x.1 * 16 + x.2) % 2 ^ (bsFmt f).width)))
    | _, _ => none

/-- The header of a stream agrees with a move (R230, R232). -/
def streamOk (b : Bytes) (f lines len : Nat) : Bool :=
  let blocks := lines * ceilDiv len 32
  decide (at_ b 0 4 = 0x5A435042) && decide (fld b 4 3 0 = f) && decide (fld b 4 7 4 = 1) && rsv b 4 31 8 &&
    decide (at_ b 8 4 = lines) && decide (at_ b 0xC 4 = len) && decide (at_ b 0x10 4 = ceilDiv blocks 256) &&
    decide (at_ b 0x14 4 % 64 = 0) && (List.range 5).all (fun i => at_ b (0x18 + 8 * i) 8 = 0)

/-- The chunks of a stream as (first byte, byte behind it), in index order. -/
def chunkSpans (b : Bytes) (f chunks : Nat) : List (Nat × Nat) :=
  (List.range chunks).map (fun c => let o := at_ b (64 + 4 * c) 4; (o, o + chunkLen f (b.drop o)))

/-- The chunks start on multiples of 64 behind the header and its padded index, share no byte, and end where the stream ends (R230, R232). -/
def chunksOk (b : Bytes) (f chunks : Nat) : Bool :=
  let l := chunkSpans b f chunks
  l.all (fun x => decide (x.1 % 64 = 0 ∧ 64 + ceilDiv (4 * chunks) 64 * 64 ≤ x.1 ∧ x.2 ≤ b.length)) &&
    decide (l.Pairwise (fun x y => x.2 ≤ y.1 ∨ y.2 ≤ x.1)) && decide ((l.map (·.2)).foldl max 0 = b.length)

/-- The blocks of a stream of the given bytes: scale codes and payloads in sequence; none: corrupt. -/
def readStream (b : Bytes) (f lines len : Nat) : Option (Bytes × Bytes) :=
  let blocks := lines * ceilDiv len 32
  let chunks := ceilDiv blocks 256
  if ¬ streamOk b f lines len ∨ b.length ≠ at_ b 0x14 4 ∨ ¬ chunksOk b f chunks then none
  else
    (chunkSpans b f chunks).zipIdx.foldl (fun acc c =>
      match acc, readChunk f (min 256 (blocks - 256 * c.2)) (b.drop c.1.1) with
      | some (s, p), some (s', p') => some (s ++ s', p ++ p')
      | _, _ => none) (some ([], []))

/-! ### Completion (R114 to R119) -/

/-- Bytes a move writes. -/
def mvBytes (o : MvOp) : Nat := (mvShape o).2.1 * (linePayload o.fmt (mvShape o).2.2 + lineScales o.fmt (mvShape o).2.2)

/-- A-cycles in which the stream unit writes the bytes of a move: 512, transposed 256, in an f-cycle (R116). -/
def mvTime (o : MvOp) : Nat := ceilDiv (ceilDiv (mvBytes o) (if o.xpose then 256 else 512) * 3) 2

/-- The earliest a-cycle in which a move can complete whose first byte can be written in t0: the a-cycle after its last byte (R116). -/
def mvEarliest (o : MvOp) (t0 : Nat) : Nat := t0 + mvTime o + 1

/-- The a-cycle from which core g's stream unit can write for a move: it has started, and the bytes of the moves before it are written
(R116). -/
def Dev.mvFrom (d : Dev) (g : Nat) (m : Move) : Nat := max (m.started.getD 0) (d.core g).suFree

/-- Byte ranges common to two lists of ranges. -/
def cutRanges (a b : List (Nat × Nat × Nat)) : List (Nat × Nat × Nat) :=
  a.flatMap (fun x => b.filterMap (fun y =>
    let lo := max x.2.1 y.2.1
    let hi := min (x.2.1 + x.2.2) (y.2.1 + y.2.2)
    if x.1 = y.1 ∧ lo < hi then some (x.1, lo, hi - lo) else none))

/-- The space and address of byte a of a tier, as `mvRanges` counts them. -/
def cellOf (g : Nat) (cores : List Nat) (tier a : Nat) : Nat × Nat :=
  match tier with
  | 0 => let c := spadAt cores a; (0, c.1 * spadSize + c.2)
  | 1 => (3 + dieOf g, a)
  | _ => (2, a)

/-- A cell lies in one of the ranges. -/
def inCells (l : List (Nat × Nat × Nat)) (x : Nat × Nat) : Bool := l.any (fun r => decide (r.1 = x.1 ∧ r.2.1 ≤ x.2 ∧ x.2 < r.2.1 + r.2.2))

/-- The bytes of a tier from a that lie in the ranges are unpredictable. -/
def openCells (open_ : List (Nat × Nat × Nat)) (g : Nat) (cores : List Nat) (tier a : Nat) (b : Bytes) (d : Dev) : Bytes × Dev :=
  if open_ = [] then (b, d)
  else (b.zipIdx.map (fun x => if inCells open_ (cellOf g cores tier (a + x.2)) then Config.free 8 (d.free + x.2) else x.1),
    { d with free := d.free + b.length })

/-- Tier-2 ranges as ranges of the spaces of `mvRanges`. -/
def tier2Ranges (l : List (Nat × Nat)) : List (Nat × Nat × Nat) := l.map (fun x => (2, x.1, x.2))

/-- The bytes a move of p on core g reads. -/
def Dev.mvReads (d : Dev) (p g : Nat) (m : Move) : List (Nat × Nat × Nat) :=
  if (mvOp m.w).decomp then tier2Ranges (d.mvTier2 p g m).1 else mvSource g m.w m.sds

/-- The moves that were in flight at the same time, as moves. -/
def Move.others (m : Move) : List Move := m.met.map (fun y => { w := y.1, sds := y.2.1, sdd := y.2.2, issued := 0 })

/-- Destination bytes of a move that are unpredictable: they overlap another destination or a source of a move in flight at the same time
(R117), or were written in the same epoch by another move or send (R157). -/
def Dev.openDest (d : Dev) (p g : Nat) (m : Move) : List (Nat × Nat × Nat) :=
  let dst := mvDest g m.w m.sdd
  cutRanges dst (m.others.flatMap (fun y => mvDest g y.w y.sdd ++ d.mvReads p g y) ++ d.mvReads p g m) ++
    cutRanges dst (((d.sched p).wrote.filter (fun x => decide (x.1 = d.currentEpoch p ∧ x.2.1 ≠ (g, 3, m.issued)))).map (fun x => x.2.2))

/-- Source bytes of a move that are unpredictable (R117). -/
def Dev.openSource (d : Dev) (p g : Nat) (m : Move) : List (Nat × Nat × Nat) :=
  let dst := mvDest g m.w m.sdd
  cutRanges (d.mvReads p g m) (m.others.flatMap (fun y => mvDest g y.w y.sdd) ++ dst)

/-- The bytes a move writes are noted under its epoch (R157). -/
def noteWrote (p epoch : Nat) (who : Who) (rs : List (Nat × Nat × Nat)) (d : Dev) : Dev :=
  d.modSched p (fun s => { s with wrote := rs.map (fun r => (epoch, who, r)) ++ s.wrote })

/-- What translates the addresses of a move: a page whose lend is withdrawn is not there (R275); an access issued before an UNMAP meets the
old entry (R229). -/
def Dev.mvLook (d : Dev) (p : Nat) (m : Move) : Look := fun va =>
  if m.gone.contains (va / pageSize) then none
  else match m.pins.find? (fun x => x.1 = va / pageSize) with
    | some x => if va % pageSize < x.2.2 then some x.2.1 else d.look p va
    | none => d.look p va

/-- A move of p on core g as it reaches its tiers. -/
def Dev.mvPort (d : Dev) (g p : Nat) (m : Move) : SuPort :=
  { g := g, p := p, who := (g, 3, m.issued), since := m.started.getD d.acyc, cores := (gsizeCores g (mvOp m.w).gsize).getD [g]
    look := d.mvLook p m, lost := m.lostAt }

/-- Bytes of the source of a move as it reads them, with the worst that its reads met so far. -/
def mvLoad (x : SuPort) (open_ : List (Nat × Nat × Nat)) (tier a n : Nat) (r : Nat × Dev) : Bytes × Nat × Dev :=
  let read := tierLoad x tier a n r.2
  let cells := openCells open_ x.g x.cores tier a read.1.1 read.2
  (cells.1, max r.1 read.1.2, cells.2)

/-- Source lines of a move, with the worst that reading them met. -/
def mvLines (x : SuPort) (open_ : List (Nat × Nat × Nat)) (o : MvOp) (s : SdDesc) (d : Dev) : List (Bytes × Bytes) × Nat × Dev :=
  (List.range o.lines).foldl (fun acc i =>
    let pl := mvLoad x open_ s.tier (s.ebase + i * s.estride) (linePayload o.fmt o.len) (acc.2.1, acc.2.2)
    let sc := mvLoad x open_ s.tier (s.sbase + i * s.sstride) (lineScales o.fmt o.len) (pl.2.1, pl.2.2)
    (acc.1 ++ [(pl.1, sc.1)], sc.2.1, sc.2.2)) ([], 0, d)

/-- One transposed line: element j of every source line. Plain types and cf32 move exactly; bs and cq16 are quantised anew (R114). -/
def xposeLine (f : Nat) (ls : List (Bytes × Bytes)) (j : Nat) : Bytes × Bytes × NumEv :=
  if isBs f ∨ f = 5 then narrowLine f none 0 (ls.map (fun l => elemValue f l.1 l.2 j))
  else (ls.flatMap (fun l => (l.1.drop (j * plainSize f)).take (plainSize f)), [], {})

/-- The destination lines of a move as (payload, scales), what R51 counts, and the worst that the reading met; no lines: a stream that is
corrupt (R115). Of a compressed stream the header comes first, and the rest only where it agrees with the move (R230, R232). -/
def mvOut (x : SuPort) (open_ : List (Nat × Nat × Nat)) (m : Move) (d : Dev) : (Option (List (Bytes × Bytes)) × NumEv × Nat) × Dev :=
  let o := mvOp m.w
  let s := sdDesc m.sds
  if o.decomp then
    let h := mvLoad x open_ 2 s.ebase 64 (0, d)
    if ¬ streamOk h.1 o.fmt o.lines o.len then ((none, {}, h.2.1), h.2.2)
    else
      let b := mvLoad x open_ 2 s.ebase (max 64 (at_ h.1 0x14 4)) (h.2.1, h.2.2)
      let per := ceilDiv o.len 32
      (((readStream b.1 o.fmt o.lines o.len).map (fun r => (List.range o.lines).map (fun i =>
        ((r.2.drop (i * per * bsPayload o.fmt)).take (per * bsPayload o.fmt), (r.1.drop (i * per)).take per))), {}, b.2.1), b.2.2)
  else
    let ls := mvLines x open_ o s d
    if o.xpose then
      let cols := (List.range o.len).map (xposeLine o.fmt ls.1)
      ((some (cols.map (fun c => (c.1, c.2.1))), NumEv.sum (cols.map (·.2.2)), ls.2.1), ls.2.2)
    else ((some ls.1, {}, ls.2.1), ls.2.2)

/-- Destination line i of a move written, its open bytes unpredictable (R117, R157). -/
def mvPutLine (x : SuPort) (open_ : List (Nat × Nat × Nat)) (t : SdDesc) (i : Nat) (l : Bytes × Bytes) (d : Dev) : Dev :=
  let a := t.ebase + i * t.estride
  let c := t.sbase + i * t.sstride
  let pl := openCells open_ x.g x.cores t.tier a l.1 d
  let sc := openCells open_ x.g x.cores t.tier c l.2 pl.2
  tierStore x t.tier c sc.1 (tierStore x t.tier a pl.1 sc.2)

/-- The destination lines of a move that is lost are unpredictable bytes. -/
def mvFree (g p : Nat) (m : Move) (d : Dev) : Dev :=
  let o := mvOp m.w
  let x := d.mvPort g p m
  (List.range (mvShape o).2.1).foldl (fun d i =>
    let pl := takeBytes (linePayload o.fmt (mvShape o).2.2) d
    let sc := takeBytes (lineScales o.fmt (mvShape o).2.2) pl.2
    mvPutLine x [] (sdDesc m.sdd) i (pl.1, sc.1) sc.2) d

/-- A move of core g that has started is cut short by a reset or an abort: SU_STATUS.ABORT, and what it had to write is unpredictable. One
that has not started writes nothing (R135, R392). -/
def cutMove (g p : Nat) (d : Dev) (m : Move) : Dev :=
  if m.started.isSome then mvFree g p m (d.raiseIf (d.inCore p g) F.suStatusAbort g) else d

/-- The 4-byte words of line i that an error on the way affects are unpredictable (R119). -/
def freeWords (words : List (Nat × Nat)) (i : Nat) (b : Bytes) (d : Dev) : Bytes × Dev :=
  if words.all (fun w => decide (w.1 ≠ i)) then (b, d)
  else (b.zipIdx.map (fun x => if words.contains (i, x.2 / 4) then Config.free 8 (d.free + x.2) else x.1), { d with free := d.free + b.length })

/-- Words that an error on the way of a move's data affects. -/
def mvWords : MoveEvent → List (Nat × Nat)
  | .uncorrectable ws => ws
  | .meshLost _ ws => ws
  | _ => []

/-- What the wires and memories show while a move reads: the status bits of the mesh and the links (R125, R127), what a stored word turns
out to be (R75, R214). -/
def moveMeets (g : Nat) (ev : MoveEvent) (d : Dev) : Dev :=
  match ev with
  | .clean => d
  | .uncorrectable _ => health 1 1 d
  | .corrected => health 0 1 (d.raise F.suStatusCe g)
  | .mesh die => if die < 4 then health 0 1 (d.raise F.hrStatusCe die) else d
  | .meshLost die _ => if die < 4 then health 1 1 (d.raise F.hrStatusUe die) else d
  | .link die l => if die < 4 ∧ l < 3 then health 0 1 (d.raise F.dlStatusCe (die * 3 + l)) else d
  | .memory unit found => (match found with
    | .clean => d
    | .corrected => strikeUnit unit false d
    | .uncorrectable => strikeUnit unit true d)
  | .scratchpad c word found => strikeSpad c word found d

/-- Tier-2 bytes of a move are translated, counted in the regulators and noted where a word is damaged (R214, R224, R296). -/
def mvTouch (x : SuPort) (l : List (Nat × Nat)) (read : Bool) (d : Dev) : Dev :=
  l.foldl (fun d r =>
    let d := hbmCharge x.p r.1 r.2 (xlate 1 x.g x.p r.1 r.2 d)
    if read then noteBy x.look x.p r.1 r.2 d else d) d

/-- The first page of a move without mapping, with whether it is written (R225). -/
def Dev.mvMissing (d : Dev) (g p : Nat) (m : Move) : Option (Nat × Bool) :=
  let r := d.mvTier2 p g m
  let look := d.mvLook p m
  match r.1.findSome? (fun x => missingBy look x.1 x.2) with
  | some a => some (a, false)
  | none => (r.2.findSome? (fun x => missingBy look x.1 x.2)).map (fun a => (a, true))

/-- The regulator on which a move of p on core g waits (R297). -/
def Dev.moveWaits (d : Dev) (g p : Nat) (m : Move) : Option Nat :=
  let r := d.mvTier2 p g m
  match (r.1 ++ r.2).findSome? (fun x => d.hbmWaits p x.1 x.2) with
  | some r => some r
  | none =>
    if ((sdDesc m.sds).tier ≠ 0 ∨ (sdDesc m.sdd).tier ≠ 0) ∧ d.regWaits p (4 + dieOf g) then some (4 + dieOf g) else none

/-- The data of a move: read, transposed or decompressed, and written; with the first page without mapping, and whether data was lost
(R114 to R119, R225). -/
def mvWriteData (g p : Nat) (m : Move) (ev : MoveEvent) (d : Dev) : (Option (Nat × Bool) × Bool) × Dev :=
  let o := mvOp m.w
  let t := sdDesc m.sdd
  let d := moveMeets g ev d
  let miss := d.mvMissing g p m
  let x := d.mvPort g p m
  let dstOpen := d.openDest p g m
  let srcOpen := d.openSource p g m
  let r := d.mvTier2 p g m
  let d := mvTouch x r.2 false (mvTouch x r.1 true d)
  let d := if (sdDesc m.sds).tier = 0 ∧ t.tier = 0 then d else regCharge p (4 + dieOf g) (mvBytes o) d
  let read := mvOut x srcOpen m d
  let d := noteWrote p (d.currentEpoch p) x.who (mvDest g m.w m.sdd) read.2
  let bad : Bool := 2 ≤ read.1.2.2 || decide (mvWords ev ≠ [])
  let d := if read.1.2.2 = 1 then health 0 1 (d.raise F.suStatusCe g) else d
  let d := if read.1.2.2 = 2 ∧ (sdDesc m.sds).tier = 0 then health 1 1 d else d
  match read.1.1 with
  | none => ((miss, bad || miss.isNone), mvFree g p m d)
  | some lines =>
    ((miss, bad), evNum g 3 read.1.2.1 (lines.zipIdx.foldl (fun d l =>
      let pl := freeWords (mvWords ev) l.2 l.1.1 d
      mvPutLine x dstOpen t l.2 (pl.1, l.1.2) pl.2) d))

/-- Units of lent frames in tier-2 ranges of p, as (address at the peer, virtual address) (R265). -/
def Dev.peerUnits (d : Dev) (p : Nat) (look : Look) (l : List (Nat × Nat)) : List (Nat × Nat) :=
  if (d.part p).grants.all (fun e => decide (e.2.kind = 0)) then []
  else l.flatMap (fun r => (unitsOf r.1 r.2).filterMap (fun u => (look u).bind (fun e =>
    match d.physOf p e (u % pageSize) with
    | .peer x => some (x, u)
    | _ => none)))

/-- The units of lent frames that a move still has to ask for. -/
def Dev.mvToAsk (d : Dev) (g p : Nat) (m : Move) : List (Nat × Nat) :=
  (d.peerUnits p (d.mvLook p m) (d.mvTier2 p g m).1).filter (fun u => ! m.asked.contains (u.2 / 64))

/-- The far port asks for what started moves of core g read at peers (R265). -/
def moveAsk (g : Nat) (d : Dev) : Dev :=
  (List.range (d.core g).moves.length).foldl (fun d i =>
    match (d.core g).moves[i]? with
    | none => d
    | some m =>
      if m.started.isNone ∨ m.wrote then d
      else
        let units := d.mvToAsk g (d.workOf g) m
        if units = [] then d
        else
          let r := farAsk (d.workOf g) (g, m.issued) units (0, d)
          r.2.modCore g (fun c => { c with moves := modAt c.moves i (fun m => { m with asked := m.asked ++ (units.take r.1).map (fun u => u.2 / 64) }) })) d

/-- A store of a move to a lent frame has not been answered. -/
def Dev.mvStoring (d : Dev) (g p : Nat) (m : Move) : Bool :=
  (d.peerUnits p (d.mvLook p m) (d.mvTier2 p g m).2).any (fun u => d.farStoring u.1)

/-- The oldest move of core g ends: it leaves, its bytes count, its counter counts, and a missing page and lost data are reported (R116,
R119, R225, R379). -/
def mvEnd (g p : Nat) (m : Move) (found : Option (Nat × Bool) × Bool) (d : Dev) : Dev :=
  let o := mvOp m.w
  let free := d.mvFrom g m + mvTime o
  let d := suProgress g (mvBytes o / 64) (evCore g 0x09 0 (mvBytes o) (d.modCore g (fun c => { c with moves := c.moves.tail, suFree := free })))
  let d := if o.sen then ccInc g o.sctr d else d
  let d := if found.2 then d.raise F.suStatusDataLost g else d
  pruneOld (match found.1 with
    | some (page, w) =>
      let d := (d.setF F.suErrinfoPart g p).setF F.suErrinfoCause g 10
      noteListFail p g 6 10 (xlateFault p page 1 g w (d.raise F.suStatusRange g))
    | none => if found.2 then noteListFail p g 2 0 d else d)

/-- The oldest move of core g can be carried out: it has started, its bytes can have passed (R116), what it reads at peers has arrived
(R265), its destination pages are at rest (R228), its regulators have tokens (R297). -/
def Dev.mvReady (d : Dev) (g p : Nat) (m : Move) : Bool :=
  m.started.isSome && decide (mvEarliest (mvOp m.w) (d.mvFrom g m) ≤ d.acyc) &&
    (d.mvToAsk g p m).isEmpty && ! d.farAsking (g, m.issued) &&
    ! (d.mvTier2 p g m).2.any (fun x => d.vMigrating p x.1 x.2) && (d.moveWaits g p m).isNone

/-- MOVE_COMPLETE (R116 to R119): the oldest move, once it can be carried out, writes its data and ends; one that writes to lent frames
ends when their peers have answered (R265, log 151). `ev`: what befell its data. -/
def moveComplete (g : Nat) (ev : MoveEvent) (d : Dev) : Dev :=
  match (d.core g).moves with
  | [] => d
  | m :: _ =>
    let p := d.workOf g
    if m.wrote then (if d.mvStoring g p m then d else mvEnd g p m m.found d)
    else if ¬ d.mvReady g p m then d
    else
      let w := mvWriteData g p m ev d
      if w.2.mvStoring g p m then
        w.2.modCore g (fun c => { c with moves := modAt c.moves 0 (fun m => { m with wrote := true, found := w.1 }) })
      else mvEnd g p m w.1 w.2

def execMoveComplete (g : Nat) (ev : MoveEvent) (s : State) : Res := need (g < 80) .noSuchCore (upd s (moveComplete g ev))

/-! ### SU.AT, SU.EEND (R143) -/

/-- SU.AT: the next word is held until tick + OFFSET; an OFFSET already passed holds nothing. -/
def suAtWord (g : Nat) (w : Word256) (d : Dev) : Dev :=
  let rsvOk : Bool := wrsv w 0 31 8 ∧ wrsv w 4 31 22 ∧ (w >>> 64).toNat = 0
  suWord g (if wfld w 0 7 0 ≠ 0x82 then 11 else if rsvOk then 0 else 9) (fun d =>
    d.modList g (fun l =>
      { l with held := if d.acyc < l.tick + wfld w 4 21 0 then some (l.tick + wfld w 4 21 0) else none })) d

def execSuAt (g : Nat) (w : Word256) (s : State) : Res := need (g < 80) .noSuchCore (upd s (suAtWord g w))

/-- AT_OFFSET_REACHED: the held list goes on. -/
def atReached (g : Nat) (d : Dev) : Dev :=
  match (d.core g).ctx.list.held with
  | some t => if t ≤ d.acyc then d.modList g (fun l => { l with held := none }) else d
  | none => d

def execAtOffsetReached (g : Nat) (s : State) : Res := need (g < 80) .noSuchCore (upd s (atReached g))

/-- SU.EEND ends the list. -/
def suEendWord (g : Nat) (w : Word256) (d : Dev) : Dev :=
  suWord g (if wfld w 0 7 0 ≠ 0x8F then 11 else if (w >>> 8).toNat = 0 then 0 else 9)
    (fun d => d.modList g (fun l => { l with active := false })) d

def execSuEend (g : Nat) (w : Word256) (s : State) : Res := need (g < 80) .noSuchCore (upd s (suEendWord g w))

/-! ### Remote operations (R265 to R273) -/

/-- Roles of the job of p. -/
def Dev.roles (d : Dev) (p : Nat) : Nat :=
  match (d.sched p).active with
  | some im => im.rolesM1 + 1
  | none => 0

/-- The cause of illegality of a remote word: `rsvOk` its reserved fields, then format, group, alignment, range (R266). -/
def remCause (d : Dev) (g : Nat) (w : Word256) (opc : Nat) (rsvOk fmtGood aligned : Bool) (spans : List Nat) (extra : Bool) : Nat :=
  let p := d.workOf g
  if remOpc w ≠ opc then 11
  else if ¬ (rsvOk ∧ (suWait w).rsvOk) then 9
  else if ¬ fmtGood then 1
  else match d.suGroup p g (remGsize w) with
    | none => 8
    | some cs =>
      if ¬ aligned then 3
      else if d.roles p ≤ remRole w ∨ ¬ spans.all (fun a => decide (a + 16 ≤ cs.length * spadSize)) ∨ ¬ extra then 5
      else 0

/-- An operation joins the remote operations of the core and sends what it can. -/
def addRemote (g : Nat) (w : Word256) (sd : BitVec 192) (left : Nat) (fence : Bool) (d : Dev) : Dev :=
  let id := d.teril.nextOp
  let d := d.modTeril (fun t => { t with nextOp := t.nextOp + 1 })
  remotePump g (d.modCore g (fun c => { c with remote := c.remote ++
    [{ id := id, p := d.workOf g, w := w, sd := sd, issued := d.acyc, tags := [], left := left, fence := fence }] }))

/-- SU.RMA (R265 to R267). -/
def suRmaWord (g : Nat) (w : Word256) (d : Dev) : Dev :=
  let sd := sdDesc (d.sdReg g (rmaSd w))
  let rsvOk := wrsv w 0 11 9 && wrsv w 0 31 29 && wrsv w 4 31 24 && wrsv w 12 31 16 && wrsv w 20 31 0
  let cs := (gsizeCores g (remGsize w)).getD [g]
  let inTier := decide (sd.tier ≠ 3) && decide (sd.ebase + rmaLen w ≤ d.tierEnd g (d.workOf g) cs sd.tier) &&
    (decide (sd.tier = 2) || sd.hiZero)
  suWord g (remCause d g w 0x83 rsvOk true (decide (remRes w % 16 = 0)) [remRes w] inTier)
    (addRemote g w (d.sdReg g (rmaSd w)) (rmaLen w) false) d

def execSuRma (g : Nat) (w : Word256) (s : State) : Res := need (g < 80) .noSuchCore (upd s (suRmaWord g w))

/-- SU.AMO (R265, R268). -/
def suAmoWord (g : Nat) (w : Word256) (d : Dev) : Dev :=
  let rsvOk := wrsv w 0 15 12 && wrsv w 0 31 29 && wrsv w 4 31 0 && wrsv w 12 31 16
  let fmtGood := decide (amoType w < 2 ∨ (amoType w = 2 ∧ amoOp w = 0))
  let aligned := decide (remRes w % 16 = 0 ∧ amoOpnd w % 16 = 0 ∧ remAddr w % amoSize w = 0)
  suWord g (remCause d g w 0x84 rsvOk fmtGood aligned [remRes w, amoOpnd w] true) (addRemote g w 0 1 false) d

def execSuAmo (g : Nat) (w : Word256) (s : State) : Res := need (g < 80) .noSuchCore (upd s (suAmoWord g w))

/-- SU.FENCE (R273). -/
def suFenceWord (g : Nat) (w : Word256) (d : Dev) : Dev :=
  let rsvOk : Bool := wrsv w 0 15 9 ∧ wrsv w 0 31 25 ∧ (w >>> 32).toNat % 2 ^ 160 = 0 ∧ (suWait w).rsvOk
  suWord g (if remOpc w ≠ 0x85 then 11 else if ¬ rsvOk then 9
    else if ¬ wbit w 0 8 ∧ d.roles (d.workOf g) ≤ remRole w then 5 else 0) (addRemote g w 0 0 true) d

def execSuFence (g : Nat) (w : Word256) (s : State) : Res := need (g < 80) .noSuchCore (upd s (suFenceWord g w))

/-- The first operation of a list that has ended, with its position. -/
def firstEnded (waitMet : Word256 → Bool) : List RemoteOp → List RemoteOp → Option RemoteOp
  | _, [] => none
  | before, o :: os => if opEnded before o ∧ waitMet o.w then some o else firstEnded waitMet (before ++ [o]) os

/-- REMOTE_OP_COMPLETE (R269): the result record is written, and in the following a-cycle the counter counts; a fence writes no
record. What an operation with another status than OK returned carries no value guarantee (R16): OLD is a free value then. -/
def remoteComplete (g : Nat) (d : Dev) : Dev :=
  match firstEnded (d.waitMet g) [] (d.core g).remote with
  | none => d
  | some o =>
    let p := o.p
    let st := opStatus o
    let amo : Bool := remOpc o.w = 0x84
    let read := if amo ∧ st ≠ 0 then takeFree 64 d else (if amo then o.old else 0, d)
    let old := read.1
    let d := read.2
    let cores := (gsizeCores g (remGsize o.w)).getD [g]
    let rec_ := leBytes 4 (st + min o.retries 255 * 256) ++ leBytes 4 o.failed ++ leBytes 8 old.toNat
    let d := if o.fence then d else portWrite (g, 3, o.issued) d.acyc p cores (remRes o.w) rec_ d
    let d := d.modCore g (fun c => { c with remote := c.remote.filter (fun x => x.id ≠ o.id) })
    let d := if (suWait o.w).sen then ccIncFor p g (suWait o.w).sctr (d.acyc + 1) d else d
    remotePump g d

def execRemoteOpComplete (g : Nat) (s : State) : Res := need (g < 80) .noSuchCore (upd s (remoteComplete g))

/-! ### Event counter words (R422 to R428) -/

/-- A selector counts in a bank: kind 0 core, 1 partition, of partition p (R425, *Event sources*). -/
def selectorOk (part : Bool) (p src sub : Nat) : Bool :=
  if src = 0 then true
  else if part then
    if src < 0x40 ∨ 0x4C < src then false
    else if src = 0x46 ∨ src = 0x47 then decide (sub ≤ 8)
    else if src = 0x49 then decide (1 ≤ sub ∧ sub ≤ 4)
    else if src = 0x4B ∨ src = 0x4C then decide (p = 0 ∧ sub = 0)
    else decide (sub = 0)
  else
    if 0x10 < src then false
    else if 3 ≤ src ∧ src ≤ 6 then decide (sub ≤ 1)
    else if 0xC ≤ src ∧ src ≤ 0xF then decide (sub ≤ 3)
    else decide (sub = 0)

/-- Counters, samples and OVF bits of a mask set to 0. -/
def EvBank.clearMask (b : EvBank) (mask : Nat) : EvBank :=
  (List.range 8).foldl (fun b i =>
    if mask.testBit i then
      { b with cnt := tabSet 0 b.cnt i 0, samp := tabSet 0 b.samp i 0, tally := tabSet 0 b.tally i 0, ovf := b.ovf &&& ~~~ (1 <<< i : BitVec 8) }
    else b) b

/-- A bank after an SU.EVC in a-cycle `now`. -/
def evcBank (now : Nat) (w : Word256) (b : EvBank) : EvBank :=
  let mask := wfld w 0 15 8
  let b := { b.mark now with evcAt := some now }
  let b := if wbit w 0 16 then b.clearMask mask else b
  let b := (List.range 8).foldl (fun b n =>
    if mask.testBit n then { b with sel := tabSet 0 b.sel n (wfld w (8 + 2 * n) 7 0 + 256 * wfld w (8 + 2 * n) 14 8) } else b) b
  { b.setFreeze (wbit w 0 17) with frzOvf := wbit w 0 18, sample := wbit w 0 19 }

/-- The cause of illegality of an SU.EVC: 9 for a reserved field. -/
def evcCause (w : Word256) : Nat :=
  if wfld w 0 7 0 ≠ 0x86 then 11
  else if wrsv w 0 31 21 ∧ wrsv w 4 31 0 ∧ (List.range 8).all (fun n => ! wbit w (8 + 2 * n) 15) ∧ (suWait w).rsvOk then 0 else 9

/-- SU.EVC takes effect in one a-cycle, once its wait is met. -/
def suEvcWord (g : Nat) (w : Word256) (d : Dev) : Dev :=
  if d.suReady g ∧ evcCause w = 0 ∧ ¬ d.waitMet g w then d
  else suWord g (evcCause w) (fun d =>
    let d := if wbit w 0 20 then d.modPart (d.workOf g) (fun x => { x with bank := evcBank d.acyc w x.bank })
      else d.modCtx g (fun c => { c with bank := evcBank d.acyc w c.bank })
    if (suWait w).sen then ccInc g (suWait w).sctr d else d) d

def execSuEvc (g : Nat) (w : Word256) (s : State) : Res := need (g < 80) .noSuchCore (upd s (suEvcWord g w))

/-- The 80-byte counter record of a bank. -/
def counterRecord (b : EvBank) (snap : Bool) (epoch : Nat) : Bytes :=
  (List.range 8).flatMap (fun i => leBytes 8 (tabGet 0 (if snap then b.samp else b.cnt) i)) ++
    leBytes 8 (b.ovf.toNat + (if b.freeze then 256 else 0)) ++ leBytes 8 (if snap then b.sampEpoch else epoch)

/-- The group of an SU.EVR. -/
def evrGsize (w : Word256) : Nat := wfld w 0 13 10

/-- The cause of illegality of an SU.EVR. -/
def evrCause (d : Dev) (g : Nat) (w : Word256) : Nat :=
  let dst := wfld w 4 31 0
  if wfld w 0 7 0 ≠ 0x87 then 11
  else if ¬ (wrsv w 0 31 14 ∧ (w >>> 64).toNat % 2 ^ 128 = 0 ∧ (suWait w).rsvOk) then 9
  else match d.suGroup (d.workOf g) g (evrGsize w) with
    | none => 8
    | some cs => if dst % 16 ≠ 0 then 3 else if cs.length * spadSize < dst + 80 then 5 else 0

/-- SU.EVR writes the counter record of a bank. -/
def suEvrWord (g : Nat) (w : Word256) (d : Dev) : Dev :=
  if d.suReady g ∧ evrCause d g w = 0 ∧ ¬ d.waitMet g w then d
  else suWord g (evrCause d g w) (fun d =>
    let p := d.workOf g
    let b := if wbit w 0 8 then (d.part p).bank else (d.core g).ctx.bank
    let cores := (gsizeCores g (evrGsize w)).getD [g]
    let d := portWrite (g, 3, d.acyc) d.acyc p cores (wfld w 4 31 0) (counterRecord b (wbit w 0 9) (d.getF F.esEpochEpoch p)) d
    if (suWait w).sen then ccInc g (suWait w).sctr d else d) d

def execSuEvr (g : Nat) (w : Word256) (s : State) : Res := need (g < 80) .noSuchCore (upd s (suEvrWord g w))

end Sys2Proof.Machine
end

