-- ==== Sys2Proof/Machine/Contexts.lean ====
section
/-! DEFINITION. Contexts on cores: save, scrub, restore (R292 to R295, R373), lent cores (R303 to R305), groups that join and
leave a partition (R315), the views of a partition (PT_PART_STATE). -/

namespace Sys2Proof.Machine

open Sys2Proof

/-! ### Where a core stands -/

/-- The lend group that contains core g, with its number: one that is being taken, held or returned before any other. -/
def Dev.lendOf (d : Dev) (g : Nat) : Option (Nat × LendRt) :=
  let l := d.lends.filter (fun e => ((handleCores e.2.handle).getD []).contains g)
  (l.find? (fun e => decide (2 ≤ e.2.phase ∧ e.2.phase ≤ 4))).or ((l.find? (fun e => decide (e.2.phase = 5))).or l.head?)

/-- Phase of the lend group that contains core g; 0: none does. -/
def Dev.lendPhase (d : Dev) (g : Nat) : Nat :=
  match d.lendOf g with
  | some (_, x) => x.phase
  | none => 0

/-- The shared group that contains core g, with its number. -/
def Dev.sgOf (d : Dev) (g : Nat) : Option (Nat × SharedGroup) :=
  d.shared.find? (fun e => ((handleCores e.2.handle).getD []).contains g)

/-- The context of partition p on core g. -/
def Dev.pctx (d : Dev) (p g : Nat) : Ctx := if d.inCore p g then (d.core g).ctx else (d.saved p g).ctx

/-- The state of a core moves on. -/
def setCoreSt (g st : Nat) (d : Dev) : Dev :=
  (d.setF F.coreStateState g st).modCore g (fun c => { c with since := d.acyc })

/-- The core belongs to p, or to nobody. -/
def setOwner (g : Nat) (p : Option Nat) (d : Dev) : Dev :=
  match p with
  | some p => (d.setF F.coreStateOwned g 1).setF F.coreStatePart g p
  | none => (d.setF F.coreStateOwned g 0).setF F.coreStatePart g 0

/-- Cores of the partition's dedicated groups. -/
def Dev.dedicated (d : Dev) (p : Nat) : List Nat := (d.part p).groups.flatMap (fun h => (handleCores h).getD [])

/-- The partition whose dedicated group contains core g. -/
def Dev.dedicatedOf (d : Dev) (g : Nat) : Option Nat := (List.range 32).find? (fun p => (d.dedicated p).contains g)

/-- The partition whose context belongs on core g when nothing holds it elsewhere: its dedicated owner other than p0, or the running
grant of its shared group. -/
def Dev.homeOf (d : Dev) (g : Nat) : Option Nat :=
  match d.dedicatedOf g with
  | some p => if p = 0 then none else some p
  | none =>
    match d.sgOf g with
    | some (_, x) => x.run.bind (fun k => (x.grants[k]?).map (·.part))
    | none => none

/-! ### Saves, scrubs and restores -/

/-- A save starts on an idle core: its list pauses, its moves in flight stop and are saved with the context (R295). -/
def startSave (g : Nat) (d : Dev) : Dev :=
  if d.coreSt g ≠ 1 then d
  else (setCoreSt g 3 d).modCore g (fun c =>
    { c with moves := [], ctx := { c.ctx with susp := c.ctx.susp ++ c.moves, list := { c.ctx.list with paused := true } } })

/-- The scratchpad of core g, by offset. -/
def Dev.spadImage (d : Dev) (g : Nat) : Mem :=
  d.mem.spad.filterMap (fun e => if g * spadSize ≤ e.1 ∧ e.1 < (g + 1) * spadSize then some (e.1 - g * spadSize, e.2) else none)

/-- The scratchpad of core g takes the bytes given. -/
def putSpad (g : Nat) (m : Mem) (d : Dev) : Dev :=
  d.modMem (fun x =>
    { x with spad := m.foldl (fun s e => memSet s (g * spadSize + e.1) e.2) (memZero x.spad (g * spadSize) spadSize)
             spadUe := tabDrop x.spadUe (g * spadSize / 4) (spadSize / 4), spadCe := tabDrop x.spadCe (g * spadSize / 4) (spadSize / 4)
             overwritten := x.overwritten.filter (fun e => e.word / (spadSize / 4) ≠ g) })

/-- A scrub starts. -/
def startScrub (g : Nat) (d : Dev) : Dev := setCoreSt g 4 d

/-- The six save frames of core g of partition p: its place among the cores that p can occupy on the die, in ascending order (R293). -/
def Dev.saveFrames (d : Dev) (p g : Nat) : List Nat :=
  let cores := ((d.heldGroups p).flatMap (fun h => (handleCores h).getD [])).eraseDups
  let j := (cores.filter (fun c => decide (c / 20 = g / 20 ∧ c < g))).length
  (List.range 6).map (fun i => tabGet 0 (d.part p).saveFirst (g / 20) + 6 * j + i)

/-- An uncorrectable word of HBM lies in the save area of core g of partition p (R305). -/
def Dev.saveDamaged (d : Dev) (p g : Nat) : Bool :=
  d.mem.tags.any (fun e => e.2.ue && (d.saveFrames p g).contains (64 * e.1 / pageSize))

/-- The bytes of core g's scratchpad as a save reads them: those of its uncorrectable words are unpredictable. -/
def spadSaved (g : Nat) (d : Dev) : Mem × Dev :=
  let words := ((d.mem.spadUe.filter (fun e => e.2 && decide (e.1 / (spadSize / 4) = g))).map (·.1)).map (· % (spadSize / 4))
  words.foldl (fun (x : Mem × Dev) w => let r := takeBytes 4 x.2; (memWrite x.1 (4 * w) r.1, r.2)) (d.spadImage g, d)

/-- CONTEXT_SAVE_COMPLETE (R293, R294): the save area holds the context, and the core is scrubbed next. An uncorrectable error in
the area makes bytes of it unpredictable, here all of them (R305); one in the scratchpad that is saved, those it affects (log 165). -/
def saveDone (g : Nat) (ue : Bool) (d : Dev) : Dev :=
  if d.coreSt g ≠ 3 then d
  else
    let p := d.workOf g
    let (spad, d) := if ue then
        let read := takeBytes spadSize (d.raise F.ptStatusSaveUe)
        let b := read.1
        let d := read.2
        (memWrite [] 0 b, d)
      else spadSaved g d
    let lost := ue || (d.saved p g).ue || d.mem.spadUe.any (fun e => e.2 && decide (e.1 / (spadSize / 4) = g))
    let x : Saved := { ctx := (d.core g).ctx, spad := spad, ue := lost }
    let d := d.modMem (fun m => { m with tags := m.tags.filter (fun e => ! (d.saveFrames p g).contains (64 * e.1 / pageSize)) })
    startScrub g { d with saves := tabSet {} d.saves (saveKey p g) x }

/-- Everything Shear clears of a core (*State cleared by Shear, per core*). -/
def clearCore (g : Nat) (d : Dev) : Dev :=
  let d := d.modCore g (fun c =>
    { c with ctx := {}, hb0 := {}, hb1 := {}, se := {}, moves := [], code := [], unit := none, saveUe := false })
  let d := d.modMem (fun m => { m with tlbs := tabDel m.tlbs g })
  putSpad g [] d

/-- What is on its way to core g for a generation that ends is discarded as it arrives: HR_STATUS.DROP and the source HR_DROP (R388); one
flit is counted for a move and for a remote operation (log 167). -/
def lateDrop (d : Dev) (g : Nat) : Dev :=
  let n := ((d.core g).moves.filter (fun m => m.started.isSome)).length + (d.core g).remote.length
  (List.range n).foldl (fun d _ => evDie (dieOf g) 0x87 0 1 (d.raise F.hrStatusDrop (dieOf g))) d

/-- The same on those of the cores that p owns. -/
def lateDrops (p : Nat) (cores : List Nat) (d : Dev) : Dev := (cores.filter (fun g => decide (d.coreOwner g = some p))).foldl lateDrop d

/-- The restore of p's context starts on an unowned core. -/
def startRestore (g p : Nat) (d : Dev) : Dev :=
  if d.coreSt g ≠ 0 then d
  else (setOwner g (some p) (setCoreSt g 5 d)).modCore g (fun c => { c with next := none })

/-- CONTEXT_RESTORE_COMPLETE (R293, R295): the context stands in the core; its list and suspended moves go on; its code is fetched
again from now (R133). -/
def restoreDone (g : Nat) (d : Dev) : Dev :=
  if d.coreSt g ≠ 5 then d
  else
    let p := d.workOf g
    let x := d.saved p g
    let hit := d.saveDamaged p g
    let read := if hit then takeBytes spadSize (d.raise F.ptStatusSaveUe) else ([], d)
    let d := read.2
    let d := putSpad g (if hit then memWrite [] 0 read.1 else x.spad) { d with saves := tabDel d.saves (saveKey p g) }
    let d := d.modCore g (fun c =>
      { c with ctx := { x.ctx with susp := [], list := { x.ctx.list with paused := false } }
               moves := x.ctx.susp, saveUe := x.ue || hit
               code := (List.range 3).foldl (fun t e => tabSet {} t e { fetched := [(2 ^ 32, d.acyc)] }) [] })
    setCoreSt g 1 d

/-- An unowned core joins a dedicated group of p. -/
def joinCore (p : Nat) (d : Dev) (g : Nat) : Dev :=
  if d.coreSt g = 0 ∧ ¬ d.flag F.coreStateLent g then setOwner g (some p) (setCoreSt g 1 d) else d

/-- A core leaves its dedicated group: scrubbed where p's context stands on it, its save area dropped (R315). -/
def leaveCore (p : Nat) (d : Dev) (g : Nat) : Dev :=
  let d := { d with saves := tabDel d.saves (saveKey p g) }
  let d := d.modCore g (fun c => if c.next = some p then { c with next := none } else c)
  if d.coreOwner g = some p ∧ ¬ d.flag F.coreStateLent g ∧ d.coreSt g ≠ 4 ∧ d.coreSt g ≠ 0 ∧ d.coreSt g ≠ 6 then
    startScrub g d
  else d

/-! ### Views of a partition -/

/-- Contexts of p: dedicated groups of p1 to p31 and grants (R292). -/
def Dev.contexts (d : Dev) (p : Nat) : Nat :=
  (if p = 0 then 0 else (d.part p).groups.length) +
    (d.shared.filter (fun e => e.2.grants.any (fun x => x.part = p))).length

/-- PT_PART_STATE's CTX, SLICES, SHARED and CR as they stand. -/
def partView (p : Nat) (d : Dev) : Dev :=
  let d := d.setF F.ptPartStateCtx p (min (d.contexts p) 127)
  let d := d.setF F.ptPartStateSlices p (min (d.part p).pasids.length 511)
  let d := d.setF F.ptPartStateShared p (if d.shared.any (fun e => e.2.grants.any (fun x => x.part = p)) then 1 else 0)
  d.setF F.ptPartStateCr p (if (List.range 9).any (fun r => regCr (d.regWord p r)) then 1 else 0)

/-! ### Resizing (R315) -/

/-- One waiting resize of p takes effect: the cores join, or leave and are scrubbed. -/
def resizeOne (p : Nat) (x : Src × Nat × Nat) (d : Dev) : Dev :=
  let (c, h, op) := x
  let cores := (handleCores h).getD []
  if op = 0 then
    done c 0 (partView p (cores.foldl (joinCore p) (d.modPart p (fun x => { x with groups := x.groups ++ [h] }))))
  else
    let d := cores.foldl (leaveCore p) (d.modPart p (fun x => { x with groups := x.groups.filter (· ≠ h) }))
    if cores.any (fun g => decide (d.coreOwner g = some p)) then
      partView p (d.modPart p (fun x => { x with removing := x.removing ++ [(c, h)] }))
    else done c 0 (partView p d)

/-- The waiting resizes of p take effect, oldest first. -/
def applyResize (p : Nat) (d : Dev) : Dev :=
  (d.part p).resize.foldl (fun d x => resizeOne p x d) (d.modPart p (fun x => { x with resize := [] }))

/-- Cores of a handle that p still occupies. -/
def Dev.occupies (d : Dev) (p h : Nat) : Bool := ((handleCores h).getD []).any (fun g => decide (d.coreOwner g = some p))

/-- Removals whose last core has been scrubbed complete (R315). -/
def removals (d : Dev) : Dev :=
  (List.range 32).foldl (fun d p =>
    let gone := (d.part p).removing.filter (fun x => ! d.occupies p x.2)
    if gone = [] then d
    else gone.foldl (fun d x => done x.1 0 d)
      (d.modPart p (fun y => { y with removing := y.removing.filter (fun x => d.occupies p x.2) }))) d

end Sys2Proof.Machine
end

