-- ==== Sys2Proof/Machine/Hornbeam.lean ====
section
/-! DEFINITION. The Hornbeam matrix array: HB.OD, HB.MM from issue to completion, HB.END (R52 to R76, R139). -/

namespace Sys2Proof.Machine

open Sys2Proof

/-- The engine takes a word of its stream: the stream runs, has not met HB.END, and no grouped HB.MM holds it (R60). -/
def Dev.hbReady (d : Dev) (g e : Nat) : Bool :=
  (d.hb g e).running && !(d.hb g e).ending && (d.hb g e).heldBy.isEmpty

/-- An illegal Hornbeam word: cause recorded, RANGE for cause 7 and ILLEGAL for any other, the unit aborted with
ILLEGAL_INSTRUCTION (R62). -/
def hbIllegal (g e cause : Nat) (d : Dev) : Dev :=
  let i := g * 2 + e
  let d := (d.setF F.hbErrinfoCause i cause).setF F.hbErrinfoPart i (d.workOf g)
  abortOn g 1 e cause (d.raise (if cause = 7 then F.hbStatusRange else F.hbStatusIllegal) i)

/-- The word counts as issued. -/
def hbStep (g e : Nat) (d : Dev) : Dev := d.modHb g e (fun x => { x with pos := x.pos + 1 })

/-- A progress event of an engine: an HB.MM issues or completes (R391). -/
def hbProg (g e : Nat) (d : Dev) : Dev := d.modHb g e (fun x => { x with prog := x.prog.more d.acyc 1 })

/-- Operand descriptor i of an engine (R59). -/
def Dev.od (d : Dev) (g e i : Nat) : BitVec 128 :=
  tabGet 0 (if e = 0 then (d.core g).ctx.od0 else (d.core g).ctx.od1) i

/-- HB.OD writes a descriptor (R59). -/
def hbOdWord (g e : Nat) (w : Word256) (d : Dev) : Dev :=
  if ¬ d.hbReady g e then d
  else
    let d := hbStep g e d
    if wfld w 0 7 0 ≠ 0x40 then hbIllegal g e 10 d
    else if ¬ (wrsv w 0 31 13 ∧ wrsv w 4 95 0 ∧ wrsv w 0x1C 31 24) then hbIllegal g e 9 d
    else
      let i := wfld w 0 12 8
      let v : BitVec 128 := BitVec.ofNat 128 (wfld w 0x10 127 0)
      d.modCtx g (fun c => if e = 0 then { c with od0 := tabSet 0 c.od0 i v } else { c with od1 := tabSet 0 c.od1 i v })

def execHbOd (g e : Nat) (w : Word256) (s : State) : Res :=
  need (g < 80 && e < 2) .noSuchCore (upd s (hbOdWord g e w))

/-! ### Legality of HB.MM (R61) -/

/-- Formats that C and D may have for an accumulator (*Legal accumulator, C and D formats*). -/
def fcOk (acc fc : Nat) : Bool :=
  match acc with
  | 0 => fc = 8 || fc = 6
  | 1 => fc = 9 || fc = 7
  | _ => fc = 10 || fc = 5

def fdOk (acc fd : Nat) : Bool :=
  match acc with
  | 0 => fd = 8 || fd = 6 || fd ≤ 4
  | 1 => fd = 9 || fd = 7
  | _ => fd = 10 || fd = 5

/-- A descriptor keeps the alignment rule for a format: planes at multiples of 64 (R29, R59). -/
def odAligned (x : OdDesc) (f : Nat) : Bool := x.ebase % 64 = 0 && (lineScales f 1 = 0 || x.sbase % 64 = 0)

/-- It keeps the stride rules for lines of n elements. -/
def odStrides (x : OdDesc) (f n : Nat) : Bool :=
  x.estride % 64 = 0 && linePayload f n ≤ x.estride && lineScales f n ≤ (if lineScales f 1 = 0 then 0 else x.sstride)

/-- All `lines` lines of n elements lie below `span` (R61). -/
def odInRange (x : OdDesc) (f lines n span : Nat) : Bool :=
  x.ebase + (lines - 1) * x.estride + linePayload f n ≤ span &&
    (lineScales f 1 = 0 || x.sbase + (lines - 1) * x.sstride + lineScales f n ≤ span)

/-- Cores of the group of an HB.MM at engine e of core g, when it is formed in partition p (R60, R61). -/
def mmCores (d : Dev) (p g e gsize : Nat) : Option (List Nat) :=
  if 8 < gsize ∨ (0 < gsize ∧ e ≠ 0) then none
  else match gsizeCores g gsize with
    | some cs => if cs.all (fun c => d.holdsCore p c) then some cs else none
    | none => none

/-- The cause an HB.MM is illegal for, tested in the order of the codes with reserved fields first; an ESTRIDE that is no multiple of 64
counts as cause 6 (log 20); 0: legal. -/
def mmCause (d : Dev) (g e : Nat) (w : Word256) : Nat :=
  let o := mmOp w
  let desc := fun i => odDesc (d.od g e i)
  if ¬ o.rsvOk ∨ (o.fd = 5 ∧ o.xgiven ∧ 16 ≤ o.xd) then 9
  else match pairMode o.fa o.fb with
    | none => 1
    | some (acc, _) =>
      if (o.acc ∧ ¬ fcOk acc o.fc) ∨ ¬ fdOk acc o.fd then 2
      else if 1048576 < o.k then 3
      else match mmCores d (d.workOf g) g e o.gsize with
        | none => 4
        | some cs =>
          let a := desc o.oda
          let b := desc o.odb
          let c := desc o.odc
          let dd := desc o.odd
          let span := cs.length * spadSize
          if ¬ (odAligned a o.fa ∧ odAligned b o.fb ∧ odAligned dd o.fd ∧ (o.acc → odAligned c o.fc)) then 5
          else if ¬ (odStrides a o.fa o.k ∧ odStrides b o.fb o.k ∧ odStrides dd o.fd o.n ∧
              (o.acc → odStrides c o.fc o.n)) then 6
          else if ¬ ((o.k = 0 ∨ (odInRange a o.fa o.m o.k span ∧ odInRange b o.fb o.n o.k span)) ∧
              odInRange dd o.fd o.m o.n span ∧ (o.acc → odInRange c o.fc o.m o.n span)) then 7
          else if o.fd = 5 ∧ ¬ o.xgiven then 8
          else 0

/-! ### Issue (R60, R66 to R70) -/

/-- HB.MM issues: it reads its descriptors, and a grouped one holds every other Hornbeam stream of its group (R60). -/
def hbMmWord (g e : Nat) (w : Word256) (d : Dev) : Dev :=
  if ¬ d.hbReady g e then d
  else
    let n := (d.hb g e).pos
    let d := hbStep g e d
    if wfld w 0 7 0 ≠ 0x41 then hbIllegal g e 10 d
    else
      let cause := mmCause d g e w
      if cause ≠ 0 then hbIllegal g e cause d
      else
        let o := mmOp w
        let x : MmRt := { w := w, oda := d.od g e o.oda, odb := d.od g e o.odb, odc := d.od g e o.odc,
                          odd := d.od g e o.odd, issued := d.acyc, seq := n }
        let d := hbProg g e (d.modHb g e (fun h => { h with mms := h.mms ++ [x] }))
        (mmArrays g e o.gsize).foldl (fun d a =>
          if a = (g, e) then d else d.modHb a.1 a.2 (fun h => { h with heldBy := g :: h.heldBy })) d

def execHbMm (g e : Nat) (w : Word256) (s : State) : Res :=
  need (g < 80 && e < 2) .noSuchCore (upd s (hbMmWord g e w))

/-- HB.MM y, of engine e' of core c, stands before x, of engine e of core g, in issue order. -/
def mmBefore (c e' : Nat) (y : MmRt) (g e : Nat) (x : MmRt) : Bool :=
  decide (y.issued < x.issued ∨ (y.issued = x.issued ∧ (c * 2 + e' < g * 2 + e ∨ (c = g ∧ e' = e ∧ y.seq < x.seq))))

/-- The last A row of an HB.MM has entered array number j of its group. -/
def MmRt.rowsIn (y : MmRt) (j n : Nat) : Bool :=
  y.t0.isSome && (match (mmSched (mmOp y.w) j n).getLast? with
    | some q => decide (runBase + q.start + q.rows ≤ y.ran + 1)
    | none => true)

/-- An HB.MM issued earlier, with rows still to enter, is on an array of the group (R60, R68, R71). -/
def Dev.mmBlocked (d : Dev) (g e : Nat) (x : MmRt) : Bool :=
  let mine := mmArrays g e (mmOp x.w).gsize
  d.cores.any (fun c => [0, 1].any (fun e' => (d.hb c.1 e').mms.any (fun y =>
    mmBefore c.1 e' y g e x &&
      (let theirs := mmArrays c.1 e' (mmOp y.w).gsize
       theirs.zipIdx.any (fun a => mine.contains a.1 && ! y.rowsIn a.2 theirs.length)))))

/-- The earliest a-cycle in which the first row may enter if no tile had to be loaded (R68, R74); none: the wait is not satisfied. -/
def mmUntiled (d : Dev) (g e : Nat) (x : MmRt) : Option Nat :=
  let o := mmOp x.w
  let lat := groupLat o.gsize
  let free := ((mmArrays g e o.gsize).map (fun a => (d.hb a.1 a.2).rowFree)).foldl max 0
  let base := max (x.issued + lat) free
  if o.wen then (d.ccSince g o.wctr o.wval).map (fun t => max base (t + 1 + lat)) else some base

/-- The earliest a-cycle in which the first row may enter (R68, R74). -/
def mmEarliest (d : Dev) (g e : Nat) (x : MmRt) : Option Nat :=
  let o := mmOp x.w
  let began := ((mmArrays g e o.gsize).map (fun a => ((d.hb a.1 a.2).passBegan.map (· + 128)).getD 0)).foldl max 0
  (mmUntiled d g e x).map (fun t => if o.k = 0 then t else max t (max (x.issued + groupLat o.gsize + 128) began))

/-! ### Reading operands (R59, R63, R75) -/

/-- An HB.MM at work: issuing core and engine, the word, partition and cores of its group. -/
structure MmJob where
  g : Nat
  e : Nat
  x : MmRt
  p : Nat
  cores : List Nat
  deriving DecidableEq, Repr

def Dev.mmJob (d : Dev) (g e : Nat) (x : MmRt) : MmJob :=
  ⟨g, e, x, d.workOf g, (gsizeCores g (mmOp x.w).gsize).getD [g]⟩

/-- Bits and scale code of element k of line i of an operand, with the worst status of their bytes. -/
def mmElem (j : MmJob) (taint : List (Nat × Nat)) (x : OdDesc) (f i k : Nat) (d : Dev) : ((Nat × Nat) × Nat) × Dev :=
  let who := (j.g, j.e, j.x.seq)
  let w := if isBs f then (bsFmt f).width else 8 * (if f = 5 then 4 else plainSize f)
  let o := if isBs f then k / 32 * bsPayload f * 8 + k % 32 * w else k * w
  let read := portRead who j.x.issued taint j.p j.cores (x.ebase + i * x.estride + o / 8) ((o % 8 + w + 7) / 8) d
  let b := leNat read.1.1 / 2 ^ (o % 8) % 2 ^ w
  if lineScales f 1 = 0 then (((b, 0), read.1.2), read.2)
  else
    let so := if isBs f then k / 32 else k / 24
    let sc := portRead who j.x.issued taint j.p j.cores (x.sbase + i * x.sstride + so) 1 read.2
    let v := leNat sc.1.1
    (((b, if isBs f then v else v / 2 ^ (4 * (k / 12 % 2)) % 16), max read.1.2 sc.1.2), sc.2)

/-- Elements of an operand, by (line, index). -/
def mmElems (j : MmJob) (taint : List (Nat × Nat)) (x : OdDesc) (f : Nat) (l : List (Nat × Nat)) (d : Dev) :
    (List (Nat × Nat) × Nat) × Dev :=
  l.foldl (fun a i =>
    let r := mmElem j taint x f i.1 i.2 a.2
    ((a.1.1 ++ [r.1.1], max a.1.2 r.1.2), r.2)) (([], 0), d)

/-- A corrected word sets CE of the array's engine; an uncorrectable one sets DATA_LOST of the engine, and the unit completes with DATA_LOST
(R75). -/
def mmStatus (j : MmJob) (a : Nat × Nat) (st : Nat) (d : Dev) : Dev :=
  if st = 0 then d
  else if st = 1 then health 0 1 (d.raise F.hbStatusCe (a.1 * 2 + a.2))
  else unitLost j.g j.e (health 1 1 (d.raise F.hbStatusDataLost (j.g * 2 + j.e)))

/-- The HB.MM of a job, as it stands. -/
def modMm (j : MmJob) (f : MmRt → MmRt) (d : Dev) : Dev :=
  d.modHb j.g j.e (fun h => { h with mms := h.mms.map (fun y => if y.seq = j.x.seq then f y else y) })

/-- Line i of an operand as it stands: the values of its n elements. -/
def Dev.odLine (d : Dev) (p : Nat) (cores : List Nat) (x : OdDesc) (f i n : Nat) : List (Num × Num) :=
  let pl := d.spadRead p cores (x.ebase + i * x.estride) (linePayload f n)
  let sc := d.spadRead p cores (x.sbase + i * x.sstride) (lineScales f n)
  (List.range n).map (elemValue f pl sc)

/-- Element (m, n) of the product of operands as they stand: row m and column n reduced over K from 0 or C (R49). -/
def mmValue (d : Dev) (j : MmJob) (m n : Nat) : Num × Num :=
  let o := mmOp j.x.w
  let init := if o.acc then (d.odLine j.p j.cores (odDesc j.x.odc) o.fc m o.n).getD n (Num.zero, Num.zero) else (Num.zero, Num.zero)
  (dotSpans (mmAcc o) (d.odLine j.p j.cores (odDesc j.x.oda) o.fa m o.k) (d.odLine j.p j.cores (odDesc j.x.odb) o.fb n o.k) init).1

/-! ### Writing rows (R63, R65, R74) -/

/-- The destination scale that narrowing is given: a zero result of K = 0 is written with scale code 0 (R74, log 21). -/
def mmGiven (o : MmOp) : Option Nat := if o.k = 0 ∧ ¬ o.acc ∧ isBs o.fd then none else o.given

/-- The part of a destination line that column tile t writes, from the values of the line's columns: payload offset and bytes, scale offset
and bytes, what R51 counts. A cq16 block that straddles two tiles is narrowed whole; each tile writes its own columns, and the tile of its
first column counts it and writes the exponent byte that begins there (R43, log 146). -/
def tileOut (o : MmOp) (vals : Nat → Num × Num) (t : Nat) : (Nat × Bytes) × (Nat × Bytes) × NumEv :=
  let nt := (modeShape (mmMode o)).2.1
  let c0 := t * nt
  let c1 := min o.n (c0 + nt)
  let cut := fun (k : Nat) =>
    let lo := k * ceilDiv c0 k
    narrowLine o.fd (mmGiven o) o.shift ((List.range (min o.n (k * ceilDiv c1 k) - lo)).map (fun i => vals (lo + i)))
  if o.fd = 5 then
    let lo := c0 / 12 * 12
    let pl := (narrowLine 5 (mmGiven o) o.shift ((List.range (min o.n (12 * ceilDiv c1 12) - lo)).map (fun i => vals (lo + i)))).1
    let own := pl.drop ((c0 - lo) * 4)
    ((c0 * 4, if c1 = o.n then own else own.take ((c1 - c0) * 4)), (ceilDiv c0 24, (cut 24).2.1), (cut 12).2.2)
  else
    let q := cut 1
    (((if isBs o.fd then c0 / 32 * bsPayload o.fd else c0 * plainSize o.fd), q.1), (c0 / 32, q.2.1), q.2.2)

/-- Bytes of a destination line: those that overlap an operand are unpredictable (R63). -/
def mmPut (j : MmJob) (l : Nat) (b : Bytes) (d : Dev) : Dev :=
  let src := mmSources j.x
  let who := (j.g, j.e, j.x.seq)
  if (List.range b.length).any (fun i => inRanges src (l + i)) then
    portWrite who j.x.issued j.p j.cores l (b.zipIdx.map (fun y =>
      if inRanges src (l + y.2) then Config.free 8 (d.free + y.2) else y.1)) { d with free := d.free + b.length }
  else portWrite who j.x.issued j.p j.cores l b d

/-- Column tile t of destination row m is written from the accumulators, on array a (R65); a row that an uncorrectable error affects is
unpredictable (R75). -/
def mmWriteTile (j : MmJob) (a : Nat × Nat) (t m : Nat) (vals : Nat → Num × Num) (bad : Bool) (d : Dev) : Dev :=
  let o := mmOp j.x.w
  let od := odDesc j.x.odd
  let r := tileOut o vals t
  let el := od.ebase + m * od.estride + r.1.1
  let sl := od.sbase + m * od.sstride + r.2.1.1
  if bad then spadFree j.p j.cores sl r.2.1.2.length (spadFree j.p j.cores el r.1.2.length d)
  else evNum a.1 a.2 r.2.2 (mmPut j sl r.2.1.2 (mmPut j el r.1.2 d))

/-! ### The arrays at work (R53 to R56, R66 to R74) -/

/-- What an array does in an a-cycle for a pass: a row of the shadow set loads, the pass begins, row r enters, row r reaches the output
stage; with K = 0 only destination rows are written. -/
inductive HbEv where
  | load (q : MmPass) (u : Nat)
  | start (q : MmPass) (wait : Nat)
  | enter (q : MmPass) (r : Nat)
  | out (q : MmPass) (r : Nat)
  | init (m : Nat)
  deriving DecidableEq, Repr

/-- K indices of a pass that row u of the shadow set carries (*Array organisation per mode*). -/
def loadKs (o : MmOp) (q : MmPass) (u : Nat) : List Nat :=
  let kp := (modeShape (mmMode o)).1
  let lo := u * kp / 128
  ((List.range ((u + 1) * kp / 128 - lo)).map (fun i => q.pass * kp + lo + i)).filter (· < o.k)

/-- Events of a pass with their time and their order within an a-cycle, and the wait for its tile. -/
def passEvents (o : MmOp) (q : MmPass) (wait : Nat) : List (Nat × Nat × HbEv) :=
  (if q.loads then ((List.range 128).filter (fun u => loadKs o q u ≠ [])).map (fun u => (q.start + u + 1, 3, HbEv.load q u)) else []) ++
    (runBase + q.start, 0, HbEv.start q wait) ::
    (List.range q.rows).flatMap (fun r => [(runBase + q.start + r, 1, HbEv.enter q r), (runBase + q.start + 271 + r, 2, HbEv.out q r)])

/-- Waits before each pass for its tile: passes with the wait. -/
def withWaits : Option MmPass → List MmPass → List (MmPass × Nat)
  | _, [] => []
  | none, q :: qs => (q, 0) :: withWaits (some q) qs
  | some r, q :: qs => (q, q.start - r.start - r.rows) :: withWaits (some q) qs

/-- Every event of array number i of n; with K = 0 array 0 writes the rows (R74). -/
def mmEvents (o : MmOp) (i n : Nat) : List (Nat × Nat × HbEv) :=
  if o.k = 0 then (if i = 0 then (List.range o.m).map (fun m => (runBase + 15 + m, 2, HbEv.init m)) else [])
  else (withWaits none (mmSched o i n)).flatMap (fun q => passEvents o q.1 q.2)

/-- K indices of a pass. -/
def passKs (o : MmOp) (q : MmPass) : List Nat :=
  let kp := (modeShape (mmMode o)).1
  ((List.range kp).map (fun i => q.pass * kp + i)).filter (· < o.k)

/-- Columns of a tile. -/
def tileCols (o : MmOp) (t : Nat) : Nat := let nt := (modeShape (mmMode o)).2.1; min nt (o.n - t * nt)

/-- Destination row of row r of a pass. -/
def passRow (o : MmOp) (q : MmPass) (r : Nat) : Nat := q.chunk * (modeShape (mmMode o)).2.2.1 + r

/-- A row of the shadow set loads: the B elements of its K indices, column by column (R53); the first one of a tile empties the set. -/
def loadRow (j : MmJob) (a : Nat × Nat) (q : MmPass) (u : Nat) (d : Dev) : Dev :=
  let o := mmOp j.x.w
  let nt := (modeShape (mmMode o)).2.1
  let ks := loadKs o q u
  let r := ks.foldl (fun acc k =>
    let e := mmElems j (mmDest j.x) (odDesc j.x.odb) o.fb ((List.range (tileCols o q.tile)).map (fun c => (q.tile * nt + c, k))) acc.2
    ((acc.1.1 ++ [e.1.1], max acc.1.2 e.1.2), e.2)) ((([] : Tile), 0), d)
  let first : Bool := decide (ks.head? = some (q.pass * (modeShape (mmMode o)).1))
  mmStatus j a r.1.2 (r.2.modHb a.1 a.2 (fun h =>
    { h with shadow := if first then r.1.1 else h.shadow ++ r.1.1, shadowBad := (! first && h.shadowBad) || decide (r.1.2 = 2) }))

/-- A pass begins: the shadow set becomes the active set (R53). -/
def startPass (a : Nat × Nat) (q : MmPass) (wait t : Nat) (d : Dev) : Dev :=
  evCore a.1 0x06 a.2 wait (d.modHb a.1 a.2 (fun h =>
    { h with passBegan := some t
             active := if q.loads then h.shadow else h.active
             activeBad := if q.loads then h.shadowBad else h.activeBad }))

/-- An A row enters: its products with the tile, summed exactly span by span, run down the columns (R54, R55). -/
def enterRow (j : MmJob) (a : Nat × Nat) (q : MmPass) (r t : Nat) (d : Dev) : Dev :=
  let o := mmOp j.x.w
  let m := passRow o q r
  let e := mmElems j (mmDest j.x) (odDesc j.x.oda) o.fa ((passKs o q).map (fun k => (m, k))) d
  let row := e.1.1.map (fun y => codeValue o.fa y.1 y.2)
  let h := e.2.hb a.1 a.2
  let sums := (List.range (tileCols o q.tile)).map (fun c =>
    spanSums (mmAcc o) row (h.active.map (fun s => let y := s.getD c (0, 0); codeValue o.fb y.1 y.2)))
  let x : PipeRow := { mm := (j.g, j.e, j.x.seq), due := t + 271, tile := q.tile, row := r, sums := sums }
  let d := mmStatus j a e.1.2 (e.2.modHb a.1 a.2 (fun h => { h with pipe := h.pipe ++ [x], rowFree := t + 1 }))
  if e.1.2 = 2 ∨ h.activeBad then modMm j (fun y => { y with bad := if y.bad.contains m then y.bad else y.bad ++ [m] }) d else d

/-- Initial accumulators of a tile of row m: zero, or C widened exactly (R49). -/
def initRow (j : MmJob) (a : Nat × Nat) (t m : Nat) (d : Dev) : List (Num × Num) × Dev :=
  let o := mmOp j.x.w
  let nt := (modeShape (mmMode o)).2.1
  if ¬ o.acc then ((List.range (tileCols o t)).map (fun _ => (Num.zero, Num.zero)), d)
  else
    let e := mmElems j (if mmSame j.x then [] else mmDest j.x) (odDesc j.x.odc) o.fc
      ((List.range (tileCols o t)).map (fun c => (m, t * nt + c))) d
    let d := mmStatus j a e.1.2 e.2
    (e.1.1.map (fun y => codeValue o.fc y.1 y.2),
      if e.1.2 = 2 then modMm j (fun y => { y with bad := if y.bad.contains m then y.bad else y.bad ++ [m] }) d else d)

/-- Row m has met an uncorrectable word or a failed register set. -/
def Dev.mmBad (d : Dev) (j : MmJob) (m : Nat) : Bool := (d.hb j.g j.e).mms.any (fun y => decide (y.seq = j.x.seq) && y.bad.contains m)

/-- A row reaches the output stage: its spans are added to the running accumulators of the bank, and on the last pass the row is narrowed
and written (R55, R56, R65). -/
def outRow (j : MmJob) (a : Nat × Nat) (q : MmPass) (r : Nat) (d : Dev) : Dev :=
  let o := mmOp j.x.w
  let kp := (modeShape (mmMode o)).1
  let nt := (modeShape (mmMode o)).2.1
  let m := passRow o q r
  let mine : PipeRow → Bool := fun y => decide (y.mm = (j.g, j.e, j.x.seq) ∧ y.tile = q.tile ∧ y.row = r)
  match (d.hb a.1 a.2).pipe.find? mine with
  | none => d
  | some x =>
    let read := initRow j a q.tile m d
    let bank := fun (h : HbEngine) => if q.half = 0 then h.bank0 else h.bank1
    let h := read.2.hb a.1 a.2
    let acc := fun c => if q.pass = 0 then read.1.getD c (Num.zero, Num.zero) else accValue (mmAcc o) (tabGet 0 (bank h) (r * 128 + c))
    let new := x.sums.zipIdx.map (fun s => addSpans (mmAcc o) (acc s.2) s.1)
    let put := fun (t : Tab (BitVec 64)) => new.zipIdx.foldl (fun t y => tabSet 0 t (r * 128 + y.2) (accBits (mmAcc o) y.1.1)) t
    let d := (if q.pass = 0 then read.2 else d).modHb a.1 a.2 (fun h =>
      { h with pipe := h.pipe.eraseP mine
               bank0 := if q.half = 0 then put h.bank0 else h.bank0
               bank1 := if q.half = 0 then h.bank1 else put h.bank1 })
    let d := evNum a.1 a.2 (NumEv.sum (new.map (·.2))) d
    if (q.pass + 1) * kp < o.k then d
    else
      let vals := fun c =>
        match new[c - q.tile * nt]? with
        | some v => if q.tile * nt ≤ c then v.1 else mmValue d j m c
        | none => mmValue d j m c
      mmWriteTile j a q.tile m vals (d.mmBad j m) d

/-- Row m of a product over K = 0: the initial values, every column tile (R74). -/
def zeroRow (j : MmJob) (a : Nat × Nat) (m : Nat) (d : Dev) : Dev :=
  let o := mmOp j.x.w
  let nt := (modeShape (mmMode o)).2.1
  let arrays := mmArrays j.g j.e o.gsize
  (List.range (ceilDiv o.n nt)).foldl (fun d t =>
    let read := initRow j a t m d
    let vals := fun c => if t * nt ≤ c ∧ c < t * nt + tileCols o t then read.1.getD (c - t * nt) (Num.zero, Num.zero) else mmValue d j m c
    mmWriteTile j (arrays.getD (t % arrays.length) a) t m vals (read.2.mmBad j m) read.2) d

/-- One event, in the a-cycle t. -/
def hbEvent (j : MmJob) (a : Nat × Nat) (t : Nat) : HbEv → Dev → Dev
  | .load q u, d => loadRow j a q u d
  | .start q w, d => startPass a q w t d
  | .enter q r, d => enterRow j a q r t d
  | .out q r, d => outRow j a q r d
  | .init m, d => zeroRow j a m d

/-- Useful MACs of a row that enters (R73). -/
def rowMacs (o : MmOp) : HbEv → Nat
  | .enter q _ => tileCols o q.tile * (passKs o q).length
  | _ => 0

/-- Array number i of the group runs from `lo` to `hi`: its events in order, and the MACs it offered and performed (R73). -/
def runArray (j : MmJob) (i n : Nat) (a : Nat × Nat) (lo hi t0 : Nat) (d : Dev) : Dev :=
  let o := mmOp j.x.w
  let evs := sortL (fun x y => decide (x.1 < y.1 ∨ (x.1 = y.1 ∧ x.2.1 ≤ y.2.1)))
    ((mmEvents o i n).filter (fun x => decide (lo < x.1 ∧ x.1 ≤ hi)))
  let d := evs.foldl (fun d x => hbEvent j a (t0 + x.1 - runBase) x.2.2 d) d
  if o.k = 0 then d
  else
    let cycles := min hi (runBase + mmStream o n - 1) - max lo (runBase - 1)
    let useful := sumL (evs.map (fun x => rowMacs o x.2.2))
    evCore a.1 0x04 a.2 ((modeShape (mmMode o)).2.2.2 * cycles - useful) (evCore a.1 0x03 a.2 useful d)

/-- The arrays of an HB.MM run up to the present a-cycle. -/
def mmRun (g e : Nat) (x : MmRt) (d : Dev) : Dev :=
  match x.t0 with
  | none => d
  | some t0 =>
    let hi := d.acyc + runBase - (t0 + x.late)
    if hi ≤ x.ran then d
    else
      let j := d.mmJob g e x
      let arrays := mmArrays g e (mmOp x.w).gsize
      let d := arrays.zipIdx.foldl (fun d a => runArray j a.2 arrays.length a.1 x.ran hi (t0 + x.late) d) d
      modMm j (fun y => { y with ran := hi }) d

/-- Every HB.MM at work on engine e of core g runs up to the present a-cycle. -/
def hbRun (g e : Nat) (d : Dev) : Dev := (d.hb g e).mms.foldl (fun d x => mmRun g e x d) d

/-- One a-cycle of both arrays of core g. -/
def hbTick (g : Nat) (d : Dev) : Dev := hbRun g 1 (hbRun g 0 d)

/-- A stall of n a-cycles from a-cycle t stops every array of the HB.MM's group: it counts on each, and moves what every HB.MM at work on them
still has to do, and the entry of the next one's rows (R68, R70, R73). -/
def hbStall (g e : Nat) (x : MmRt) (t n : Nat) (d : Dev) : Dev :=
  if n = 0 then d
  else
    let arrays := mmArrays g e (mmOp x.w).gsize
    let d := arrays.foldl (fun d a => evCore a.1 0x05 a.2 n (d.modHb a.1 a.2 (fun h =>
      { h with rowFree := max h.rowFree (t + n), passBegan := h.passBegan.map (fun b => if t < b + 128 then b + n else b) }))) d
    d.cores.foldl (fun d c => [0, 1].foldl (fun d e' => (d.hb c.1 e').mms.foldl (fun d y =>
      let theirs := mmArrays c.1 e' (mmOp y.w).gsize
      if y.t0.isNone ∨ ¬ theirs.any (fun a => arrays.contains a) then d
      else
        let o := mmOp y.w
        let d := if o.k ≠ 0 ∧ y.ran + 1 < runBase + mmStream o theirs.length then
            theirs.foldl (fun d a => evCore a.1 0x04 a.2 ((modeShape (mmMode o)).2.2.2 * n) d) d
          else d
        modMm (d.mmJob c.1 e' y) (fun z => { z with late := z.late + n }) d) d) d) d

/-- The first row enters at its earliest a-cycle plus the stall given (R68, R70); the a-cycles in which only the tile was awaited are
counted (R70). -/
def mmFirstRow (g e stall : Nat) (d : Dev) : Dev :=
  match (d.hb g e).mms.find? (fun x => x.t0.isNone) with
  | none => d
  | some x =>
    match mmEarliest d g e x, mmUntiled d g e x with
    | some t, some u =>
      if d.acyc < t + stall ∨ d.mmBlocked g e x then d
      else
        let o := mmOp x.w
        let d := modMm (d.mmJob g e x) (fun y => { y with t0 := some (t + stall) }) d
        let d := (mmArrays g e o.gsize).foldl (fun d a => evCore a.1 0x06 a.2 (t - u) (evCore a.1 0x05 a.2 stall d)) d
        mmRun g e { x with t0 := some (t + stall) } d
    | _, _ => d

def execHbMmFirstRow (g e stall : Nat) (s : State) : Res :=
  need (g < 80 && e < 2) .noSuchCore (upd s (mmFirstRow g e stall))

/-! ### Completion (R60, R69, R71, R74, R75, R111) -/

/-- A stream whose HB.END has issued ends once no HB.MM of it executes (R139). -/
def hbDrain (g e : Nat) (d : Dev) : Dev :=
  if (d.hb g e).ending ∧ (d.hb g e).mms = [] then d.modHb g e (fun h => { h with running := false, ending := false })
  else d

/-- A bank error or a parity failure that the completion reports (R75): CE, or the affected rows unpredictable and DATA_LOST. -/
def mmEvent (g e : Nat) (x : MmRt) (ev : MmEvent) (d : Dev) : Dev :=
  let j := d.mmJob g e x
  let o := mmOp x.w
  let od := odDesc x.odd
  match ev with
  | .clean => d
  | .corrected => mmStatus j (g, e) 1 d
  | .lost rows => mmStatus j (g, e) 2 ((rows.filter (· < o.m)).foldl (fun d i =>
      spadFree j.p j.cores (od.sbase + i * od.sstride) (lineScales o.fd o.n)
        (spadFree j.p j.cores (od.ebase + i * od.estride) (linePayload o.fd o.n) d)) d)

/-- A-cycle in which an HB.MM completes without a further stall (R69, R74). -/
def mmDue (g e : Nat) (x : MmRt) : Option Nat :=
  x.t0.map (fun t => t + x.late + mmLatency (mmOp x.w) (mmArrays g e (mmOp x.w).gsize).length)

/-- HB.MM x completes, `stall` a-cycles late: D is valid, SCTR counts on every core of the group, held streams resume (R60, R69, R111). -/
def mmFinish (g e stall t : Nat) (ev : MmEvent) (x : MmRt) (d : Dev) : Dev :=
  let o := mmOp x.w
  let d := mmEvent g e x ev (hbStall g e x t stall (mmRun g e x d))
  let d := if o.sen then ((gsizeCores g o.gsize).getD [g]).foldl (fun d c => ccIncAt c o.sctr (t + stall) d) d else d
  let d := hbProg g e (d.modHb g e (fun h => { h with mms := h.mms.filter (fun y => y.seq ≠ x.seq) }))
  hbDrain g e (pruneOld (releaseHold g e x d))

/-- HB_MM_COMPLETION: the oldest HB.MM of the engine whose a-cycle of R69 or R74, moved by the stall, has come; one with a shorter way
may complete before an older one (log 147). -/
def mmComplete (g e stall : Nat) (ev : MmEvent) (d : Dev) : Dev :=
  match (d.hb g e).mms.find? (fun x => (mmDue g e x).any (fun t => decide (t + stall ≤ d.acyc))) with
  | none => d
  | some x => mmFinish g e stall ((mmDue g e x).getD 0) ev x d

def execHbMmCompletion (g e : Nat) (x : MmEnd) (s : State) : Res :=
  need (g < 80 && e < 2) .noSuchCore (upd s (mmComplete g e x.stall x.ev))

/-- HB.END ends the stream once every HB.MM before it has completed (R139). -/
def hbEndWord (g e : Nat) (w : Word256) (d : Dev) : Dev :=
  if ¬ d.hbReady g e then d
  else
    let d := hbStep g e d
    if wfld w 0 7 0 ≠ 0x4F then hbIllegal g e 10 d
    else if ¬ wrsv w 0 255 8 then hbIllegal g e 9 d
    else hbDrain g e (d.modHb g e (fun h => { h with ending := true }))

def execHbEnd (g e : Nat) (w : Word256) (s : State) : Res :=
  need (g < 80 && e < 2) .noSuchCore (upd s (hbEndWord g e w))

end Sys2Proof.Machine
end

