-- ==== Sys2Proof/Machine/Signal.lean ====
section
/-! DEFINITION. The signal engine: bundles and issue, lane masks, loops, every instruction of R94, counters and unit end
(R77 to R106). The slots of a bundle are commanded in the order M, V0, V1, S within one a-cycle (log 22). -/

namespace Sys2Proof.Machine

open Sys2Proof

/-! ### Registers -/

/-- The physical register a logical name stands for, through the rotating span (R80). -/
def SeRegs.phys (r : SeRegs) (n : Nat) : Nat :=
  if r.rs ≠ 0 ∧ r.rb ≤ n ∧ n < r.rb + r.rs then r.rb + (n - r.rb + r.rrb) % r.rs else n

def SeRegs.vr (r : SeRegs) (n : Nat) : BitVec 1024 := tabGet 0 r.v (r.phys n)
def SeRegs.sr (r : SeRegs) (n : Nat) : BitVec 64 := tabGet 0 r.s (n % 32)
def SeRegs.ar (r : SeRegs) (n : Nat) : BitVec 32 := tabGet 0 r.a (n % 16)
def SeRegs.mr (r : SeRegs) (n : Nat) : BitVec 64 := tabGet 0 r.m (n % 8)
/-- k0 reads as all ones (*Signal-engine registers*). -/
def SeRegs.kr (r : SeRegs) (n : Nat) : BitVec 32 := if n % 8 = 0 then 0xFFFFFFFF else tabGet 0 r.k (n % 8)

def Dev.se (d : Dev) (g : Nat) : SeRegs := (d.core g).ctx.se
def Dev.modRegs (d : Dev) (g : Nat) (f : SeRegs → SeRegs) : Dev := d.modCtx g (fun c => { c with se := f c.se })

/-- All 32 lanes. -/
def allLanes : BitVec 32 := 0xFFFFFFFF

/-! ### Issue -/

def slotNo : SeSlot → Nat
  | .m => 0
  | .v0 => 1
  | .v1 => 2
  | .s => 3

/-- An abort cause of R106: recorded, RANGE for causes 6 and 7 and ILLEGAL for any other, the unit aborted. -/
def seAbort (g cause : Nat) (d : Dev) : Dev :=
  let d := (d.setF F.seErrinfoCause g cause).setF F.seErrinfoPart g (d.workOf g)
  abortOn g 1 2 cause (d.raise (if cause = 6 ∨ cause = 7 then F.seStatusRange else F.seStatusIllegal) g)

/-- The engine issues in this a-cycle: running, not waiting, not redirecting, not draining (R87, R93, R104). -/
def Dev.seReady (d : Dev) (g : Nat) : Bool :=
  let s := (d.core g).se
  s.running && s.wait.isNone && s.branch.isNone && s.drain.isNone

/-- Stage s is enabled: in kernel iteration i of the innermost loop s ≤ i < n + s; outside loops only stage 0 (R91). -/
def SeRegs.stageOn (r : SeRegs) (stg : Nat) : Bool :=
  match r.loops with
  | [] => stg = 0
  | l :: _ => stg ≤ l.iter && l.iter < l.n + stg

/-- A bundle that issues on core g is a progress event of its engine, one an a-cycle (R391). -/
def seCounted (g : Nat) (d : Dev) : Dev :=
  d.modSe g (fun s => if s.prog.at_ = d.acyc ∧ s.prog.n ≠ 0 then s else { s with prog := s.prog.more d.acyc 1 })

/-- What every slot instruction does first: results due land; an engine that does not issue, or a disabled stage, does
nothing; an opcode, slot or type that is not defined, or a reserved field, aborts the unit (R84, R91, R106); a bundle that issues is
a progress event (R391). Where a slot is illegal for several causes the order is 1, 2, 9, then what the instruction itself tests: 5, 6,
7 and the others (log 20). -/
def seGo (g : Nat) (sl : SeSlot) (w : Slot64) (opc : Nat) (slots : List SeSlot) (types : List Nat)
    (body : SlotOp → Dev → Dev) (d : Dev) : Dev :=
  let d := landDue g d
  let o := slotOp w
  if ¬ d.seReady g ∨ ¬ (d.se g).stageOn o.stg then d
  else if o.opc ≠ opc ∨ ¬ slots.contains sl then seAbort g 1 d
  else if types ≠ [] ∧ ¬ types.contains o.t then seAbort g 2 d
  else if (sl ≠ .s ∧ 8 ≤ o.km ∧ opc ≠ 0x07) ∨ (sl = .s ∧ (o.vc ≠ 0 ∨ o.km ≠ 0 ∨ o.t ≠ 0)) then seAbort g 9 d
  else body o (seCounted g d)

/-- Results of one instruction in flight, with latency L (R85). -/
def seOut (g : Nat) (sl : SeSlot) (lat : Nat) (rs : List (SeDest × BitVec 32 × BitVec 1024)) (d : Dev) : Dev :=
  d.modSe g (fun s => { s with inflight := s.inflight ++ rs.map (fun r =>
    { due := s.cyc + lat, issued := s.cyc, slot := slotNo sl, dest := r.1, lanes := r.2.1, val := r.2.2 }) })

/-- The same for an opcode of an issue interval of n a-cycles (R94). The spec does not say what an instruction gives that issues within
the interval of the last one: its results are open (log 148). -/
def seOutEvery (g : Nat) (sl : SeSlot) (w : Slot64) (n lat : Nat) (rs : List (SeDest × BitVec 32 × BitVec 1024)) (d : Dev) : Dev :=
  let s := (d.core g).se
  let k := slotNo sl * 256 + (slotOp w).opc
  let early := s.cyc < tabGet 0 s.again k
  let d := d.modSe g (fun s => { s with again := tabSet 0 s.again k (s.cyc + n) })
  seOut g sl lat (if early then rs.zipIdx.map (fun r =>
    (r.1.1, r.1.2.1, Config.fixed 1024 (slotOp w).opc [w.toNat, r.2, r.1.2.2.toNat])) else rs) d

/-- The mask a KM field selects. -/
def SlotOp.mask (o : SlotOp) (r : SeRegs) : BitVec 32 := r.kr o.km

/-- A physical v-register as destination; the name is resolved at issue (R81). -/
def SeRegs.vdest (r : SeRegs) (n : Nat) : SeDest := .v (r.phys n)

/-! ### Lanes -/

/-- Element e of w bits of a register. -/
def elemOf (w : Nat) (v : BitVec 1024) (e : Nat) : Nat := v.toNat / 2 ^ (w * e) % 2 ^ w

/-- A register built of elements of w bits. -/
def ofElems (w : Nat) (f : Nat → Nat) : BitVec 1024 :=
  BitVec.ofNat 1024 ((List.range (1024 / w)).foldl (fun a e => a + f e % 2 ^ w * 2 ^ (w * e)) 0)

/-- Width of the elements of a lane type. -/
def laneW (t : Nat) : Nat := if t = 6 ∨ t = 7 then 16 else 32

/-- Elements computed with their R51 events; masked-off lanes count nothing. -/
def vmap (w : Nat) (mask : BitVec 32) (f : Nat → Nat × NumEv) : BitVec 1024 × NumEv :=
  (ofElems w (fun e => (f e).1),
    NumEv.sum ((List.range (1024 / w)).map (fun e => if mask.getLsbD (e * w / 32) then (f e).2 else {})))

/-- Decoding and encoding of an element of a lane type as a value. -/
def laneNum (t x : Nat) : Num :=
  match t with
  | 6 => ofBf16 x
  | 8 => ofF32 x
  | 7 => .ofInt (toSigned 16 x)
  | _ => .ofInt (toSigned 32 x)

/-- A result of a lane type: rounded once (R95) or saturated (R37), with its events. -/
def laneRes (t : Nat) (x : Num) : Nat × NumEv :=
  match t with
  | 6 => (toBf16 x, floatEv roundBf16 x)
  | 8 => (toF32 x, floatEv roundF32 x)
  | 7 => (ofSigned 16 (satInt 16 (toInt x)), satEv 16 (toInt x))
  | _ => (ofSigned 32 (satInt 32 (toInt x)), satEv 32 (toInt x))

/-- Lesser of two values as VMIN takes it: NaN if either is, -0 below +0 (R95). -/
def numMin (a b : Num) : Num :=
  match a, b with
  | .nan, _ => .nan
  | _, .nan => .nan
  | .fin na 0 _, .fin nb 0 _ => if na then a else if nb then b else a
  | a, b => if b.lt a then b else a

/-- Greater of two values as VMAX takes it. -/
def numMax (a b : Num) : Num :=
  match a, b with
  | .nan, _ => .nan
  | _, .nan => .nan
  | .fin na 0 _, .fin nb 0 _ => if ¬ na then a else if ¬ nb then b else a
  | a, b => if a.lt b then b else a

/-- The slots of vector arithmetic. -/
def vslots : List SeSlot := [.v0, .v1]
/-- Lane types: cq16 lanes, bf16, int16, fp32, int32. -/
def laneTypes : List Nat := [5, 6, 7, 8, 9]
/-- Arithmetic types. -/
def arithTypes : List Nat := [6, 7, 8, 9]
def intTypes : List Nat := [7, 9]
def floatTypes : List Nat := [6, 8]

/-- A lane-wise instruction of two sources: its result lands in VD under the mask, its events count (R51). -/
def vbin (g : Nat) (sl : SeSlot) (lat : Nat) (f : Nat → Num → Num → Num) (o : SlotOp) (d : Dev) : Dev :=
  let r := d.se g
  let w := laneW o.t
  let a := r.vr o.va
  let b := r.vr o.vb
  let (v, ev) := vmap w (o.mask r) (fun e => laneRes o.t (f o.t (laneNum o.t (elemOf w a e)) (laneNum o.t (elemOf w b e))))
  evNum g 2 ev (seOut g sl lat [(r.vdest o.vd, o.mask r, v)] d)

/-- Latency of VADD to VABS: 1 for integers, 4 for floats (R94). -/
def arithLat (t : Nat) : Nat := if t = 6 ∨ t = 8 then 4 else 1

/-- Arithmetic of opcodes 0x10 to 0x15 (R95). -/
def arith (g : Nat) (sl : SeSlot) (f : Num → Num → Num) (o : SlotOp) (d : Dev) : Dev :=
  vbin g sl (arithLat o.t) (fun _ => f) o d

def seVadd (g : Nat) (sl : SeSlot) (w : Slot64) : Dev → Dev := seGo g sl w 0x10 vslots arithTypes (arith g sl Num.add)
def seVsub (g : Nat) (sl : SeSlot) (w : Slot64) : Dev → Dev :=
  seGo g sl w 0x11 vslots arithTypes (arith g sl (fun a b => a.add b.neg))
def seVmul (g : Nat) (sl : SeSlot) (w : Slot64) : Dev → Dev := seGo g sl w 0x12 vslots arithTypes (arith g sl Num.mul)
def seVmin (g : Nat) (sl : SeSlot) (w : Slot64) : Dev → Dev := seGo g sl w 0x13 vslots arithTypes (arith g sl numMin)
def seVmax (g : Nat) (sl : SeSlot) (w : Slot64) : Dev → Dev := seGo g sl w 0x14 vslots arithTypes (arith g sl numMax)
def seVabs (g : Nat) (sl : SeSlot) (w : Slot64) : Dev → Dev :=
  seGo g sl w 0x15 vslots arithTypes (arith g sl (fun a _ => a.abs))

def execVadd (g : Nat) (sl : SeSlot) (w : Slot64) (s : State) : Res := need (g < 80) .noSuchCore (upd s (seVadd g sl w))
def execVsub (g : Nat) (sl : SeSlot) (w : Slot64) (s : State) : Res := need (g < 80) .noSuchCore (upd s (seVsub g sl w))
def execVmul (g : Nat) (sl : SeSlot) (w : Slot64) (s : State) : Res := need (g < 80) .noSuchCore (upd s (seVmul g sl w))
def execVmin (g : Nat) (sl : SeSlot) (w : Slot64) (s : State) : Res := need (g < 80) .noSuchCore (upd s (seVmin g sl w))
def execVmax (g : Nat) (sl : SeSlot) (w : Slot64) (s : State) : Res := need (g < 80) .noSuchCore (upd s (seVmax g sl w))
def execVabs (g : Nat) (sl : SeSlot) (w : Slot64) (s : State) : Res := need (g < 80) .noSuchCore (upd s (seVabs g sl w))

/-- Bitwise instructions. -/
def bitwise (g : Nat) (sl : SeSlot) (f : BitVec 1024 → BitVec 1024 → BitVec 1024) (o : SlotOp) (d : Dev) : Dev :=
  let r := d.se g
  seOut g sl 1 [(r.vdest o.vd, o.mask r, f (r.vr o.va) (r.vr o.vb))] d

def seVand (g : Nat) (sl : SeSlot) (w : Slot64) : Dev → Dev := seGo g sl w 0x16 vslots laneTypes (bitwise g sl (· &&& ·))
def seVor (g : Nat) (sl : SeSlot) (w : Slot64) : Dev → Dev := seGo g sl w 0x17 vslots laneTypes (bitwise g sl (· ||| ·))
def seVxor (g : Nat) (sl : SeSlot) (w : Slot64) : Dev → Dev := seGo g sl w 0x18 vslots laneTypes (bitwise g sl (· ^^^ ·))

def execVand (g : Nat) (sl : SeSlot) (w : Slot64) (s : State) : Res := need (g < 80) .noSuchCore (upd s (seVand g sl w))
def execVor (g : Nat) (sl : SeSlot) (w : Slot64) (s : State) : Res := need (g < 80) .noSuchCore (upd s (seVor g sl w))
def execVxor (g : Nat) (sl : SeSlot) (w : Slot64) (s : State) : Res := need (g < 80) .noSuchCore (upd s (seVxor g sl w))

/-- A shift by IMM[4:0] of every integer element. -/
def shiftOp (g : Nat) (sl : SeSlot) (f : Int → Nat → Int) (o : SlotOp) (d : Dev) : Dev :=
  vbin g sl 1 (fun _ a _ => .ofInt (f (toInt a) (o.imm % 32))) o d

def seVshl (g : Nat) (sl : SeSlot) (w : Slot64) : Dev → Dev :=
  seGo g sl w 0x19 vslots intTypes (shiftOp g sl (fun x s => x * ((2 ^ s : Nat) : Int)))
def seVshr (g : Nat) (sl : SeSlot) (w : Slot64) : Dev → Dev :=
  seGo g sl w 0x1A vslots intTypes (shiftOp g sl (fun x s => x.fdiv ((2 ^ s : Nat) : Int)))
def seVshrr (g : Nat) (sl : SeSlot) (w : Slot64) : Dev → Dev :=
  seGo g sl w 0x1B vslots intTypes (shiftOp g sl roundShift)

def execVshl (g : Nat) (sl : SeSlot) (w : Slot64) (s : State) : Res := need (g < 80) .noSuchCore (upd s (seVshl g sl w))
def execVshr (g : Nat) (sl : SeSlot) (w : Slot64) (s : State) : Res := need (g < 80) .noSuchCore (upd s (seVshr g sl w))
def execVshrr (g : Nat) (sl : SeSlot) (w : Slot64) (s : State) : Res := need (g < 80) .noSuchCore (upd s (seVshrr g sl w))

/-- VSEL: lane i from VA where bit i of k[IMM[2:0]] is 1, else from VB. -/
def seVsel (g : Nat) (sl : SeSlot) (w : Slot64) : Dev → Dev :=
  seGo g sl w 0x1C vslots laneTypes (fun o d =>
    let r := d.se g
    let k := r.kr o.imm
    seOut g sl 1 [(r.vdest o.vd, o.mask r, ofElems 32 (fun i =>
      if k.getLsbD i then elemOf 32 (r.vr o.va) i else elemOf 32 (r.vr o.vb) i))] d)

def execVsel (g : Nat) (sl : SeSlot) (w : Slot64) (s : State) : Res := need (g < 80) .noSuchCore (upd s (seVsel g sl w))

/-- The comparison IMM[2:0] names, of two values; a NaN compares unequal to everything. -/
def cmpOp (c : Nat) (a b : Num) : Bool :=
  let ord := a != .nan && b != .nan
  match c with
  | 0 => ord && !a.lt b && !b.lt a
  | 1 => !(ord && !a.lt b && !b.lt a)
  | 2 => a.lt b
  | 3 => ord && !b.lt a
  | 4 => b.lt a
  | _ => ord && !a.lt b

/-- VCMP into k[VD[2:0]]. The bit of a lane whose two 16-bit elements disagree, and codes 6 and 7, are open (log 23). -/
def seVcmp (g : Nat) (sl : SeSlot) (w : Slot64) : Dev → Dev :=
  seGo g sl w 0x1D vslots arithTypes (fun o d =>
    let r := d.se g
    let n := 32 / laneW o.t
    let res := fun i => (List.range n).map (fun j =>
      cmpOp (o.imm % 8) (laneNum o.t (elemOf (laneW o.t) (r.vr o.va) (i * n + j)))
        (laneNum o.t (elemOf (laneW o.t) (r.vr o.vb) (i * n + j))))
    let m := (List.range 32).foldl (fun a i =>
      let l := res i
      let b := if 6 ≤ o.imm % 8 ∨ ¬ (l.all id ∨ l.all (! ·)) then
          decide (Config.fixed 1 0x1D [o.t, o.imm % 8, elemOf 32 (r.vr o.va) i, elemOf 32 (r.vr o.vb) i] = 1)
        else l.all id
      a + (if b then 2 ^ i else 0)) 0
    seOut g sl 1 [(.k (o.vd % 8), o.mask r, BitVec.ofNat 1024 m)] d)

def execVcmp (g : Nat) (sl : SeSlot) (w : Slot64) (s : State) : Res := need (g < 80) .noSuchCore (upd s (seVcmp g sl w))

/-- VBCAST: bits [31:0] of an s-register into every lane. -/
def seVbcast (g : Nat) (sl : SeSlot) (w : Slot64) : Dev → Dev :=
  seGo g sl w 0x1E vslots laneTypes (fun o d =>
    let r := d.se g
    seOut g sl 1 [(r.vdest o.vd, o.mask r, ofElems 32 (fun _ => (r.sr o.va).toNat))] d)

def execVbcast (g : Nat) (sl : SeSlot) (w : Slot64) (s : State) : Res := need (g < 80) .noSuchCore (upd s (seVbcast g sl w))

/-- VFMA: VA × VB + VC, rounded once. -/
def seVfma (g : Nat) (sl : SeSlot) (w : Slot64) : Dev → Dev :=
  seGo g sl w 0x20 vslots floatTypes (fun o d =>
    let r := d.se g
    let x := fun n e => laneNum o.t (elemOf (laneW o.t) (r.vr n) e)
    let (v, ev) := vmap (laneW o.t) (o.mask r) (fun e => laneRes o.t (((x o.va e).mul (x o.vb e)).add (x o.vc e)))
    evNum g 2 ev (seOut g sl 4 [(r.vdest o.vd, o.mask r, v)] d))

def execVfma (g : Nat) (sl : SeSlot) (w : Slot64) (s : State) : Res := need (g < 80) .noSuchCore (upd s (seVfma g sl w))

/-- VFSCL: VA × 2^(int32 lane of VB); both bf16 elements of a lane take its exponent. -/
def seVfscl (g : Nat) (sl : SeSlot) (w : Slot64) : Dev → Dev :=
  seGo g sl w 0x21 vslots floatTypes (fun o d =>
    let r := d.se g
    let n := laneW o.t
    let (v, ev) := vmap n (o.mask r) (fun e =>
      laneRes o.t ((laneNum o.t (elemOf n (r.vr o.va) e)).scale (toSigned 32 (elemOf 32 (r.vr o.vb) (e * n / 32)))))
    evNum g 2 ev (seOut g sl 2 [(r.vdest o.vd, o.mask r, v)] d))

def execVfscl (g : Nat) (sl : SeSlot) (w : Slot64) (s : State) : Res := need (g < 80) .noSuchCore (upd s (seVfscl g sl w))

/-! ### Conversions (R44, R45, R101) -/

/-- A value converted to a lane type: to bf16 and fp32 rounded once, to an integer rounded and saturated, NaN to 0. -/
def convTo (t : Nat) (x : Num) : Nat × NumEv :=
  match t with
  | 6 => (toBf16 x, floatEv roundBf16 x)
  | 8 => (toF32 x, floatEv roundF32 x)
  | 7 => (ofSigned 16 (toIntSat (-32768) 32767 x), intEv (-32768) 32767 x)
  | _ => (ofSigned 32 (toIntSat (-2147483648) 2147483647 x), intEv (-2147483648) 2147483647 x)

/-- Conversions that *Widening conversions* and *Narrowing conversions* list between lane types, as (source, target). -/
def convPairs : List (Nat × Nat) := [(6, 8), (7, 9), (7, 8), (8, 6), (8, 7), (6, 7), (8, 9), (6, 9), (9, 7), (9, 8)]

/-- VCVT: T from the type in IMM[3:0], each element by *Widening conversions* or *Narrowing conversions*. Where the element widths differ
the spec does not say which element of the source goes to which of the destination: `Config.cvtSource` (log 24); an element with no source
is open. -/
def seVcvt (g : Nat) (sl : SeSlot) (w : Slot64) : Dev → Dev :=
  seGo g sl w 0x22 vslots arithTypes (fun o d =>
    let r := d.se g
    let src := o.imm % 16
    if ¬ convPairs.contains (src, o.t) then seAbort g 2 d
    else
      let from_ := fun e => if laneW src = laneW o.t then some e else (Config.cvtSource src o.t e).map (· % (1024 / laneW src))
      let (v, ev) := vmap (laneW o.t) (o.mask r) (fun e =>
        match from_ e with
        | some j => convTo o.t (laneNum src (elemOf (laneW src) (r.vr o.va) j))
        | none => ((Config.fixed 32 0x22 [src, o.t, e, (r.vr o.va).toNat]).toNat, {}))
      evNum g 2 ev (seOut g sl 3 [(r.vdest o.vd, o.mask r, v)] d))

def execVcvt (g : Nat) (sl : SeSlot) (w : Slot64) (s : State) : Res := need (g < 80) .noSuchCore (upd s (seVcvt g sl w))

/-- VNARROW (R101): fp32 to bf16; to int16 from fp32, or from int32 with a shift, where no field is named that tells which: an open bit of
the slot word does (log 25); complex int32 to complex int16. -/
def seVnarrow (g : Nat) (sl : SeSlot) (w : Slot64) : Dev → Dev :=
  seGo g sl w 0x23 vslots [5, 6, 7] (fun o d =>
    let r := d.se g
    let sh := o.imm % 32
    let x := fun e => elemOf 32 (r.vr (if e < 32 then o.va else o.vb)) (e % 32)
    let cq := fun n i => clampI (-32767) 32767 (roundShift (toSigned 32 (elemOf 32 (r.vr n) i)) sh)
    let cqSat := fun n i => if cq n i = roundShift (toSigned 32 (elemOf 32 (r.vr n) i)) sh then 0 else 1
    let (v, ev) :=
      if o.t = 5 then
        vmap 32 (o.mask r) (fun i => (ofSigned 16 (cq o.va i) + 65536 * ofSigned 16 (cq o.vb i),
          { sat := cqSat o.va i + cqSat o.vb i }))
      else if o.t = 6 then vmap 16 (o.mask r) (fun e => convTo 6 (ofF32 (x e)))
      else if Config.fixed 1 0x23 [w.toNat] = 1 then vmap 16 (o.mask r) (fun e => convTo 7 (ofF32 (x e)))
      else vmap 16 (o.mask r) (fun e => laneRes 7 (.ofInt (roundShift (toSigned 32 (x e)) sh)))
    evNum g 2 ev (seOut g sl 2 [(r.vdest o.vd, o.mask r, v)] d))

def execVnarrow (g : Nat) (sl : SeSlot) (w : Slot64) (s : State) : Res := need (g < 80) .noSuchCore (upd s (seVnarrow g sl w))

/-- VPERM: lane i takes lane j of VA, or of VC for j from 32, with j in VB lane i [5:0]. -/
def seVperm (g : Nat) (sl : SeSlot) (w : Slot64) : Dev → Dev :=
  seGo g sl w 0x24 vslots laneTypes (fun o d =>
    let r := d.se g
    seOut g sl 2 [(r.vdest o.vd, o.mask r, ofElems 32 (fun i =>
      let j := elemOf 32 (r.vr o.vb) i % 64
      if j < 32 then elemOf 32 (r.vr o.va) j else elemOf 32 (r.vr o.vc) (j - 32)))] d)

def execVperm (g : Nat) (sl : SeSlot) (w : Slot64) (s : State) : Res := need (g < 80) .noSuchCore (upd s (seVperm g sl w))

/-! ### Norms, reductions, block exponents (R96, R100) -/

/-- Bits below the sign bit of a w-bit value that equal it. -/
def normCount (w x : Nat) : Nat :=
  let s := x.testBit (w - 1)
  ((List.range (w - 1)).map (fun i => w - 2 - i)).takeWhile (fun i => x.testBit i = s) |>.length

/-- VNORM of lane i, as the 32 bits written to it. -/
def normLane (t : Nat) (v : BitVec 1024) (i : Nat) : Nat :=
  match t with
  | 9 => normCount 32 (elemOf 32 v i)
  | 7 => normCount 16 (elemOf 16 v (2 * i)) + 65536 * normCount 16 (elemOf 16 v (2 * i + 1))
  | _ => min (normCount 16 (elemOf 16 v (2 * i))) (normCount 16 (elemOf 16 v (2 * i + 1)))

/-- The least count of a lane. -/
def normMin (t : Nat) (v : BitVec 1024) (i : Nat) : Nat :=
  if t = 9 then normCount 32 (elemOf 32 v i)
  else min (normCount 16 (elemOf 16 v (2 * i))) (normCount 16 (elemOf 16 v (2 * i + 1)))

def seVnorm (g : Nat) (sl : SeSlot) (w : Slot64) : Dev → Dev :=
  seGo g sl w 0x25 vslots [5, 7, 9] (fun o d =>
    let r := d.se g
    seOut g sl 1 [(r.vdest o.vd, o.mask r, ofElems 32 (normLane o.t (r.vr o.va)))] d)

def execVnorm (g : Nat) (sl : SeSlot) (w : Slot64) (s : State) : Res := need (g < 80) .noSuchCore (upd s (seVnorm g sl w))

/-- One level of the tree of R96: the lower half combined with the upper half. -/
def treeLevel {α : Type} (op : α → α → α) (l : List α) : List α :=
  let h := l.length / 2
  List.zipWith op (l.take h) (l.drop h)

/-- The reduction tree over 32 lanes. -/
def reduceTree (op : Num × NumEv → Num × NumEv → Num × NumEv) (l : List (Num × NumEv)) : Num × NumEv :=
  (treeLevel op (treeLevel op (treeLevel op (treeLevel op (treeLevel op l))))).headD (.zero, {})

/-- A horizontal reduction into an s-register: latency 8 for fp32, 5 for int32; masked-off lanes are the identity; roundings and saturations
inside the tree count (R51). -/
def reduceOp (g : Nat) (sl : SeSlot) (op : Nat → Num → Num → Num × NumEv) (ident : Nat → Num) (o : SlotOp) (d : Dev) : Dev :=
  let r := d.se g
  let m := o.mask r
  let x := (List.range 32).map (fun i => if m.getLsbD i then laneNum o.t (elemOf 32 (r.vr o.va) i) else ident o.t)
  let t := reduceTree (fun a b => let c := op o.t a.1 b.1; (c.1, (a.2.add b.2).add c.2)) (x.map (fun v => (v, {})))
  let (v, ev) := laneRes o.t t.1
  evNum g 2 (t.2.add ev) (seOut g sl (if o.t = 8 then 8 else 5) [(.s (o.vd % 32), allLanes, BitVec.ofNat 1024 v)] d)

/-- A sum of the tree: rounded once, or saturated. -/
def sumOp (t : Nat) (a b : Num) : Num × NumEv := roundAcc (if t = 8 then 0 else 1) (a.add b)

def seVrsum (g : Nat) (sl : SeSlot) (w : Slot64) : Dev → Dev :=
  seGo g sl w 0x30 [.v1] [8, 9] (reduceOp g sl sumOp (fun _ => .zero))
def seVrmax (g : Nat) (sl : SeSlot) (w : Slot64) : Dev → Dev :=
  seGo g sl w 0x31 [.v1] [8, 9] (reduceOp g sl (fun _ a b => (numMax a b, {})) (fun t => if t = 8 then .inf true else .ofInt (-2147483648)))
def seVrmin (g : Nat) (sl : SeSlot) (w : Slot64) : Dev → Dev :=
  seGo g sl w 0x32 [.v1] [8, 9] (reduceOp g sl (fun _ a b => (numMin a b, {})) (fun t => if t = 8 then .inf false else .ofInt 2147483647))

def execVrsum (g : Nat) (sl : SeSlot) (w : Slot64) (s : State) : Res := need (g < 80) .noSuchCore (upd s (seVrsum g sl w))
def execVrmax (g : Nat) (sl : SeSlot) (w : Slot64) (s : State) : Res := need (g < 80) .noSuchCore (upd s (seVrmax g sl w))
def execVrmin (g : Nat) (sl : SeSlot) (w : Slot64) (s : State) : Res := need (g < 80) .noSuchCore (upd s (seVrmin g sl w))

/-- VBEXP: the least norm of the enabled lanes; for fp32 floor_log2 of the largest enabled magnitude, -150 for zeros, 128
with a NaN or infinity. With no lane enabled the spec states no result: open (log 23). -/
def seVbexp (g : Nat) (sl : SeSlot) (w : Slot64) : Dev → Dev :=
  seGo g sl w 0x33 [.v1] [5, 7, 8, 9] (fun o d =>
    let r := d.se g
    let on := (List.range 32).filter (fun i => (o.mask r).getLsbD i)
    let v : Nat :=
      if on = [] then (Config.fixed 32 0x33 [o.t, (r.vr o.va).toNat]).toNat
      else if o.t = 8 then
        let xs := on.map (fun i => ofF32 (elemOf 32 (r.vr o.va) i))
        ofSigned 32 (if xs.any (fun x => !x.isFin) then 128 else (amaxLog xs).getD (-150))
      else (on.map (normMin o.t (r.vr o.va))).foldl min 31
    seOut g sl 3 [(.s (o.vd % 32), allLanes, BitVec.ofNat 1024 v)] d)

def execVbexp (g : Nat) (sl : SeSlot) (w : Slot64) (s : State) : Res := need (g < 80) .noSuchCore (upd s (seVbexp g sl w))

/-! ### Complex multiply-accumulate, butterfly, demapping (R97 to R99) -/

/-- VCMAC (R97). -/
def seVcmac (g : Nat) (sl : SeSlot) (w : Slot64) : Dev → Dev :=
  seGo g sl w 0x34 [.v1] [5] (fun o d =>
    let r := d.se g
    let h := fun n i j => toSigned 16 (elemOf 16 (r.vr n) (2 * i + j))
    let cj := fun (c : Bool) (x : Int) => if c then -x else x
    let acc := fun n i => if o.imm.testBit 0 then toSigned 32 (elemOf 32 (r.vr n) i) else 0
    let re := fun i =>
      let ai := cj (o.imm.testBit 1) (h o.va i 1)
      let bi := cj (o.imm.testBit 2) (h o.vb i 1)
      acc o.vd i + h o.va i 0 * h o.vb i 0 - ai * bi
    let im := fun i =>
      let ai := cj (o.imm.testBit 1) (h o.va i 1)
      let bi := cj (o.imm.testBit 2) (h o.vb i 1)
      acc o.vc i + h o.va i 0 * bi + ai * h o.vb i 0
    let (vr, er) := vmap 32 (o.mask r) (fun i => laneRes 9 (.ofInt (re i)))
    let (vi, ei) := vmap 32 (o.mask r) (fun i => laneRes 9 (.ofInt (im i)))
    evNum g 2 (er.add ei) (seOut g sl 4 [(r.vdest o.vd, o.mask r, vr), (r.vdest o.vc, o.mask r, vi)] d))

def execVcmac (g : Nat) (sl : SeSlot) (w : Slot64) (s : State) : Res := need (g < 80) .noSuchCore (upd s (seVcmac g sl w))

/-- An instruction that names registers up to n + j beyond v63 aborts (R81, log 26). -/
def inFile (g : Nat) (ns : List Nat) (k : Dev → Dev) (d : Dev) : Dev := if ns.all (· < 64) then k d else seAbort g 9 d

/-- VCMACF (R97): each component an exact three-term sum rounded once. -/
def seVcmacf (g : Nat) (sl : SeSlot) (w : Slot64) : Dev → Dev :=
  seGo g sl w 0x35 [.v1] [10] (fun o => inFile g [o.va + 1, o.vb + 1] (fun d =>
    let r := d.se g
    let x := fun n i => ofF32 (elemOf 32 (r.vr n) i)
    let cj := fun (c : Bool) (v : Num) => if c then v.neg else v
    let acc := fun n i => if o.imm.testBit 0 then x n i else .zero
    let re := fun i =>
      let ai := cj (o.imm.testBit 1) (x (o.va + 1) i)
      let bi := cj (o.imm.testBit 2) (x (o.vb + 1) i)
      ((acc o.vd i).add ((x o.va i).mul (x o.vb i))).add (ai.mul bi).neg
    let im := fun i =>
      let ai := cj (o.imm.testBit 1) (x (o.va + 1) i)
      let bi := cj (o.imm.testBit 2) (x (o.vb + 1) i)
      ((acc o.vc i).add ((x o.va i).mul bi)).add (ai.mul (x o.vb i))
    let (vr, er) := vmap 32 (o.mask r) (fun i => laneRes 8 (re i))
    let (vi, ei) := vmap 32 (o.mask r) (fun i => laneRes 8 (im i))
    evNum g 2 (er.add ei) (seOut g sl 5 [(r.vdest o.vd, o.mask r, vr), (r.vdest o.vc, o.mask r, vi)] d)))

def execVcmacf (g : Nat) (sl : SeSlot) (w : Slot64) (s : State) : Res := need (g < 80) .noSuchCore (upd s (seVcmacf g sl w))

/-- Complex integers as pairs. -/
def ciAdd (a b : Int × Int) : Int × Int := (a.1 + b.1, a.2 + b.2)
def ciSub (a b : Int × Int) : Int × Int := (a.1 - b.1, a.2 - b.2)
def ciMul (a b : Int × Int) : Int × Int := (a.1 * b.1 - a.2 * b.2, a.1 * b.2 + a.2 * b.1)
/-- Times j' of R98: -j forward, +j inverse. -/
def ciJ (inv : Bool) (a : Int × Int) : Int × Int := if inv then (-a.2, a.1) else (a.2, -a.1)

/-- The four outputs of one butterfly of R98 before saturation. -/
def bfly4 (x0 x1 x2 x3 w1 w2 w3 : Int × Int) (sh : Nat) (inv notw : Bool) : List (Int × Int) :=
  let s0 := ciAdd (ciAdd x0 x1) (ciAdd x2 x3)
  let s1 := ciSub (ciAdd x0 (ciJ inv x1)) (ciAdd x2 (ciJ inv x3))
  let s2 := ciSub (ciAdd x0 x2) (ciAdd x1 x3)
  let s3 := ciSub (ciAdd x0 (ciJ inv x3)) (ciAdd x2 (ciJ inv x1))
  let rs := fun (c : Int × Int) n => (roundShift c.1 n, roundShift c.2 n)
  let y := fun s w => if notw then rs s sh else rs (ciMul s w) (15 + sh)
  [rs s0 sh, y s1 w1, y s2 w2, y s3 w3]

/-- VBFLY4 (R98); KM is ignored (R89). SH = 3 is outside its range: the outputs are open (log 23). It issues every second
a-cycle (R94). -/
def seVbfly4 (g : Nat) (sl : SeSlot) (w : Slot64) : Dev → Dev :=
  seGo g sl w 0x36 [.v1] [5] (fun o => inFile g [o.va + 3, o.vb + 2, o.vd + 3] (fun d =>
    let r := d.se g
    let c := fun n i => (toSigned 16 (elemOf 16 (r.vr n) (2 * i)), toSigned 16 (elemOf 16 (r.vr n) (2 * i + 1)))
    let sh := o.imm % 4
    let out := fun i => bfly4 (c o.va i) (c (o.va + 1) i) (c (o.va + 2) i) (c (o.va + 3) i) (c o.vb i) (c (o.vb + 1) i)
      (c (o.vb + 2) i) sh (o.imm.testBit 2) (o.imm.testBit 3)
    let cl := clampI (-32767) 32767
    let one := fun j => vmap 32 allLanes (fun i =>
      let y := (out i).getD j (0, 0)
      (ofSigned 16 (cl y.1) + 65536 * ofSigned 16 (cl y.2),
        { sat := (if cl y.1 = y.1 then 0 else 1) + (if cl y.2 = y.2 then 0 else 1) }))
    if sh = 3 then
      seOutEvery g sl w 2 6 ((List.range 4).map (fun j => (r.vdest (o.vd + j), allLanes, Config.fixed 1024 0x36
        (j :: o.imm :: (List.range 4).map (fun i => (r.vr (o.va + i)).toNat) ++ (List.range 3).map (fun i => (r.vr (o.vb + i)).toNat))))) d
    else
      evNum g 2 (NumEv.sum ((List.range 4).map (fun j => (one j).2)))
        (seOutEvery g sl w 2 6 ((List.range 4).map (fun j => (r.vdest (o.vd + j), allLanes, (one j).1))) d)))

def execVbfly4 (g : Nat) (sl : SeSlot) (w : Slot64) (s : State) : Res := need (g < 80) .noSuchCore (upd s (seVbfly4 g sl w))

/-- l[t] of R99 for component u: l[1] = u, l[t+1] = 2^(k - t + F) - |l[t]|. -/
def demapL (k f : Nat) (u : Int) : Nat → Int
  | 0 => u
  | t + 1 => ((2 ^ (k - (t + 1) + f) : Nat) : Int) - ((demapL k f u t).natAbs : Int)

/-- LLRs of one symbol in bit order (R99). -/
def demapSym (qm f sh lim : Nat) (i q gain : Int) : List Int :=
  (List.range qm).map (fun b =>
    clampI (-(lim : Int)) lim (roundShift (gain * demapL (qm / 2) f (if b % 2 = 0 then i else q) (b / 2)) sh))

/-- Registers VDEMAP writes. -/
def demapRegs (qm width : Nat) : Nat := ceilDiv (32 * qm * width) 1024

/-- VDEMAP (R99); KM is ignored. A modulation outside 1 to 5 or F above 10 has no stated result: the register VD, or those
of the modulation, take open values (log 23). It issues again once as many a-cycles have passed as it writes registers (R94). -/
def seVdemap (g : Nat) (sl : SeSlot) (w : Slot64) : Dev → Dev :=
  seGo g sl w 0x37 [.v1] [5] (fun o =>
    let md := o.imm % 8
    let ok := 1 ≤ md ∧ md ≤ 5
    let qm := 2 * md
    let width := if o.imm.testBit 3 then 4 else 8
    let n := if ok then demapRegs qm width else 1
    let f := o.imm / 16 % 16
    inFile g [o.vd + n - 1] (fun d =>
      let r := d.se g
      let lim := if width = 8 then 127 else 7
      let llrs := (List.range 32).flatMap (fun i =>
        demapSym qm f (o.imm / 256 % 32) lim (toSigned 16 (elemOf 16 (r.vr o.va) (2 * i)))
          (toSigned 16 (elemOf 16 (r.vr o.va) (2 * i + 1))) (toSigned 16 (elemOf 16 (r.vr o.vb) (2 * i))))
      if ok ∧ f ≤ 10 then
        let all := llrs.foldr (fun x a => ofSigned width x + a * 2 ^ width) 0
        seOutEvery g sl w n 5 ((List.range n).map (fun j =>
          (r.vdest (o.vd + j), allLanes, BitVec.ofNat 1024 (all / 2 ^ (1024 * j))))) d
      else
        seOutEvery g sl w n 5 ((List.range n).map (fun j =>
          (r.vdest (o.vd + j), allLanes, Config.fixed 1024 0x37 [j, o.imm, (r.vr o.va).toNat, (r.vr o.vb).toNat]))) d))

def execVdemap (g : Nat) (sl : SeSlot) (w : Slot64) (s : State) : Res := need (g < 80) .noSuchCore (upd s (seVdemap g sl w))

/-! ### Division and square root -/

/-- A quotient with a sticky bit below 64 more bits than the divisor has: rounding it once rounds the exact quotient. -/
def numDiv (a b : Num) : Num :=
  match a, b with
  | .nan, _ => .nan
  | _, .nan => .nan
  | .inf _, .inf _ => .nan
  | .inf x, .fin y _ _ => .inf (x != y)
  | .fin x _ _, .inf y => .fin (x != y) 0 0
  | .fin x ma ea, .fin y mb eb =>
    if mb = 0 then (if ma = 0 then .nan else .inf (x != y))
    else
      let k := 64 + Nat.log2 mb
      let n := ma * 2 ^ k
      .fin (x != y) (2 * (n / mb) + (if n % mb = 0 then 0 else 1)) (ea - eb - k - 1)

/-- A square root with a sticky bit below; of a negative value NaN, of -0 it is -0. -/
def numSqrt : Num → Num
  | .nan => .nan
  | .inf neg => if neg then .nan else .inf false
  | .fin neg m e =>
    if m = 0 then .fin neg 0 0
    else if neg then .nan
    else
      let m' := if e % 2 = 0 then m else 2 * m
      let e' := if e % 2 = 0 then e else e - 1
      let n := m' * 2 ^ 64
      let q := Nat.sqrt n
      .fin false (2 * q + (if q * q = n then 0 else 1)) ((e' - 64) / 2 - 1)

/-- VFDIV and VFSQRT, correctly rounded, one every 8 a-cycles (R94). -/
def longOp (g : Nat) (sl : SeSlot) (w : Slot64) (f : Num → Num → Num) (o : SlotOp) (d : Dev) : Dev :=
  let r := d.se g
  let (v, ev) := vmap 32 (o.mask r) (fun e => laneRes 8 (f (laneNum 8 (elemOf 32 (r.vr o.va) e)) (laneNum 8 (elemOf 32 (r.vr o.vb) e))))
  evNum g 2 ev (seOutEvery g sl w 8 16 [(r.vdest o.vd, o.mask r, v)] d)

def seVfdiv (g : Nat) (sl : SeSlot) (w : Slot64) : Dev → Dev := seGo g sl w 0x38 [.v1] [8] (longOp g sl w numDiv)
def seVfsqrt (g : Nat) (sl : SeSlot) (w : Slot64) : Dev → Dev :=
  seGo g sl w 0x39 [.v1] [8] (longOp g sl w (fun a _ => numSqrt a))

def execVfdiv (g : Nat) (sl : SeSlot) (w : Slot64) (s : State) : Res := need (g < 80) .noSuchCore (upd s (seVfdiv g sl w))
def execVfsqrt (g : Nat) (sl : SeSlot) (w : Slot64) (s : State) : Res := need (g < 80) .noSuchCore (upd s (seVfsqrt g sl w))

/-! ### Loads and stores (R82, R83, R88, R102, R103) -/

/-- Effective address: the address register plus the signed 16-bit displacement, not wrapped. -/
def effAddr (r : SeRegs) (o : SlotOp) : Int := ((r.ar o.va).toNat : Int) + toSigned 16 (o.imm % 65536)

/-- An access of n bytes at alignment al is checked (R83): cause 6 misaligned, 7 out of range, 0 good. -/
def accessCause (a : Int) (n al : Nat) : Nat :=
  if a % al ≠ 0 then 6 else if a < 0 ∨ (spadSize : Int) < a + n then 7 else 0

/-- Modifiers that the slot uses are encoded legally (R82, R106). -/
def modsOk (r : SeRegs) (o : SlotOp) (second : Bool) : Bool :=
  (!o.vb.testBit 5 || (modifierOf (r.mr o.vb)).ok) &&
    (!(second && o.imm.testBit 19) || (modifierOf (r.mr (o.imm / 65536 % 8))).ok)

/-- Post-modification results, landing one cycle later (log 27). -/
def postMods (r : SeRegs) (o : SlotOp) (second : Bool) : List (SeDest × BitVec 32 × BitVec 1024) :=
  (if o.vb.testBit 5 then
    [(.a (o.va % 16), allLanes, BitVec.ofNat 1024 (postModify (r.ar o.va).toNat (modifierOf (r.mr o.vb))))] else []) ++
  (if second && o.imm.testBit 19 then
    [(.a (o.vc % 16), allLanes,
      BitVec.ofNat 1024 (postModify (r.ar o.vc).toNat (modifierOf (r.mr (o.imm / 65536 % 8)))))] else [])

/-- n bytes of the engine's own scratchpad (R78). -/
def Dev.spadOf (d : Dev) (g a n : Nat) : Bytes := d.spadRead (d.workOf g) [g] a n

/-- A read of the engine: a corrected word sets CE; an uncorrectable one is open, sets DATA_LOST, and the unit completes with it (R105); a
word that another engine is writing reads old or new (R79). -/
def seRead (g a n : Nat) (d : Dev) : Bytes × Dev :=
  let read := portRead (g, 2, 0) (d.acyc + 1) [] (d.workOf g) [g] a n d
  (read.1.1,
    if read.1.2 = 0 then read.2
    else if read.1.2 = 1 then health 0 1 (read.2.raise F.seStatusCe g)
    else unitLost g 2 (health 1 1 (read.2.raise F.seStatusDataLost g)))

/-- Bytes stored by the engine. -/
def seWrite (g a : Nat) (b : Bytes) (d : Dev) : Dev := portWrite (g, 2, 0) (d.acyc + 1) (d.workOf g) [g] a b d

/-- VLD: 128 bytes into VD; masked-off lanes are not loaded. -/
def seVld (g : Nat) (w : Slot64) : Dev → Dev :=
  seGo g .m w 0x01 [.m] laneTypes (fun o d =>
    let r := d.se g
    let a := effAddr r o
    let c := accessCause a 128 4
    if ¬ modsOk r o false then seAbort g 5 d
    else if c ≠ 0 then seAbort g c d
    else
      let read := seRead g a.toNat 128 d
      let b := read.1
      let d := read.2
      seOut g .m 1 (postMods r o false) (seOut g .m 6 [(r.vdest o.vd, o.mask r, BitVec.ofNat 1024 (leNat b))] d))

def execVld (g : Nat) (w : Slot64) (s : State) : Res := need (g < 80) .noSuchCore (upd s (seVld g w))

/-- VST: the enabled lanes of VD, 4 bytes each. -/
def seVst (g : Nat) (w : Slot64) : Dev → Dev :=
  seGo g .m w 0x02 [.m] laneTypes (fun o d =>
    let r := d.se g
    let a := effAddr r o
    let c := accessCause a 128 4
    if ¬ modsOk r o false then seAbort g 5 d
    else if c ≠ 0 then seAbort g c d
    else
      let d := (List.range 32).foldl (fun d i =>
        if (o.mask r).getLsbD i then seWrite g (a.toNat + 4 * i) (leBytes 4 (elemOf 32 (r.vr o.vd) i)) d else d) d
      seOut g .m 1 (postMods r o false) d)

def execVst (g : Nat) (w : Slot64) (s : State) : Res := need (g < 80) .noSuchCore (upd s (seVst g w))

/-- SLD: 8 bytes into an s-register. -/
def seSld (g : Nat) (w : Slot64) : Dev → Dev :=
  seGo g .m w 0x03 [.m] [8, 9] (fun o d =>
    let r := d.se g
    let a := effAddr r o
    let c := accessCause a 8 8
    if ¬ modsOk r o false then seAbort g 5 d
    else if c ≠ 0 then seAbort g c d
    else
      let read := seRead g a.toNat 8 d
      let b := read.1
      let d := read.2
      seOut g .m 1 (postMods r o false) (seOut g .m 6 [(.s (o.vd % 32), allLanes, BitVec.ofNat 1024 (leNat b))] d))

def execSld (g : Nat) (w : Slot64) (s : State) : Res := need (g < 80) .noSuchCore (upd s (seSld g w))

/-- SST: an s-register stored, 8 bytes. -/
def seSst (g : Nat) (w : Slot64) : Dev → Dev :=
  seGo g .m w 0x04 [.m] [8, 9] (fun o d =>
    let r := d.se g
    let a := effAddr r o
    let c := accessCause a 8 8
    if ¬ modsOk r o false then seAbort g 5 d
    else if c ≠ 0 then seAbort g c d
    else seOut g .m 1 (postMods r o false) (seWrite g a.toNat (leBytes 8 (r.sr o.vd).toNat) d))

def execSst (g : Nat) (w : Slot64) (s : State) : Res := need (g < 80) .noSuchCore (upd s (seSst g w))

/-- Block formats. -/
def blockTypes : List Nat := [0, 1, 2, 3, 4, 5]

/-- The cause a block access aborts with: element address, then scale byte or exponent nibbles (R83, R102). -/
def blockCause (r : SeRegs) (o : SlotOp) : Nat :=
  let c := accessCause (effAddr r o) (if o.t = 5 then 96 else bsPayload o.t) 8
  let v := (r.ar o.vc).toNat
  if c ≠ 0 then c
  else if o.t = 5 then (if spadSize ≤ (v + 1) / 2 then 7 else 0)
  else if spadSize ≤ v then 7 else 0

/-- VLD.B: one bs block, or two cq16 blocks, widened exactly to fp32 (R44, R102). -/
def seVldB (g : Nat) (w : Slot64) : Dev → Dev :=
  seGo g .m w 0x05 [.m] blockTypes (fun o => inFile g [if o.t = 5 then o.vd + 1 else o.vd] (fun d =>
    let r := d.se g
    let a := (effAddr r o).toNat
    let v := (r.ar o.vc).toNat
    if ¬ modsOk r o true then seAbort g 5 d
    else if blockCause r o ≠ 0 then seAbort g (blockCause r o) d
    else if o.t = 5 then
      let read := seRead g a 96 d
      let pl := read.1
      let d := read.2
      let read := seRead g (v / 2) ((v + 1) / 2 - v / 2 + 1) d
      let sc := read.1
      let d := read.2
      let ex := fun b => (leNat sc >>> (4 * (v % 2 + b))) % 16
      let x := fun j i => if i < 24 then
        toF32 (cqValue (toSigned 16 (at_ pl (4 * i + 2 * j) 2)) (ex (i / 12))) else 0
      seOut g .m 1 (postMods r o true) (seOut g .m 8
        [(r.vdest o.vd, allLanes, ofElems 32 (x 0)), (r.vdest (o.vd + 1), allLanes, ofElems 32 (x 1))] d)
    else
      let read := seRead g a (bsPayload o.t) d
      let pl := read.1
      let d := read.2
      let read := seRead g v 1 d
      let sc := read.1
      let d := read.2
      let (v, ev) := vmap 32 allLanes (fun i => laneRes 8 (bsValue o.t (leNat sc) (elemBits o.t pl i)))
      evNum g 2 ev (seOut g .m 1 (postMods r o true) (seOut g .m 8 [(r.vdest o.vd, allLanes, v)] d))))

def execVldB (g : Nat) (w : Slot64) (s : State) : Res := need (g < 80) .noSuchCore (upd s (seVldB g w))

/-- A block store with a computed or given scale or exponent (R39, R43, R103). -/
def blockStore (g : Nat) (given : SeRegs → SlotOp → Option Nat) (o : SlotOp) : Dev → Dev :=
  inFile g [if o.t = 5 then o.vd + 1 else o.vd] (fun d =>
    let r := d.se g
    let a := (effAddr r o).toNat
    let v := (r.ar o.vc).toNat
    if ¬ modsOk r o true then seAbort g 5 d
    else if blockCause r o ≠ 0 then seAbort g (blockCause r o) d
    else if o.t = 5 then
      let q := (List.range 2).map (fun b => quantiseCq ((given r o).map (· % 16)) ((List.range 12).flatMap (fun i =>
        [ofF32 (elemOf 32 (r.vr o.vd) (12 * b + i)), ofF32 (elemOf 32 (r.vr (o.vd + 1)) (12 * b + i))])))
      let n := (v + 1) / 2 - v / 2 + 1
      let read := seRead g (v / 2) n d
      let old := leNat read.1
      let d := read.2
      let new := (List.range 2).foldl (fun x b =>
        let lo := 4 * (v % 2 + b)
        setBits x (lo + 3) lo ((q.map (·.1)).getD b 0)) old
      let d := seWrite g a (q.flatMap (fun b => b.2.1.flatMap (fun m => leBytes 2 (ofSigned 16 m)))) d
      evNum g 2 (NumEv.sum (q.map (·.2.2))) (seOut g .m 1 (postMods r o true) (seWrite g (v / 2) (leBytes n new) d))
    else
      let q := quantiseBs o.t ((given r o).map (· % 256)) ((List.range 32).map (fun i => ofF32 (elemOf 32 (r.vr o.vd) i)))
      let d := seWrite g v [BitVec.ofNat 8 q.1] (seWrite g a (packBits (bsFmt o.t).width q.2.1) d)
      evNum g 2 q.2.2 (seOut g .m 1 (postMods r o true) d))

def seVstB (g : Nat) (w : Slot64) : Dev → Dev := seGo g .m w 0x06 [.m] blockTypes (blockStore g (fun _ _ => none))
def seVstBx (g : Nat) (w : Slot64) : Dev → Dev :=
  seGo g .m w 0x07 [.m] blockTypes (blockStore g (fun r o => some (r.sr o.km).toNat))

def execVstB (g : Nat) (w : Slot64) (s : State) : Res := need (g < 80) .noSuchCore (upd s (seVstB g w))
def execVstBx (g : Nat) (w : Slot64) (s : State) : Res := need (g < 80) .noSuchCore (upd s (seVstBx g w))

/-! ### Scalar slot -/

/-- A 64-bit scalar instruction, wrapping (R94). -/
def scalar (g lat : Nat) (f : BitVec 64 → BitVec 64 → BitVec 64) (o : SlotOp) (d : Dev) : Dev :=
  let r := d.se g
  seOut g .s lat [(.s (o.vd % 32), allLanes, (f (r.sr o.va) (r.sr o.vb)).zeroExtend 1024)] d

def seSadd (g : Nat) (w : Slot64) : Dev → Dev := seGo g .s w 0x50 [.s] [] (scalar g 1 (· + ·))
def seSsub (g : Nat) (w : Slot64) : Dev → Dev := seGo g .s w 0x51 [.s] [] (scalar g 1 (· - ·))
def seSmul (g : Nat) (w : Slot64) : Dev → Dev := seGo g .s w 0x52 [.s] [] (scalar g 3 (· * ·))
def seSand (g : Nat) (w : Slot64) : Dev → Dev := seGo g .s w 0x53 [.s] [] (scalar g 1 (· &&& ·))
def seSor (g : Nat) (w : Slot64) : Dev → Dev := seGo g .s w 0x54 [.s] [] (scalar g 1 (· ||| ·))
def seSxor (g : Nat) (w : Slot64) : Dev → Dev := seGo g .s w 0x55 [.s] [] (scalar g 1 (· ^^^ ·))
/-- SSHL: with a count of 64 or more the spec states no result: open (log 28). -/
def seSshl (g : Nat) (w : Slot64) : Dev → Dev :=
  seGo g .s w 0x56 [.s] [] (scalar g 1 (fun a b =>
    if 64 ≤ b.toNat then Config.fixed 64 0x56 [a.toNat, b.toNat] else a <<< b.toNat))

/-- SSHR: of a value with its top bit set the spec does not say whether the shift is arithmetic, and with a count of 64 or more it states
no result: open (log 28). -/
def seSshr (g : Nat) (w : Slot64) : Dev → Dev :=
  seGo g .s w 0x57 [.s] [] (scalar g 1 (fun a b =>
    if 64 ≤ b.toNat then Config.fixed 64 0x57 [a.toNat, b.toNat]
    else if Config.fixed 1 0x57 [] = 1 then a.sshiftRight b.toNat
    else a >>> b.toNat))

def execSadd (g : Nat) (w : Slot64) (s : State) : Res := need (g < 80) .noSuchCore (upd s (seSadd g w))
def execSsub (g : Nat) (w : Slot64) (s : State) : Res := need (g < 80) .noSuchCore (upd s (seSsub g w))
def execSmul (g : Nat) (w : Slot64) (s : State) : Res := need (g < 80) .noSuchCore (upd s (seSmul g w))
def execSand (g : Nat) (w : Slot64) (s : State) : Res := need (g < 80) .noSuchCore (upd s (seSand g w))
def execSor (g : Nat) (w : Slot64) (s : State) : Res := need (g < 80) .noSuchCore (upd s (seSor g w))
def execSxor (g : Nat) (w : Slot64) (s : State) : Res := need (g < 80) .noSuchCore (upd s (seSxor g w))
def execSshl (g : Nat) (w : Slot64) (s : State) : Res := need (g < 80) .noSuchCore (upd s (seSshl g w))
def execSshr (g : Nat) (w : Slot64) (s : State) : Res := need (g < 80) .noSuchCore (upd s (seSshr g w))

/-- SLI, AMOV, MMOV, KMOV: a value into a scalar, address, modifier or mask register, latency 1. -/
def moveTo (g : Nat) (dest : SlotOp → SeDest) (v : SeRegs → SlotOp → BitVec 64) (o : SlotOp) (d : Dev) : Dev :=
  seOut g .s 1 [(dest o, allLanes, (v (d.se g) o).zeroExtend 1024)] d

def seSli (g : Nat) (w : Slot64) : Dev → Dev :=
  seGo g .s w 0x58 [.s] [] (moveTo g (fun o => .s (o.vd % 32)) (fun _ o => BitVec.ofInt 64 (toSigned 20 o.imm)))
def seAmov (g : Nat) (w : Slot64) : Dev → Dev :=
  seGo g .s w 0x59 [.s] [] (moveTo g (fun o => .a (o.vd % 16)) (fun r o => r.sr o.va))
def seMmov (g : Nat) (w : Slot64) : Dev → Dev :=
  seGo g .s w 0x5A [.s] [] (moveTo g (fun o => .m (o.vd % 8)) (fun r o => r.sr o.va))
def seKmov (g : Nat) (w : Slot64) : Dev → Dev :=
  seGo g .s w 0x5B [.s] [] (moveTo g (fun o => .k (o.vd % 8)) (fun r o => r.sr o.va))

def execSli (g : Nat) (w : Slot64) (s : State) : Res := need (g < 80) .noSuchCore (upd s (seSli g w))
def execAmov (g : Nat) (w : Slot64) (s : State) : Res := need (g < 80) .noSuchCore (upd s (seAmov g w))
def execMmov (g : Nat) (w : Slot64) (s : State) : Res := need (g < 80) .noSuchCore (upd s (seMmov g w))
def execKmov (g : Nat) (w : Slot64) (s : State) : Res := need (g < 80) .noSuchCore (upd s (seKmov g w))

/-! ### Loops, branches, counters, unit end -/

/-- LOOP (R90, R92): a fifth loop aborts with cause 3; with n = 0 the engine stands at the body's last bundle, so that the
next one issued is what follows the body. -/
def seLoop (g : Nat) (w : Slot64) : Dev → Dev :=
  seGo g .s w 0x60 [.s] [] (fun o d =>
    let r := d.se g
    let n := (r.sr o.va).toNat % 2 ^ 32
    let len := o.imm % 1024 + 1
    if 4 ≤ r.loops.length then seAbort g 3 d
    else if n = 0 then d.modRegs g (fun r => { r with pc := r.pc + len })
    else d.modRegs g (fun r =>
      { r with loops := { first := r.pc + 1, last := r.pc + len, n := n, stages := o.imm / 1024 % 16 + 1,
                          rot := o.imm.testBit 14, iter := 0 } :: r.loops }))

def execLoop (g : Nat) (w : Slot64) (s : State) : Res := need (g < 80) .noSuchCore (upd s (seLoop g w))

/-- SPAN (R80): RB and RS outside their rules abort with cause 8. -/
def seSpan (g : Nat) (w : Slot64) : Dev → Dev :=
  seGo g .s w 0x61 [.s] [] (fun o d =>
    let rb := o.imm % 64
    let rs := o.imm / 64 % 128
    if rb % 4 = 0 ∧ rb ≤ 60 ∧ rs % 4 = 0 ∧ rs ≤ 64 ∧ rb + rs ≤ 64 then
      d.modRegs g (fun r => { r with rb := rb, rs := rs, rrb := 0 })
    else seAbort g 8 d)

def execSpan (g : Nat) (w : Slot64) (s : State) : Res := need (g < 80) .noSuchCore (upd s (seSpan g w))

/-- A branch of signed IMM bundles from its own bundle, redirecting issue at I + 3 when taken (R93); a target before the stream's first
bundle is bundle 0 (log 46). -/
def branch (g : Nat) (taken : BitVec 64 → Bool) (o : SlotOp) (d : Dev) : Dev :=
  let r := d.se g
  if taken (r.sr o.va) then
    d.modSe g (fun s => { s with branch := some (s.cyc + 3, (toSigned 20 o.imm + r.pc).toNat) })
  else d

def seBr (g : Nat) (w : Slot64) : Dev → Dev := seGo g .s w 0x62 [.s] [] (branch g (fun _ => true))
def seBrz (g : Nat) (w : Slot64) : Dev → Dev := seGo g .s w 0x63 [.s] [] (branch g (fun v => v = 0))
def seBrnz (g : Nat) (w : Slot64) : Dev → Dev := seGo g .s w 0x64 [.s] [] (branch g (fun v => v ≠ 0))

def execBr (g : Nat) (w : Slot64) (s : State) : Res := need (g < 80) .noSuchCore (upd s (seBr g w))
def execBrz (g : Nat) (w : Slot64) (s : State) : Res := need (g < 80) .noSuchCore (upd s (seBrz g w))
def execBrnz (g : Nat) (w : Slot64) (s : State) : Res := need (g < 80) .noSuchCore (upd s (seBrnz g w))

/-- WAITC: the engine stalls until the counter is at least the s-register (R87, R110). -/
def seWaitc (g : Nat) (w : Slot64) : Dev → Dev :=
  seGo g .s w 0x65 [.s] [] (fun o d =>
    let v := ((d.se g).sr o.va).toNat
    if v ≤ d.cc g (o.imm % 16) then d else d.modSe g (fun s => { s with wait := some (o.imm % 16, v), fresh := true }))

def execWaitc (g : Nat) (w : Slot64) (s : State) : Res := need (g < 80) .noSuchCore (upd s (seWaitc g w))

/-- WAITC_SATISFIED: the counter has reached the value; the engine issues again. -/
def waitcDone (g : Nat) (d : Dev) : Dev :=
  match (d.core g).se.wait with
  | some (c, v) => if v ≤ d.cc g c then d.modSe g (fun s => { s with wait := none, fresh := false }) else d
  | none => d

def execWaitcSatisfied (g : Nat) (s : State) : Res := need (g < 80) .noSuchCore (upd s (waitcDone g))

/-- Cycle by which every result in flight has landed. -/
def SeEngine.lastDue (s : SeEngine) : Nat := (s.inflight.map (·.due)).foldl max s.cyc

/-- SIGC: the increment falls in the a-cycle after every instruction of an earlier bundle has landed (R104). -/
def seSigc (g : Nat) (w : Slot64) : Dev → Dev :=
  seGo g .s w 0x66 [.s] [] (fun o d =>
    d.modSe g (fun s => { s with sig := s.sig ++
      [((((s.inflight.filter (fun x => x.issued < s.cyc)).map (·.due)).foldl max s.cyc) + 1, o.imm % 16)] }))

def execSigc (g : Nat) (w : Slot64) (s : State) : Res := need (g < 80) .noSuchCore (upd s (seSigc g w))

/-- END: no further bundle; the pipeline drains, then the stream has ended (R104). With an active loop it aborts. -/
def seEnd (g : Nat) (w : Slot64) : Dev → Dev :=
  seGo g .s w 0x67 [.s] [] (fun _ d =>
    if (d.se g).loops ≠ [] then seAbort g 4 d
    else d.modSe g (fun s => { s with drain := some ((s.sig.map (·.1)).foldl max s.lastDue), fresh := true }))

def execSeEnd (g : Nat) (w : Slot64) (s : State) : Res := need (g < 80) .noSuchCore (upd s (seEnd g w))

/-- An error in the register files (R105): corrected, CE; uncorrectable, the affected lanes are unpredictable, DATA_LOST, and the unit
completes with DATA_LOST. Or one in the scratchpad, which the next read of the word meets. -/
def seEvent (g : Nat) (ev : SeEvent) (d : Dev) : Dev :=
  match ev with
  | .clean => d
  | .corrected => health 0 1 (d.raise F.seStatusCe g)
  | .lost v lanes =>
    let read := takeFree 1024 d
    unitLost g 2 (health 1 1 ((read.2.modRegs g (landReg (.v (v % 64)) lanes read.1)).raise F.seStatusDataLost g))
  | .scratchpad word found => strikeSpad g word found d

/-- SE_RESULT_LAND: results due by the present cycle land (R85, R86); what befell the register files or the scratchpad (R105). -/
def execSeResultLand (x : SeLanding) (s : State) : Res :=
  need (x.g < 80) .noSuchCore (upd s (fun d => seEvent x.g x.ev (landDue x.g d)))

/-! ### The passing of an a-cycle -/

/-- Where issue goes after bundle pc: the inner loop decides first; rotations of finished kernel iterations (R80, R92). -/
def nextBundle (pc : Nat) : List LoopRt → List LoopRt × Nat × Nat
  | [] => ([], pc + 1, 0)
  | l :: ls =>
    let rot := if l.rot then 1 else 0
    if pc ≠ l.last then (l :: ls, pc + 1, 0)
    else if l.iter + 1 < l.n + l.stages - 1 then ({ l with iter := l.iter + 1 } :: ls, l.first, rot)
    else
      let (ls, pc, k) := nextBundle pc ls
      (ls, pc, k + rot)

/-- RRB after k rotations (R80). -/
def rotate (r : SeRegs) (k : Nat) : SeRegs := if r.rs = 0 then r else { r with rrb := (r.rrb + (r.rs - 1) * k) % r.rs }

/-- The registers as the next bundle finds them. -/
def SeRegs.advance (r : SeRegs) : SeRegs :=
  let (ls, pc, k) := nextBundle r.pc r.loops
  rotate { r with loops := ls, pc := pc } k

/-- A redirect: loops whose body the target leaves end, without rotation (R93). -/
def SeRegs.redirect (r : SeRegs) (t : Nat) : SeRegs :=
  { r with pc := t, loops := r.loops.filter (fun l => l.first ≤ t ∧ t ≤ l.last) }

/-- Increments of SIGC that fall in the present cycle. -/
def sigDue (g : Nat) (d : Dev) : Dev :=
  let due := (d.core g).se.sig.filter (fun x => x.1 ≤ (d.core g).se.cyc)
  due.foldl (fun d x => ccInc g x.2 d) (d.modSe g (fun s => { s with sig := s.sig.filter (fun x => ¬ x.1 ≤ s.cyc) }))

/-- One a-cycle of the signal engine of core g: a WAITC stalls it from the a-cycle after its own; else a cycle is executed, the PC moves on or
a redirect takes effect, results and increments due land, and a drained stream ends; the drain after END's own a-cycle counts as a stall
(R87). -/
def seTick (g : Nat) (d : Dev) : Dev :=
  let s := (d.core g).se
  if ¬ s.running then d
  else if s.wait.isSome ∧ ¬ s.fresh then evCore g 0x07 0 1 d
  else
    let issued := s.branch.isNone && (s.drain.isNone || s.fresh)
    let d := d.modSe g (fun s => { s with cyc := s.cyc + 1, fresh := false })
    let d := if issued then evCore g 0x08 0 1 d else if s.drain.isSome then evCore g 0x07 0 1 d else d
    let d := match s.branch, s.drain with
      | _, some _ => d
      | some (c, t), none =>
        if c ≤ s.cyc + 1 then (d.modRegs g (·.redirect t)).modSe g (fun s => { s with branch := none }) else d
      | none, none => d.modRegs g (·.advance)
    let d := sigDue g (landDue g d)
    match s.drain with
    | some c => if c ≤ s.cyc + 1 then d.modSe g (fun s => { s with running := false, drain := none, again := [] }) else d
    | none => d

end Sys2Proof.Machine
end

