-- ==== Sys2Proof/Machine/Image.lean ====
section
/-! DEFINITION. Espalier images: layouts (R130, R133, R138, R139, R144, R145, R450), the loader's checks (R131, R148) and the
binding to cores (R132). -/

namespace Sys2Proof.Machine

open Sys2Proof

/-! ### Layouts -/

/-- Section i, 0 to 7: TYPE, OFF, LEN, COUNT. -/
def secOff (b : Bytes) (i : Nat) : Nat := at_ b (0x84 + 16 * i) 4
def secLen (b : Bytes) (i : Nat) : Nat := at_ b (0x88 + 16 * i) 4
def secCount (b : Bytes) (i : Nat) : Nat := at_ b (0x8C + 16 * i) 4

/-- Bytes of an entry of each section. -/
def entSize (i : Nat) : Nat := [2, 24, 16, 32, 32, 8, 2, 16].getD i 1

/-- Entries of section i as byte strings. -/
def entries (b : Bytes) (i : Nat) : List Bytes :=
  (List.range (secCount b i)).map (fun k => (b.drop (secOff b i + k * entSize i)).take (entSize i))

/-- The section table is well formed: types in order, reserved fields zero, sections inside the image. -/
def sectionsOk (b : Bytes) : Bool :=
  (List.range 8).all (fun i =>
    decide (fld b (0x80 + 16 * i) 7 0 = i + 1) && rsv b (0x80 + 16 * i) 31 8 && decide (secOff b i % 64 = 0) &&
      decide (256 ≤ secOff b i ∧ secOff b i + secLen b i ≤ b.length ∧ secCount b i * entSize i ≤ secLen b i))

/-- The header is well formed; `n` is the length LOAD names. -/
def headerOk (b : Bytes) (n : Nat) : Bool :=
  decide (b.length = n) && decide (256 ≤ n) && decide (at_ b 0 4 = 0x4C505345) && decide (fld b 4 15 8 = 1) &&
    decide (at_ b 8 4 = n ∧ n % 64 = 0 ∧ n ≤ 0x10000000) && rsv b 0x0C 15 14 && rsv b 0x0C 31 27 && rsv b 0x10 31 25 &&
    rsv b 0x1C 15 2 && rsv b 0x1C 31 30 && decide (fld b 0x10 24 18 < 80) && decide (fld b 0x10 8 0 ≤ fld b 0x10 17 9) &&
    decide (1 ≤ at_ b 0x14 2 ∧ at_ b 0x14 2 ≤ 1024 ∧ at_ b 0x14 2 = secCount b 2) &&
    decide (1 ≤ at_ b 0x16 2 ∧ at_ b 0x16 2 = secCount b 6) && decide (fld b 0x1C 29 16 ≤ 8192 ∧ fld b 0x1C 29 16 = secCount b 5)

/-- First image core and size of a group handle of the group section; none: it breaks the rules of R130. -/
def imgHandle (coresM1 h : Nat) : Option (Nat × Nat) :=
  if 0x1000 ≤ h ∨ h.testBit 7 then none
  else if h.testBit 11 then (if h = 0x800 ∧ coresM1 = 79 then some (0, 80) else none)
  else
    let k := h / 256 % 8
    let i := h % 128
    if k ≤ 6 ∧ i % 2 ^ k = 0 ∧ i + 2 ^ k - 1 ≤ coresM1 then some (i, 2 ^ k) else none

/-- A dependency word is well formed (R131, R139). -/
def depOk (slots : List (Nat × Nat × Nat)) (coresM1 : Nat) (presence : Bool) (w : BitVec 32) : Bool :=
  let n := w.toNat
  if n % 4 = 0 then decide (n = 0)
  else if n % 4 = 1 then presence && decide (n / 2 ^ 15 = 0) && slots.any (fun s => s.1 = n / 4 % 8192)
  else if n % 4 = 2 then decide (n / 64 % 128 ≤ coresM1)
  else false

/-- Words of 32 bytes. -/
def words (b : Bytes) (o n : Nat) : List Word256 := (List.range n).map (fun i => BitVec.ofNat 256 (at_ b (o + 32 * i) 32))

/-- A code entry and its streams. -/
def codeEnt (b x : Bytes) : CodeEnt :=
  let base := secOff b 1
  { index := fld x 0 15 0, core := fld x 0 22 16, kind := fld x 0 23 23
    a := words b (base + at_ x 4 4) (fld x 0x10 9 0), b := words b (base + at_ x 8 4) (fld x 0x10 19 10)
    c := words b (base + at_ x 0xC 4) (fld x 0x10 29 20) }

def codeOk (b x : Bytes) : Bool :=
  let inside := fun (o n : Nat) => decide (o + 32 * n ≤ secLen b 1)
  rsv x 0 31 24 && rsv x 0x10 31 30 && decide (at_ x 0x14 4 = 0) && decide (fld x 0 22 16 ≤ fld b 0x10 24 18) &&
    inside (at_ x 4 4) (fld x 0x10 9 0) && inside (at_ x 8 4) (fld x 0x10 19 10) && inside (at_ x 0xC 4) (fld x 0x10 29 20) &&
    (decide (fld x 0 23 23 = 0) || decide (at_ x 8 4 = 0 ∧ at_ x 0xC 4 = 0 ∧ fld x 0x10 29 10 = 0 ∧ fld x 0 15 0 < at_ b 0x14 2))

def templateOf (x : Bytes) : Template :=
  { ccClear := BitVec.ofNat 16 (fld x 0 15 0), restart := bit x 0 16, dispFirst := at_ x 4 4, xchFirst := at_ x 8 4
    dispCount := at_ x 0xC 2, xchCount := at_ x 0xE 2 }

def dispatchOf (x : Bytes) : Dispatch :=
  { release := fld x 0 21 0, group := at_ x 4 2, unit := at_ x 6 2, estEnd := fld x 8 21 0
    deps := (List.range 4).map (fun i => BitVec.ofNat 32 (at_ x (0xC + 4 * i) 4)) }

def exchangeOf (x : Bytes) : Exchange :=
  { offset := fld x 0 21 0, window := fld x 0 29 22, edelta := fld x 0 30 30, len64 := fld x 4 23 0
    src := at_ x 8 6, peer := fld x 0xC 24 16, stier0 := bit x 0xC 25, dst := at_ x 0x10 6, slot := fld x 0x14 28 16
    dtier0 := bit x 0x14 29, dep := BitVec.ofNat 32 (at_ x 0x18 4), altoff := at_ x 0x1C 4 }

/-- The image that bytes spell, without its binding. -/
def imageOf (b : Bytes) : Image :=
  { digest := sha384 b, epochLen := fld b 0x0C 13 0, slack := fld b 0x0C 24 16, linkClass := fld b 0x0C 26 25
    role := fld b 0x10 8 0, rolesM1 := fld b 0x10 17 9, coresM1 := fld b 0x10 24 18, repeats := at_ b 0x18 4
    nondet := bit b 0x1C 0, radio := bit b 0x1C 1, lglDigest := (b.drop 0x20).take 48, jobDigest := (b.drop 0x50).take 48
    groups := (entries b 0).map (fun x => at_ x 0 2), code := (entries b 1).map (codeEnt b)
    templates := (entries b 2).map templateOf, dispatch := (entries b 3).map dispatchOf
    exchange := (entries b 4).map exchangeOf
    slots := (entries b 5).map (fun x => (fld x 0 12 0, fld x 0 21 13, fld x 4 23 0))
    seq := (entries b 6).map (fun x => at_ x 0 2)
    restart := (entries b 7).map (fun x => (fld x 0 1 0, fld x 0 14 8, at_ x 4 4, fld x 8 47 0))
    binding := [], devSlots := secCount b 5 }

/-- A restart entry keeps R450. -/
def restartOk (x : Bytes) : Bool :=
  let tier := fld x 0 1 0
  let len := at_ x 4 4
  let a := fld x 8 47 0
  rsv x 0 7 2 && rsv x 0 31 15 && rsv x 8 63 48 && decide (tier ≠ 3) && decide (a % 64 = 0 ∧ len % 64 = 0 ∧ len ≠ 0) &&
    (decide (tier ≠ 0) || decide (a + len ≤ spadSize))

/-- Every check of BAD_FORMAT (R130, R131, R450). -/
def formatOk (b : Bytes) (n : Nat) : Bool :=
  headerOk b n && sectionsOk b &&
    (let im := imageOf b
     let noDup := fun (k : Nat) => ((im.code.filter (fun c => c.kind = k)).map (fun c => (c.index, c.core))).Nodup
     im.groups.all (fun h => (imgHandle im.coresM1 h).isSome) &&
      im.seq.all (fun t => decide (t < im.templates.length)) && (entries b 1).all (codeOk b) && decide (noDup 0) && decide (noDup 1) &&
      (entries b 2).all (fun x => rsv x 0 31 17) &&
      im.templates.all (fun t => decide (t.dispFirst + t.dispCount ≤ im.dispatch.length ∧ t.xchFirst + t.xchCount ≤ im.exchange.length)) &&
      (entries b 3).all (fun x => rsv x 0 31 22 && rsv x 8 31 22 && decide (at_ x 0x1C 4 = 0)) &&
      im.dispatch.all (fun u => im.groups.contains u.group && u.deps.all (depOk im.slots im.coresM1 true)) &&
      (entries b 4).all (fun x => rsv x 0 31 31 && rsv x 4 31 24 && rsv x 0xC 31 26 && rsv x 0x14 31 30) &&
      im.exchange.all (fun u => decide (1 ≤ u.len64 ∧ u.len64 ≤ 262144 ∧ u.src % 64 = 0 ∧ u.dst % 64 = 0 ∧ u.altoff % 64 = 0 ∧
        u.peer ≤ im.rolesM1) && depOk im.slots im.coresM1 false u.dep) &&
      (entries b 5).all (fun x => rsv x 0 31 22 && rsv x 4 31 24) && (entries b 7).all restartOk)

/-! ### Offsets (R131, R136, R148) -/

/-- A-cycles of an epoch and its budget (R136, R148). -/
def Image.epochA (im : Image) : Nat := im.epochLen * 300
def Image.budget (im : Image) : Nat := im.epochA * (1000 - im.slack) / 1000

/-- The transfer list of a template on an image core. -/
def Image.tlist (im : Image) (t core : Nat) : List Word256 :=
  match im.code.find? (fun c => c.kind = 1 ∧ c.index = t ∧ c.core = core) with
  | some c => c.a
  | none => []

/-- The three streams of a unit on an image core. -/
def Image.streams (im : Image) (unit core : Nat) : List Word256 × List Word256 × List Word256 :=
  match im.code.find? (fun c => c.kind = 0 ∧ c.index = unit ∧ c.core = core) with
  | some c => (c.a, c.b, c.c)
  | none => ([], [], [])

/-- The checks of BAD_EPOCH (R131, R166); the OFFSET of an SU.AT is an offset too. -/
def epochOk (im : Image) : Bool :=
  decide (20 ≤ im.epochLen ∧ im.epochLen ≤ 10000 ∧ 10 ≤ im.slack ∧ im.slack ≤ 500) &&
    im.dispatch.all (fun u => decide (2 ≤ u.release ∧ u.release < im.epochA ∧ u.estEnd < im.epochA)) &&
    (! im.radio || decide (im.epochLen = 5000 ∨ im.epochLen = 10000)) &&
    im.exchange.all (fun u => decide (u.offset < im.epochA)) &&
    im.code.all (fun c => decide (c.kind = 0) ||
      c.a.all (fun w => decide (wfld w 0 7 0 ≠ 0x82) || decide (wfld w 4 21 0 < im.epochA)))

/-- The checks of SLACK_VIOLATION (R148). -/
def slackOk (im : Image) : Bool :=
  im.dispatch.all (fun u => decide (u.estEnd < im.budget)) && im.exchange.all (fun u => decide (u.offset < im.budget))

/-! ### Binding (R132) -/

/-- Legal groups of size s, by ascending first core. -/
def legalGroups (s : Nat) : List (List Nat) :=
  if s = 80 then [List.range 80] else (List.range 80).filterMap (fun g => groupAt g (Nat.log2 s))

/-- A span of image cores lies inside another, larger or equal one. -/
def inside (a b : Nat × Nat) : Bool := decide (b.1 ≤ a.1 ∧ a.1 + a.2 ≤ b.1 + b.2)

/-- The maximal handles by descending size and ascending FIRST, then the image cores in no handle. -/
def Image.maximal (im : Image) : List (Nat × Nat) :=
  let spans := (im.groups.filterMap (imgHandle im.coresM1)).eraseDups
  let top := spans.filter (fun a => ! spans.any (fun b => b ≠ a && inside a b))
  let top := sortL (fun a b => decide (b.2 < a.2 ∨ (a.2 = b.2 ∧ a.1 ≤ b.1))) top
  top ++ ((List.range (im.coresM1 + 1)).filter (fun i => ! spans.any (fun b => inside (i, 1) b))).map (fun i => (i, 1))

/-- Lend groups of the active and the pending lending gate list. -/
def Dev.lendGroups (d : Dev) : List Nat :=
  d.lgl.groups ++ (match d.lglPend with
    | some (l, _, _) => l.groups
    | none => [])

/-- The device as the loader sees it for p: p0 may bind and form groups of the lend groups, on which it runs in their held
windows (R304, log 33). -/
def Dev.forLoad (d : Dev) (p : Nat) : Dev :=
  if p = 0 then d.modPart 0 (fun x => { x with groups := x.groups ++ d.lendGroups }) else d

/-- Steps 1 and 2 of the binding: (image core, core) pairs; none: a maximal handle finds no group. -/
def bindSpans (holds : Nat → Bool) (other : List Nat) : List (Nat × Nat) → List (Nat × Nat) → Option (List (Nat × Nat))
  | [], acc => some acc
  | (first, size) :: rest, acc =>
    let used := acc.map (·.2)
    let cands := (legalGroups size).filter (fun cs => cs.all (fun g => holds g && ! used.contains g))
    match (cands.find? (fun cs => cs.all (fun g => ! other.contains g))).or cands.head? with
    | none => none
    | some cs => bindSpans holds other rest (acc ++ (List.range size).zipWith (fun i g => (first + i, g)) cs)

/-- The image with its binding; none: SHAPE. -/
def bindImage (d : Dev) (p : Nat) (other : List Nat) (im : Image) : Option Image :=
  match bindSpans ((d.forLoad p).holdsCore p) other im.maximal [] with
  | none => none
  | some m =>
    let bound := (List.range (im.coresM1 + 1)).map (fun i => (tabFind m i).getD 0)
    let legal := (im.groups.filterMap (imgHandle im.coresM1)).all (fun s =>
      (legalGroups s.2).contains ((bound.drop s.1).take s.2))
    if legal then some { im with binding := bound } else none

/-- Cores of an image-relative group handle. -/
def Image.coresOf (im : Image) (h : Nat) : List Nat :=
  match imgHandle im.coresM1 h with
  | some (i, s) => (im.binding.drop i).take s
  | none => []

/-! ### Code (R62, R84, R119, R131, R133) -/

/-- Bytes of the image's code on a die. -/
def Image.codeBytes (im : Image) (die : Nat) : Nat :=
  sumL (im.code.map (fun c =>
    if dieOf (im.binding.getD c.core 0) = die then 32 * (c.a.length + c.b.length + c.c.length) else 0))

/-- Streams within their word limits (a code buffer half) and code that fits p's stream-buffer slices (R133). -/
def codeFits (d : Dev) (p : Nat) (other : Option Image) (im : Image) : Bool :=
  im.code.all (fun c => decide (c.kind = 1) || decide (c.a.length ≤ 512 ∧ c.b.length ≤ 512 ∧ c.c.length ≤ 512)) &&
    (List.range 4).all (fun die =>
      let o := match other with
        | some x => x.codeBytes die
        | none => 0
      decide (im.codeBytes die = 0 ∨ im.codeBytes die + o ≤ d.sbShare p die))

/-- The cause of an HB.MM in a loaded stream: the checks of R61 on what the stream itself fixes; a descriptor that it does not
set is checked when the word runs. `known` maps a descriptor number to its value. -/
def mmStatic (d : Dev) (p g e : Nat) (known : Tab (BitVec 128)) (w : Word256) : Bool :=
  let o := mmOp w
  let odk := fun i => (tabFind known i).map odDesc
  let chk := fun (i : Nat) (t : OdDesc → Bool) => match odk i with
    | some x => t x
    | none => true
  o.rsvOk && ! (decide (o.fd = 5) && o.xgiven && decide (16 ≤ o.xd)) &&
  (match pairMode o.fa o.fb with
   | none => false
   | some (acc, _) =>
     (! o.acc || fcOk acc o.fc) && fdOk acc o.fd && ! (decide (o.fd = 5) && ! o.xgiven) && decide (o.k ≤ 1048576) &&
     (match mmCores d p g e o.gsize with
      | none => false
      | some cs =>
        let span := cs.length * spadSize
        chk o.oda (fun x => odAligned x o.fa && odStrides x o.fa o.k && (decide (o.k = 0) || odInRange x o.fa o.m o.k span)) &&
        chk o.odb (fun x => odAligned x o.fb && odStrides x o.fb o.k && (decide (o.k = 0) || odInRange x o.fb o.n o.k span)) &&
        chk o.odd (fun x => odAligned x o.fd && odStrides x o.fd o.n && odInRange x o.fd o.m o.n span) &&
        (! o.acc || chk o.odc (fun x => odAligned x o.fc && odStrides x o.fc o.n && odInRange x o.fc o.m o.n span))))

/-- A Hornbeam stream is legal: HB.END last and nowhere else (R139), every word as R62 checks it. -/
def hbStatic (d : Dev) (p g e : Nat) : List Word256 → Tab (BitVec 128) → Bool
  | [], _ => false
  | [w], _ => decide (w.toNat = 0x4F)
  | w :: ws, known =>
    if wfld w 0 7 0 = 0x40 then
      wrsv w 0 31 13 && wrsv w 4 95 0 && wrsv w 0x1C 31 24 &&
        hbStatic d p g e ws (tabPut known (wfld w 0 12 8) (BitVec.ofNat 128 (wfld w 0x10 127 0)))
    else if wfld w 0 7 0 = 0x41 then mmStatic d p g e known w && hbStatic d p g e ws known
    else false

/-- Types an opcode accepts in a slot: none, it is not defined there; the empty list, no type is named (*Instruction tables*,
R84). -/
def slotTypes (sl : SeSlot) (opc : Nat) : Option (List Nat) :=
  match sl with
  | .m =>
    if opc = 1 ∨ opc = 2 then some laneTypes else if opc = 3 ∨ opc = 4 then some [8, 9]
    else if 5 ≤ opc ∧ opc ≤ 7 then some blockTypes else none
  | .s => if (0x50 ≤ opc ∧ opc ≤ 0x5B) ∨ (0x60 ≤ opc ∧ opc ≤ 0x67) then some [] else none
  | _ =>
    if (0x10 ≤ opc ∧ opc ≤ 0x15) ∨ opc = 0x1D ∨ opc = 0x22 then some arithTypes
    else if (0x16 ≤ opc ∧ opc ≤ 0x18) ∨ opc = 0x1C ∨ opc = 0x1E ∨ opc = 0x24 then some laneTypes
    else if 0x19 ≤ opc ∧ opc ≤ 0x1B then some intTypes
    else if opc = 0x20 ∨ opc = 0x21 then some floatTypes
    else if opc = 0x23 then some [5, 6, 7]
    else if opc = 0x25 then some [5, 7, 9]
    else if sl = .v0 then none
    else if 0x30 ≤ opc ∧ opc ≤ 0x32 then some [8, 9]
    else if opc = 0x33 then some [5, 7, 8, 9]
    else if opc = 0x34 ∨ opc = 0x36 ∨ opc = 0x37 then some [5]
    else if opc = 0x35 then some [10]
    else if opc = 0x38 ∨ opc = 0x39 then some [8]
    else none

/-- One slot word passes the loader: opcode, type, the source type of VCVT, and the operands of a SPAN (R80, R84). -/
def slotStatic (sl : SeSlot) (w : Slot64) : Bool :=
  let o := slotOp w
  if o.opc = 0 then true
  else match slotTypes sl o.opc with
    | none => false
    | some ts => (decide (ts = []) || ts.contains o.t) && (decide (o.opc ≠ 0x22) || convPairs.contains (o.imm % 16, o.t)) &&
        (decide (o.opc ≠ 0x61) || (let rb := o.imm % 64
          let rs := o.imm / 64 % 128
          decide (rb % 4 = 0 ∧ rb ≤ 60 ∧ rs % 4 = 0 ∧ rs ≤ 64 ∧ rb + rs ≤ 64)))

/-- Slot i of a bundle. -/
def slotOf (w : Word256) (i : Nat) : Slot64 := (w >>> (64 * i)).truncate 64

/-- A signal-engine stream is legal (R84, R139). -/
def seStatic (ws : List Word256) : Bool :=
  ws.all (fun w => slotStatic .m (slotOf w 0) && slotStatic .v0 (slotOf w 1) && slotStatic .v1 (slotOf w 2) && slotStatic .s (slotOf w 3))

/-- A word of a transfer list that needs no descriptor passes the loader, with the descriptors the list has set: R119, R266. -/
def suStatic (d : Dev) (p g : Nat) (roles : Nat) (known : Tab (BitVec 192)) (w : Word256) : Bool :=
  let sdk := fun i => (tabFind known i).map sdDesc
  let group := fun gs => d.suGroup p g gs
  let wOk := (suWait w).rsvOk
  match wfld w 0 7 0 with
  | 0x80 =>
    let o := mvOp w
    let (a, b) := mvShape o
    o.rsvOk && fmtOk o.fmt && decide (1 ≤ o.len ∧ o.len ≤ 1048576) && ! (o.xpose && decide (65536 < o.lines ∨ 65536 < o.len)) &&
      ! (o.decomp && (o.xpose || ! isBs o.fmt)) &&
      (match group o.gsize with
       | none => false
       | some cs =>
         let side := fun (x : SdDesc) (sh : Nat × Nat) (lines : Bool) =>
           decide (x.tier ≠ 3) && mvAligned x o.fmt && (! lines || mvStrides x o.fmt sh) &&
             (decide (x.tier = 2) || x.hiZero) && (! lines || mvInRange x o.fmt sh (d.tierEnd g p cs x.tier))
         (match sdk o.sds with
          | some x => side x a (! o.decomp) && (! o.decomp || decide (x.tier = 2))
          | none => true) &&
         (match sdk o.sdd with
          | some x => side x b true && (! o.decomp || decide (x.tier ≠ 2))
          | none => true))
  | 0x81 => decide (sdCause w = 0)
  | 0x82 => wrsv w 0 31 8 && wrsv w 4 31 22 && decide ((w >>> 64).toNat = 0)
  | 0x83 =>
    wrsv w 0 11 9 && wrsv w 0 31 29 && wrsv w 4 31 24 && wrsv w 12 31 16 && wrsv w 20 31 0 && wOk && decide (remRole w < roles) &&
      decide (remRes w % 16 = 0) &&
      (match group (remGsize w) with
       | none => false
       | some cs => decide (remRes w + 16 ≤ cs.length * spadSize) && (match sdk (rmaSd w) with
          | some x => decide (x.tier ≠ 3 ∧ x.ebase + rmaLen w ≤ d.tierEnd g p cs x.tier) && (decide (x.tier = 2) || x.hiZero)
          | none => true))
  | 0x84 =>
    wrsv w 0 15 12 && wrsv w 0 31 29 && wrsv w 4 31 0 && wrsv w 12 31 16 && wOk && decide (remRole w < roles) &&
      decide (amoType w < 2 ∨ (amoType w = 2 ∧ amoOp w = 0)) &&
      decide (remRes w % 16 = 0 ∧ amoOpnd w % 16 = 0 ∧ remAddr w % amoSize w = 0) &&
      (match group (remGsize w) with
       | none => false
       | some cs => decide (remRes w + 16 ≤ cs.length * spadSize ∧ amoOpnd w + 16 ≤ cs.length * spadSize))
  | 0x85 => wrsv w 0 15 9 && wrsv w 0 31 25 && decide ((w >>> 32).toNat % 2 ^ 160 = 0) && wOk && (wbit w 0 8 || decide (remRole w < roles))
  | 0x86 => decide (evcCause w = 0)
  | 0x87 =>
    wrsv w 0 31 14 && decide ((w >>> 64).toNat % 2 ^ 128 = 0) && wOk && decide (wfld w 4 31 0 % 16 = 0) &&
      (match group (evrGsize w) with
       | none => false
       | some cs => decide (wfld w 4 31 0 + 80 ≤ cs.length * spadSize))
  | _ => false

/-- A transfer list is legal: SU.EEND last and nowhere else (R143). -/
def listStatic (d : Dev) (p g roles : Nat) : List Word256 → Tab (BitVec 192) → Bool
  | [], _ => false
  | [w], _ => decide (w.toNat = 0x8F)
  | w :: ws, known =>
    suStatic d p g roles known w &&
      listStatic d p g roles ws (if wfld w 0 7 0 = 0x81 then tabPut known (wfld w 0 11 8) (sdOf w) else known)

/-- Every stream of a bound image is legal; a stream of length 0 is. -/
def codeLegal (d : Dev) (p : Nat) (im : Image) : Bool :=
  im.code.all (fun c =>
    let g := im.binding.getD c.core 0
    if c.kind = 1 then decide (c.a = []) || listStatic d p g (im.rolesM1 + 1) c.a []
    else (decide (c.a = []) || hbStatic d p g 0 c.a []) && (decide (c.b = []) || hbStatic d p g 1 c.b []) && seStatic c.c)

/-! ### LOAD's answer (R131, R366) -/

/-- Device receive slots that images hold (R132). -/
def Dev.slotsTaken (d : Dev) : Nat :=
  sumL (d.parts.map (fun e =>
    let n := fun (x : Option Image) => match x with
      | some im => im.devSlots
      | none => 0
    n e.2.sched.active + n e.2.sched.standby + (match e.2.sched.loading with
      | some (_, _, _, x) => n x
      | none => 0)))

/-- What the loader concludes on n bytes at address a of p: a status, or the bound image. The checks in the order format,
firmware, epoch, shape, code space, code, slack, slots, digest (log 33). -/
def loadImage (d : Dev) (p a n : Nat) : Nat ⊕ Image :=
  if n < 256 ∨ 0x10000000 < n ∨ (d.vMissing p a n).isSome then .inl 0x21
  else
    let b := d.vRead p a n
    let other := (d.sched p).active
    if ¬ formatOk b n then .inl 0x21
    else if fld b 4 31 16 ≠ d.flash.fwMajor then .inl 0x22
    else
      let im := imageOf b
      if ¬ epochOk im then .inl 0x23
      else if im.radio ≠ decide (p = 0) then .inl 0x24
      else match bindImage d p (match other with
        | some o => o.binding
        | none => []) im with
        | none => .inl 0x24
        | some im =>
          if ¬ codeFits d p other im then .inl 0x25
          else if ¬ codeLegal (d.forLoad p) p im then .inl 0x26
          else if ¬ slackOk im then .inl 0x27
          else if 8192 < d.slotsTaken + im.devSlots then .inl 0x28
          else if p ≠ 0 ∧ ¬ (d.part p).allowed.contains im.digest then .inl 0xC4
          else .inr im

end Sys2Proof.Machine
end

