-- ==== Sys2Proof/Machine/Release.lean ====
section
/-! DEFINITION. The epoch grid (R136, R137), what a unit waits for (R133, R139 to R142), and the scheduler of shared groups
(R309 to R313). -/

namespace Sys2Proof.Machine

open Sys2Proof

/-! ### The epoch grid -/

/-- N_e of a schedule (R136, R151). -/
def Sched.nominal (s : Sched) (e : Nat) : BitVec 64 :=
  match s.active with
  | some im => BitVec.ofInt 64 ((s.t0.toNat : Int) + ((e : Int) - s.eS) * (im.epochLen * 800 : Nat))
  | none => s.t0

/-- The nominal tick of epoch e in a-cycles: 12 after network time reaches N_e (R137). -/
def Dev.nominalTick (d : Dev) (p e : Nat) : Int := acycOf d ((d.sched p).nominal e) + 12

/-- The schedule is RUNNING, HELD or STOPPING. -/
def Dev.running (d : Dev) (p : Nat) : Bool := d.esState p = 4 || d.esState p = 5 || d.esState p = 6

/-- An epoch of p is in progress. -/
def Dev.inEpoch (d : Dev) (p : Nat) : Bool := d.running p && (d.sched p).endAt.isNone

/-- The template of epoch e (R136). -/
def Image.template (im : Image) (e : Nat) : Option (Nat × Template) :=
  (im.seq[e % im.seq.length]?).bind (fun t => (im.templates[t]?).map (fun x => (t, x)))

/-! ### Dependencies (R139, R140) -/

/-- The a-cycle in which counter i of the context of p on core g first held v. -/
def Dev.ccSinceFor (d : Dev) (p g i v : Nat) : Option Nat :=
  let c : Counter := tabGet {} (d.pctx p g).cc i
  if c.val < v then none else some (if v = 0 then 0 else c.hist.getD (c.val - v) 0)

/-- The a-cycle in which the dispatcher observes a dependency word satisfied, for a unit whose first core is `first`: a counter on the
same die 16 a-cycles after its increment, on another 48; a presence bit 30 after the transfer's last byte (R140). -/
def Dev.depAt (d : Dev) (p : Nat) (im : Image) (first : Nat) (w : BitVec 32) : Option Nat :=
  let n := w.toNat
  if n % 4 = 1 then
    (tabGet {} (d.sched p).presence (n / 4 % 8192 * 2 + d.epoch p % 2)).setAt.map (· + 30)
  else if n % 4 = 2 then
    let g := im.binding.getD (n / 64 % 128) 0
    (d.ccSinceFor p g (n / 4 % 16) (n / 8192)).map (· + (if dieOf g = dieOf first then 16 else 48))
  else some 0

/-- The largest of a list of a-cycles; none: one of them is not known yet. -/
def allAt (l : List (Option Nat)) : Option Nat :=
  l.foldl (fun a x => match a, x with
    | some m, some y => some (max m y)
    | _, _ => none) (some 0)

/-- All dependencies of a unit observed. -/
def Dev.depsAt (d : Dev) (p : Nat) (im : Image) (u : UnitRt) : Option Nat :=
  allAt (u.entry.deps.map (d.depAt p im (u.cores.headD 0)))

/-! ### Code fetches (R133) -/

/-- Image core index of a core in p's active image. -/
def Image.coreIndex (im : Image) (g : Nat) : Nat := (im.binding.findIdx? (· = g)).getD 0

/-- Words of the stream of engine e (0 hb0, 1 hb1, 2 se) of a unit on core g. -/
def Image.streamLen (im : Image) (unit g e : Nat) : Nat :=
  let (a, b, c) := im.streams unit (im.coreIndex g)
  if e = 0 then a.length else if e = 1 then b.length else c.length

/-- Units of the epoch with code for engine e of core g, in dispatch order. -/
def Dev.codeUnits (d : Dev) (p : Nat) (im : Image) (g e : Nat) : List Nat :=
  ((d.sched p).units.zipIdx.filter (fun u => u.1.cores.contains g && decide (im.streamLen u.1.entry.unit g e ≠ 0))).map (·.2)

/-- Code buffer e of core g. -/
def Dev.codeBuf (d : Dev) (g e : Nat) : CodeBuf := tabGet {} (d.core g).code e

/-- The a-cycle in which a fetch of W words that starts in a-cycle t has ended: 40 + ceil(W/8) f-cycles. -/
def fetchEnd (t w : Nat) : Nat := t + ceilDiv ((40 + ceilDiv w 8) * 3) 2

/-- The next fetch of engine e of core g for p and the a-cycle in which it ends: the code of the first unit of the epoch that has not issued
and whose code is not there (after a restore, of its next unit); none: nothing to fetch, or its half is taken. -/
def Dev.nextFetch (d : Dev) (p g e : Nat) : Option (Nat × Nat) :=
  match (d.sched p).active with
  | none => none
  | some im =>
    let us := d.codeUnits p im g e
    let fs := (d.codeBuf g e).fetched
    match us.zipIdx.find? (fun u => ! fs.any (fun f => f.1 = u.1) && (d.unitRt p u.1).any (fun x => x.issued.isNone)) with
    | none => none
    | some (i, k) =>
      let prev := (fs.map (·.2)).foldl max (d.sched p).tick
      let half := if k < 2 then some 0 else (d.unitRt p (us.getD (k - 2) 0)).bind (·.ended)
      half.bind (fun h => (d.unitRt p i).map (fun u => (i, fetchEnd (max prev h) (im.streamLen u.entry.unit g e))))

/-- All streams of unit i fetched; a stream of length 0 counts as fetched from the tick. -/
def Dev.codeAt (d : Dev) (p : Nat) (im : Image) (i : Nat) (u : UnitRt) : Option Nat :=
  allAt (u.cores.flatMap (fun g => (List.range 3).map (fun e =>
    if im.streamLen u.entry.unit g e = 0 then some (d.sched p).tick
    else ((d.codeBuf g e).fetched.find? (fun f => f.1 = i)).map (·.2))))

/-! ### Release (R140 to R142) -/

/-- Earlier units of the epoch that share a core with unit i, all ended: the last end. -/
def Dev.beforeAt (d : Dev) (p i : Nat) (u : UnitRt) : Option Nat :=
  allAt (((d.sched p).units.take i).map (fun v =>
    if v.cores.any (fun g => u.cores.contains g) then v.ended.map (· + 2) else some 0))

/-- The earliest a-cycle R140 allows unit i, whatever its cores' state. -/
def Dev.dueAt (d : Dev) (p i : Nat) : Option Nat :=
  match (d.sched p).active, d.unitRt p i with
  | some im, some u =>
    if u.issued.isSome then none
    else allAt [some ((d.sched p).tick + u.entry.release), (d.depsAt p im u).map (· + 2), (d.codeAt p im i u).map (· + 2),
      d.beforeAt p i u]
  | _, _ => none

/-- The lend spans and windows allow p a release on core g (R142, R303, R304). -/
def Dev.lendAllows (d : Dev) (p g : Nat) : Bool :=
  match d.lendOf g with
  | none => true
  | some (_, x) =>
    if p = 0 then ! (d.flag F.coreStateLent g) || (decide (x.phase = 3) && ntLt d.nt x.woff)
    else decide (x.phase < 2 ∨ x.phase = 5)

/-- In fixed mode a context releases from B + 24 µs until B' − 34.5 µs (R313). -/
def Dev.sliceAllows (d : Dev) (g : Nat) : Bool :=
  match d.sgOf g with
  | none => true
  | some (_, x) =>
    ! x.fixed || (decide (x.sliceAt + 72000 ≤ d.acyc) && decide (d.acyc + 103500 < x.sliceAt + x.slice * 300000))

/-- Unit release of p on core g is possible now: its context stands there idle, and nothing holds the core. -/
def Dev.mayRelease (d : Dev) (p g : Nat) : Bool :=
  decide (d.coreOwner g = some p) && decide (d.coreSt g = 1) && d.lendAllows p g && d.sliceAllows g

/-- A core of unit i is held by lending (R142, R304). -/
def Dev.lendHolds (d : Dev) (p : Nat) (u : UnitRt) : Bool :=
  u.cores.any (fun g => ! d.lendAllows p g || (p = 0 && decide (d.coreOwner g ≠ some 0)) ||
    (p ≠ 0 && d.flag F.coreStateLent g))

/-! ### Shared groups (R309 to R313) -/

/-- A context is runnable (R309): its schedule is RUNNING and its next unit on the group would be released, or a list of a core of the
group has a word ready. -/
def Dev.runnable (d : Dev) (p : Nat) (cores : List Nat) : Bool :=
  decide (d.esState p = 4) &&
    (((d.sched p).units.zipIdx.any (fun u => u.1.cores.any (fun g => cores.contains g) && u.1.issued.isNone &&
        (match d.dueAt p u.2 with
         | some t => decide (t ≤ d.acyc)
         | none =>
           -- the code of a context that is out of its cores is fetched after its restore (R292)
           match (d.sched p).active, d.beforeAt p u.2 u.1 with
           | some im, some _ => ! u.1.cores.all (fun g => d.inCore p g) && (d.depsAt p im u.1).isSome &&
               decide ((d.sched p).tick + u.1.entry.release ≤ d.acyc)
           | _, _ => false))) ||
      cores.any (fun g =>
        let l := (d.pctx p g).list
        l.active && (match l.held with
          | some t => decide (t ≤ d.acyc)
          | none => true)))

/-- Cores of shared group i. -/
def Dev.sgCores (d : Dev) (i : Nat) : List Nat := (handleCores (d.sg i).handle).getD []

/-- Grant k of shared group i is runnable. -/
def Dev.sgRunnable (d : Dev) (i k : Nat) : Bool :=
  match (d.sg i).grants[k]? with
  | some g => d.runnable g.part (d.sgCores i)
  | none => false

/-- Start tags are compared by signed difference. -/
def tag64Lt (a b : Nat) : Bool := decide ((BitVec.ofNat 64 a - BitVec.ofNat 64 b).toInt < 0)

/-- Grant changed. -/
def modGrant (i k : Nat) (f : SgGrant → SgGrant) (d : Dev) : Dev := d.modSg i (fun x => { x with grants := modAt x.grants k f })

/-- The finish tag after a charge of c a-cycles (R310). -/
def settle (x : SgGrant) : SgGrant :=
  let f := (x.s + x.charge * 256 / max 1 x.weight) % 2 ^ 64
  { x with f := f, s := f, charge := 0 }

/-- The better of two candidates of the scheduler: class, then start tag, then index; `last` marks the running context whose slice has
ended: it comes after its whole class. -/
def Dev.better (d : Dev) (i : Nat) (last : Nat → Bool) (a b : Nat) : Bool :=
  let x := ((d.sg i).grants.getD a { part := 0, weight := 1, resident := false })
  let y := ((d.sg i).grants.getD b { part := 0, weight := 1, resident := false })
  let cx := d.getF F.ptPartStateClass x.part
  let cy := d.getF F.ptPartStateClass y.part
  if cx ≠ cy then decide (cx < cy)
  else if last a ≠ last b then last b
  else if x.s ≠ y.s then tag64Lt x.s y.s
  else decide (a < b)

/-- The scheduler's choice among grants. -/
def Dev.pick (d : Dev) (i : Nat) (last : Nat → Bool) (l : List Nat) : Option Nat :=
  l.foldl (fun b k => match b with
    | none => some k
    | some m => if d.better i last k m then some k else some m) none

/-- The slice of the running context has ended. -/
def Dev.sliceOver (d : Dev) (i : Nat) : Bool := decide ((d.sg i).sliceAt + (d.sg i).slice * 300000 ≤ d.acyc)

/-- Grant indices of shared group i. -/
def Dev.grantIx (d : Dev) (i : Nat) : List Nat := List.range (d.sg i).grants.length

/-- PT_SG_STATUS as it stands. -/
def sgView (i : Nat) (d : Dev) : Dev :=
  let x := d.sg i
  let d := d.setF F.ptSgStatusResident i (sumL (x.grants.zipIdx.map (fun g => if g.1.resident then 2 ^ g.2 else 0)))
  let d := d.setF F.ptSgStatusFixed i (if x.fixed then 1 else 0)
  let d := d.setF F.ptSgStatusValid i (if x.grants = [] then 0 else 1)
  let d := d.setF F.ptSgStatusRunValid i (if x.run.isSome then 1 else 0)
  d.setF F.ptSgStatusRun i (x.run.getD 0)

/-- A free resident position goes to the swapped-out context that is latency-critical and has been out longest, else to the best-effort
one that has (R312); in fixed mode every grant is resident (R313). -/
def sgFillOne (i : Nat) (d : Dev) : Dev :=
  let x := d.sg i
  let res := (x.grants.filter (fun g => g.resident)).length
  let out := x.grants.zipIdx.filter (fun g => ! g.1.resident)
  if x.fixed then d.modSg i (fun x => { x with grants := x.grants.map (fun g => { g with resident := true }) })
  else if x.resM1 + 1 ≤ res then d
  else
    let first := out.foldl (fun b (g : SgGrant × Nat) => match b with
      | none => some g
      | some (m : SgGrant × Nat) =>
        let cg := d.getF F.ptPartStateClass g.1.part
        let cm := d.getF F.ptPartStateClass m.1.part
        if cg < cm ∨ (cg = cm ∧ g.1.outAt < m.1.outAt) then some g else some m) none
    match first with
    | some (_, k) => modGrant i k (fun g => { g with resident := true }) d
    | none => d

/-- Every free resident position is filled. -/
def sgFill (i : Nat) (d : Dev) : Dev := (List.range 8).foldl (fun d _ => sgFillOne i d) d

/-- R312: every resident context blocked and a swapped-out one runnable: the resident blocked longest is evicted, between equal times the
higher index, and the runnable one becomes resident. -/
def sgEvict (i : Nat) (d : Dev) : Dev :=
  let x := d.sg i
  let res := (d.grantIx i).filter (fun k => (x.grants.getD k { part := 0, weight := 1, resident := false }).resident)
  let out := (d.grantIx i).filter (fun k => ! (x.grants.getD k { part := 0, weight := 1, resident := false }).resident && d.sgRunnable i k)
  if x.fixed ∨ res.any (fun k => d.sgRunnable i k) then d
  else match d.pick i (fun _ => false) out with
    | none => d
    | some k =>
      let since := fun (j : Nat) => ((x.grants.getD j { part := 0, weight := 1, resident := false }).blocked).getD d.acyc
      let victim := res.foldl (fun b j => match b with
        | none => some j
        | some m => if since j ≤ since m then some j else some m) none
      match victim with
      | none => modGrant i k (fun g => { g with resident := true }) d
      | some v =>
        (modGrant i k (fun g => { g with resident := true })
          (modGrant i v (fun g => { g with resident := false, outAt := d.acyc }) d)).raise F.ptStatusEvict

/-- Grant k is switched in: v takes its start tag, and its context is restored on cores that are unowned. -/
def sgSwitchIn (i k : Nat) (d : Dev) : Dev :=
  match (d.sg i).grants[k]? with
  | none => d
  | some g =>
    let d := d.modSg i (fun x => { x with run := some k, v := g.s, sliceAt := d.acyc })
    sgView i ((d.sgCores i).foldl (fun d c => startRestore c g.part d) d)

/-- The running context is switched out: saved and scrubbed; what follows it waits in `next` of each core. -/
def sgSwitchOut (i : Nat) (next : Option Nat) (d : Dev) : Dev :=
  (d.sgCores i).foldl (fun d c => startSave c (d.modCore c (fun x => { x with next := next }))) d

/-- The scheduler decides (R310): it changes nothing on a suspended or fixed group, or while a core of the group is neither idle nor
unowned, and brings in no context while DEGRADED (R404). Before the end of its slice the running context gives way within its class
only when it has been blocked for YIELD (`yielded`). -/
def sgDecide (i : Nat) (yielded : Bool) (d : Dev) : Dev :=
  let d := sgEvict i d
  let x := d.sg i
  let cores := d.sgCores i
  let quiet := cores.all (fun c => decide (d.coreSt c = 0 ∨ d.coreSt c = 1)) && cores.all (fun c => decide (d.lendPhase c < 2 ∨ d.lendPhase c = 5))
  if x.fixed ∨ x.suspended.isSome ∨ ¬ quiet then sgView i d
  else
    let ended := d.sliceOver i
    let cls := fun (k : Nat) => d.getF F.ptPartStateClass (x.grants.getD k { part := 0, weight := 1, resident := false }).part
    let stays := fun (k : Nat) => match x.run with
      | some r => (x.grants.getD r { part := 0, weight := 1, resident := false }).resident && ! ended && ! yielded &&
          decide (k ≠ r) && decide (cls r ≤ cls k)
      | none => false
    let cand := (d.grantIx i).filter (fun k =>
      (x.grants.getD k { part := 0, weight := 1, resident := false }).resident && d.sgRunnable i k && ! stays k && ! d.degraded)
    match d.pick i (fun k => decide (x.run = some k) && ended) cand with
    | none => sgView i d
    | some k =>
      if x.run = some k then
        if ended then sgView i ((modGrant i k settle d).modSg i (fun x => { x with sliceAt := d.acyc })) else sgView i d
      else if x.run = none ∨ cores.all (fun c => decide (d.coreSt c = 0)) then sgSwitchIn i k d
      else sgView i (sgSwitchOut i ((x.grants[k]?).map (·.part)) d)

/-- A switch-out has ended: every core of the group is unowned. The context that ran settles its tag, and the next one is restored. -/
def sgSwitched (i : Nat) (d : Dev) : Dev :=
  let x := d.sg i
  let cores := d.sgCores i
  if x.grants = [] ∨ x.run = none ∨ x.suspended.isSome ∨ ¬ cores.all (fun c => decide (d.coreSt c = 0)) then d
  else
    let next := (cores.head?).bind (fun c => (d.core c).next)
    let d := match x.run with
      | some k => modGrant i k (fun g => { settle g with outAt := d.acyc }) d
      | none => d
    let d := d.modSg i (fun x => { x with run := none })
    match next.bind (fun p => (d.sg i).grants.findIdx? (fun g => g.part = p)) with
    | some k => sgSwitchIn i k d
    | none => sgView i d

/-- One a-cycle of a shared group: contexts that became blocked or runnable (R309, R310), and the a-cycle charged to the context that
occupies it (R311); in fixed mode the idle cores of a slice that nears its end are saved (R313). -/
def sgTick (i : Nat) (d : Dev) : Dev :=
  let x := d.sg i
  let lent := (d.sgCores i).any (fun c => decide (2 ≤ d.lendPhase c) && (decide (d.lendPhase c ≤ 4) ||
    (match d.lendOf c with
     | some (_, y) => ntLt d.nt (later y.woff 276000)
     | none => false)))
  let d := (d.grantIx i).foldl (fun d k =>
    let run := d.sgRunnable i k
    modGrant i k (fun g =>
      if run then (if g.blocked.isSome then { g with blocked := none, s := if tag64Lt g.f x.v then x.v else g.f } else g)
      else if g.blocked.isSome then g else { g with blocked := some d.acyc }) d) d
  match x.run with
  | none => d
  | some k =>
    if lent then d
    else
      let d := modGrant i k (fun g => { g with charge := g.charge + 1 }) d
      let p := (x.grants.getD k { part := 0, weight := 1, resident := false }).part
      let d := d.wr .ptAcct p (d.rd .ptAcct p + BitVec.ofNat 64 (d.sgCores i).length)
      if x.fixed ∧ x.sliceAt + x.slice * 300000 ≤ d.acyc + 103500 then
        (d.sgCores i).foldl (fun d c => if d.coreOwner c = some p then startSave c d else d) d
      else d

end Sys2Proof.Machine
end

