-- ==== Sys2Proof/Machine/Schedule.lean ====
section
/-! DEFINITION. Espalier schedules: the commands of R135, ticks and epoch ends (R137, R138, R146, R149 to R152), units from release
to end (R140, R141, R307, R449), the sends of the exchange engine (R144). -/

namespace Sys2Proof.Machine

open Sys2Proof

/-! ### Reports (R152, R379) -/

/-- An epoch report: kind, epoch, LAG, the epoch's counts, SLOT (none: 0x1FFF) and CAUSES. -/
def epochReport (p kind e lag : Nat) (slot peer causes : Nat) (d : Dev) : Dev :=
  let s := d.sched p
  report p 1 (leBytes 4 e ++ leBytes 2 (e / 2 ^ 32) ++ leBytes 1 kind ++ leBytes 1 0 ++ leBytes 4 (min lag 0xFFFFFFFF) ++
    leBytes 2 (min s.heldUnits 65535) ++ leBytes 2 (min s.lateUnits 65535) ++
    leBytes 4 ((if slot = 0 then 0x1FFF else slot - 1) + peer * 2 ^ 13) ++ leBytes 4 causes) d

/-- The unit fault report of the epoch, when it has a failure (R379). -/
def unitFaultReport (p : Nat) (d : Dev) : Dev :=
  match (d.sched p).fail with
  | none => d
  | some f =>
    let e := d.epoch p
    let d := report p 6 (leBytes 4 e ++ leBytes 2 (e / 2 ^ 32) ++ leBytes 1 f.status ++ leBytes 1 (min f.merged 255) ++
      leBytes 2 f.unit ++ leBytes 2 f.group ++ leBytes 4 (f.engine + f.cause * 16)) d
    d.modSched p (fun s => { s with fail := none })

/-! ### States -/

/-- LOAD, ARM and SWAP with a status other than OK set LOAD_FAIL. -/
def schedFail (p : Nat) (c : Src) (st : Nat) (d : Dev) : Dev := done c st (d.raise F.esStatusLoadFail p)

/-- The least payload rate of a link class in Mb/s. -/
def classRate (c : Nat) : Nat := [800000, 400000, 200000, 100000].getD c 100000

/-- The schedules in ARMED, RUNNING, HELD or STOPPING whose routes name link l need more than the link carries (R415). -/
def Dev.linkShort (d : Dev) (l : Nat) : Bool :=
  (List.range 32).any (fun p =>
    let st := d.esState p
    decide (3 ≤ st ∧ st ≤ 6) && (d.sched p).route.any (fun r => r.links.testBit l) &&
      (match (d.sched p).active with
        | some im => decide (d.mbps (16 + l) < classRate im.linkClass)
        | none => false))

/-- The check of R415 on every link that was accepted below its plan. -/
def linkCheck (d : Dev) : Dev :=
  (List.range 16).foldl (fun d l =>
    let st := d.getF F.qsLinkState (16 + l)
    if st = 4 ∨ st = 5 then d.setF F.qsLinkState (16 + l) (if d.linkShort l then 5 else 4) else d) d

/-- A schedule state in which R415 looks at the schedule's routes. -/
def linkState (st : Nat) : Bool := 3 ≤ st ∧ st ≤ 6

/-- A schedule that has stopped or is done completes the STOPs that waited for it; one that is cut ends them with BAD_STATE (R135, log 56). -/
def stopEnded (p st : Nat) (d : Dev) : Dev :=
  if linkState st then d
  else (d.sched p).stopBy.foldl (fun d c => done c (if st = 7 ∨ st = 8 then 0 else 0x29) d)
    (d.modSched p (fun s => { s with stopBy := [] }))

/-- The schedule leaves RUNNING, HELD and STOPPING, or moves among other states: a pending SWAP fails, a fault report of the epoch is
written, waiting resizes take effect, and the drain barrier of a freeze begins (R155, R315, R317, R379). -/
def setEs (p st : Nat) (d : Dev) : Dev :=
  let old := d.esState p
  let d := stopEnded p st (d.setF F.esStateState p st)
  let d := if old ≠ st ∧ (linkState old ∨ linkState st) then linkCheck d else d
  if st = 4 ∨ st = 5 ∨ st = 6 then (if st = 6 then applyResize p d else d)
  else
    let d := match (d.sched p).swap with
      | some (_, c) => schedFail p c 0x29 (d.modSched p (fun s => { s with swap := none }))
      | none => d
    let d := if (d.sched p).freezeBy.isSome ∧ (d.part p).barrier.isNone ∧ st ≠ 3 then
        d.modPart p (fun x => { x with barrier := some d.acyc })
      else d
    applyResize p (unitFaultReport p d)

/-- ES_STATE's NONDET, STANDBY and TIMING_UNASSURED as the images and the active lending gate list give them (R142). -/
def esView (p : Nat) (d : Dev) : Dev :=
  let s := d.sched p
  let d := d.setF F.esStateStandby p (if s.standby.isSome then 1 else 0)
  match s.active with
  | none => (d.setF F.esStateNondet p 0).setF F.esStateTimingUnassured p 0
  | some im =>
    let d := d.setF F.esStateNondet p (if im.nondet then 1 else 0)
    let lends : Bool := (d.lgl.groups.flatMap (fun h => (handleCores h).getD [])).any (fun g => d.holdsCore p g)
    let bad : Bool := if leNat im.lglDigest = 0 then lends else im.lglDigest ≠ d.lglSum
    d.setF F.esStateTimingUnassured p (if bad then 1 else 0)

/-- The schedule commands of p are accepted: p0, or an ACTIVE partition. -/
def Dev.schedOpen (d : Dev) (p : Nat) : Bool := p = 0 || decide (d.pstate p = 1)

/-! ### LOAD and UNLOAD (R131 to R135) -/

/-- LOAD: a third image, or a load in progress, is BAD_STATE; else the checks run until LOAD_COMPLETE, their outcome fixed now. -/
def loadCmd (c : Src) (a n : Nat) (d : Dev) : Dev :=
  let p := d.cpart c
  let s := d.sched p
  if ¬ d.schedOpen p ∨ (s.active.isSome ∧ s.standby.isSome) ∨ s.loading.isSome then schedFail p c 0x29 d
  else
    let d' := if n < 256 ∨ 0x10000000 < n then d else
      match d.vMissing p a n with
      | some _ => d
      | none => vNote p a n d
    let out := match loadImage d p a n with
      | .inl st => (c, d.esState p, st, none)
      | .inr im => (c, d.esState p, 0, some im)
    let d := d'.modSched p (fun s => { s with loading := some out })
    if d.esState p = 0 then d.setF F.esStateState p 1 else d

def execLoad (c : Src) (a n : Nat) (s : State) : Res := upd s (loadCmd c a n)

/-- LOAD_COMPLETE: the image is bound as the active one, or as the standby; or the status of the failed check and the previous state. -/
def loadComplete (p : Nat) (d : Dev) : Dev :=
  match (d.sched p).loading with
  | none => d
  | some (c, prev, st, im) =>
    let d := d.modSched p (fun s => { s with loading := none })
    match im with
    | none => schedFail p c st (if d.esState p = 1 then setEs p prev d else d)
    | some im =>
      if (d.sched p).active.isNone then
        done c 0 (esView p (setEs p 2 (d.modSched p (fun s => { s with active := some im }))))
      else done c 0 (esView p (d.modSched p (fun s => { s with standby := some im })))

def execLoadComplete (p : Nat) (s : State) : Res := there (p < 32) s (upd s (loadComplete p))

/-- UNLOAD (R135): the active image (0) or the standby (1). -/
def unloadCmd (c : Src) (i : Nat) (d : Dev) : Dev :=
  let p := d.cpart c
  let s := d.sched p
  if 1 < i then done c 2 d
  else if ¬ d.schedOpen p ∨ d.running p ∨ (i = 0 ∧ s.active.isNone) ∨ (i = 1 ∧ s.standby.isNone) then done c 0x29 d
  else if i = 1 then done c 0 (esView p (d.modSched p (fun s => { s with standby := none })))
  else
    let d := d.modSched p (fun s => { s with active := s.standby, standby := none })
    done c 0 (esView p (setEs p (if (d.sched p).active.isSome then 2 else 0) d))

def execUnload (c : Src) (i : Nat) (s : State) : Res := upd s (unloadCmd c i)

/-! ### JOB_BIND, ARM, STOP, SWAP (R153 to R155) -/

/-- A route entry of 16 bytes (R346). -/
def routeOf (b : Bytes) : Route :=
  { faddr0 := fld b 0 11 0, igen0 := fld b 0 19 12, v0 := bit b 0 20, faddr1 := fld b 4 11 0, igen1 := fld b 4 19 12, v1 := bit b 4 20
    links := at_ b 8 2, scode0 := at_ b 0xC 2, scode1 := at_ b 0xE 2 }

def routeOk (b : Bytes) : Bool := rsv b 0 31 21 && rsv b 4 31 21 && rsv b 8 31 16

/-- Entries of a route table. -/
def routeTable (b : Bytes) : List Bytes := (List.range (b.length / 16)).map (fun i => (b.drop (16 * i)).take 16)

/-- Sender codes of a route table. -/
def routeCodes (t : List Route) : List Nat :=
  t.flatMap (fun r => (if r.v0 then [r.scode0] else []) ++ (if r.v1 then [r.scode1] else []))

/-- The codes of earlier tables that the new one does not hold (R147). -/
def staleCodes (old : List Nat) (was new : List Route) : List Nat :=
  ((old ++ routeCodes was).filter (fun x => ! (routeCodes new).contains x)).eraseDups

/-- JOB_BIND (R153, R346): while RUNNING or HELD only the instances of each role, at the next tick. -/
def jobBindCmd (c : Src) (p job jgen : Nat) (r : Bytes) (d : Dev) : Dev :=
  let s := d.sched p
  let wrong : Bool := match s.active with
    | some im => r.length ≠ 16 * (im.rolesM1 + 1)
    | none => r.length % 16 ≠ 0 ∨ r.length = 0 ∨ 512 * 16 < r.length
  let new := (routeTable r).map routeOf
  if 31 < p then done c 2 d
  else if ¬ d.schedOpen p then done c 0x29 d
  else if wrong ∨ ¬ (routeTable r).all routeOk then done c 2 d
  else if d.esState p = 4 ∨ d.esState p = 5 then done c 0 (d.modSched p (fun s => { s with routeNext := some new }))
  else
    let d := d.modSched p (fun s =>
      { s with jobId := job, jgen := jgen, route := new, oldCodes := staleCodes s.oldCodes s.route new, routeNext := none, bound := true })
    done c 0 (d.setF F.esStateJgen p (jgen % 65536))

def execJobBind (c : Src) (p job jgen : Nat) (r : List Byte) (s : State) : Res := upd s (jobBindCmd c p job jgen r)

/-- Every link of every route carries the image's class (R153). -/
def Dev.classMet (d : Dev) (p : Nat) (im : Image) : Bool :=
  (d.sched p).route.all (fun r => (List.range 16).all (fun l =>
    ! r.links.testBit l || (d.flag F.tlLinkStatusUp l && decide (classRate im.linkClass ≤ d.mbps (16 + l)))))

/-- The status of an ARM: state, service, job, link class, epoch, start time, restart point (R154, R166, R397, R404). -/
def armStatus (d : Dev) (p : Nat) (t0 : BitVec 64) (eS hold : Nat) : Nat :=
  let s := d.sched p
  let st := d.esState p
  match s.active with
  | none => 0x29
  | some im =>
    let grid := if im.epochLen = 10000 then 8000000 else 4000000
    let last := im.seq.length * im.repeats
    if ¬ d.schedOpen p ∨ ¬ (st = 2 ∨ st = 7 ∨ st = 8 ∨ st = 9) then 0x29
    else if d.oos then 0xE3
    else if p ≠ 0 ∧ d.degraded then 0xE4
    else if ¬ s.bound ∨ s.route.length ≠ im.rolesM1 + 1 then 0x2A
    else if ¬ d.classMet p im then 0x2B
    else if t0.toNat % 800 ≠ 0 ∨ 100000 < hold ∨ 2 ^ 48 ≤ eS ∨ (im.repeats ≠ 0 ∧ last ≤ eS) ∨
        (im.radio ∧ (t0.toNat + 2 ^ 64 - d.gridOfs) % 2 ^ 64 % grid ≠ 0) then 0x23
    else if (t0 - d.nt).toInt < 800000 then 0x2C
    else if eS ≠ 0 ∧ ¬ ((im.template eS).any (fun t => t.2.restart)) then 0x2D
    else 0

/-- ARM: the grid, the hold limit, and a clean set of presence bits and credits. -/
def armCmd (c : Src) (t0 : BitVec 64) (eS hold : Nat) (d : Dev) : Dev :=
  let p := d.cpart c
  let st := armStatus d p t0 eS hold
  if st ≠ 0 then schedFail p c st d
  else
    let d := d.modSched p (fun s =>
      { s with t0 := t0, eS := eS, hold := (if hold = 0 then 100 else hold) * 300000, stopAt := none, tick := 0, endAt := none,
               units := [], sends := [], presence := [], spent := [], acc := 0, merged := [], fail := none,
               heldUnits := 0, lateUnits := 0, slot := 0, peer := 0, causes := 0, wrote := [] })
    done c 0 (setEs p 3 ((d.setF F.esSlipsSlips p 0).setF F.esLagLag p 0))

def execArm (c : Src) (t0 : BitVec 64) (eS hold : Nat) (s : State) : Res := upd s (armCmd c t0 eS hold)

/-- The schedule stops at the end of e_x, or of the current epoch if e_x has ended. -/
def stopAtEpoch (p eX : Nat) (d : Dev) : Dev :=
  let d := d.modSched p (fun s => { s with stopAt := some (max eX (d.currentEpoch p)) })
  if d.esState p = 6 then d else setEs p 6 d

/-- STOP (R135): accepted while RUNNING, HELD or STOPPING; a later one replaces e_x. It completes when the schedule has stopped, or is DONE
(log 56). -/
def stopCmd (c : Src) (eX : Nat) (d : Dev) : Dev :=
  let p := d.cpart c
  if d.running p then (stopAtEpoch p eX d).modSched p (fun s => { s with stopBy := s.stopBy ++ [c] }) else done c 0x29 d

def execStop (c : Src) (eX : Nat) (s : State) : Res := upd s (stopCmd c eX)

/-- SWAP (R155): waits for the tick of e_w. -/
def swapCmd (c : Src) (eW : Nat) (d : Dev) : Dev :=
  let p := d.cpart c
  let s := d.sched p
  match s.active, s.standby with
  | some a, some b =>
    if ¬ d.running p ∨ s.swap.isSome then schedFail p c 0x29 d
    else if a.jobDigest ≠ b.jobDigest ∨ a.epochLen ≠ b.epochLen ∨ a.slack ≠ b.slack ∨ a.role ≠ b.role ∨ a.slots ≠ b.slots then
      schedFail p c 0x2E d
    else d.modSched p (fun s => { s with swap := some (eW, c) })
  | _, _ => schedFail p c 0x29 d

def execSwap (c : Src) (eW : Nat) (s : State) : Res := upd s (swapCmd c eW)

/-! ### Units end -/

/-- What becomes of a core of a unit that has ended: saved at once when the take point has passed, scrubbed when p0 has to give it
back, else idle (*Core state transitions*). -/
def coreIdle (g : Nat) (d : Dev) : Dev :=
  let d := d.modCore g (fun c => { c with unit := none })
  if d.coreSt g ≠ 2 then d
  else
    let d := setCoreSt g 1 d
    let slice : Bool := match d.sgOf g with
      | some (_, x) => x.fixed && decide (x.sliceAt + x.slice * 300000 ≤ d.acyc + 103500)
      | none => false
    if d.flag F.coreStateLent g then (if d.lendPhase g = 4 then startScrub g d else d)
    else if d.lendPhase g = 2 ∨ slice then startSave g d
    else d

/-- The shared groups of a list of cores decide (R310: the end of a unit is a decision point). -/
def decideGroups (cores : List Nat) (d : Dev) : Dev :=
  ((cores.filterMap (fun g => (d.sgOf g).map (·.1))).eraseDups).foldl (fun d i => sgDecide i false d) d

/-- Unit i has ended: its status counts, its failure is noted, its cores are idle (R139, R379). -/
def unitEnded (p i : Nat) (d : Dev) : Dev :=
  match d.unitRt p i, (d.sched p).active with
  | some u, some im =>
    let lostIn : Bool := u.entry.deps.any (fun w => decide (w.toNat % 4 = 1) &&
      (tabGet {} (d.sched p).presence (w.toNat / 4 % 8192 * 2 + d.epoch p % 2)).bad)
    let st := if u.status = 0 ∧ lostIn then 2 else u.status
    let d := d.modUnit p i (fun u => { u with ended := some d.acyc, status := st })
    let d := if (d.sched p).tick + u.entry.estEnd < d.acyc then d.modSched p (fun s => { s with lateUnits := s.lateUnits + 1 }) else d
    let d := if st = 0 then d else
      noteFail p { at_ := d.acyc, core := u.cores.headD 0, engine := u.engine, status := st, unit := u.entry.unit,
                   group := u.entry.group, cause := u.cause, merged := 0 } (evPart p 0x4A 0 1 d)
    let _ := im
    decideGroups u.cores (u.cores.foldl (fun d g => coreIdle g d) d)
  | _, _ => d

/-- Every stream of the unit has ended on every core of its group. -/
def Dev.streamsEnded (d : Dev) (u : UnitRt) : Bool :=
  u.cores.all (fun g =>
    let c := d.core g
    ! c.hb0.running && c.hb0.mms.isEmpty && ! c.hb1.running && c.hb1.mms.isEmpty && ! c.se.running)

/-- UNIT_END (R139): in the a-cycle in which the last stream ends on the last core. -/
def unitEnd (p i : Nat) (d : Dev) : Dev :=
  match d.unitRt p i with
  | none => d
  | some u => if u.issued.isSome ∧ u.ended.isNone ∧ d.streamsEnded u then unitEnded p i d else d

def execUnitEnd (p i : Nat) (s : State) : Res := there (p < 32) s (upd s (unitEnd p i))

/-- UNIT_CAP_EXPIRY (R307): a unit not ended 24,000 a-cycles after its issue is aborted in the next one. -/
def unitCap (p i : Nat) (d : Dev) : Dev :=
  match d.unitRt p i with
  | none => d
  | some u =>
    match u.issued with
    | none => d
    | some t =>
      if t + 24001 ≤ d.acyc ∧ u.ended.isNone ∧ u.aborted.isNone then
        let d := u.cores.foldl (fun d g => d.raise F.seStatusAbort g) (d.raise F.esStatusOverrun p)
        abortUnit p i 3 (d.openEngine u.cores) 0 (health 4 1 d)
      else d

def execUnitCapExpiry (p i : Nat) (s : State) : Res := there (p < 32) s (upd s (unitCap p i))

/-! ### ABORT and resets (R135) -/

/-- The running units stop, without a failure of their own; one that had aborted for a cause of R449 ends with it; moves in flight are cut, their destinations unpredictable; remote
operations and lists end. -/
def cutRun (p : Nat) (d : Dev) : Dev :=
  let s := d.sched p
  let d := s.units.zipIdx.foldl (fun d u =>
    if u.1.aborted.isSome ∧ u.1.ended.isNone then unitEnded p u.2 d
    else if u.1.issued.isSome ∧ u.1.ended.isNone then
      let d := u.1.cores.foldl (fun d g => d.raise F.seStatusAbort g) d
      let d := abortUnit p u.2 5 0 0 d
      let d := d.modUnit p u.2 (fun x => { x with ended := some d.acyc })
      u.1.cores.foldl (fun d g => coreIdle g d) d
    else d) d
  let cores := (List.range 80).filter (fun g => d.holdsCore p g ∨ d.coreOwner g = some p)
  cores.foldl (fun d g =>
    let d := if d.coreOwner g = some p then
        let d := (d.core g).moves.foldl (cutMove g p) d
        d.modCore g (fun c => { c with moves := [], remote := c.remote.filter (fun o => o.p ≠ p) })
      else d.modCore g (fun c => { c with remote := c.remote.filter (fun o => o.p ≠ p) })
    (((d.pctx p g).susp.foldl (cutMove g p) d)).modPctx p g (fun c => { c with susp := [], list := { c.list with active := false, held := none } })) d

/-- Flits of p's exchange sends that wait in the links' queues are cut. -/
def cutSends (p : Nat) (d : Dev) : Dev :=
  (List.range 16).foldl (fun d l => d.modPort (16 + l) (fun x =>
    { x with queues := tabSet [] x.queues 0 ((x.q 0).filter (fun f => ! f.wclass.any (fun w => w.2 = p))) })) d

/-- ABORT's effect: FAULTED, or LOADED from ARMED; presence bits and credits cleared. -/
def abortSched (p : Nat) (d : Dev) : Dev :=
  let st := d.esState p
  if st = 3 then setEs p 2 (d.modSched p (fun s => { s with presence := [], spent := [] }))
  else if st = 4 ∨ st = 5 ∨ st = 6 then
    let d := cutSends p (cutRun p d)
    setEs p 9 (d.modSched p (fun s => { s with units := [], sends := [], presence := [], spent := [], stopAt := none }))
  else d

def abortCmd (c : Src) (d : Dev) : Dev :=
  let p := d.cpart c
  let st := d.esState p
  if st = 3 ∨ st = 4 ∨ st = 5 ∨ st = 6 then done c 0 (abortSched p d) else done c 0x29 d

def execAbort (c : Src) (s : State) : Res := upd s (abortCmd c)

/-- EMPTY, with both images, presence, credits, route table and a load in progress gone (R135, R374, R382). -/
def resetSched (p : Nat) (d : Dev) : Dev :=
  let d := abortSched p d
  let d := match (d.sched p).loading with
    | some (c, _, _, _) => schedFail p c 0x29 d
    | none => d
  let d := d.modSched p (fun _ => {})
  let d := setEs p 0 d
  d.wr .esState p 0 |>.wr .esEpoch p 0 |>.wr .esSlips p 0 |>.wr .esLag p 0

/-! ### Ticks (R137, R138, R149, R151) -/

/-- CC_CLEAR on every core of p, its saved contexts included (R138). -/
def clearCc (p : Nat) (mask : BitVec 16) (d : Dev) : Dev :=
  (List.range 80).foldl (fun d g =>
    if d.holdsCore p g ∨ d.coreOwner g = some p then
      d.modPctx p g (fun c => { c with cc := c.cc.filter (fun e => ! mask.getLsbD e.1) })
    else d) d

/-- The transfer list of the template begins on every core of the image (R143); one whose core is held begins on its return, and one of p0 on
a lend core with p0's window there (R142). -/
def startLists (p : Nat) (im : Image) (t : Nat) (d : Dev) : Dev :=
  im.binding.zipIdx.foldl (fun d x =>
    d.modPctx p x.1 (fun c =>
      { c with list := { active := ! (im.tlist t x.2).isEmpty, tick := d.acyc, held := none, pos := 0,
                         paused := ! d.inCore p x.1 || (p ≠ 0 && (d.coreSt x.1 = 3 || d.lendPhase x.1 = 2)) } })) d

/-- The units and sends of a template. -/
def epochUnits (im : Image) (t : Template) : List UnitRt :=
  ((im.dispatch.drop t.dispFirst).take t.dispCount).map (fun u => { entry := u, cores := sortL (fun a b => decide (a ≤ b)) (im.coresOf u.group) })
def epochSends (im : Image) (t : Template) : List SendRt :=
  ((im.exchange.drop t.xchFirst).take t.xchCount).map (fun x => { entry := x })

/-- The end of the last epoch, its slip and its lag (R149, R152). -/
def tickLag (p e : Nat) (d : Dev) : Dev :=
  let s := d.sched p
  let lag := ((d.acyc : Int) - d.nominalTick p e).toNat
  let d := match s.endAt with
    | some t => evPart p 0x43 0 (d.acyc - t) d
    | none => d
  let d := if lag ≠ 0 ∧ s.endAt.isSome then
      epochReport p 1 (e - 1) lag s.slot s.peer s.causes.toNat
        (evPart p 0x41 0 1 ((d.addSat F.esSlipsSlips p 1).raise F.esStatusSlip p))
    else d
  evPart p 0x42 0 lag (d.setF F.esLagLag p (min lag 0xFFFFFFFF))

/-- A pending SWAP whose epoch has come, and instances that waited; the link masks stand (R153, R155). -/
def tickSwap (p e : Nat) (d : Dev) : Dev :=
  let d := match (d.sched p).routeNext with
    | some r => d.modSched p (fun s =>
      let new := (r.zip s.route).map (fun (x : Route × Route) => { x.1 with links := x.2.links })
      { s with route := new, oldCodes := staleCodes s.oldCodes s.route new, routeNext := none })
    | none => d
  match (d.sched p).swap with
  | some (eW, c) =>
    if eW ≤ e then
      done c 0 (esView p (d.modSched p (fun s => { s with active := s.standby, standby := none, swap := none })))
    else d
  | none => d

/-- The tick samples the bank of p and the core banks of its contexts, with the number of the epoch that has ended (R428). -/
def tickSample (p ended : Nat) (d : Dev) : Dev :=
  let d := d.modPart p (fun x => { x with bank := x.bank.sampleAt d.acyc ended })
  (List.range 80).foldl (fun d g =>
    if d.holdsCore p g ∨ d.coreOwner g = some p then d.modPctx p g (fun c => { c with bank := c.bank.sampleAt d.acyc ended }) else d) d

/-- The tick of epoch e. -/
def tickEpoch (p e : Nat) (d : Dev) : Dev :=
  let start := d.esState p = 3
  let d := tickSwap p e (tickLag p e (tickSample p (if start then d.epoch p else e - 1) d))
  let d := if start then setEs p 4 d else d
  let d := applyResize p (d.setF F.esEpochEpoch p e)
  match (d.sched p).active with
  | none => d
  | some im =>
    match im.template e with
    | none => d
    | some (t, x) =>
      let d := d.modSched p (fun s =>
        { s with tick := d.acyc, endAt := none, units := epochUnits im x, sends := epochSends im x, heldUnits := 0,
                 lateUnits := 0, slot := 0, peer := 0, causes := 0, fail := none, wrote := s.wrote.filter (fun x => decide (e ≤ x.1)) })
      let d := clearCc p (if start then 0xFFFF else x.ccClear) d
      let d := im.binding.foldl (fun d g => d.modCore g (fun c => if d.inCore p g then { c with code := [] } else c)) d
      startLists p im t d

/-- EPOCH_TICK (R137): due at the nominal tick and 4 a-cycles after the last epoch's end. -/
def epochTick (p : Nat) (d : Dev) : Dev :=
  let s := d.sched p
  if d.esState p = 3 then (if d.nominalTick p s.eS ≤ d.acyc then tickEpoch p s.eS d else d)
  else if d.running p then
    match s.endAt with
    | some t =>
      let e := (d.epoch p + 1) % 2 ^ 48
      if d.nominalTick p e ≤ d.acyc ∧ t + 4 ≤ d.acyc then tickEpoch p e d else d
    | none => d
  else d

def execEpochTick (p : Nat) (s : State) : Res := there (p < 32) s (upd s (epochTick p))

/-! ### Epoch ends (R146, R149, R444) -/

/-- Everything R149 names has happened. -/
def Dev.epochOver (d : Dev) (p : Nat) : Bool :=
  let s := d.sched p
  s.units.all (fun u => u.ended.isSome) && s.sends.all (·.done) &&
    (match s.active with
     | some im => im.binding.all (fun g =>
        let c := d.pctx p g
        ! c.list.active && c.susp.isEmpty && (! d.inCore p g || (d.core g).moves.isEmpty) && ((d.core g).remote.all (fun o => o.p ≠ p)))
     | none => true)

/-- Slots that the units of the epoch depend on. -/
def Sched.consumed (s : Sched) : List Nat :=
  (s.units.flatMap (fun u => u.entry.deps.filterMap (fun w =>
    if w.toNat % 4 = 1 then some (w.toNat / 4 % 8192) else none))).eraseDups

/-- The release notices to one instance: (slot, parity) words of 4 bytes, at most 64 in a flit (R146, R256, log 34). -/
def sendNotices (links dst code : Nat) (l : List (Nat × Nat)) (d : Dev) : Dev :=
  (List.range (ceilDiv l.length 64)).foldl (fun d i =>
    let part := (l.drop (64 * i)).take 64
    sendFlit links 1 (hdrOf [(0, 2), (4, dst), (16, code), (32, part.length)])
      (part.flatMap (fun x => leBytes 4 (x.1 + x.2 * 8192))) d) d

/-- Presence bits of the consumed slots are cleared, and every sender role that wrote one is told (R146). -/
def releaseSlots (p : Nat) (d : Dev) : Dev :=
  let s := d.sched p
  let par := d.epoch p % 2
  let used := s.consumed
  let roles := (used.flatMap (fun n => tabKeys (tabGet {} s.presence (n * 2 + par)).got)).eraseDups
  let code := d.ownCode p
  let d := roles.foldl (fun d r =>
    let l := (used.filter (fun n => (tabFind (tabGet {} s.presence (n * 2 + par)).got r).isSome)).map (fun n => (n, par))
    (d.instances p r).foldl (fun d i => sendNotices ((s.route[r]?).map (·.links) |>.getD 0) i.1 code l d) d) d
  d.modSched p (fun s => { s with presence := used.foldl (fun t n => tabSet {} t (n * 2 + par) {}) s.presence })

/-- The throttle rule at the end of an epoch of p1 to p31 (R151, R444): every later N_e moves by one epoch. -/
def throttleEnd (p : Nat) (d : Dev) : Dev :=
  if p = 0 ∨ d.esState p ≠ 4 then d
  else
    let acc := (d.sched p).acc + d.getF F.pwrStatusLevel
    if acc < 16 then d.modSched p (fun s => { s with acc := acc })
    else
      let len := match (d.sched p).active with
        | some im => im.epochLen * 800
        | none => 0
      let d := d.modSched p (fun s => { s with acc := acc - 16, t0 := later s.t0 len })
      let e := d.epoch p
      let lag := ((d.acyc : Int) + 4 - d.nominalTick p (e + 1)).toNat
      let s := d.sched p
      epochReport p 5 e lag s.slot s.peer s.causes.toNat (d.raise F.esStatusIdleInsert p)

/-- EPOCH_END (R149): E_e. The schedule goes to DONE after the last pass, to STOPPED at e_x, or waits for the next tick. -/
def epochEnd (p : Nat) (d : Dev) : Dev :=
  if ¬ d.inEpoch p ∨ ¬ d.epochOver p then d
  else
    let e := d.epoch p
    let d := d.modSched p (fun s => { s with endAt := some d.acyc })
    let d := unitFaultReport p (releaseSlots p (evPart p 0x40 0 1 d))
    let s := d.sched p
    let last : Bool := match s.active with
      | some im => im.repeats ≠ 0 ∧ im.seq.length * im.repeats ≤ e + 1
      | none => true
    if last then setEs p 8 d
    else if d.esState p = 6 ∧ s.stopAt.any (· ≤ e) then setEs p 7 d
    else throttleEnd p d

def execEpochEnd (p : Nat) (s : State) : Res := there (p < 32) s (upd s (epochEnd p))

/-! ### Code fetches and releases (R133, R140, R150) -/

/-- CODE_FETCH: the next fetch of engine e (0 hb0, 1 hb1, 2 se) has ended. A transfer list (3) begins at the tick without waiting for
its fetch (R143). -/
def codeFetch (g e : Nat) (d : Dev) : Dev :=
  match d.coreOwner g with
  | none => d
  | some p =>
    if ¬ d.inEpoch p ∨ d.coreSt g = 5 ∨ 3 ≤ e then d
    else match d.nextFetch p g e with
      | some (i, t) =>
        if t ≤ d.acyc then d.modCore g (fun c => { c with code := tabMod {} c.code e (fun b => { fetched := b.fetched ++ [(i, t)] }) })
        else d
      | none => d

def execCodeFetch (g e : Nat) (s : State) : Res := need (g < 80 && e < 4) .noSuchCore (upd s (codeFetch g e))

/-- Causes of a late release: a presence or counter dependency observed too late for tick + RELEASE, and the first such slot with the role
whose transfer completed it last. -/
def lateCauses (d : Dev) (p : Nat) (im : Image) (u : UnitRt) : BitVec 6 × Option (Nat × Nat) :=
  let on := (d.sched p).tick + u.entry.release
  u.entry.deps.foldl (fun acc w =>
    let late : Bool := match d.depAt p im (u.cores.headD 0) w with
      | some t => on < t + 2
      | none => true
    if ¬ late then acc
    else if w.toNat % 4 = 1 then
      let slot := w.toNat / 4 % 8192
      (acc.1 ||| 1, acc.2.or (some (slot + 1, (tabGet {} (d.sched p).presence (slot * 2 + d.epoch p % 2)).last)))
    else if w.toNat % 4 = 2 then (acc.1 ||| 2, acc.2)
    else acc) (0, none)

/-- Held units of the epoch that have not been released. -/
def Sched.holding (s : Sched) : Bool := s.units.any (fun u => u.holding && u.issued.isNone)

/-- The streams of a unit start on a core. -/
def startStreams (im : Image) (p i : Nat) (u : UnitRt) (g : Nat) (d : Dev) : Dev :=
  let n := im.streamLen u.entry.unit g
  let d := setCoreSt g 2 d
  let d := d.modHb g 0 (fun h => { h with running := decide (n 0 ≠ 0), pos := 0, ending := false })
  let d := d.modHb g 1 (fun h => { h with running := decide (n 1 ≠ 0), pos := 0, ending := false })
  d.modCore g (fun c =>
    { c with unit := some (p, i), saveUe := false
             ctx := { c.ctx with se := { c.ctx.se with pc := 0, loops := [] } }
             se := { running := decide (n 2 ≠ 0), prog := c.se.prog } })

/-- A schedule that holds returns to RUNNING when every unit past the limit has been released (R150): the report names the first slot that
held a unit, and the role whose transfer completed it (R152). -/
def holdEnds (p : Nat) (d : Dev) : Dev :=
  if d.esState p = 5 ∧ ¬ (d.sched p).holding then
    let d := setEs p 4 d
    let s := d.sched p
    epochReport p 3 (d.epoch p) (d.getF F.esLagLag p) s.slot s.peer s.causes.toNat d
  else d

/-- A unit is held by a slot: the first of the epoch is kept, with the role that completed it last (R152). -/
def noteSlot (slot : Option (Nat × Nat)) (s : Sched) : Sched :=
  match slot with
  | none => s
  | some (k, r) => if s.slot = 0 ∨ s.slot = k then { s with slot := k, peer := r } else s

/-- UNIT_RELEASE (R140 to R142): the unit issues on every core of its group. -/
def unitRelease (p i : Nat) (d : Dev) : Dev :=
  match (d.sched p).active, d.unitRt p i, d.dueAt p i with
  | some im, some u, some t =>
    if ¬ d.inEpoch p ∨ d.acyc < t ∨ ¬ u.cores.all (fun g => d.mayRelease p g) then d
    else
      let on := (d.sched p).tick + u.entry.release
      let (why, slot) := lateCauses d p im u
      let lost := u.cores.any (fun g => (d.core g).saveUe)
      let d := d.modUnit p i (fun u => { u with issued := some d.acyc, status := if lost then 2 else 0 })
      let d := if on < d.acyc then
          d.modSched p (fun s => noteSlot slot { s with heldUnits := s.heldUnits + 1, causes := s.causes ||| why })
        else d
      let d := u.cores.foldl (fun d g => startStreams im p i u g (evCore g 0x10 0 (d.acyc - on) d)) d
      holdEnds p d
  | _, _, _ => d

def execUnitRelease (p i : Nat) (s : State) : Res := there (p < 32) s (upd s (unitRelease p i))

/-- HOLD_LIMIT (R150): a unit has waited for a dependency beyond the limit, counted from tick + RELEASE. -/
def holdLimit (p i : Nat) (d : Dev) : Dev :=
  match (d.sched p).active, d.unitRt p i with
  | some im, some u =>
    if ¬ d.inEpoch p ∨ u.issued.isSome ∨ u.holding ∨ (d.depsAt p im u).isSome ∨
        d.acyc ≤ (d.sched p).tick + u.entry.release + (d.sched p).hold ∨ (d.esState p ≠ 4 ∧ d.esState p ≠ 5) then d
    else
      let d := d.modUnit p i (fun u => { u with holding := true })
      if d.esState p = 4 then
        let (why, slot) := lateCauses d p im u
        let d := d.modSched p (fun s => noteSlot slot { s with causes := s.causes ||| why })
        let s := d.sched p
        epochReport p 2 (d.epoch p) (d.getF F.esLagLag p) s.slot s.peer s.causes.toNat (setEs p 5 (d.raise F.esStatusHeld p))
      else d
  | _, _ => d

def execHoldLimit (p i : Nat) (s : State) : Res := there (p < 32) s (upd s (holdLimit p i))

/-! ### Exchange sends (R144, R145) -/

/-- The key of a credit: peer, slot, parity (R146). -/
def creditKey (peer slot par : Nat) : Nat := peer * 2 ^ 14 + slot * 2 + par

/-- The dependency of an exchange entry holds. -/
def Dev.xchReady (d : Dev) (p : Nat) (im : Image) (w : BitVec 32) : Bool :=
  let n := w.toNat
  n % 4 ≠ 2 || (d.ccSinceFor p (im.binding.getD (n / 64 % 128) 0) (n / 4 % 16) (n / 8192)).isSome

/-- The bytes of an exchange entry: an image scratchpad address, or tier 2 (R129). -/
def xchBytes (p : Nat) (im : Image) (x : Exchange) (d : Dev) : Bytes × Dev :=
  if x.stier0 then
    let read := portRead (80, 4, 0) d.acyc [] p im.binding x.src (64 * x.len64) d
    (read.1.1, read.2)
  else tierRead 4 0 p x.src (64 * x.len64) d

/-- The flits of an entry to one instance, striped round-robin over the links (R144, R256, R263). -/
def xchFlits (p i dst code cep : Nat) (x : Exchange) (links : List Nat) (b : Bytes) (d : Dev) : Dev :=
  (List.range (ceilDiv x.len64 4)).foldl (fun d k =>
    let units := min 4 (x.len64 - 4 * k)
    let a := (x.dst + (if cep % 2 = 1 then x.altoff else 0) + 256 * k) % 2 ^ 48
    let hdr := hdrOf [(0, 1), (4, dst), (16, code), (32, x.slot), (45, cep % 4), (48, a / 64), (90, units - 1)]
    let f := flitFrame hdr (linkSeal d p a ((b.drop (256 * k)).take (64 * units)))
    enqueue (16 + links.getD (k % links.length) 0) 0 { f with wclass := some (x.window, p), send := some i } d) d

/-- A window of p's class is open on link l now (R144, R250). -/
def Dev.windowOpen (d : Dev) (p cls l : Nat) : Bool :=
  let g := (d.port (16 + l)).active
  (g.entry d.nt).any (fun x => x.wvalid && decide (x.wclass = cls) && decide (tabGet 0 g.owner cls = p + 1))

/-- EXCHANGE_SEND (R144): OFFSET, dependency and credit hold, and a window of the class is open on a link of the route; flits that do not fit
wait in queue 0 for its next occurrence. -/
def exchangeSend (p i : Nat) (d : Dev) : Dev :=
  match (d.sched p).active, (d.sched p).sends[i]? with
  | some im, some s =>
    let x := s.entry
    let c := d.epoch p + x.edelta
    let key := creditKey x.peer x.slot (c % 2)
    let links := d.dataLinks (((d.sched p).route[x.peer]?).map (·.links) |>.getD 0)
    let insts := d.instances p x.peer
    let before : Bool := ((d.sched p).sends.take i).any (fun y => y.entry.window = x.window && y.sent = 0)
    if ¬ d.inEpoch p ∨ s.done ∨ s.sent ≠ 0 ∨ before ∨ d.acyc < (d.sched p).tick + x.offset ∨ ¬ d.xchReady p im x.dep ∨ d.fenced ∨
      ¬ d.mayIssue 8 p then d
    else if tabGet false (d.sched p).spent key then d.modSched p (fun s => { s with causes := s.causes ||| 16 })
    else if insts = [] ∨ ¬ links.any (d.windowOpen p x.window) then d
    else
      let read := xchBytes p im x d
      let b := read.1
      let d := read.2
      let code := d.ownCode p
      let d := insts.foldl (fun d t => xchFlits p i t.1 code c x links b d) d
      (edgeProg 8 x.len64 d).modSched p (fun s =>
        { s with spent := tabSet false s.spent key true
                 sends := modAt s.sends i (fun y => { y with sent := x.len64, queued := ceilDiv x.len64 4 * insts.length }) })
  | _, _ => d

def execExchangeSend (p i : Nat) (s : State) : Res := there (p < 32) s (upd s (exchangeSend p i))

/-- A flit of a send has been handed to its link; the send is done with its last one (R149). -/
def flitHanded (p i : Nat) (d : Dev) : Dev :=
  d.modSched p (fun s => { s with sends := modAt s.sends i (fun y => { y with queued := y.queued - 1, done := decide (y.queued ≤ 1) }) })

end Sys2Proof.Machine
end

