-- ==== Sys2Proof/Machine/Links.lean ====
section
/-! DEFINITION. Teril links: training and acceptance (R412 to R416, R418), replay, handover and the end of service (R258 to R261),
what every flit meets on arrival (R257, R399), stale notices and fencing (R399, R400). -/

namespace Sys2Proof.Machine

open Sys2Proof

/-! ### Tokens and fencing (R184, R400) -/

/-- The token of a carrier is valid (R184). -/
def Dev.tokenValid (d : Dev) (c : Nat) : Bool :=
  decide (d.getF F.fhOwnState c = 2 ∧ d.getF F.fhOwnEpoch c = d.getF F.fhMemberMepoch) && ntLt d.nt d.teril.ld

/-- Every token is cleared to NONE. -/
def clearTokens (d : Dev) : Dev :=
  (List.range 256).foldl (fun d c => (d.setF F.fhOwnState c 0).setF F.fhOwnEpoch c 0) d

/-- The mirror pair becomes BROKEN (R279). -/
def mirrorBroken (d : Dev) : Dev :=
  if d.getF F.tlMirStatusState = 1 ∨ d.getF F.tlMirStatusState = 2 then
    (d.setF F.tlMirStatusState 0 3).raise F.tlMirStatusBroken
  else d

/-- The device enters FENCED: tokens cleared, the mirror pair BROKEN, status and record (R400). -/
def enterFenced (d : Dev) : Dev :=
  if d.fenced then d
  else
    let d := mirrorBroken (clearTokens d)
    faultRecord 4 0 0 15 0 0 (raiseFlt F.fltStatusFenced (d.setF F.fltStateFenced 0 1))

/-! ### Configurations (R414) -/

/-- WIDTH code, half rate, lanes and payload rate of configuration k, in the order of R414. -/
def confWidth (k : Nat) : Nat := 2 - k / 2
def confHalf (k : Nat) : Nat := k % 2
def confLanes (k : Nat) : Nat := 2 ^ confWidth k
def confMbps (k : Nat) : Nat := [800000, 400000, 400000, 200000, 200000, 100000].getD k 100000

/-- Lanes of link l that the map in force maps out (R408, R409). -/
def Dev.lanesOut (d : Dev) (l : Nat) : Nat := leNat (memRead d.inForce 0x1F0 8) / 2 ^ (4 * l) % 16

/-- Configuration k can avoid the lanes that are out. -/
def confUsable (out k : Nat) : Bool :=
  match confWidth k with
  | 2 => decide (out = 0)
  | 1 => decide (out % 4 = 0 ∨ out / 4 = 0)
  | _ => decide (out ≠ 15)

/-- The first configuration from k onward that can be tried. -/
def nextConf (out k : Nat) : Option Nat := (List.range 6).find? (fun c => decide (k ≤ c) && confUsable out c)

/-- The plan of link l as a configuration; none: the link is disabled. -/
def Dev.planConf (d : Dev) (l : Nat) : Option Nat :=
  let w := d.getF F.qsTlPlanPlanWidth l
  if w = 3 then none else some ((2 - w) * 2 + d.getF F.qsTlPlanPlanHalf l)

/-- Link l trains the first configuration from k onward; with none left it is FAILED (R414). -/
def tryConf (l k : Nat) (d : Dev) : Dev :=
  match nextConf (d.lanesOut l) k with
  | none => d.setF F.qsLinkState (16 + l) 6
  | some c =>
    let d := d.modLink l (fun x => { x with conf := c, phase := 0 })
    (d.addSat F.qsLinkAttempts (16 + l) 1).setF F.qsLinkState (16 + l) 1

/-- Link l trains from its plan (R414). -/
def trainLink (l : Nat) (d : Dev) : Dev :=
  let d := (d.setF F.qsLinkAttempts (16 + l) 0).setF F.qsLinkLanesOut (16 + l) (d.lanesOut l)
  let d := d.setF F.qsLinkLanes (16 + l) 0
  match d.planConf l with
  | none => d.setF F.qsLinkState (16 + l) 0
  | some k => tryConf l k d

/-! ### Service -/

/-- PT_STATUS.BW_SHORT while the links carry less than the constant-rate allocations (R300). -/
def bwCheck (d : Dev) : Dev := d.raiseIf (decide (d.terilGbs < d.crTeril)) F.ptStatusBwShort

/-- Link l enters service in its configuration: counts restart, rates and states are shown, the routes are checked (R255, R258,
R413, R415). -/
def enterService (l : Nat) (d : Dev) : Dev :=
  let k := (d.link l).conf
  let d := d.modLink l (fun x => { x with tx := 0, rx := 0, replay := [], tries := 0, naked := false, again := true, used := [] })
  let d := ((d.setF F.tlLinkStatusUp l 1).setF F.tlLinkStatusWidth l (confWidth k)).setF F.tlLinkStatusHalf l (confHalf k)
  let d := d.setF F.tbPortCfgPortMbps (16 + l) (confMbps k)
  let d := (d.setF F.qsLinkLanes (16 + l) (confLanes k)).setF F.qsLinkHalf (16 + l) (confHalf k)
  let below : Bool := d.planConf l ≠ some k
  bwCheck (linkCheck (d.setF F.qsLinkState (16 + l) (if below then 4 else 3)))

/-- Other links in service that join the same two devices as link l: those of the same member at HOPS 0 (R260, R264). -/
def Dev.mates (d : Dev) (l : Nat) : List Nat :=
  match (List.range 8).find? (fun m =>
    d.flag F.tlDestValid m && ! d.flag F.tlDestHops m && (d.getF F.tlDestLinks m).testBit l) with
  | none => []
  | some m => (d.upLinks (d.getF F.tlDestLinks m)).filter (· ≠ l)

/-- The member that link l leads to directly. -/
def Dev.mateAddr (d : Dev) (l : Nat) : Nat :=
  let m := ((List.range 8).find? (fun m =>
    d.flag F.tlDestValid m && ! d.flag F.tlDestHops m && (d.getF F.tlDestLinks m).testBit l)).getD 0
  d.getF F.tlSelfFaddr / 8 * 8 + m

/-- Flits joined to their queues on a list of links, in order, round-robin. -/
def requeue (links : List Nat) (fs : List Frame) (d : Dev) : Dev :=
  fs.zipIdx.foldl (fun d f => match links[f.2 % links.length]? with
    | some l => enqueue (16 + l) f.1.queue f.1 d
    | none => d) d

/-- A handover control flit (CTRL, SUB 3) on a link: request (0) or response (1), the dead link, the count (log 40). -/
def sendHandover (l kind dead count : Nat) (d : Dev) : Dev :=
  sendFlit (2 ^ l) 1 (hdrOf [(0, 8), (4, d.mateAddr l), (16, d.getF F.tlSelfFaddr), (28, 3), (36, kind), (40, dead), (48, count)]) [] d

/-- Link l leaves service: DOWN, its rate 0; where another link joins the same devices it asks for a handover, else its
unacknowledged flits are discarded (R259 to R261). -/
def leaveService (l : Nat) (d : Dev) : Dev :=
  if ¬ d.flag F.tlLinkStatusUp l then d
  else
    let d := health 3 1 ((d.setF F.tlLinkStatusUp l 0).raise F.tlLinkStatusDown l)
    let d := bwCheck (d.setF F.tbPortCfgPortMbps (16 + l) 0)
    let d := d.modPort (16 + l) (fun p => { p with sending := none })
    match d.mates l with
    | m :: _ => sendHandover m 0 l 0 d
    | [] => d.modLink l (fun x => { x with replay := [], tries := 0 })

/-- Link l retrains from its plan after it has left service (R413). -/
def retrainLink (l : Nat) (d : Dev) : Dev := trainLink l (leaveService l d)

/-- What a phase of link l measured: PREFEC in units of 1,024 and POSTFEC, saturating; a corrected codeword sets CE. -/
def noteFec (l pre post : Nat) (d : Dev) : Dev :=
  let d := (d.setF F.qsLinkPrefec (16 + l) (min (pre / 1024) 0xFFFFFF)).setF F.qsLinkPostfec (16 + l) (min post 255)
  d.raiseIf (decide (pre ≠ 0)) F.tlLinkStatusCe l

/-- A phase of a Teril link ends (R412 to R414): training, screen, confirmation. -/
def terilPhase (l : Nat) (pass : Bool) (pre post : Nat) (d : Dev) : Dev :=
  let x := d.link l
  let up := d.flag F.tlLinkStatusUp l
  if ¬ pass then
    let d := if x.phase = 0 then d else noteFec l pre post d
    if d.getF F.qsLinkState (16 + l) = 0 ∨ d.getF F.qsLinkState (16 + l) = 6 then d
    else tryConf l (x.conf + 1) (leaveService l d)
  else
    match x.phase with
    | 0 => if d.getF F.qsLinkState (16 + l) ≠ 1 then d
      else (d.modLink l (fun x => { x with phase := 1 })).setF F.qsLinkState (16 + l) 2
    | 1 =>
      let d := noteFec l pre post (d.modLink l (fun x => { x with phase := 2 }))
      if x.again ∧ ¬ up then enterService l d else d
    | 2 =>
      let d := noteFec l pre post (d.modLink l (fun x => { x with phase := 3 }))
      if up then d else enterService l d
    | _ => d

/-! ### Fronthaul ports and the PCIe measurement (R416 to R418) -/

/-- Mode of the quad of fronthaul port p, and the rate of a port in it; 0: p is no port in that mode (R158). -/
def modeMbps (mode p : Nat) : Nat :=
  match mode with
  | 1 => if p % 4 = 0 then 800000 else 0
  | 2 => if p % 2 = 0 then 400000 else 0
  | 3 => 200000
  | _ => 0

/-- Lanes of fronthaul port p in a mode. -/
def modeLanes (mode : Nat) : Nat := match mode with
  | 1 => 4
  | 2 => 2
  | _ => 1

/-- A lane of port p is mapped out: the port stays disabled in every mode (R409). -/
def Dev.fhLaneOut (d : Dev) (p mode : Nat) : Bool :=
  (List.range (modeLanes mode)).any (fun i => (leNat (memRead d.inForce 0x1F8 2)).testBit (p + i))

/-- The port exists in its quad's mode. -/
def Dev.fhMbps (d : Dev) (p : Nat) : Nat :=
  let m := d.getF F.fhQuadCfgMode (p / 4)
  if d.fhLaneOut p m then 0 else modeMbps m p

/-- Fronthaul port p trains (R416). -/
def trainFh (p : Nat) (d : Dev) : Dev :=
  if d.fhMbps p = 0 then d.setF F.qsLinkState p 0
  else ({ d with fhPhase := tabSet 0 d.fhPhase p 0 } : Dev).setF F.qsLinkState p 1

/-- Fronthaul port p leaves service: UP is cleared and its rate is 0 (R416). -/
def fhLeave (p : Nat) (d : Dev) : Dev :=
  if ¬ d.flag F.fhPortStatusUp p then d
  else
    let d := health 3 1 (((d.setF F.fhPortStatusUp p 0).raise F.fhPortStatusLinkDown p).setF F.tbPortCfgPortMbps p 0)
    d.modPort p (fun x => { x with sending := none })

/-- Fronthaul port p is UP at its rate. -/
def fhEnter (p : Nat) (d : Dev) : Dev :=
  let d := { d with fhOnce := tabSet false d.fhOnce p true }
  let d := (d.setF F.fhPortStatusUp p 1).setF F.tbPortCfgPortMbps p (d.fhMbps p)
  (d.setF F.qsLinkState p 3).setF F.qsLinkLanes p (modeLanes (d.getF F.fhQuadCfgMode (p / 4)))

/-- A phase of a fronthaul port ends: both phases before the first UP, afterwards the screen alone; a failed phase waits for the
retry of PORT_RETRY (R416). -/
def fhPhaseEnd (p : Nat) (pass : Bool) (pre post : Nat) (d : Dev) : Dev :=
  let ph := tabGet 0 d.fhPhase p
  let up := d.flag F.fhPortStatusUp p
  if d.fhMbps p = 0 ∨ (d.getF F.qsLinkState p ≠ 1 ∧ d.getF F.qsLinkState p ≠ 2 ∧ ¬ up) then d
  else
    let note := fun (d : Dev) => if ph = 0 then d else
      (d.setF F.qsLinkPrefec p (min (pre / 1024) 0xFFFFFF)).setF F.qsLinkPostfec p (min post 255)
    let next := fun k (d : Dev) => { d with fhPhase := tabSet 0 d.fhPhase p k }
    if ¬ pass then (note (fhLeave p d)).setF F.qsLinkState p 6
    else match ph with
      | 0 => (next 1 d).setF F.qsLinkState p 2
      | 1 => let d := next 2 (note d)
        if tabGet false d.fhOnce p ∧ ¬ up then fhEnter p d else d
      | 2 => let d := next 3 (note d)
        if up then d else fhEnter p d
      | _ => d

/-- The PCIe measurement of Q7 ends: QS_LINK entry 32 (R417). -/
def pcieMeasured (pass : Bool) (pre post : Nat) (d : Dev) : Dev :=
  let d := (d.setF F.qsLinkPrefec 32 (min (pre / 1024) 0xFFFFFF)).setF F.qsLinkPostfec 32 (min post 255)
  let d := (d.setF F.qsLinkGen 32 (d.getF F.hiLinkGen)).setF F.qsLinkLanes 32 (d.getF F.hiLinkWidth)
  d.setF F.qsLinkState 32 (if pass ∧ d.getF F.hiLinkGen = 7 ∧ d.getF F.hiLinkWidth = 16 then 3 else 4)

/-- LINK_PHASE_END: port e (R412 to R418). -/
def linkPhaseEnd (e : Nat) (pass : Bool) (pre post : Nat) (d : Dev) : Dev :=
  if e < 16 then fhPhaseEnd e pass pre post d
  else if e < 32 then terilPhase (e - 16) pass pre post d
  else pcieMeasured pass pre post d

def execLinkPhaseEnd (e : Nat) (pass : Bool) (pre post : Nat) (s : State) : Res :=
  there (e < 33) s (upd s (linkPhaseEnd e pass pre post))

/-- TRAINING_TIMEOUT: an attempt that is not stable within 2 ms fails its configuration (R412). -/
def trainTimeout (e : Nat) (d : Dev) : Dev :=
  if d.getF F.qsLinkState e ≠ 1 then d else linkPhaseEnd e false 0 0 d

def execTrainingTimeout (e : Nat) (s : State) : Res := there (e < 32) s (upd s (trainTimeout e))

/-- RETRAIN: a write of QS_TL_PLAN; with RETRAIN the link leaves service and trains from the plan (R414). -/
def retrain (l : Nat) (v : BitVec 32) (d : Dev) : Dev :=
  let d := (d.setF F.qsTlPlanPlanHalf l (bitsOf v.toNat 2 2)).setF F.qsTlPlanPlanWidth l (bitsOf v.toNat 1 0)
  if v.getLsbD 3 then retrainLink l d else d

def execRetrain (l : Nat) (v : BitVec 32) (s : State) : Res := there (l < 16) s (upd s (retrain l v))

/-- The setup lock holds RWL fields (R21); a write that reaches one counts in LOCKED_WRITES. -/
def Dev.locked (d : Dev) : Bool := d.flag F.setupLockLock
def lockedWrite (d : Dev) : Dev := d.addSat F.setupLockLockedWrites 0 1

/-- QUAD_MODE_SET: a write of FH_QUAD_CFG. Its ports leave service and those of the new mode train (R158, R416). -/
def quadModeSet (q : Nat) (v : BitVec 32) (d : Dev) : Dev :=
  if d.locked then lockedWrite d
  else
  let old := d.getF F.fhQuadCfgMode q
  let d := (d.setF F.fhQuadCfgMtu q (bitsOf v.toNat F.fhQuadCfgMtu.hi F.fhQuadCfgMtu.lo)).setF F.fhQuadCfgMode q
    (bitsOf v.toNat F.fhQuadCfgMode.hi F.fhQuadCfgMode.lo)
  if d.getF F.fhQuadCfgMode q = old then d
  else (List.range 4).foldl (fun d i => trainFh (4 * q + i) (fhLeave (4 * q + i) d)) d

def execQuadModeSet (q : Nat) (v : BitVec 32) (s : State) : Res :=
  there (q < 4) s (upd s (quadModeSet q v))

/-- FH_PORT_DOWN: a port leaves service and trains again (R416). -/
def fhPortDown (p : Nat) (d : Dev) : Dev := if d.flag F.fhPortStatusUp p then trainFh p (fhLeave p d) else d

def execFhPortDown (p : Nat) (s : State) : Res := there (p < 16) s (upd s (fhPortDown p))

/-- PORT_RETRY: a port that failed a phase tries again while its mode is set (R416). -/
def portRetry (p : Nat) (d : Dev) : Dev := if d.getF F.qsLinkState p = 6 then trainFh p d else d

def execPortRetry (p : Nat) (s : State) : Res := there (p < 16) s (upd s (portRetry p))

/-! ### Replay (R258, R259) and handover (R260) -/

/-- Count a is at or before count b, modulo 2^16. -/
def countLe (a b : Nat) : Bool := (b + 65536 - a % 65536) % 65536 < 32768

/-- Flit f of link l has been handed to the wire: it takes the next count, which its CRC covers (R256), and waits for its
acknowledgement. -/
def linkSent (l q : Nat) (f : Frame) (d : Dev) : Dev :=
  let f := { f with crc := flitCrc f (d.link l).tx }
  let d := d.modLink l (fun x =>
    { x with tx := (x.tx + 1) % 65536, replay := x.replay ++ [(x.tx, f)], used := tabMod 0 x.used q (· + 1)
             ackAt := if x.replay = [] then d.acyc else x.ackAt })
  evEdge 0xC1 l 1 (emit (.frame (16 + l) f) d)

/-- A flit passes its CRC and count on link l: it is accepted and acknowledged (R258). -/
def flitIn (l : Nat) (d : Dev) : Dev :=
  let n := (d.link l).rx
  emit (.control l 0 n) (d.modLink l (fun x => { x with rx := (x.rx + 1) % 65536, naked := false }))

/-- FLIT_CRC_FAIL (R258): the flit and every later one are discarded until the missing count arrives; the receiver names it in a NAK,
again when its replay fails. -/
def flitCrcFail (l : Nat) (d : Dev) : Dev :=
  if ¬ d.flag F.tlLinkStatusUp l then d
  else emit (.control l 1 (d.link l).rx) ((d.raise F.tlLinkStatusCrc l).modLink l (fun x => { x with naked := true }))

def execFlitCrcFail (l : Nat) (s : State) : Res := there (l < 16) s (upd s (flitCrcFail l))

/-- Flits up to a count are acknowledged: they leave the replay buffer and their credits return. -/
def ackTo (l count : Nat) (d : Dev) : Dev :=
  let gone := (d.link l).replay.filter (fun x => countLe x.1 count)
  if gone = [] then d
  else d.modLink l (fun x =>
    { x with replay := x.replay.filter (fun y => ! countLe y.1 count), tries := 0, ackAt := d.acyc
             used := gone.foldl (fun u y => tabMod 0 u y.2.queue (· - 1)) x.used })

/-- ACK_RECEIVE: the count of the last flit the peer accepted (R258). -/
def execAckReceive (l count : Nat) (s : State) : Res := there (l < 16) s (upd s (ackTo l count))

/-- NAK_RECEIVE (R258): everything before the named count is accepted; the flits from it on are sent again, at most 8 times (R259). -/
def nakReceive (l count : Nat) (d : Dev) : Dev :=
  let d := ackTo l (count + 65535) d
  match (d.link l).replay with
  | [] => d
  | (n, _) :: _ =>
    if n ≠ count % 65536 then d
    else
      let d := d.modLink l (fun x => { x with tries := x.tries + 1 })
      if 8 < (d.link l).tries then d
      else
        let d := evEdge 0xC2 l 1 (health 2 1 ((d.raise F.tlLinkStatusReplay l).addSat F.tlLinkStatusReplays l 1))
        (d.link l).replay.foldl (fun d x => emit (.frame (16 + l) x.2) d) d

def execNakReceive (l count : Nat) (s : State) : Res := there (l < 16) s (upd s (nakReceive l count))

/-- R259: one flit has been replayed 8 times without acceptance, or 20 µs without acknowledgement with flits outstanding. -/
def Dev.linkLost (d : Dev) (l : Nat) : Bool :=
  decide (8 < (d.link l).tries) || (decide ((d.link l).replay ≠ []) && decide ((d.link l).ackAt + 60000 ≤ d.acyc))

/-- LINK_DOWN (R259): the link leaves service and retrains. -/
def linkDown (l : Nat) (d : Dev) : Dev := if d.flag F.tlLinkStatusUp l ∧ d.linkLost l then retrainLink l d else d

def execLinkDown (l : Nat) (s : State) : Res := there (l < 16) s (upd s (linkDown l))

/-- HANDOVER_REQUEST (R260, step 2): the count last accepted on the dead link is answered. -/
def handoverRequest (l dead : Nat) (d : Dev) : Dev :=
  if ¬ d.flag F.tlLinkStatusUp l then d
  else sendHandover l 1 dead (((d.link dead).rx + 65535) % 65536) (flitIn l d)

def execHandoverRequest (l dead : Nat) (s : State) : Res := there (l < 16 && dead < 16) s (upd s (handoverRequest l dead))

/-- HANDOVER_RESPONSE (R260, step 3): the flits after the count, and those that waited behind them, travel on the other links. -/
def handoverResponse (l dead count : Nat) (d : Dev) : Dev :=
  if ¬ d.flag F.tlLinkStatusUp l ∨ d.flag F.tlLinkStatusUp dead then d
  else
    let d := flitIn l d
    let left := (d.link dead).replay.filter (fun x => ! countLe x.1 count)
    let waiting := (List.range 8).flatMap (fun q => (d.port (16 + dead)).q q)
    let mates := d.mates dead
    if mates = [] then d
    else
      let d := d.modLink dead (fun x => { x with replay := [], tries := 0, used := [] })
      let d := d.modPort (16 + dead) (fun p => { p with queues := [] })
      let d := requeue mates (left.map (fun x => { x.2 with send := none }) ++ waiting) d
      if left = [] then d else health 2 1 (d.raise F.tlLinkStatusHandover dead)

def execHandoverResponse (l dead count : Nat) (s : State) : Res :=
  there (l < 16 && dead < 16) s (upd s (handoverResponse l dead count))

/-! ### Arrival of flits (R257, R399) -/

/-- Flits dropped or refused: TL_DROP. -/
def tlDrop (d : Dev) : Dev := evEdge 0xC0 0 1 d

/-- A stale notice to a refused source, at most one in 100 µs (R399). -/
def staleNotice (src : Nat) (d : Dev) : Dev :=
  let last := tabFind d.teril.noticed src
  if last.any (fun t => ! reached d (later t 800000)) then d
  else
    let d := d.modTeril (fun t => { t with noticed := tabPut t.noticed src d.nt })
    sendCtrl src 2 0 (leBytes 4 (d.getF F.fhMemberMepoch)) d

/-- A data flit of a source is refused: FENCED, before the first MEMBER_CONFIRM, or not a member (R399, R400). -/
def Dev.refuses (d : Dev) (src : Option Nat) : Bool :=
  d.fenced || (match d.teril.members, src with
    | none, _ => true
    | some _, none => false
    | some m, some a => ! m.contains a)

/-- A flit arrives on link l (R257, R258, R399): accepted by the link; dropped when it is for another device or breaks its format, or
when its source is refused; else f takes it. `data`: a data flit of the given source. -/
def receive (l : Nat) (hdr : BitVec 96) (ok data : Bool) (src : Option Nat) (f : Dev → Dev) (d : Dev) : Dev :=
  if ¬ d.flag F.tlLinkStatusUp l then d
  else
    let d := flitIn l d
    if hf hdr 15 4 ≠ d.getF F.tlSelfFaddr ∨ ¬ ok then tlDrop d
    else if data ∧ d.refuses src then
      let d := tlDrop d
      match d.fenced, d.teril.members, src with
      | false, some _, some a => staleNotice a d
      | _, _, _ => d
    else f d

/-- FLIT_REFUSED: a flit that R257 or R399 refuses, whatever its type: its source is SRC, or for XDATA and XREL unknown here. -/
def flitRefused (l : Nat) (hdr : BitVec 96) (_payload : Bytes) (d : Dev) : Dev :=
  let ty := hf hdr 3 0
  let known : Bool := 3 ≤ ty ∧ ty ≤ 5
  let ok : Bool := (1 ≤ ty ∧ ty ≤ 6) ∨ (ty = 8 ∧ 1 ≤ hSub hdr ∧ hSub hdr ≤ 7)
  receive l hdr (ok && decide (ty ≠ 8)) (decide (ty ≠ 8)) (if known ∨ ty = 6 then some (hf hdr 27 16) else none)
    (fun d => tlDrop d) d

def execFlitRefused (l : Nat) (hdr : BitVec 96) (payload : List Byte) (s : State) : Res :=
  there (l < 16) s (upd s (flitRefused l hdr payload))

/-- STALE_NOTICE_RECEIVE: an epoch above MEPOCH fences the device (R400). -/
def staleNoticeReceive (l : Nat) (epoch : BitVec 32) (d : Dev) : Dev :=
  if ¬ d.flag F.tlLinkStatusUp l then d
  else
    let d := flitIn l d
    if d.getF F.fhMemberMepoch < epoch.toNat then enterFenced d else d

def execStaleNoticeReceive (l : Nat) (epoch : BitVec 32) (s : State) : Res :=
  there (l < 16) s (upd s (staleNoticeReceive l epoch))

end Sys2Proof.Machine
end

