-- ==== Sys2Proof/Machine/Receive.lean ====
section
/-! DEFINITION. What arrives on a Teril link: exchange data and release notices (R145 to R147, R156), memory-semantic requests at their
target (R268, R270, R271, R276), their replies and lifetimes (R269, R272, R389), bulk transfers (R277, R278). -/

namespace Sys2Proof.Machine

open Sys2Proof

/-! ### Sender codes -/

/-- The partition, role, instance (1 or 2) and address that a sender code names in a current route table (R145). -/
def Dev.codeOf (d : Dev) (code : Nat) : Option (Nat × Nat × Nat × Nat) :=
  (List.range 32).findSome? (fun p =>
    (d.sched p).route.zipIdx.findSome? (fun x =>
      let r := x.1
      if r.v0 ∧ r.scode0 = code then some (p, x.2, 1, r.faddr0)
      else if r.v1 ∧ r.scode1 = code then some (p, x.2, 2, r.faddr1)
      else none))

/-- The source address that a sender code resolves to (R399). -/
def Dev.codeSrc (d : Dev) (code : Nat) : Option Nat := (d.codeOf code).map (fun x => x.2.2.2)

/-! ### Exchange data (R145, R147, R156) -/

/-- A flit of p dropped: ES_STATUS.STALE and ES_DROP (R147). -/
def esDrop (p : Nat) (d : Dev) : Dev := evPart p 0x45 0 1 (d.raise F.esStatusStale p)

/-- The partition whose earlier route table held a sender code (R147). -/
def Dev.staleOf (d : Dev) (code : Nat) : Option Nat := (List.range 32).find? (fun p => (d.sched p).oldCodes.contains code)

/-- A flit whose sender code no current table holds: STALE at the partition that once listed it (R147); a code that none ever listed names
no partition, and TL_DROP alone counts it (log 154). -/
def staleCode (code : Nat) (d : Dev) : Dev :=
  match d.staleOf code with
  | some p => esDrop p d
  | none => tlDrop d

/-- A unit of epoch e of an image depends on a slot. -/
def Image.consumes (im : Image) (slot e : Nat) : Bool :=
  (im.template e).any (fun t => ((im.dispatch.drop t.2.dispFirst).take t.2.dispCount).any (fun u =>
    u.deps.any (fun w => decide (w.toNat % 4 = 1 ∧ w.toNat / 4 % 8192 = slot))))

/-- The next unreleased consuming epoch of a (slot, parity): the first that has not ended and whose template consumes the slot, in the image
that runs it (R147, R155). -/
def Dev.nextConsuming (d : Dev) (p slot par : Nat) : Option Nat :=
  let e := d.currentEpoch p
  let e := if e % 2 = par then e else e + 1
  let s := d.sched p
  let within := fun (im : Image) (first : Nat) => (List.range im.seq.length).map (fun k => first + 2 * k)
  let last := fun (im : Image) (c : Nat) => decide (im.repeats = 0) || decide (c < im.seq.length * im.repeats)
  match s.active, s.standby, s.swap with
  | some a, some b, some (eW, _) =>
    let from_ := max e (if eW % 2 = par then eW else eW + 1)
    ((within a e).find? (fun c => decide (c < eW) && last a c && a.consumes slot c)).or
      ((within b from_).find? (fun c => last b c && b.consumes slot c))
  | some a, _, _ => (within a e).find? (fun c => last a c && a.consumes slot c)
  | none, _, _ => none

/-- What a receive slot holds once `units` more 64-byte units of a role have arrived for epoch c. -/
def received (c expect total role inst units now : Nat) (x : Presence) : Presence :=
  let got := tabSet 0 x.got role (tabGet 0 x.got role + units)
  let sum := sumL (got.map (·.2))
  let bad : Bool := x.bad || x.setAt.isSome || decide (total < sum) || decide (expect < got.length)
  let full : Bool := decide (got.length = expect ∧ sum = total)
  { x with epoch := c, got := got, inst := tabSet 0 x.inst role inst, bad := bad,
           full := if full then expect else x.full, last := role,
           setAt := if x.setAt.isSome then x.setAt else if full ∨ bad then some now else none }

/-- The bytes of an accepted flit as ranges of the spaces of `mvRanges`. -/
def xdataRanges (im : Image) (hdr : BitVec 96) (n : Nat) : List (Nat × Nat × Nat) :=
  let a := hf hdr 89 48 * 64
  if Config.xdataTier0 hdr then (globalRanges im.binding [(a, n)]).map (fun r => (0, r.1, r.2)) else [(2, a, n)]

/-- The data of an accepted flit is written: an image scratchpad address, or tier 2 (R129, R144, log 41). Bytes that another send or a move
writes in the same consuming epoch are unpredictable (R157). -/
def xdataWrite (p : Nat) (im : Image) (who : Who) (epoch : Nat) (hdr : BitVec 96) (b : Bytes) (d : Dev) : Dev :=
  let a := hf hdr 89 48 * 64
  let b := linkOpen d p a b
  let mine := xdataRanges im hdr b.length
  let others := ((d.sched p).wrote.filter (fun x => decide (x.1 = epoch ∧ x.2.1 ≠ who))).map (fun x => x.2.2)
  let read := openCells (cutRanges mine others) 0 im.binding (if Config.xdataTier0 hdr then 0 else 2) a b d
  let d := noteWrote p epoch who mine read.2
  if Config.xdataTier0 hdr then portWrite (80, 4, 0) d.acyc p im.binding a read.1 d else tierWrite 4 0 p a read.1 d

/-- A flit waits for the switch of the page that it writes to (R228). -/
def holdFlit (hdr : BitVec 96) (payload : Bytes) (d : Dev) : Dev := d.modTeril (fun t => { t with held := t.held ++ [(hdr, payload)] })

/-- An XDATA flit from a member. -/
def xdata (hdr : BitVec 96) (payload : Bytes) (d : Dev) : Dev :=
  match d.codeOf (hf hdr 31 16) with
  | none => staleCode (hf hdr 31 16) d
  | some (p, role, inst, _) =>
    match (d.sched p).active with
    | none => esDrop p d
    | some im =>
      let slot := hf hdr 44 32
      let cep := hf hdr 46 45
      let units := hf hdr 91 90 + 1
      let key := slot * 2 + cep % 2
      let x := tabGet {} (d.sched p).presence key
      let other := tabGet 0 x.inst role
      match im.slots.find? (fun s => s.1 = slot), d.nextConsuming p slot (cep % 2) with
      | some (_, expectM1, total), some c =>
        if d.esState p < 3 ∨ 6 < d.esState p ∨ c % 4 ≠ cep ∨ (other ≠ 0 ∧ other ≠ inst) then esDrop p d
        else if ¬ Config.xdataTier0 hdr ∧ d.vMigrating p (hf hdr 89 48 * 64) (64 * units) then holdFlit hdr payload d
        else
          let d := xdataWrite p im (200 + role, inst, slot) c hdr (payload.take (64 * units)) d
          d.modSched p (fun s =>
            { s with presence := tabSet {} s.presence key (received c (expectM1 + 1) total role inst units d.acyc x) })
      | _, _ => esDrop p d

/-- XDATA_RECEIVE (R145). -/
def xdataReceive (l : Nat) (hdr : BitVec 96) (payload : Bytes) (d : Dev) : Dev :=
  receive l hdr (decide (hf hdr 3 0 = 1 ∧ hf hdr 47 47 = 0 ∧ hf hdr 95 92 = 0)) true (d.codeSrc (hf hdr 31 16))
    (xdata hdr payload) d

def execXdataReceive (l : Nat) (hdr : BitVec 96) (payload : List Byte) (s : State) : Res :=
  there (l < 16) s (upd s (xdataReceive l hdr payload))

/-- The credits that a release notice names return (R146, log 34). -/
def xrel (hdr : BitVec 96) (payload : Bytes) (d : Dev) : Dev :=
  match d.codeOf (hf hdr 31 16) with
  | none => staleCode (hf hdr 31 16) d
  | some (p, role, _, _) =>
    (List.range (hf hdr 39 32)).foldl (fun d i =>
      let w := at_ payload (4 * i) 4
      d.modSched p (fun s => { s with spent := tabSet false s.spent (creditKey role (w % 8192) (w / 8192 % 2)) false })) d

/-- XREL_RECEIVE (R146). -/
def xrelReceive (l : Nat) (hdr : BitVec 96) (payload : Bytes) (d : Dev) : Dev :=
  let n := hf hdr 39 32
  receive l hdr (decide (hf hdr 3 0 = 2 ∧ 1 ≤ n ∧ n ≤ 64 ∧ hf hdr 47 40 = 0 ∧ hf hdr 95 48 = 0)) true
    (d.codeSrc (hf hdr 31 16)) (xrel hdr payload) d

def execXrelReceive (l : Nat) (hdr : BitVec 96) (payload : List Byte) (s : State) : Res :=
  there (l < 16) s (upd s (xrelReceive l hdr payload))

/-! ### Requests at their target -/

/-- Whole units of 1.024 µs from ITIME to now, signed 16 bits (R272). -/
def Dev.itimeAge (d : Dev) (itime : Nat) : Int := toSigned 16 ((itimeOf d.nt + 65536 - itime) % 65536)

/-- A reply flit (TYPE 4) in queue 2, or 5 for a lent frame (R246, R267). -/
def sendReplyIn (q src tag status : Nat) (payload : Bytes) (d : Dev) : Dev :=
  sendFlit (d.linksTo src) q (hdrOf ([(0, 4), (4, src), (16, d.getF F.tlSelfFaddr), (44, status % 16), (48, status / 16)] ++ hdrTag tag))
    payload d

def sendReply (src tag status : Nat) (payload : Bytes) (d : Dev) : Dev := sendReplyIn 2 src tag status payload d

/-- A reply with BUSY (R270, R271). -/
def replyBusy (src tag : Nat) (d : Dev) : Dev := sendReply src tag 0x96 [] (d.raise F.tlRmStatusBusy)

/-- The new value of an atomic (R268): OP 2 add, 3 min, 4 max, 5 compare-and-swap; ATYPE 0 int32, 1 int64, 2 fp32. -/
def amoNew (op atype old a b : Nat) : Nat :=
  let w := if atype = 1 then 64 else 32
  let so := toSigned w old
  let sa := toSigned w a
  match op with
  | 2 => if atype = 2 then toF32 (Num.add (ofF32 old) (ofF32 a)) else ofSigned w (satInt w (so + sa))
  | 3 => ofSigned w (min so sa)
  | 4 => ofSigned w (max so sa)
  | _ => if old = a % 2 ^ w then b % 2 ^ w else old

/-- The reserved fields and codes of a request body (R257, R267). -/
def bodyOk (b : Bytes) : Bool :=
  rsv b 0 7 7 && decide (at_ b 0x0C 4 = 0) && (List.range 3).all (fun i => at_ b (0x28 + 8 * i) 8 = 0) &&
    decide (fld b 0 3 0 ≤ 5) && decide (fld b 0 5 4 ≤ 2) && decide (fld b 0 15 8 < 192) &&
    (decide (fld b 0 5 4 ≠ 2) || decide (fld b 0 3 0 = 2))

/-- The store map of a source moves on (R270): B rises to LOW, then over every contiguous set bit. -/
def storeAdvance : Nat → Nat → List Nat → Nat × List Nat
  | 0, b, l => (b, l.filter (b ≤ ·))
  | n + 1, b, l => if l.contains b then storeAdvance n (b + 1) l else (b, l.filter (b ≤ ·))

/-- What a store's sequence number means at the target: 0 perform, 1 duplicate, 2 BUSY. -/
def Dev.storeSeen (d : Dev) (src wseq low : Nat) : Nat :=
  let b := max (tabGet 1 d.teril.storeBase src) low
  if wseq < b ∨ (tabGet [] d.teril.storeSet src).contains wseq then 1 else if b + 4096 ≤ wseq then 2 else 0

/-- The map of a source after a store: B at least LOW, and the bit of a performed store set. -/
def storeMark (src low : Nat) (w : Option Nat) (d : Dev) : Dev :=
  let l := tabGet [] d.teril.storeSet src
  let l := match w with
    | some w => w :: l
    | none => l
  let (b, l) := storeAdvance (l.length + 1) (max (tabGet 1 d.teril.storeBase src) low) l
  d.modTeril (fun t => { t with storeBase := tabSet 1 t.storeBase src b, storeSet := tabSet [] t.storeSet src l })

/-- Live reply-cache entries. -/
def Dev.liveReplies (d : Dev) : Tab Reply := d.teril.replies.filter (fun e => ! reached d e.2.expiry)

/-- RC_USED counts the live entries; dead ones leave (R271). -/
def repliesAge (d : Dev) : Dev :=
  if d.teril.replies.all (fun e => ! reached d e.2.expiry) then d
  else
    let d := d.modTeril (fun t => { t with replies := d.liveReplies })
    d.setF F.tlRmStatusRcUsed 0 d.teril.replies.length

/-- A reply entered in the cache, dead entries dropped, RC_USED shown (R271). -/
def cacheReply (key : Nat) (r : Reply) (d : Dev) : Dev :=
  let d := d.modTeril (fun t => { t with replies := tabPut d.liveReplies key r })
  d.setF F.tlRmStatusRcUsed 0 d.teril.replies.length

/-- The network time that a 16-bit ITIME names. -/
def Dev.itimeFull (d : Dev) (itime : Nat) : BitVec 64 :=
  BitVec.ofNat 64 ((d.nt.toNat / 8192 : Nat) - d.itimeAge itime).toNat * 8192

/-- A load, store or atomic of SPACE 0 for partition p (R268 to R271). -/
def reqJob (p src tag itime : Nat) (b : Bytes) (d : Dev) : Dev :=
  let op := fld b 0 3 0
  let atype := fld b 0 5 4
  let n := fld b 0 15 8 + 1
  let a := at_ b 0x10 8
  if op = 0 then
    let missing := (d.vMissing p a n).isSome
    let lost := d.vLost p a n
    let read := tierRead 6 0 p a n d
    let v := read.1
    let d := read.2
    sendReply src tag (if missing then 0x91 else if lost then 0x95 else 0) (zeros 64 ++ linkSeal d p a v) d
  else if op = 1 then
    let w := at_ b 4 4
    let low := at_ b 8 4
    match d.storeSeen src w low with
    | 1 => sendReply src tag 0 [] (storeMark src low none d)
    | 2 => replyBusy src tag (storeMark src low none d)
    | _ =>
      let missing := (d.vMissing p a n).isSome
      let d := tierWrite 6 0 p a (linkOpen d p a ((b.drop 64).take n)) d
      if missing then sendReply src tag 0x91 [] (storeMark src low none d)
      else sendReply src tag 0 [] (storeMark src low (some w) d)
  else
    let key := src * 65536 + tag
    match tabFind d.liveReplies key with
    | some r => sendReply src tag r.status (linkSeal d p a (leBytes 8 r.old.toNat ++ zeros 56)) d
    | none =>
      if 4096 ≤ d.liveReplies.length then replyBusy src tag d
      else
        let size := if atype = 1 then 8 else 4
        let missing := (d.vMissing p a size).isSome
        let lost := d.vLost p a size
        let read := tierRead 6 0 p a size d
        let v := read.1
        let d := read.2
        if missing then sendReply src tag 0x91 [] d
        else
          let expiry := later (d.itimeFull itime) d.lifetime
          if lost then sendReply src tag 0x95 [] (cacheReply key { status := 0x95, old := 0, expiry := expiry } d)
          else
            let old := leNat v
            let d := tierWrite 6 0 p a (leBytes size (amoNew op atype old (at_ b 0x18 8) (at_ b 0x20 8))) d
            sendReply src tag 0 (linkSeal d p a (leBytes 8 old ++ zeros 56))
              (cacheReply key { status := 0, old := BitVec.ofNat 64 old, expiry := expiry } d)

/-- A load or store of lent frames (SPACE 1): the borrower's whole, aligned units inside the lend, as ciphertext (R276). -/
def reqLent (src tag : Nat) (b : Bytes) (d : Dev) : Dev :=
  let op := fld b 0 3 0
  let n := fld b 0 15 8 + 1
  let a := at_ b 0x10 8
  match tabFind d.mem.lends (fld b 0 19 16) with
  | none => sendReplyIn 5 src tag 0x91 [] d
  | some x =>
    if x.borrower ≠ src ∨ x.withdrawn.isSome ∨ 1 < op ∨ n % 64 ≠ 0 ∨ a % 64 ≠ 0 ∨ x.frames * pageSize < a + n then
      sendReplyIn 5 src tag 0x91 [] d
    else
      let base := x.first * pageSize + a
      let units := (List.range (n / 64)).map (fun i => base + 64 * i)
      if op = 0 then
        if units.any (fun u => (d.tagAt (.hbm u)).ue) then
          let d := units.foldl (fun d u => if (d.tagAt (.hbm u)).ue then ueLog u false d else d) d
          let read := takeBytes n d
          let f := read.1
          let d := read.2
          sendReplyIn 5 src tag 0x95 (zeros 64 ++ f) d
        else sendReplyIn 5 src tag 0 (zeros 64 ++ units.flatMap (fun u => cipherUnit (d.tagAt (.hbm u)) (d.rawUnit (.hbm u)))) d
      else
        let low := at_ b 8 4
        match d.storeSeen src (at_ b 4 4) low with
        | 1 => sendReply src tag 0 [] (storeMark src low none d)
        | 2 => replyBusy src tag (storeMark src low none d)
        | _ =>
          let d := units.zipIdx.foldl (fun d u => putUnit (.hbm u.1) ((b.drop (64 + 64 * u.2)).take 64) {} d) d
          sendReplyIn 5 src tag 0 [] (storeMark src low (some (at_ b 4 4)) d)

/-- Key of a bulk transfer at its target. -/
def bulkKey (src tag : Nat) : Nat := src * 65536 + tag

/-- A bulk acknowledgement (CTRL, SUB 7): the TAG in payload bytes 0 and 1 (log 40). -/
def sendBulkAck (src tag : Nat) (d : Dev) : Dev := sendCtrl src 7 0 (leBytes 2 tag) d

/-- The pair was completed within LIFETIME (R278). -/
def Dev.bulkSeen (d : Dev) (k : Nat) : Bool := d.teril.bulkDone.any (fun e => decide (e.1 = k) && ! reached d (later e.2 d.lifetime))

/-- A put whose request, LAST and every unit have arrived is written through p's translation and acknowledged (R268, R278). -/
def bulkFinish (src tag : Nat) (d : Dev) : Dev :=
  let k := bulkKey src tag
  match tabFind d.teril.bulk k with
  | none => d
  | some x =>
    let b := x.req
    let n := at_ b 0x40 4 + 1
    let waits : Bool := (d.codeOf (fld b 0 31 16)).any (fun c => d.vMigrating c.1 (at_ b 0x10 8) n)
    if b = [] ∨ x.lastSeen.isNone ∨ x.units.length < ceilDiv n 64 ∨ waits then d
    else
      let d := d.modTeril (fun t => { t with bulk := tabDel t.bulk k })
      match d.codeOf (fld b 0 31 16) with
      | none => sendReply src tag 0x92 [] (d.raise F.tlRmStatusStaleRx)
      | some (p, _, _, _) =>
        let a := at_ b 0x10 8
        let missing := (d.vMissing p a n).isSome
        let d := tierWrite 6 0 p a (linkOpen d p a (memRead x.data 0 n)) d
        let d := d.modTeril (fun t => { t with bulkDone := ((k, d.nt) :: t.bulkDone).take 256 })
        if missing then sendReply src tag 0x91 [] d else sendBulkAck src tag d

/-- A bulk request (GW = 1): a put waits for its data, a get is answered with data flits (R277). -/
def reqBulk (src tag : Nat) (b : Bytes) (d : Dev) : Dev :=
  let k := bulkKey src tag
  match d.codeOf (fld b 0 31 16) with
  | none => sendReply src tag 0x92 [] (d.raise F.tlRmStatusStaleRx)
  | some (p, _, _, _) =>
    if fld b 0 3 0 = 1 then
      if d.bulkSeen k then sendBulkAck src tag d
      else
        let x := (tabFind d.teril.bulk k).getD { req := [], units := [], data := [], lastSeen := none }
        let x := { x with req := b }
        bulkFinish src tag (d.modTeril (fun t => { t with bulk := tabPut t.bulk k x }))
    else
      let a := at_ b 0x10 8
      let n := at_ b 0x40 4 + 1
      let missing := (d.vMissing p a n).isSome
      let lost := d.vLost p a n
      let read := tierRead 6 0 p a n d
      let v := read.1
      let d := read.2
      if missing then sendReply src tag 0x91 [] d
      else if lost then sendReply src tag 0x95 [] d
      else (bulkFlits d src tag (linkSeal d p a v)).foldl (fun d f => sendFlit (d.linksTo src) 3 f.1 f.2 d) d

/-- A request from a member: too old, OUTCOME_UNKNOWN (R272, R389); lent frames; a job partition, STALE without its sender (R268). -/
def mreq (hdr : BitVec 96) (b : Bytes) (d : Dev) : Dev :=
  let src := hf hdr 27 16
  let tag := hTag hdr
  let itime := hf hdr 59 44
  let age := d.itimeAge itime * 8192
  if hf hdr 61 61 = 1 then reqBulk src tag b d
  else if (d.lifetime : Int) ≤ age ∨ (fld b 0 6 6 = 1 ∧ 16000000 < age) then sendReply src tag 0x94 [] d
  else if fld b 0 6 6 = 1 then reqLent src tag b d
  else match d.codeOf (fld b 0 31 16) with
    | none => sendReply src tag 0x92 [] (d.raise F.tlRmStatusStaleRx)
    | some (p, _, _, _) =>
      let n := if fld b 0 3 0 = 1 then fld b 0 15 8 + 1 else 8
      if fld b 0 3 0 ≠ 0 ∧ d.vMigrating p (at_ b 0x10 8) n then holdFlit hdr b d
      else reqJob p src tag itime b d

/-- MREQ_RECEIVE (R268). -/
def mreqReceive (l : Nat) (hdr : BitVec 96) (payload : Bytes) (d : Dev) : Dev :=
  receive l hdr (decide (hf hdr 3 0 = 3 ∧ hf hdr 95 62 = 0) && bodyOk payload) true (some (hf hdr 27 16)) (mreq hdr payload) d

def execMreqReceive (l : Nat) (hdr : BitVec 96) (payload : List Byte) (s : State) : Res :=
  there (l < 16) s (upd s (mreqReceive l hdr payload))

/-! ### Replies at the initiator (R269) -/

/-- The operation of a request still stands on its core. -/
def Dev.opOf (d : Dev) (r : Req) : Option RemoteOp :=
  if r.far.isSome then none else (d.core r.g).remote.find? (fun o => o.id = r.op)

/-- Bytes of a get written to its local destination (R269); a page without mapping takes none: RANGE, and a record (R225). -/
def getWrite (r : Req) (o : RemoteOp) (ofs : Nat) (b : Bytes) (d : Dev) : Dev :=
  let sd := sdDesc o.sd
  let a := sd.ebase + r.off + ofs
  let d' := tierStore (d.remotePort r.g o) sd.tier a b
    (if sd.tier = 2 then xlate 1 r.g r.p a b.length (hbmCharge r.p a b.length d) else d)
  match if sd.tier = 2 then d.vMissing r.p a b.length else none with
  | some page => remoteFail r.g r.op 0x91 (xlateFault r.p page 1 r.g true d')
  | none => d'

/-- The request is a load or get. -/
def Req.isGet (r : Req) : Bool := fld r.body 0 3 0 = 0

/-- The request is an atomic. -/
def Req.isAmo (r : Req) : Bool := 2 ≤ fld r.body 0 3 0

/-- A get that stays unanswered or lost data: its destination bytes are unpredictable (R16, R272). -/
def getLost (r : Req) (d : Dev) : Dev :=
  match d.opOf r with
  | none => d
  | some o =>
    let read := takeBytes r.len d
    let b := read.1
    let d := read.2
    getWrite r o 0 b d

/-- The move of core g that issued in an a-cycle, changed. -/
def modMove (g issued : Nat) (f : Move → Move) (d : Dev) : Dev :=
  d.modCore g (fun c => { c with moves := c.moves.map (fun m => if m.issued = issued then f m else m) })

/-- A store to a lent frame was not performed, or may not have been: the move that waits for it ends with RANGE or DATA_LOST; for another
writer the access to a withdrawn lend is recorded as one to an unmapped page (R225, R272, R275). -/
def farRefused (status p va : Nat) (d : Dev) : Dev :=
  let mine := fun g (m : Move) => m.wrote && decide (d.workOf g = p) && (d.mvTier2 p g m).2.any (fun r => decide (r.1 ≤ va + 63 ∧ va < r.1 + r.2))
  let page := va / pageSize * pageSize
  match (tabKeys d.cores).findSome? (fun g => ((d.core g).moves.find? (mine g)).map (fun m => (g, m.issued))) with
  | some (g, t) => modMove g t (fun m =>
      if status = 0x91 then { m with found := (m.found.1.or (some (page, true)), m.found.2) } else { m with found := (m.found.1, true) }) d
  | none => if status = 0x91 then xlateFault p page 4 0 true d else d

/-- A unit of a lent frame was answered, or not in time (R265, R275): a load brings its ciphertext, a withdrawn lend is a page that is not
there, a lost unit reads unpredictably; a migration (asker 80 + p) copies unpredictable bytes for either. -/
def farReply (status : Nat) (payload : Bytes) (r : Req) (d : Dev) : Dev :=
  match r.far with
  | none => d
  | some (x, va, asker) =>
    if r.wseq ≠ 0 then (if status = 0 then d else farRefused status r.p va d)
    else
      let d := if status = 0 ∧ ¬ d.farStoring x then d.modMem (fun m => { m with peer := memWrite m.peer x ((payload.drop 64).take 64) }) else d
      match asker with
      | some (g, t) =>
        if 80 ≤ g then
          if status = 0 then d
          else
            let read := takeBytes 64 d
            read.2.modMem (fun m => { m with peer := memWrite m.peer x read.1 })
        else if status = 0x91 then modMove g t (fun m => { m with gone := va / pageSize :: m.gone }) d
        else if status = 0 then d
        else modMove g t (fun m => { m with lostAt := va / 64 :: m.lostAt }) d
      | none => d

/-- A reply of a status for request r. -/
def mrsp (tag status : Nat) (payload : Bytes) (d : Dev) : Dev :=
  match tabFind d.teril.reqs tag with
  | none => d
  | some r =>
    if status = 0x96 then d.modTeril (fun t => { t with reqs := tabPut t.reqs tag { r with last := d.nt } })
    else
      let a := at_ r.body 0x10 8
      let d := match r.isGet && ! r.bulk, d.opOf r with
        | true, some o =>
          if status = 0 then getWrite r o 0 (linkOpen d r.p a ((payload.drop 64).take r.len)) d
          else if status = 0x91 then getWrite r o 0 (zeros r.len) d
          else if status = 0x95 then getLost r d
          else d
        | _, _ => if r.bulk ∧ r.isGet ∧ status = 0x95 then getLost r d else d
      let old := if r.isAmo then at_ (linkOpen d r.p a (payload.take 64)) 0 8 else 0
      resolveReq tag status (BitVec.ofNat 64 old) (farReply status payload r d)

/-- MRSP_RECEIVE: a reply of the request's target; one for no outstanding request is ignored (R269, R273). -/
def mrspReceive (l : Nat) (hdr : BitVec 96) (payload : Bytes) (d : Dev) : Dev :=
  receive l hdr (decide (hf hdr 3 0 = 4 ∧ hf hdr 95 52 = 0)) true (some (hf hdr 27 16)) (fun d =>
    match tabFind d.teril.reqs (hTag hdr) with
    | some r => if r.dst = hf hdr 27 16 then mrsp (hTag hdr) (hf hdr 51 44) payload d else d
    | none => d) d

def execMrspReceive (l : Nat) (hdr : BitVec 96) (payload : List Byte) (s : State) : Res :=
  there (l < 16) s (upd s (mrspReceive l hdr payload))

/-! ### Bulk data (R277, R278) -/

/-- Data of a get: written at its place; the get resolves with its last unit. -/
def bulkGet (tag ofs : Nat) (b : Bytes) (r : Req) (d : Dev) : Dev :=
  let units := (List.range (ceilDiv b.length 64)).foldl (fun t i => tabSet 0 t (ofs + i) 1) r.units
  let d := d.modTeril (fun t => { t with reqs := tabPut t.reqs tag { r with units := units } })
  let d := match d.opOf r with
    | some o => getWrite r o (64 * ofs) ((linkOpen d r.p (at_ r.body 0x10 8 + 64 * ofs) b).take (r.len - 64 * ofs)) d
    | none => d
  if ceilDiv r.len 64 ≤ units.length then resolveReq tag 0 0 d else d

/-- Data of a put: held by offset until everything has arrived. -/
def bulkPut (src tag ofs : Nat) (last : Bool) (b : Bytes) (d : Dev) : Dev :=
  let k := bulkKey src tag
  if d.bulkSeen k then d
  else
    let x := (tabFind d.teril.bulk k).getD { req := [], units := [], data := [], lastSeen := none }
    let x := { x with units := (List.range (ceilDiv b.length 64)).foldl (fun u i => tabSet 0 u (ofs + i) 1) x.units
                      data := memWrite x.data (64 * ofs) b
                      lastSeen := if last then some (ofs + ceilDiv b.length 64) else x.lastSeen }
    bulkFinish src tag (d.modTeril (fun t => { t with bulk := tabPut t.bulk k x }))

/-- BULK_RECEIVE (R277, R278). -/
def bulkReceive (l : Nat) (hdr : BitVec 96) (payload : Bytes) (d : Dev) : Dev :=
  let src := hf hdr 27 16
  let tag := hTag hdr
  let ofs := hf hdr 75 44
  let b := payload.take (64 * (hf hdr 77 76 + 1))
  receive l hdr (decide (hf hdr 3 0 = 5 ∧ hf hdr 95 79 = 0)) true (some src) (fun d =>
    match tabFind d.teril.reqs tag with
    | some r => if r.dst = src ∧ r.bulk ∧ r.isGet then bulkGet tag ofs b r d else bulkPut src tag ofs (hdr.getLsbD 78) b d
    | none => bulkPut src tag ofs (hdr.getLsbD 78) b d) d

def execBulkReceive (l : Nat) (hdr : BitVec 96) (payload : List Byte) (s : State) : Res :=
  there (l < 16) s (upd s (bulkReceive l hdr payload))

/-- BULK_ACK_RECEIVE (R278): the put of the TAG in payload bytes 0 and 1 completes. -/
def bulkAckReceive (l : Nat) (hdr : BitVec 96) (payload : Bytes) (d : Dev) : Dev :=
  receive l hdr (decide (hf hdr 3 0 = 8 ∧ hSub hdr = 7)) false none (fun d =>
    let tag := at_ payload 0 2
    match tabFind d.teril.reqs tag with
    | some r => if r.dst = hf hdr 27 16 ∧ r.bulk ∧ ! r.isGet then resolveReq tag 0 0 d else d
    | none => d) d

def execBulkAckReceive (l : Nat) (hdr : BitVec 96) (payload : List Byte) (s : State) : Res :=
  there (l < 16) s (upd s (bulkAckReceive l hdr payload))

/-! ### Writes that waited for a migration (R228) -/

/-- A flit that waited for the switch of its page is taken. -/
def takeHeld (d : Dev) (f : BitVec 96 × Bytes) : Dev := if hf f.1 3 0 = 1 then xdata f.1 f.2 d else mreq f.1 f.2 d

/-- Units of the page that the head migration moves from a lent frame, as (address at the peer, virtual address). -/
def Dev.migSource (d : Dev) : List (Nat × Nat) :=
  match d.mem.mig with
  | [] => []
  | m :: _ =>
    match m.target, d.pte m.p m.vpn with
    | some _, some e =>
      match d.physOf m.p e 0 with
      | .peer x => (List.range (pageSize / 64)).map (fun i => (x + 64 * i, m.vpn * pageSize + 64 * i))
      | _ => []
    | _, _ => []

/-- The migration engine asks for them, while TAGs are free (R265). -/
def migAsk (d : Dev) : Dev :=
  match d.mem.mig with
  | [] => d
  | m :: _ =>
    let units := d.migSource.drop m.asked
    if units = [] then d
    else
      let r := farAsk m.p (80 + m.p, m.vpn) units (0, d)
      r.2.modMem (fun x => { x with mig := modAt x.mig 0 (fun m => { m with asked := m.asked + r.1 }) })

/-- Units of that page have not arrived. -/
def Dev.migAsking (d : Dev) : Bool :=
  match d.mem.mig with
  | [] => false
  | m :: _ => ! d.migSource.isEmpty && (decide (m.asked < pageSize / 64) || d.farAsking (80 + m.p, m.vpn))

/-- MIGRATION_SWITCH (R228): once the page has been read, the switch; then the flits and transfers that waited are taken, oldest first. -/
def migSwitchAll (d : Dev) : Dev :=
  let d := if d.migAsking then d else migSwitch d
  let d := d.teril.held.foldl takeHeld (d.modTeril (fun t => { t with held := [] }))
  (tabKeys d.teril.bulk).foldl (fun d k => bulkFinish (k / 65536) (k % 65536) d) d

def execMigrationSwitch (s : State) : Res := upd s migSwitchAll

/-! ### Retries and lifetimes (R272, R278, R389) -/

/-- The request is sent again, with RETRY = 1. -/
def resend (tag : Nat) (r : Req) (d : Dev) : Dev :=
  let r := { r with retries := r.retries + 1, last := d.nt }
  sendReq tag r true ((d.modTeril (fun t => { t with reqs := tabPut t.reqs tag r })).raise F.tlRmStatusRetry)

/-- A request has reached ITIME + LIFETIME. -/
def Dev.reqOver (d : Dev) (r : Req) : Bool := reached d (later r.itime d.lifetime)

/-- REQUEST_RETRY: RTO after the last send or BUSY reply, within LIFETIME, not while FENCED (R272, R400). -/
def requestRetry (tag : Nat) (d : Dev) : Dev :=
  match tabFind d.teril.reqs tag with
  | none => d
  | some r => if r.bulk ∨ d.fenced ∨ d.reqOver r ∨ ¬ reached d (later r.last d.rto) then d else resend tag r d

def execRequestRetry (tag : Nat) (s : State) : Res := upd s (requestRetry tag)

/-- REQUEST_LIFETIME_EXPIRY (R272). -/
def requestOver (tag : Nat) (d : Dev) : Dev :=
  match tabFind d.teril.reqs tag with
  | none => d
  | some r =>
    if r.bulk ∨ ¬ d.reqOver r then d
    else if r.isGet then resolveReq tag 0x95 0 (getLost r (farReply 0x95 [] r d))
    else resolveReq tag 0x94 0 (farReply 0x94 [] r d)

def execRequestLifetimeExpiry (tag : Nat) (s : State) : Res := upd s (requestOver tag)

/-- BULK_RETRY: GW_RTO after the last send the transfer is sent again whole; after three failed sends it resolves (R278). -/
def bulkRetry (tag : Nat) (d : Dev) : Dev :=
  match tabFind d.teril.reqs tag with
  | none => d
  | some r =>
    if ¬ r.bulk ∨ ¬ reached d (later r.last d.gwRto) then d
    else if r.retries < 2 then
      if d.fenced then d.modTeril (fun t => { t with reqs := tabPut t.reqs tag { r with retries := r.retries + 1, last := d.nt } })
      else resend tag r d
    else if r.isGet then resolveReq tag 0x95 0 (getLost r d)
    else resolveReq tag 0x94 0 d

def execBulkRetry (tag : Nat) (s : State) : Res := upd s (bulkRetry tag)

/-- FABRIC_LIFETIME_EXPIRY: flits of the TAG that have waited 2 ms in an edge queue are discarded (R389). -/
def fabricOver (tag : Nat) (d : Dev) : Dev :=
  let old := fun (f : Frame) => f.wclass.isNone && decide (3 ≤ f.hdr.toNat % 16 ∧ f.hdr.toNat % 16 ≤ 5) && decide (hTag f.hdr = tag) &&
    reached d (later f.at_ 16000000)
  (List.range 16).foldl (fun d l => d.modPort (16 + l) (fun p =>
    { p with queues := p.queues.filterMap (fun q =>
        let fs := q.2.filter (fun f => ! old f)
        if fs = [] then none else some (q.1, fs)) })) d

def execFabricLifetimeExpiry (tag : Nat) (s : State) : Res := upd s (fabricOver tag)

end Sys2Proof.Machine
end

