-- ==== Sys2Proof/Machine/Mirror.lean ====
section
/-! DEFINITION. Lending HBM to peers (R275), the mirror pair (R279 to R285), checkpoints through the host (R288). -/

namespace Sys2Proof.Machine

open Sys2Proof

/-! ### Lends (R275) -/

/-- TL_LEND: unassigned, present frames, a free index, a borrower of the own tray. -/
def tlLend (c : Src) (i first frames borrower : Nat) (d : Dev) : Dev :=
  let taken : Bool := (List.range frames).any (fun k => d.frameAbsent (first + k) || decide (tabGet 0 d.mem.owner (first + k) ≠ 0))
  if 15 < i ∨ frames = 0 ∨ frameCount < first + frames ∨ taken ∨ (tabFind d.mem.lends i).isSome ∨
      borrower / 8 ≠ d.getF F.tlSelfFaddr / 8 then done c 0x97 d
  else
    done c 0 (d.modMem (fun m =>
      { m with lends := tabPut m.lends i { first := first, frames := frames, borrower := borrower }
               owner := (List.range frames).foldl (fun o k => tabSet 0 o (first + k) (64 + i)) m.owner }))

def execTlLend (c : Src) (i first frames borrower : Nat) (s : State) : Res := upd s (tlLend c i first frames borrower)

/-- TL_UNLEND: new accesses are refused at once; the frames return 2 ms later. -/
def tlUnlend (c : Src) (i : Nat) (d : Dev) : Dev :=
  match tabFind d.mem.lends i with
  | none => done c 0x97 d
  | some x =>
    if x.withdrawn.isSome then done c 0x97 d
    else d.modMem (fun m => { m with lends := tabPut m.lends i { x with withdrawn := some (c, d.acyc) } })

def execTlUnlend (c : Src) (i : Nat) (s : State) : Res := upd s (tlUnlend c i)

/-- UNLEND_ZERO: 2 ms after TL_UNLEND the frames are zeroed and unassigned, and the command completes. -/
def unlendZero (i : Nat) (d : Dev) : Dev :=
  match tabFind d.mem.lends i with
  | none => d
  | some x =>
    match x.withdrawn with
    | none => d
    | some (c, t) =>
      if d.acyc < t + 6000000 then d
      else
        let a := x.first * pageSize
        let n := x.frames * pageSize
        done c 0 (d.modMem (fun m =>
          { m with hbm := memZero m.hbm a n, tags := tabDrop m.tags (a / 64) (n / 64), lends := tabDel m.lends i
                   owner := tabDrop m.owner x.first x.frames }))

def execUnlendZero (i : Nat) (s : State) : Res := upd s (unlendZero i)

/-! ### The pair (R279, R280) -/

/-- State code of the pair. -/
def Dev.mirSt (d : Dev) : Nat := d.getF F.tlMirStatusState

/-- Every chunk of every HINT-3 page of a mirrored partition becomes dirty (R281). -/
def markPart (p : Nat) (d : Dev) : Dev := (d.part p).pt.foldl (fun d e => markPage p e.1 d) d

def markAll (d : Dev) : Dev := (List.range 32).foldl (fun d p => markPart p d) d

/-- MIRROR_SET: partner 0 turns the pair OFF; any other partner starts PAIRING (R279). -/
def mirrorSet (c : Src) (partner links cap : Nat) (d : Dev) : Dev :=
  if 4095 < partner ∨ (partner ≠ 0 ∧ (partner = d.getF F.tlSelfFaddr ∨ cap = 0 ∨ 200 < cap ∨ 65535 < links ∨
      d.terilGbs < cap + sumL ((List.range 32).map (fun p => regRate (d.regWord p 8))))) then done c 0x98 d
  else
    let d := d.modTeril (fun t => { t with mirLinks := links, mirCap := cap, dirty := [], copying := [], mirAt := d.nt })
    done c 0 ((d.setF F.tlMirStatusPartner 0 partner).setF F.tlMirStatusState 0 (if partner = 0 then 0 else 1))

def execMirrorSet (c : Src) (partner links cap : Nat) (s : State) : Res := upd s (mirrorSet c partner links cap)

/-- MIRROR_MAP: the partition mirrors into a partition of the partner, and is no longer BROKEN by a takeover (R280, R285). -/
def mirrorMap (c : Src) (p q : Nat) (d : Dev) : Dev :=
  if 31 < p ∨ 31 < q ∨ (p = 0 ∧ q ≠ 0) ∨ (p ≠ 0 ∧ q = 0) ∨ (p ≠ 0 ∧ d.pstate p = 0) then done c 0x98 d
  else if d.mirSt = 0 then done c 0x99 d
  else
    let d := d.modPart p (fun x => { x with mirror := some q })
    done c 0 (markPart p (d.modTeril (fun t => { t with taken := t.taken.filter (· ≠ p) })))

def execMirrorMap (c : Src) (p q : Nat) (s : State) : Res := upd s (mirrorMap c p q)

/-- MIRROR_PAIRED: the partner names this device; the pair becomes ACTIVE and every mirrored page dirty (R279, R281). -/
def mirrorPaired (d : Dev) : Dev := if d.mirSt = 1 then markAll (d.setF F.tlMirStatusState 0 2) else d

def execMirrorPaired (s : State) : Res := upd s mirrorPaired

/-- MIRROR_PARTNER_LOST: unreachable for 1 ms, or outside the membership (R279). -/
def execMirrorPartnerLost (s : State) : Res := upd s (fun d => if d.mirSt = 2 then mirrorBroken d else d)

/-- MIRROR_PARTNER_REGAINED: the partner is reachable and a member again (R279). -/
def mirrorRegained (d : Dev) : Dev :=
  let member : Bool := match d.teril.members with
    | some m => m.contains (d.getF F.tlMirStatusPartner)
    | none => false
  if d.mirSt = 3 ∧ member ∧ ¬ d.fenced then d.setF F.tlMirStatusState 0 1 else d

def execMirrorPartnerRegained (s : State) : Res := upd s mirrorRegained

/-! ### Copying (R281, R283) -/

/-- A MIRROR flit header: partition, GEN, unit address, units (R256). -/
def mirrorHdr (partner self part : Nat) (gen : Bool) (unit n : Nat) : BitVec 96 :=
  hdrOf [(0, 6), (4, partner), (16, self), (28, part % 16), (32, part / 16), (33, if gen then 1 else 0), (34, unit), (76, n - 1)]

/-- The ciphertext of units of a page. -/
def Dev.pageCipher (d : Dev) (p : Nat) (e : Pte) (o n : Nat) : Bytes :=
  (List.range n).flatMap (fun i =>
    let a := d.physOf p e (o + 64 * i)
    cipherUnit (d.tagAt a) (d.rawUnit a))

/-- The flits of a chunk travel on one link of the mask, in order; its HBM regulator counts the read (R296). -/
def sendChunk (p vpn chunk q : Nat) (e : Pte) (l : Nat) (d : Dev) : Dev :=
  let partner := d.getF F.tlMirStatusPartner
  (List.range 256).foldl (fun d i =>
    let o := chunk * 65536 + 256 * i
    enqueue (16 + l) 4 (flitFrame (mirrorHdr partner (d.getF F.tlSelfFaddr) q e.gen (vpn * 32768 + o / 64) 4)
      (d.pageCipher p e o 4)) d) (pageCharge p e 65536 d)

/-- The dirty chunks, oldest first, without those of a partition that is being frozen, or is: its mirroring has stopped (R281, R317). -/
def Dev.copyOrder (d : Dev) : List (Nat × Nat × Nat × BitVec 64) :=
  d.teril.dirty.filter (fun x => decide (d.pstate x.1 ≠ 2 ∧ d.pstate x.1 ≠ 3))

/-- MIRROR_CHUNK_COPY: the first dirty chunk is copied, within the rate cap (R279, R281). -/
def chunkCopy (d : Dev) : Dev :=
  match d.copyOrder, d.dataLinks d.teril.mirLinks with
  | (p, vpn, chunk, t) :: _, l :: ls =>
    if d.mirSt ≠ 2 ∨ d.fenced ∨ ¬ reached d d.teril.mirAt ∨ ¬ d.mayIssue 9 p then d
    else
      let d := d.modTeril (fun x => { x with dirty := x.dirty.erase (p, vpn, chunk, t) })
      match d.mirrorOf p, d.pte p vpn with
      | some q, some e =>
        if e.hint ≠ 3 then d
        else
          let link := ((l :: ls)[chunk % (ls.length + 1)]?).getD l
          let d := (edgeProg 9 1024 d).modTeril (fun x =>
            { x with copying := x.copying ++ [(p, vpn, chunk, t, d.nt)]
                     mirAt := later d.nt (ceilDiv (65536 * 8) (max 1 x.mirCap)) })
          sendChunk p vpn chunk q e link (xlate 5 0 p (vpn * pageSize + chunk * 65536) 65536 d)
      | _, _ => d
  | _, _ => d

def execMirrorChunkCopy (s : State) : Res := upd s chunkCopy

/-- MIRROR_ACK_TIMEOUT: chunks not acknowledged within 1 ms are copied again (R281). -/
def mirrorTimeout (d : Dev) : Dev :=
  d.modTeril (fun t =>
    let late := t.copying.filter (fun x => reached d (later x.2.2.2.2 8000000))
    let back := late.map (fun x => (x.1, x.2.1, x.2.2.1, x.2.2.2.1))
    let rest := t.dirty.filter (fun x => ! back.any (fun y => decide (y.1 = x.1 ∧ y.2.1 = x.2.1 ∧ y.2.2.1 = x.2.2.1)))
    { t with copying := t.copying.filter (fun x => ! reached d (later x.2.2.2.2 8000000)), dirty := back ++ rest })

def execMirrorAckTimeout (s : State) : Res := upd s mirrorTimeout

/-- The horizon of p: the time of its oldest write not acknowledged as copied, or now (R283). -/
def Dev.horizon (d : Dev) (p : Nat) : BitVec 64 :=
  let ts := (d.teril.dirty.filter (fun x => x.1 = p)).map (fun x => x.2.2.2) ++
    (d.teril.copying.filter (fun x => x.1 = p)).map (fun x => x.2.2.2.1)
  ts.foldl (fun a b => if ntLt b a then b else a) d.nt

/-- The horizon of the partition mirrored into the partner's partition q; 0: none (R283). -/
def Dev.horizonInto (d : Dev) (q : Nat) : Nat :=
  match (List.range 32).find? (fun p => d.mirrorOf p = some q) with
  | some p => (d.horizon p).toNat
  | none => 0

/-- MIRROR_HORIZON_SEND: every 10 µs, for each mirrored partition at 8 bytes times the partner's partition (R283, log 40). -/
def horizonSend (d : Dev) : Dev :=
  match d.beat 6 80000 0 with
  | none => d
  | some b =>
    let d := beatDone 6 b d
    if d.mirSt ≠ 2 then d
    else
      let body := (List.range 32).flatMap (fun q => leBytes 8 (d.horizonInto q))
      sendFlit d.teril.mirLinks 1 (hdrOf [(0, 8), (4, d.getF F.tlMirStatusPartner), (16, d.getF F.tlSelfFaddr), (28, 5)]) body d

def execMirrorHorizonSend (s : State) : Res := upd s horizonSend

/-- A flit of the partner. -/
def Dev.fromPartner (d : Dev) (hdr : BitVec 96) : Bool := decide (d.mirSt ≠ 0) && decide (hf hdr 27 16 = d.getF F.tlMirStatusPartner)

/-- MIRROR_HORIZON_RECEIVE: the last horizon per partition (R283). -/
def horizonReceive (l : Nat) (hdr : BitVec 96) (payload : Bytes) (d : Dev) : Dev :=
  receive l hdr (decide (hf hdr 3 0 = 8 ∧ hSub hdr = 5)) false none (fun d =>
    if ¬ d.fromPartner hdr then d
    else (List.range 32).foldl (fun d q =>
      let h := at_ payload (8 * q) 8
      if h = 0 ∨ d.teril.taken.contains q then d else d.setF F.tlMirHorizonH q h) d) d

def execMirrorHorizonReceive (l : Nat) (hdr : BitVec 96) (payload : List Byte) (s : State) : Res :=
  there (l < 16) s (upd s (horizonReceive l hdr payload))

/-- MIRROR_ACK_RECEIVE: payload bytes 0 to 7 the chunk's address, byte 8 the partner's partition; the chunk is clean (R281, log 40). -/
def mirrorAck (l : Nat) (hdr : BitVec 96) (payload : Bytes) (d : Dev) : Dev :=
  receive l hdr (decide (hf hdr 3 0 = 8 ∧ hSub hdr = 6)) false none (fun d =>
    if ¬ d.fromPartner hdr then d
    else
      let a := at_ payload 0 8
      d.modTeril (fun t => { t with copying := t.copying.filter (fun x =>
        ¬ (x.2.1 = a / pageSize ∧ x.2.2.1 = a % pageSize / 65536 ∧ d.mirrorOf x.1 = some (at_ payload 8 1))) })) d

def execMirrorAckReceive (l : Nat) (hdr : BitVec 96) (payload : List Byte) (s : State) : Res :=
  there (l < 16) s (upd s (mirrorAck l hdr payload))

/-- Mirror data for partition q: the ciphertext as received, GEN and the receive-only mark; an unmapped page takes none. The last
units of a chunk acknowledge it (R281, R282). -/
def mirrorData (q unit n : Nat) (gen : Bool) (b : Bytes) (hdr : BitVec 96) (d : Dev) : Dev :=
  let va := unit * 64
  match d.pte q (va / pageSize) with
  | none => d.raise F.tlMirStatusUnmapped
  | some e =>
    let d := (List.range n).foldl (fun d i =>
      putUnit (d.physOf q e (va % pageSize + 64 * i)) ((b.drop (64 * i)).take 64) {} d) (xlate 5 0 q va (64 * n) d)
    let d := setPte q (va / pageSize) { e with gen := gen, recvOnly := true } d
    if (va + 64 * n) % 65536 ≠ 0 then d
    else sendCtrl (hf hdr 27 16) 6 0 (leBytes 8 (va / 65536 * 65536) ++ leBytes 1 q) d

/-- MIRROR_RECEIVE (R281, R284, R285): page data or a carrier record of the partner; dropped for a partition taken over. -/
def mirrorReceive (l : Nat) (hdr : BitVec 96) (payload : Bytes) (d : Dev) : Dev :=
  let q := hf hdr 32 28
  let unit := hf hdr 75 34
  let n := hf hdr 77 76 + 1
  receive l hdr (decide (hf hdr 3 0 = 6 ∧ hf hdr 95 78 = 0)) true (some (hf hdr 27 16)) (fun d =>
    if ¬ d.fromPartner hdr ∨ d.teril.taken.contains q then tlDrop d
    else match Config.recordIndex (BitVec.ofNat 42 unit) with
      | some _ =>
        (match Config.recordOf payload with
          | some (i, r) => d.modTeril (fun t => { t with records := tabPut t.records i r })
          | none => tlDrop d)
      | none => mirrorData q unit n (hdr.getLsbD 33) (payload.take (64 * n)) hdr d) d

def execMirrorReceive (l : Nat) (hdr : BitVec 96) (payload : List Byte) (s : State) : Res :=
  there (l < 16) s (upd s (mirrorReceive l hdr payload))

/-! ### Carrier records (R284) -/

/-- The carrier's record is sent to the partner while the pair is ACTIVE. -/
def sendRecord (c : Nat) (d : Dev) : Dev :=
  if d.mirSt ≠ 2 ∨ d.mirrorOf 0 = none then d
  else sendFlit d.teril.mirLinks 4
    (mirrorHdr (d.getF F.tlMirStatusPartner) (d.getF F.tlSelfFaddr) 0 false (Config.recordAddr c).toNat 4)
    ((Config.carrierRecord c (d.carrier c)).take 256) d

/-- A record loads g, the filtered offset, the settle count and SEQ into the carrier (R285). -/
def loadRecord (c : Nat) (r : List Nat × Int × Nat × Nat) (d : Dev) : Dev :=
  if (d.carrier c).desc = [] then d
  else d.modCarrier c (fun x =>
    { x with g := r.1.zipIdx.foldl (fun t g => tabSet 0 t g.2 g.1) x.g, fhat := r.2.1, settle := r.2.2.1, seq := r.2.2.2 })

/-! ### Takeover (R285) -/

/-- MIRROR_TAKEOVER: receive stops and pages are writable again; p0 loads the carrier records; the horizons are returned. -/
def mirrorTakeover (c : Src) (mask : BitVec 32) (result : Nat) (d : Dev) : Dev :=
  let ps := (List.range 32).filter (fun p => mask.getLsbD p)
  if ps.any (fun p => decide (p ≠ 0 ∧ d.pstate p = 0)) then done c 0x98 d
  else if d.mirSt = 0 then done c 0x99 d
  else
    let d := d.modTeril (fun t =>
      { t with taken := ps ++ t.taken.filter (fun p => ! ps.contains p)
               dirty := t.dirty.filter (fun x => ! ps.contains x.1), copying := t.copying.filter (fun x => ! ps.contains x.1) })
    let d := ps.foldl (fun d p => d.modPart p (fun x => { x with pt := x.pt.map (fun e => (e.1, { e.2 with recvOnly := false })) })) d
    let d := if mask.getLsbD 0 then d.teril.records.foldl (fun d r => loadRecord r.1 r.2 d) d else d
    let d := hostWrite result (ps.flatMap (fun p => leBytes 8 (d.getF F.tlMirHorizonH p))) d
    done c 0 (d.raise F.tlMirStatusTakeover)

def execMirrorTakeover (c : Src) (mask : BitVec 32) (result : Nat) (s : State) : Res := upd s (mirrorTakeover c mask result)

/-! ### Checkpoints (R288) -/

/-- A PASID that host accesses for p may carry: one of its own; p0 uses any (R323). -/
def Dev.pasidOk (d : Dev) (p pasid : Nat) : Bool := p = 0 || (d.part p).pasids.contains pasid

/-- A page record: address, GEN, HINT, DIE, then the ciphertext. -/
def ckptPage (d : Dev) (p : Nat) (x : Nat × Pte) : Bytes :=
  leBytes 8 (x.1 * pageSize) ++ leBytes 1 ((if x.2.gen then 1 else 0) + x.2.hint * 2 + x.2.die * 8) ++ zeros 55 ++
    d.pageCipher p x.2 0 (pageSize / 64)

/-- Carriers that exist. -/
def Dev.carrierList (d : Dev) : List Nat := (tabKeys d.carriers).filter (fun c => (d.carrier c).desc ≠ [])

/-- A carrier record padded to 256 bytes. -/
def ckptCarrier (d : Dev) (c : Nat) : Bytes := ((Config.carrierRecord c (d.carrier c)) ++ zeros 256).take 256

/-- CKPT_WRITE: the header, every HINT-3 page and for p0 every carrier record. -/
def ckptWrite (c : Src) (p host pasid len : Nat) (d : Dev) : Dev :=
  let pages := (d.part p).pt.filter (fun e => e.2.hint = 3)
  let cars := if p = 0 then d.carrierList else []
  let size := 64 + pages.length * (64 + pageSize) + 256 * cars.length
  if ¬ d.pasidOk p pasid ∨ len < size then done c 6 d
  else
    let head := leBytes 4 0x54504B43 ++ leBytes 4 (3 + d.getF F.tlSelfFaddr * 65536) ++ leBytes 8 d.nt.toNat ++ leBytes 4 p ++
      leBytes 4 pages.length ++ leBytes 4 cars.length ++ zeros 36
    done c 0 (hostWrite host (head ++ pages.flatMap (ckptPage d p) ++ cars.flatMap (ckptCarrier d)) d)

def execCkptWrite (c : Src) (p host pasid len : Nat) (s : State) : Res :=
  upd s (if p < 32 then ckptWrite c p host pasid len else done c 2)

/-- The stream is well formed for p: header, reserved fields, mapped pages, carrier records only for p0. -/
def ckptOk (d : Dev) (p host len : Nat) : Bool :=
  let h := d.hostRead host 64
  let n := at_ h 0x14 4
  let m := fld h 0x18 15 0
  decide (64 ≤ len) && decide (at_ h 0 4 = 0x54504B43) && decide (fld h 4 15 0 = 3) && rsv h 4 31 28 && decide (at_ h 0x10 4 = p) &&
    rsv h 0x18 31 16 && (List.range 9).all (fun i => at_ h (0x1C + 4 * i) 4 = 0) &&
    decide (64 + n * (64 + pageSize) + 256 * m ≤ len) && (decide (p = 0) || decide (m = 0)) &&
    (List.range n).all (fun i =>
      let r := d.hostRead (host + 64 + i * (64 + pageSize)) 64
      decide (at_ r 0 8 % pageSize = 0) && rsv r 8 7 5 && (r.drop 9).all (· = 0) && (d.pte p (at_ r 0 8 / pageSize)).isSome)

/-- A page record written back at its address. -/
def ckptPut (p host : Nat) (d : Dev) (i : Nat) : Dev :=
  let a := host + 64 + i * (64 + pageSize)
  let r := d.hostRead a 64
  let vpn := at_ r 0 8 / pageSize
  match d.pte p vpn with
  | none => d
  | some e =>
    let d := (List.range (pageSize / 64)).foldl (fun d k =>
      putUnit (d.physOf p e (64 * k)) (d.hostRead (a + 64 + 64 * k) 64) {} d) d
    markPage p vpn (setPte p vpn { e with gen := bit r 8 0 } d)

/-- Carrier record i of a stream, whose records begin at `cars`, is loaded. -/
def ckptRecord (cars : Nat) (d : Dev) (i : Nat) : Dev :=
  match Config.recordOf (d.hostRead (cars + 256 * i) 256) with
  | some (k, r) => loadRecord k r d
  | none => d

/-- CKPT_RESTORE: the pages of the stream, and for p0 its carrier records. -/
def ckptRestore (c : Src) (p host pasid len : Nat) (d : Dev) : Dev :=
  if (3 ≤ d.esState p ∧ d.esState p ≤ 6) ∨ (d.part p).rot.isSome then done c 0x9A d
  else if ¬ d.pasidOk p pasid then done c 6 d
  else if ¬ ckptOk d p host len then done c 0x9B d
  else
    let h := d.hostRead host 64
    let n := at_ h 0x14 4
    let d := (List.range n).foldl (ckptPut p host) d
    let cars := host + 64 + n * (64 + pageSize)
    done c 0 ((List.range (fld h 0x18 15 0)).foldl (ckptRecord cars) d)

def execCkptRestore (c : Src) (p host pasid len : Nat) (s : State) : Res :=
  upd s (if p < 32 then ckptRestore c p host pasid len else done c 2)

end Sys2Proof.Machine
end

