-- ==== Sys2Proof/Machine/Partitions.lean ====
section
/-! DEFINITION. Partitions: creation, destruction, resizing and regulators (R289 to R291, R296 to R300, R315), slices and migration
(R316 to R320), and the drain barrier they share (R390). -/

namespace Sys2Proof.Machine

open Sys2Proof

/-! ### Legal groups and admission (R120, R291, R300) -/

/-- Enabled cores of a die: those of the map in force (R409). -/
def Dev.coresOn (d : Dev) (die : Nat) : Nat :=
  let m := leNat (memRead d.inForce (0x10 + 4 * die) 4)
  ((List.range 21).filter (fun i => m.testBit i)).length

/-- Core g is absent: beyond the enabled cores of its die (R409). -/
def Dev.coreAbsent (d : Dev) (g : Nat) : Bool := decide (d.coresOn (g / 20) ≤ g % 20)

/-- Cores of a handle that R120 accepts; none: R120 refuses it. -/
def Dev.legalCores (d : Dev) (h : Nat) : Option (List Nat) :=
  match handleCores h with
  | some cs => if cs.any (fun g => d.coreAbsent g) then none else some cs
  | none => none

/-- Cores of a waiting add. -/
def Dev.pendingCores (d : Dev) : List Nat :=
  (List.range 32).flatMap (fun p => (d.part p).resize.flatMap (fun x => if x.2.2 = 0 then (handleCores x.2.1).getD [] else []))

/-- A core is owned, granted, in a dedicated group, or about to join one. -/
def Dev.coreTaken (d : Dev) (g : Nat) : Bool :=
  (d.coreOwner g).isSome || (d.dedicatedOf g).isSome || (d.sgOf g).isSome || d.pendingCores.contains g

/-- Handles of the lend groups of the active list and of the pending one. -/
def Dev.lendHandles (d : Dev) : List Nat :=
  (d.lgl.groups ++ (match d.lglPend with
    | some (l, _, _) => l.groups
    | none => [])).eraseDups

/-- S_d: cores of die d in a lend group or a shared group, given the handles of both (R300). -/
def lendable (die : Nat) (handles : List Nat) : Nat :=
  ((List.range 20).filter (fun k => handles.any (fun h => ((handleCores h).getD []).contains (die * 20 + k)))).length

/-- Handles of the shared groups. -/
def Dev.sgHandles (d : Dev) : List Nat := (d.shared.filter (fun e => e.2.grants ≠ [])).map (fun e => e.2.handle)

/-- Sum of a regulator's rates over all partitions, with partition p at the given words. -/
def Dev.rateSum (d : Dev) (p r : Nat) (word : Nat) (crOnly : Bool) : Nat :=
  sumL ((List.range 32).map (fun q =>
    let w := if q = p then word else d.regWord q r
    if crOnly ∧ ¬ regCr w then 0 else regRate w))

/-- The limits of R300 with partition p at regulator words `ws` and the lendable handles `hs`. -/
def Dev.admits (d : Dev) (p : Nat) (ws : Nat → Nat) (hs : List Nat) : Bool :=
  (List.range 4).all (fun die =>
    decide (d.rateSum p die (ws die) false ≤ 16384) &&
      decide (d.rateSum p die (ws die) true + 480 * lendable die hs ≤ 16384) &&
      decide (d.rateSum p (4 + die) (ws (4 + die)) false ≤ 4096)) &&
    decide (d.rateSum p 8 (ws 8) false + d.teril.mirCap ≤ d.terilGbs ∨ d.rateSum p 8 (ws 8) false = 0)

/-- The HBM limit with other lendable handles (LGL_SET, SG_SET, PART_RESIZE): only a rise of S_d can break it. -/
def Dev.admitsLend (d : Dev) (hs : List Nat) : Bool :=
  (List.range 4).all (fun die =>
    decide (lendable die hs ≤ lendable die (d.lendHandles ++ d.sgHandles)) ||
      decide (d.rateSum 32 die 0 true + 480 * lendable die hs ≤ 16384))

/-- Contexts of the device. -/
def Dev.ctxCount (d : Dev) : Nat := sumL ((List.range 32).map (fun p => d.contexts p))

/-- Cores that p can occupy on a die, with more groups (R293). -/
def Dev.occupiable (d : Dev) (p die : Nat) (more : List Nat) : Nat :=
  lendable die ((d.heldGroups p ++ more).eraseDups)

/-- p's save frames suffice with more groups. -/
def Dev.saveFits (d : Dev) (p : Nat) (more : List Nat) : Bool :=
  p = 0 || (List.range 4).all (fun die => decide (6 * d.occupiable p die more ≤ tabGet 0 (d.part p).saveCount die))

/-! ### PART_CREATE (R291) -/

/-- Group handles of a partition descriptor. -/
def pdGroups (b : Bytes) : List Nat := (List.range (fld b 4 4 0)).map (fun i => at_ b (8 + 2 * i) 2)

/-- Save range of a die. -/
def pdSave (b : Bytes) (die : Nat) : Nat × Nat := (fld b (0x30 + 8 * die) 19 0, fld b (0x30 + 8 * die) 47 32)

/-- Regulator word r. -/
def pdReg (b : Bytes) (r : Nat) : Nat := at_ b (0x50 + 4 * r) 4

/-- Fields of a regulator word (R296). -/
def regOk (w : Nat) : Bool := decide (w / 2 ^ 29 = 0)

/-- Ranges and reserved fields of a descriptor for PART_CREATE. -/
def pdOk (b : Bytes) : Bool :=
  decide (b.length = 128) && decide (fld b 0 4 0 ≠ 0) && rsv b 0 31 6 && decide (fld b 4 4 0 ≤ 16) && rsv b 4 31 5 &&
    (List.range 16).all (fun i => decide (i < fld b 4 4 0) || decide (at_ b (8 + 2 * i) 2 = 0)) &&
    (List.range 4).all (fun k => decide (at_ b (0x28 + k) 1 ≤ 48)) && decide (at_ b 0x2C 4 = 0) &&
    (List.range 4).all (fun k => rsv b (0x30 + 8 * k) 31 20 && rsv b (0x30 + 8 * k) 63 48 && decide ((pdSave b k).2 ≤ 120)) &&
    (List.range 9).all (fun r => regOk (pdReg b r)) && (b.drop 0x74).all (· = 0)

/-- A save range lies on its die, is unassigned and present, and holds 6 frames per core of the groups there. -/
def Dev.saveOk (d : Dev) (b : Bytes) (die : Nat) : Bool :=
  let (f, n) := pdSave b die
  (decide (n = 0) || (decide (die * dieFrames ≤ f ∧ f + n ≤ (die + 1) * dieFrames) &&
    (List.range n).all (fun i => decide (tabGet 0 d.mem.owner (f + i) = 0) && ! d.frameAbsent (f + i)))) &&
    decide (6 * lendable die (pdGroups b) ≤ n)

/-- The status of PART_CREATE: the first check that fails, in the order of R291. -/
def createStatus (d : Dev) (b : Bytes) : Nat :=
  let p := fld b 0 4 0
  let cores := (pdGroups b).flatMap (fun h => (handleCores h).getD [])
  if b.length ≠ 128 then 2
  else if d.oos then 0xE3
  else if ¬ d.locked then 0xAE
  else if ¬ pdOk b then 0xA1
  else if d.pstate p ≠ 0 then 0xA2
  else if (pdGroups b).any (fun h => (d.legalCores h).isNone) then 0xA4
  else if cores.any (fun g => d.coreTaken g) ∨ cores.eraseDups.length ≠ cores.length then 0xA5
  else if (List.range 4).any (fun die =>
      decide (48 < at_ b (0x28 + die) 1 + sumL ((List.range 32).map (fun q => tabGet 0 (d.part q).sb die)))) then 0xA7
  else if (List.range 4).any (fun die => ! d.saveOk b die) then 0xAA
  else if ¬ d.admits p (pdReg b) (d.lendHandles ++ d.sgHandles) then 0xA6
  else if 1024 < d.ctxCount + fld b 4 4 0 then 0xA8
  else 0

/-- Regulator words of p take effect with full buckets (R297). -/
def setRegs (p : Nat) (ws : Nat → Nat) (d : Dev) : Dev :=
  d.modPart p (fun x => { x with reg := (List.range 9).foldl (fun t r => tabPut t r (ws r)) [], tokens := [], tokensAt := d.acyc * 2 / 3 })

/-- Save frames of die k become the partition's, and count in PT_MEM_USE. -/
def takeSave (p : Nat) (b : Bytes) (d : Dev) (k : Nat) : Dev :=
  let r := pdSave b k
  (d.modMem (fun m => { m with owner := (List.range r.2).foldl (fun o i => tabSet 0 o (r.1 + i) (p + 1)) m.owner })).addSat
    F.ptMemUseHbmFrames p r.2

/-- The partition of a descriptor: ACTIVE with its groups, save frames, shares and regulators, a table key of its own (free, log 7), a new
generation (R388), no charge (R311); its groups' cores join it. -/
def partMake (p : Nat) (b : Bytes) (d : Dev) : Dev :=
  let d := d.setPart p { gen := ((d.part p).gen + 1) % 65536 }
  let d := d.modPart p (fun x =>
    { x with groups := pdGroups b
             sb := (List.range 4).foldl (fun t k => tabSet 0 t k (at_ b (0x28 + k) 1)) []
             saveFirst := (List.range 4).foldl (fun t k => tabSet 0 t k (pdSave b k).1) []
             saveCount := (List.range 4).foldl (fun t k => tabSet 0 t k (pdSave b k).2) [] })
  let read := takeFree 512 (setRegs p (pdReg b) d)
  let d := read.2.modPart p (fun x => { x with tableKey := some read.1 })
  let d := (List.range 4).foldl (takeSave p b) d
  let d := ((d.setF F.ptPartStateState p 1).setF F.ptPartStateClass p (fld b 0 5 5)).wr .ptAcct p 0
  partView p (((pdGroups b).flatMap (fun h => (handleCores h).getD [])).foldl (joinCore p) d)

/-- PART_CREATE (R291). -/
def partCreate (c : Src) (b : Bytes) (d : Dev) : Dev :=
  match createStatus d b with
  | 0 => done c 0 (partMake (fld b 0 4 0) b d)
  | st => done c st d

def execPartCreate (c : Src) (b : List Byte) (s : State) : Res := upd s (partCreate c b)

/-- PART_REGULATE (R297, R300). -/
def partRegulate (c : Src) (b : Bytes) (d : Dev) : Dev :=
  let p := fld b 0 4 0
  if b.length ≠ 128 then done c 2 d
  else if ¬ rsv b 0 31 6 ∨ (List.range 9).any (fun r => ! regOk (pdReg b r)) ∨ (b.drop 0x74).any (· ≠ 0) then done c 0xA1 d
  else if p ≠ 0 ∧ d.pstate p = 0 then done c 0xA3 d
  else if ¬ d.admits p (pdReg b) (d.lendHandles ++ d.sgHandles) then done c 0xA6 d
  else done c 0 (partView p (setRegs p (pdReg b) d))

def execPartRegulate (c : Src) (b : List Byte) (s : State) : Res := upd s (partRegulate c b)

/-! ### PART_DESTROY (R290) -/

/-- A memory command in progress or waiting has lost its partition: NO_PART (log 45). -/
def memCut (p : Nat) (d : Dev) : Dev :=
  let srcOf : Instr → Option Src := fun i => match i with
    | .memRangeAdd c _ _ _ => some c
    | .memRangeRemove c _ _ _ => some c
    | .memFarAdd c _ _ _ _ _ _ => some c
    | .memFarRemove c _ _ => some c
    | .memMap c _ _ _ _ _ => some c
    | .memUnmap c _ _ => some c
    | .memHint c _ _ _ _ _ => some c
    | _ => none
  let l := (d.part p).memBusy.toList ++ (d.part p).memWait.filterMap srcOf
  let d := d.modPart p (fun x => { x with memBusy := none, memWait := [] })
  l.foldl (fun d c => done c 0xA3 d) d

/-- p's grants leave every shared group (step 6). -/
def dropGrants (p : Nat) (d : Dev) : Dev :=
  (tabKeys d.shared).foldl (fun d i =>
    let x := d.sg i
    if ¬ x.grants.any (fun g => decide (g.part = p)) then d
    else
      let run := match x.run.bind (fun k => x.grants[k]?) with
        | some g => if g.part = p then none else (x.grants.filter (fun y => y.part ≠ p)).findIdx? (fun y => y.part = g.part)
        | none => none
      sgView i (sgFill i (d.modSg i (fun x => { x with grants := x.grants.filter (fun g => g.part ≠ p), run := run })))) d

/-- Window classes that p owned in the gate lists are owned by no partition (R290). -/
def dropWindows (p : Nat) (d : Dev) : Dev :=
  let drop := fun (g : GateList) => { g with owner := g.owner.filter (fun e => e.2 ≠ p + 1) }
  (List.range portCount).foldl (fun d e => d.modPort e (fun x =>
    { x with active := drop x.active, pend := x.pend.map (fun y => (drop y.1, y.2)) })) d

/-- Steps 4 to 7 of PART_DESTROY: keys, memory, grants, slices and tenant sessions go, rings enter ERROR, and p is FREE. -/
def destroyPart (p : Nat) (d : Dev) : Dev :=
  let rot := (d.part p).rot
  let d := dropWindows p (dropGrants p (freeMemory p (memCut p d)))
  let d := match rot with
    | some r => done r.cmd 0xA3 d
    | none => d
  let d := clearSems p (endTenant p { d with saves := d.saves.filter (fun e => e.1 / 128 ≠ p) })
  let d := (d.ringsOf p).foldl (fun d r => ringError r 9 d) d
  let d := d.modMem (fun m => { m with sb := m.sb.filter (fun e => e.1 / sbSize / 4 ≠ p) })
  let d := (resetSched p d).setPart p { gen := ((d.part p).gen + 1) % 65536 }
  let d := ((d.wr .ptPartState p 0).wr .lgKeys p 0).wr .ptRegStatus p 0
  d.wr .ptLendNext p 0

/-- The end of PART_DESTROY: the command completes. -/
def destroyFinish (p : Nat) (d : Dev) : Dev :=
  match (d.part p).destroyBy with
  | none => d
  | some c => done c 0 (destroyPart p d)

/-- Cores that p occupies outside lent ones. -/
def Dev.occupied (d : Dev) (p : Nat) : List Nat :=
  (List.range 80).filter (fun g => decide (d.coreOwner g = some p) && ! d.flag F.coreStateLent g)

/-- Every idle, restoring or saving core of p is scrubbed. -/
def scrubPart (p : Nat) (d : Dev) : Dev :=
  (d.occupied p).foldl (fun d g => if d.coreSt g = 6 ∨ d.coreSt g = 4 then d else startScrub g d) d

/-- p occupies no core any more: a destroy ends, a freeze ends with FROZEN (R290, R317). -/
def partSettled (p : Nat) (d : Dev) : Dev :=
  if (d.part p).barrier.isSome ∨ (d.occupied p).any (fun g => decide (d.coreSt g ≠ 6)) then d
  else if d.pstate p = 4 then destroyFinish p d
  else match d.pstate p, (d.sched p).freezeBy with
    | 2, some c => done c 0 ((d.setF F.ptPartStateState p 3).modSched p (fun s => { s with freezeBy := none }))
    | _, _ => d

/-- PART_DESTROY: the schedule aborts and the drain barrier begins; a waiting resize completes with PART_STATE (R290, R315). -/
def partDestroy (c : Src) (p : Nat) (d : Dev) : Dev :=
  if p = 0 then done c 0xB3 d
  else if d.pstate p = 0 then done c 0xA3 d
  else if d.pstate p = 4 then done c 0xAF d
  else
    let d := (tdiTouched p d).setF F.ptPartStateState p 4
    let d := (d.part p).resize.foldl (fun d x => done x.1 0xAF d) (d.modPart p (fun x => { x with resize := [] }))
    let d := match (d.sched p).freezeBy with
      | some f => done f 0xAF (d.modSched p (fun s => { s with freezeBy := none }))
      | none => d
    let d := abortSched p (lateDrops p (List.range 80) d)
    d.modPart p (fun x => { x with destroyBy := some c, barrier := some d.acyc })

def execPartDestroy (c : Src) (p : Nat) (s : State) : Res := upd s (if p < 32 then partDestroy c p else done c 0xA1)

/-- DRAIN_BARRIER_COMPLETE (R390): what waited for the barrier goes on: the scrub of a destroy, the saves of a freeze. -/
def barrierDone (p : Nat) (d : Dev) : Dev :=
  match (d.part p).barrier with
  | none => d
  | some _ =>
    let d := d.modPart p (fun x => { x with barrier := none })
    if d.pstate p = 4 then partSettled p (scrubPart p d)
    else if d.pstate p = 2 then
      partSettled p ((d.occupied p).foldl (fun d g => startSave g d) d)
    else d

def execDrainBarrierComplete (p : Nat) (s : State) : Res := there (p < 32) s (upd s (barrierDone p))

/-! ### PART_RESIZE (R315) -/

/-- The images of p bind a core of the list (R132). -/
def Dev.bindsAny (d : Dev) (p : Nat) (cores : List Nat) : Bool :=
  ((d.sched p).active.toList ++ (d.sched p).standby.toList).any (fun im => im.binding.any (fun g => cores.contains g))

/-- The status of an add. -/
def addStatus (d : Dev) (p h : Nat) : Nat :=
  let pending := (d.part p).resize.filterMap (fun x => if x.2.2 = 0 then some x.2.1 else none)
  if 16 ≤ (d.part p).groups.length + pending.length then 0xA1
  else match d.legalCores h with
    | none => 0xA4
    | some cs =>
      if cs.any (fun g => d.coreTaken g || (p = 0 && d.lendHandles.any (fun l => ((handleCores l).getD []).contains g))) then 0xA5
      else if ¬ d.saveFits p (pending ++ [h]) then 0xAA
      else if p ≠ 0 ∧ 1024 < d.ctxCount + pending.length + 1 then 0xA8
      else 0

/-- The status of PART_RESIZE. -/
def resizeStatus (d : Dev) (p h op : Nat) : Nat :=
  if p ≠ 0 ∧ d.pstate p = 0 then 0xA3
  else if d.pstate p = 4 then 0xAF
  else if 1 < op then 0xA1
  else if op = 0 then addStatus d p h
  else if (d.legalCores h).isNone then 0xA4
  else if h ∉ (d.part p).groups then 0xA1
  else if d.bindsAny p ((handleCores h).getD []) then 0xA9
  else 0

/-- PART_RESIZE: at the next tick while RUNNING or HELD, else at once. -/
def partResize (c : Src) (p h op : Nat) (d : Dev) : Dev :=
  if resizeStatus d p h op ≠ 0 then done c (resizeStatus d p h op) d
  else
    let d := d.modPart p (fun x => { x with resize := x.resize ++ [(c, h, op)] })
    if d.esState p = 4 ∨ d.esState p = 5 then d else applyResize p d

def execPartResize (c : Src) (p h op : Nat) (s : State) : Res := upd s (if p < 32 then partResize c p h op else done c 0xA1)

/-! ### Slices (R316 to R320) -/

/-- The partition that holds a PASID. -/
def Dev.pasidOwner (d : Dev) (x : Nat) : Option Nat := (List.range 32).find? (fun p => (d.part p).pasids.contains x)

/-- SLICE_ASSIGN. -/
def sliceAssign (c : Src) (p x : Nat) (d : Dev) : Dev :=
  if p ≠ 0 ∧ d.pstate p = 0 then done c 0xA3 d
  else if 2 ^ 20 ≤ x then done c 0xA1 d
  else match d.pasidOwner x with
    | some q => done c (if q = p then 0 else 0xA9) d
    | none =>
      if 256 ≤ sumL ((List.range 32).map (fun q => (d.part q).pasids.length)) then done c 0xA1 d
      else done c 0 (partView p ((tdiTouched p d).modPart p (fun y => { y with pasids := y.pasids ++ [x] })))

def execSliceAssign (c : Src) (p x : Nat) (s : State) : Res := upd s (if p < 32 then sliceAssign c p x else done c 0xA1)

/-- A ring or a host grant of p uses the PASID. -/
def Dev.pasidUsed (d : Dev) (p x : Nat) : Bool :=
  (d.ringsOf p).any (fun r => d.flag F.ringCtlPasidEn r && decide (d.getF F.ringCtlPasid r = x)) ||
    (d.part p).grants.any (fun g => decide (g.2.kind = 0 ∧ g.2.tgt = x))

/-- SLICE_RELEASE. -/
def sliceRelease (c : Src) (p x : Nat) (d : Dev) : Dev :=
  if p ≠ 0 ∧ d.pstate p = 0 then done c 0xA3 d
  else if ¬ (d.part p).pasids.contains x then done c 0xA1 d
  else if d.pasidUsed p x then done c 0xA9 d
  else done c 0 (partView p ((tdiTouched p d).modPart p (fun y => { y with pasids := y.pasids.filter (· ≠ x) })))

def execSliceRelease (c : Src) (p x : Nat) (s : State) : Res := upd s (if p < 32 then sliceRelease c p x else done c 0xA1)

/-- e is a restart point of p's active image, or no image is loaded (R155). -/
def Dev.restartAt (d : Dev) (p e : Nat) : Bool :=
  match (d.sched p).active with
  | none => true
  | some im => match im.template e with
    | some (_, t) => t.restart
    | none => false

/-- The job of p has more than one role. -/
def Dev.manyRoles (d : Dev) (p : Nat) : Bool :=
  match (d.sched p).active with
  | some im => im.rolesM1 ≠ 0
  | none => false

/-- SLICE_FREEZE: the schedule stops at the end of e_x, then the drain barrier, the saves, and FROZEN. -/
def sliceFreeze (c : Src) (p eX : Nat) (d : Dev) : Dev :=
  if p = 0 then done c 0xB3 d
  else if 1 < (d.part p).pasids.length then done c 0xB0 d
  else if d.pstate p ≠ 1 ∨ (d.part p).rot.isSome then done c 0xAF d
  else if d.manyRoles p ∧ ¬ d.restartAt p (eX + 1) then done c 0xA1 d
  else
    let d := (d.setF F.ptPartStateState p 2).modPart p (fun x => { x with frozenAt := eX })
    let d := d.modSched p (fun s => { s with freezeBy := some c })
    if 4 ≤ d.esState p ∧ d.esState p ≤ 6 then stopAtEpoch p eX d
    else
      let d := if d.esState p = 3 then abortSched p d else d
      d.modPart p (fun x => { x with barrier := some d.acyc })

def execSliceFreeze (c : Src) (p eX : Nat) (s : State) : Res := upd s (if p < 32 then sliceFreeze c p eX else done c 0xA1)

/-- Cores of p's contexts: dedicated groups, then grants. -/
def Dev.ctxCores (d : Dev) (p : Nat) : List Nat := (d.heldGroups p).flatMap (fun h => (handleCores h).getD [])

/-- Size of a handle's group. -/
def handleSize (h : Nat) : Nat := ((handleCores h).getD []).length

/-- What SLICE_SAVE seals of a frozen partition. -/
def Dev.sliceOf (d : Dev) (p : Nat) : Slice :=
  let x := d.part p
  { cls := d.getF F.ptPartStateClass p, sizes := x.groups.map handleSize
    grants := ((d.heldGroups p).drop x.groups.length).map handleSize
    reg := x.reg, eX := x.frozenAt, sched := x.sched, state := d.esState p, epoch := d.epoch p, slot0 := x.slot0, slot1 := x.slot1
    wgen := d.wgen p
    pages := x.pt.map (fun e => (e.1, e.2.gen, e.2.hint, e.2.die, d.pageCipher p e.2 0 (pageSize / 64)))
    areas := (d.ctxCores p).map (fun g => d.saved p g) }

/-- SLICE_SAVE (R318). -/
def sliceSave (c : Src) (p host pasid len : Nat) (d : Dev) : Dev :=
  if p = 0 then done c 0xB3 d
  else match d.pstate p, (d.part p).migKey with
    | 3, some k =>
      let b := Config.sliceSeal k (d.sliceOf p)
      if d.flag F.ptPartStateSaved p then done c 0xAF d
      else if ¬ d.pasidOk p pasid then done c 6 d
      else if len < b.length then done c 0xA1 d
      else done c 0 ((hostWrite host b d).setF F.ptPartStateSaved p 1)
    | _, _ => done c 0xAF d

def execSliceSave (c : Src) (p host pasid len : Nat) (s : State) : Res :=
  upd s (if p < 32 then sliceSave c p host pasid len else done c 0xA1)

/-- The pages, keys, schedule and contexts of a slice loaded into p, which becomes FROZEN (R319). -/
def sliceLoad (p : Nat) (x : Slice) (tf new : List Nat) (places : List (Bool × Nat × Nat)) (d : Dev) : Dev :=
  let d := d.modPart p (fun y =>
    { addTables tf new y with
             slot0 := x.slot0, slot1 := x.slot1, frozenAt := x.eX, sched := x.sched
             pt := (x.pages.zip places).foldl (fun t z => tabPut t z.1.1
               { far := z.2.1, gen := z.1.2.1, mig := false, hint := z.1.2.2.1, die := z.1.2.2.2.1,
                 frame := if z.2.1 then 0 else z.2.2.1, grant := if z.2.1 then z.2.2.1 else 0, gpage := z.2.2.2 }) y.pt })
  let d := x.pages.foldl (fun d z => match d.pte p z.1 with
    | some e => (List.range (pageSize / 64)).foldl (fun d k =>
        putUnit (d.physOf p e (64 * k)) ((z.2.2.2.2.drop (64 * k)).take 64) {} d) d
    | none => d) d
  let d := ((d.setF F.lgKeysSlot0 p (if x.slot0.isSome then 1 else 0)).setF F.lgKeysSlot1 p (if x.slot1.isSome then 1 else 0)).setF
    F.lgKeysWgen p (if x.wgen then 1 else 0)
  let d := ((d.ctxCores p).zip x.areas).foldl (fun d z => { d with saves := tabSet {} d.saves (saveKey p z.1) z.2 }) d
  let d := (d.setF F.esEpochEpoch p x.epoch).setF F.esStateState p x.state
  esView p (scrubPart p (d.setF F.ptPartStateState p 3))

/-- SLICE_RESTORE (R319). -/
def sliceRestore (c : Src) (p host pasid len : Nat) (d : Dev) : Dev :=
  let x := d.part p
  if p = 0 then done c 0xB3 d
  else if d.pstate p ≠ 1 ∨ d.esState p ≠ 0 ∨ x.pt ≠ [] then done c 0xAF d
  else if ¬ d.pasidOk p pasid then done c 6 d
  else if x.migKey.isNone then done c 0xAF d
  else match x.migKey.bind (fun k => Config.sliceOpen k (d.hostRead host len)) with
    | none => done c 0xB1 d
    | some s =>
      let new := newTables x (s.pages.map (·.1))
      if s.sizes ≠ x.groups.map handleSize ∨ s.grants ≠ ((d.heldGroups p).drop x.groups.length).map handleSize then done c 0xB2 d
      else match (d.pool p).takeTables (tableCount x new.length) with
        | none => done c 0x63 d
        | some (tf, q) =>
          match q.placeAll (s.pages.zipIdx.map (fun z => (z.1.2.2.1, z.1.2.2.2.1, z.2))) with
          | none => done c 0x63 d
          | some places => done c 0 (sliceLoad p s tf new places d)

def execSliceRestore (c : Src) (p host pasid len : Nat) (s : State) : Res :=
  upd s (if p < 32 then sliceRestore c p host pasid len else done c 0xA1)

/-- The contexts of p's dedicated groups are restored on cores that are unowned and not lent. -/
def restorePart (p : Nat) (d : Dev) : Dev :=
  (d.dedicated p).foldl (fun d g => if d.flag F.coreStateLent g ∨ d.lendPhase g = 2 then d else startRestore g p d) d

/-- SLICE_THAW (R320): ACTIVE again; a one-role schedule that stopped for the freeze resumes at T0. -/
def sliceThaw (c : Src) (p : Nat) (t0 : BitVec 64) (abandon : Nat) (d : Dev) : Dev :=
  let saved := d.flag F.ptPartStateSaved p
  if p = 0 then done c 0xB3 d
  else if d.pstate p ≠ 3 ∨ (saved ∧ abandon ≠ 1) then done c 0xAF d
  else if t0.toNat % 800 ≠ 0 ∨ (t0 - d.nt).toInt < 800000 ∨ 1 < abandon then done c 0xA1 d
  else
    let d := if saved then
        ((d.modPart p (fun x => { x with migKey := none })).setF F.lgKeysMig p 0).setF F.ptPartStateSaved p 0
      else d
    let d := restorePart p (d.setF F.ptPartStateState p 1)
    let d := if ¬ d.manyRoles p ∧ d.esState p = 7 then
        setEs p 4 (d.modSched p (fun s => { s with t0 := t0, eS := d.epoch p + 1, stopAt := none,
                                                   endAt := some (s.endAt.getD d.acyc), idleUntil := none }))
      else d
    done c 0 d

def execSliceThaw (c : Src) (p : Nat) (t0 : BitVec 64) (abandon : Nat) (s : State) : Res :=
  upd s (if p < 32 then sliceThaw c p t0 abandon else done c 0xA1)

end Sys2Proof.Machine
end

