-- ==== Sys2Proof/Machine/Lending.lean ====
section
/-! DEFINITION. The lending gate list (R302 to R306), the ends of saves, scrubs and restores (R293 to R295, R373), and the operator's and
the scheduler's acts on shared groups (R308 to R313). -/

namespace Sys2Proof.Machine

open Sys2Proof

/-! ### Held runs of a list (R302) -/

/-- A lending gate list as seen by one handle: a gate list whose gate 0 is open where the group is held (R248). -/
def Lgl.gates (l : Lgl) (h : Nat) : GateList :=
  let bitOf := l.groups.findIdx? (· = h)
  { base := l.base, cycle := l.cycle
    ents := l.ents.map (fun e =>
      { dur := e.1, wclass := 0, wvalid := false
        gates := match bitOf with
          | some i => if e.2.getLsbD i then 1 else 0
          | none => 0 }) }

/-- The entry holds the group. -/
def heldEnt (x : GateEnt) : Bool := x.gates = 1

/-- Whether the group is held at a time, and when that next changes; none: never. -/
def Lgl.heldAt (l : Lgl) (h : Nat) (t : BitVec 64) : Bool × Option (BitVec 64) :=
  let g := l.gates h
  match g.closeIn heldEnt t with
  | none => (true, none)
  | some 0 => (false, (g.closeIn (fun x => ! heldEnt x) t).map (later t))
  | some n => (true, some (later t n))

/-- The first start of a held run after a time. -/
def Lgl.firstOn (l : Lgl) (h : Nat) (t : BitVec 64) : Option (BitVec 64) :=
  match l.heldAt h t with
  | (false, x) => x
  | (true, x) => x.bind (fun y => (l.heldAt h y).2)

/-- The active list; until the first LGL_SET it holds nothing, in cycles of 500,000 ns that begin with the frame grid. -/
def Dev.lglNow (d : Dev) : Lgl :=
  if d.lgl.digest = [] then { d.lgl with base := BitVec.ofNat 64 (d.gridOfs) } else d.lgl

/-- The group was held by the active list in the nanosecond before a time. -/
def Dev.heldBefore (d : Dev) (h : Nat) (t : BitVec 64) : Bool := (d.lglNow.heldAt h (t - 8)).1

/-- The first W_on of a group after a time, over the active list and the pending one: a group that the new list holds at T_sw and the
old did not has W_on = T_sw. -/
def Dev.onAfter (d : Dev) (h : Nat) (t : BitVec 64) : Option (BitVec 64) :=
  match d.lglPend with
  | none => d.lglNow.firstOn h t
  | some (l, ts, _) =>
    if ts ≤ t then l.firstOn h t
    else
      let beyond := if (l.heldAt h ts).1 && ! d.heldBefore h ts then some ts else l.firstOn h ts
      match d.lglNow.firstOn h t with
      | some w => if w < ts then some w else beyond
      | none => beyond

/-- A W_off that no list gives: later than every network time of a run. -/
def neverOff : BitVec 64 := BitVec.allOnes 64

/-- W_off of the run that holds the group at a time; that time itself where the group is free then. -/
def Dev.offAfter (d : Dev) (h : Nat) (t : BitVec 64) : BitVec 64 :=
  let ofNew (l : Lgl) (u : BitVec 64) : BitVec 64 := match l.heldAt h u with
    | (true, some y) => y
    | (true, none) => neverOff
    | (false, _) => u
  match d.lglPend with
  | none => ofNew d.lglNow t
  | some (l, ts, _) =>
    if ts ≤ t then ofNew l t
    else
      let e := ofNew d.lglNow t
      if e < ts then e else ofNew l ts

/-- The take point of a window: 34,500 ns before W_on (R303). -/
def takeOf (won : BitVec 64) : BitVec 64 := won - 276000

/-- The lend groups' takes as the lists now plan them: one entry per handle, an entry that no list names kept while its cores are not
back. -/
def lendPlan (d : Dev) : Dev :=
  let hs := d.lendHandles
  let kept := d.lends.filter (fun e => e.2.phase ≠ 0 || hs.contains e.2.handle)
  let fresh := hs.filter (fun h => ! kept.any (fun e => e.2.handle = h))
  let table := fresh.foldl (fun (t : Tab LendRt) h =>
    match (List.range 64).find? (fun i => (tabFind t i).isNone) with
    | some i => tabPut t i { handle := h }
    | none => t) kept
  { d with lends := table.map (fun e =>
      let x := e.2
      let t := if x.phase = 2 ∨ x.phase = 3 then (if ntLe d.nt x.won then x.won else d.nt) else d.nt
      let next := d.onAfter x.handle t
      let woff := if x.phase = 2 ∨ x.phase = 3 then d.offAfter x.handle t else x.woff
      (e.1, { x with next := next, woff := woff, noticed := x.noticed && decide (next = x.next) })) }

/-! ### LGL_SET (R302) -/

/-- The list a descriptor describes; the digest takes APPLY as zero. -/
def lglDesc (b : Bytes) : Lgl :=
  { groups := (List.range (fld b 0 20 16)).map (fun i => at_ b (0x40 + 2 * i) 2)
    base := BitVec.ofNat 64 (at_ b 0x10 8), cycle := at_ b 0x18 4
    ents := (List.range (fld b 0 8 0)).map (fun j => (at_ b (0x80 + 8 * j) 4, BitVec.ofNat 16 (at_ b (0x84 + 8 * j) 2)))
    digest := sha384 (b.take 8 ++ zeros 8 ++ b.drop 16) }

/-- Neighbouring entries of one state joined: (duration, held) runs. -/
def runsOf : List (Nat × Bool) → List (Nat × Bool)
  | [] => []
  | x :: xs => match runsOf xs with
    | (n, h) :: r => if h = x.2 then (x.1 + n, h) :: r else x :: (n, h) :: r
    | [] => [x]

/-- The maximal runs of a cyclic list, none where it never changes. -/
def cyclicRuns (l : List (Nat × Bool)) : List (Nat × Bool) :=
  match (List.range l.length).find? (fun i => decide ((l.getD i (0, false)).2 ≠ (l.getD ((i + l.length - 1) % l.length) (0, false)).2)) with
  | none => []
  | some i => runsOf (l.drop i ++ l.take i)

/-- The checks of LGL_BAD. -/
def lglOk (d : Dev) (b : Bytes) : Bool :=
  let n := fld b 0 8 0
  let m := fld b 0 20 16
  let l := lglDesc b
  let cores := l.groups.map (fun h => (d.legalCores h).getD [])
  decide (1 ≤ n ∧ n ≤ 256) && decide (b.length = 0x80 + 8 * n) && rsv b 0 15 9 && decide (m ≤ 16) && rsv b 0 31 21 &&
    decide (at_ b 4 4 = 0) && decide (l.cycle % 500000 = 0) && decide (0 < l.cycle ∧ l.cycle ≤ 1000000000) &&
    ((b.drop 0x1C).take 0x24).all (· = 0) && ((b.drop (0x40 + 2 * m)).take (0x40 - 2 * m)).all (· = 0) &&
    l.ents.all (fun e => decide (1000 ≤ e.1) && decide (e.2.toNat < 2 ^ m)) &&
    (List.range n).all (fun j => rsv b (0x80 + 8 * j) 63 48) && decide (sumL (l.ents.map (·.1)) = l.cycle) &&
    decide (((l.base.toNat : Int) - (d.gridOfs : Nat)) % 4000000 = 0) &&
    l.groups.all (fun h => (d.legalCores h).isSome) && decide (cores.flatten.eraseDups.length = cores.flatten.length) &&
    cores.flatten.all (fun g => ! (d.dedicated 0).contains g) &&
    (List.range m).all (fun i => (cyclicRuns (l.ents.map (fun e => (e.1, e.2.getLsbD i)))).all (fun r =>
      decide ((if r.2 then 50000 else 69000) ≤ r.1)))

/-- LGL_SET: the list waits for T_sw, the first cycle start of the active list at or after APPLY; a waiting one is superseded. -/
def lglSet (c : Src) (b : Bytes) (d : Dev) : Dev :=
  let l := lglDesc b
  let apply := BitVec.ofNat 64 (at_ b 0x08 8)
  if b.length ≠ 0x80 + 8 * fld b 0 8 0 then done c 2 d
  else if ¬ lglOk d b then done c 0xAB d
  else if (apply - d.nt).toInt < 1600000 then done c 0xAC d
  else if ¬ d.admitsLend (d.lgl.groups ++ l.groups ++ d.sgHandles) then done c 0xA6 d
  else
    let d := match d.lglPend with
      | some (_, _, old) => done old 0xAD d
      | none => d
    let ts := (d.lglNow.gates 0).nextStart apply
    lendPlan ({ d with lglPend := some (l, ts, c) }.setF F.ptLglStatusPending 0 1)

def execLglSet (c : Src) (desc : List Byte) (s : State) : Res := upd s (lglSet c desc)

/-- LGL_SWITCH: at T_sw the pending list becomes active and the LGL_SET completes. -/
def lglSwitch (d : Dev) : Dev :=
  match d.lglPend with
  | none => d
  | some (l, ts, c) =>
    if ¬ reached d ts then d
    else
      let d := lendPlan { d with lgl := l, lglPend := none }
      let d := ((d.setF F.ptLglStatusNlg 0 l.groups.length).setF F.ptLglStatusNent 0 l.ents.length).setF F.ptLglStatusPending 0 0
      let d := d.setF F.ptLglStatusBank 0 (1 - d.getF F.ptLglStatusBank)
      done c 0 ((List.range 32).foldl (fun d p => esView p d) d)

def execLglSwitch (s : State) : Res := upd s lglSwitch

/-! ### The take of a lend group (R303 to R305) -/

/-- Cores of lend group i. -/
def Dev.lendCores (d : Dev) (i : Nat) : List Nat := (handleCores (d.lend i).handle).getD []

/-- Partitions other than p0 with a context on a core of the group. -/
def Dev.lendParts (d : Dev) (i : Nat) : List Nat :=
  (List.range 32).filter (fun p => decide (p ≠ 0) && (d.lendCores i).any (fun g => d.holdsCore p g))

/-- LEND_NOTICE: 100 µs before T_k, once for a take. -/
def lendNotice (i : Nat) (d : Dev) : Dev :=
  let x := d.lend i
  match x.next with
  | none => d
  | some w =>
    let tk := takeOf w
    if x.noticed ∨ ¬ reached d (tk - 800000) then d
    else
      let b := leBytes 8 tk.toNat ++ leBytes 8 w.toNat ++ leBytes 8 (d.offAfter x.handle w).toNat ++ leBytes 8 x.handle
      (d.lendParts i).foldl (fun d p => report p 4 b (d.wr .ptLendNext p tk)) (d.modLend i (fun x => { x with noticed := true }))

def execLendNotice (lg : Nat) (s : State) : Res := there (lg < 64) s (upd s (lendNotice lg))

/-- A shared group with a core of the list is suspended with what remains of its slice (R306). -/
def suspendGroups (cores : List Nat) (d : Dev) : Dev :=
  ((cores.filterMap (fun g => (d.sgOf g).map (·.1))).eraseDups).foldl (fun d i =>
    d.modSg i (fun x => match x.suspended with
      | some _ => x
      | none => { x with suspended := some (x.sliceAt + x.slice * 300000 - d.acyc) })) d

/-- TAKE_POINT: from T_k the tenant releases nothing and its lists pause (R142); idle cores are saved at once, running ones when their
unit ends; unowned ones wait for W_on as they are. A group that is still lent waits for its return. -/
def takePoint (i : Nat) (d : Dev) : Dev :=
  let x := d.lend i
  match x.next with
  | none => d
  | some w =>
    let busy : Bool := x.phase = 2 || x.phase = 3 || (x.phase = 4 && (d.lendCores i).any (fun g => d.flag F.coreStateLent g))
    if busy ∨ ¬ reached d (takeOf w) then d
    else
      let d := (d.lendParts i).foldl (fun d p =>
        if d.rd .ptLendNext p = takeOf w then d.wr .ptLendNext p 0 else d) d
      let d := suspendGroups (d.lendCores i) d
      let d := d.modLend i (fun x =>
        { x with phase := 2, won := w, woff := d.offAfter x.handle w, next := d.onAfter x.handle w, noticed := false, late := false })
      (d.lendCores i).foldl (fun d g =>
        if d.coreSt g = 0 then d.setF F.coreStateLent g 1 else startSave g (d.modList g (fun l => { l with paused := true }))) d

def execTakePoint (lg : Nat) (s : State) : Res := there (lg < 64) s (upd s (takePoint lg))

/-- Every core of the group is scrubbed and unowned. -/
def Dev.lendClear (d : Dev) (i : Nat) : Bool := (d.lendCores i).all (fun g => decide (d.coreSt g = 0) && d.flag F.coreStateLent g)

/-- p0 has core g: what its schedule has given its context there, the list that begins with it included, goes on (R142). -/
def lendTaken (g : Nat) (d : Dev) : Dev :=
  let x := (d.saved 0 g).ctx
  let d := setOwner g (some 0) (setCoreSt g 1 d)
  ({ d with saves := tabDel d.saves (saveKey 0 g) } : Dev).modCtx g (fun c => { c with cc := x.cc, list := { x.list with paused := false } })

/-- LEND_WON: at W_on the cores pass to p0; where a save or scrub has not ended, TAKE_LATE, and they pass when it has. -/
def lendWon (i : Nat) (d : Dev) : Dev :=
  let x := d.lend i
  if x.phase ≠ 2 ∨ ¬ reached d x.won then d
  else if d.lendClear i then
    (d.lendCores i).foldl (fun d g => lendTaken g d) (d.modLend i (fun x => { x with phase := 3 }))
  else if x.late then d
  else (d.modLend i (fun x => { x with late := true })).raise F.ptStatusTakeLate

def execLendWon (lg : Nat) (s : State) : Res := there (lg < 64) s (upd s (lendWon lg))

/-- The next context of a returned core is restored: of its dedicated group's partition, or of the context that ran on its shared group
unless another waits there (R304, R306). -/
def restoreHome (g : Nat) (d : Dev) : Dev :=
  if d.coreSt g ≠ 0 ∨ d.flag F.coreStateLent g ∨ (d.core g).next.isSome then d
  else match d.homeOf g with
    | some p => if d.pstate p = 1 then startRestore g p d else d
    | none => match d.dedicatedOf g with
      | some p => joinCore p d g
      | none => d

/-- The scheduler of a shared group goes on once none of its cores is lent: its slice continues with the time that remained (R306). -/
def unsuspend (i : Nat) (d : Dev) : Dev :=
  match (d.sg i).suspended with
  | none => d
  | some r =>
    if (d.sgCores i).any (fun g => decide (2 ≤ d.lendPhase g ∧ d.lendPhase g ≤ 4)) then d
    else sgSwitched i (d.modSg i (fun x => { x with suspended := none, sliceAt := d.acyc + r - x.slice * 300000 }))

/-- The return of every group that has no lent core and no scrub or restore left is complete. -/
def lendReturned (d : Dev) : Dev :=
  (tabKeys d.lends).foldl (fun d i =>
    if (d.lend i).phase ≠ 4 ∨ (d.lendCores i).any (fun g => d.flag F.coreStateLent g || decide (d.coreSt g = 4 ∨ d.coreSt g = 5)) then d
    else
      let d := d.modLend i (fun x => { x with phase := 5 })
      (((d.lendCores i).filterMap (fun g => (d.sgOf g).map (·.1))).eraseDups).foldl (fun d j => unsuspend j d) d) d

/-- LEND_WOFF: p0 releases nothing more; its idle cores are scrubbed, a running unit ends first and sets RETURN_LATE; cores of a take that
never completed are given back. -/
def lendWoff (i : Nat) (d : Dev) : Dev :=
  let x := d.lend i
  if (x.phase ≠ 2 ∧ x.phase ≠ 3) ∨ ¬ reached d x.woff then d
  else
    let runsOn : Bool := x.phase = 3 && (d.lendCores i).any (fun g => decide (d.coreSt g = 2))
    let d := (d.modLend i (fun x => { x with phase := 4 })).raiseIf runsOn F.ptStatusReturnLate
    lendReturned ((d.lendCores i).foldl (fun d g =>
      if ¬ d.flag F.coreStateLent g then (if d.coreSt g = 3 then d else d.modList g (fun l => { l with paused := false }))
      else if d.coreSt g = 0 then restoreHome g (d.setF F.coreStateLent g 0)
      else if d.coreSt g = 1 then startScrub g d
      else d) d)

def execLendWoff (lg : Nat) (s : State) : Res := there (lg < 64) s (upd s (lendWoff lg))

/-! ### Saves, scrubs and restores end (R293 to R295, R373) -/

def execContextSaveComplete (g : Nat) (ue : Bool) (s : State) : Res := need (g < 80) .noSuchCore (upd s (saveDone g ue))

/-- SG_SET commands whose removed context has been scrubbed complete; a deleted group leaves the table. -/
def sgEnded (i : Nat) (d : Dev) : Dev :=
  if ¬ (d.sgCores i).all (fun g => decide (d.coreSt g = 0 ∨ d.coreSt g = 1)) ∨ (d.sg i).ending = [] then d
  else
    let d := (d.sg i).ending.foldl (fun d c => done c 0 d) (d.modSg i (fun x => { x with ending := [] }))
    if (d.sg i).grants = [] then { d with shared := tabDel d.shared i } else d

/-- A fixed-mode context may be restored: its slice has begun and its last 34.5 µs have not (R313). -/
def fixedWindow (x : SharedGroup) (now : Nat) : Bool :=
  x.fixed && decide (x.sliceAt ≤ now ∧ now + 103500 < x.sliceAt + x.slice * 300000)

/-- What follows on an unowned core: a lend group keeps it, its partition or its shared group takes it up again. -/
def afterScrub (g : Nat) (d : Dev) : Dev :=
  let taking : Bool := d.lendPhase g = 2
  let d := d.setF F.coreStateLent g (if taking then 1 else 0)
  if taking then
    -- a take that is late passes its cores to p0 once every one of them is scrubbed (R305)
    match d.lendOf g with
    | some (i, x) => if x.late then lendWon i d else d
    | none => d
  else
    let returning : Bool := d.lendPhase g = 4
    let d := if returning then restoreHome g d else d
    let d := match d.sgOf g with
      | none => d
      | some (i, x) =>
        let d := sgEnded i (sgSwitched i d)
        if fixedWindow x d.acyc ∧ x.suspended.isNone then restoreHome g d else d
    lendReturned d

/-- The core stays with its owner after the scrub: a reset or a kill of a context of p's dedicated group caused it (R382, R393). -/
def Dev.staysWith (d : Dev) (p g : Nat) : Bool :=
  d.coreOwner g = some p && (d.dedicated p).contains g && ! d.flag F.coreStateLent g && d.pstate p = 1 &&
    d.lendPhase g ≠ 2 && (tabFind d.saves (saveKey p g)).isNone

/-- SCRUB_COMPLETE: nothing of the previous owner is left on the core (R373); what waited for the scrub goes on. -/
def scrubDone (g : Nat) (d : Dev) : Dev :=
  if d.coreSt g ≠ 4 then d
  else
    let p := d.workOf g
    let stays : Bool := d.staysWith p g
    let d := setOwner g none (setCoreSt g 0 (clearCore g d))
    let d := if stays then setOwner g (some p) (setCoreSt g 1 d) else d
    partSettled p (removals (afterScrub g d))

def execScrubComplete (g : Nat) (s : State) : Res := need (g < 80) .noSuchCore (upd s (scrubDone g))

/-- In shares mode a slice begins when the restore ends (R310). -/
def sliceBegins (g : Nat) (d : Dev) : Dev :=
  match d.sgOf g with
  | none => d
  | some (i, x) => if x.fixed || x.suspended.isSome then d else d.modSg i (fun x => { x with sliceAt := d.acyc })

/-- CONTEXT_RESTORE_COMPLETE: the core is idle; a slice begins when the restore ends (R310); a take point, a freeze or a destroy that came
meanwhile acts now. -/
def restoreEnd (g : Nat) (d : Dev) : Dev :=
  if d.coreSt g ≠ 5 then d
  else
    let d := sliceBegins g (restoreDone g d)
    let p := d.workOf g
    let settled : Bool := (d.part p).barrier.isNone
    let away : Bool := d.lendPhase g = 2 || (settled && d.pstate p = 2)
    lendReturned (if away then startSave g d else if settled && d.pstate p = 4 then startScrub g d else d)

def execContextRestoreComplete (g : Nat) (s : State) : Res := need (g < 80) .noSuchCore (upd s (restoreEnd g))

/-! ### SG_SET (R308) -/

/-- Grants of a descriptor: partition and weight. -/
def sgGrantsOf (b : Bytes) : List (Nat × Nat) :=
  (List.range (fld b 4 21 16)).map (fun g => (fld b (0x10 + 2 * g) 4 0, fld b (0x10 + 2 * g) 15 8))

/-- Ranges, reserved fields and partitions of a descriptor (SG_BAD). -/
def sgOk (b : Bytes) : Bool :=
  let n := fld b 4 21 16
  let gs := sgGrantsOf b
  let slice := fld b 8 9 0
  decide (b.length = 80) && rsv b 0 31 9 && decide (n ≤ 32) && rsv b 4 31 22 && rsv b 8 31 20 && decide (at_ b 12 4 = 0) &&
    decide (1 ≤ slice ∧ slice ≤ 1000) && (! bit b 0 5 || decide (10 ≤ slice)) && decide (fld b 8 19 10 ≤ 1000) &&
    (List.range n).all (fun g => rsv b (0x10 + 2 * g) 7 5) && gs.all (fun g => decide (g.1 ≠ 0 ∧ g.2 ≠ 0)) &&
    decide ((gs.map (·.1)).eraseDups.length = n) && (b.drop (0x10 + 2 * n)).all (· = 0) && (n ≠ 0 || decide (fld b 4 15 0 = 0))

/-- The status of an SG_SET, tested as PART_CREATE does. -/
def sgStatus (d : Dev) (b : Bytes) : Nat :=
  let i := fld b 0 4 0
  let h := fld b 4 15 0
  let ps := (sgGrantsOf b).map (·.1)
  let old := d.sg i
  let had := old.grants.map (·.part)
  let moved : Bool := old.grants ≠ [] && decide (old.handle ≠ h)
  let leaving := had.filter (fun p => moved || ! ps.contains p)
  let joining := ps.filter (fun p => moved || ! had.contains p)
  let others := (d.shared.filter (fun e => e.1 ≠ i && e.2.grants ≠ [])).map (fun e => e.2.handle)
  let freeOf (g : Nat) : Bool :=
    ! ((d.dedicatedOf g).isSome || d.pendingCores.contains g || others.any (fun o => ((handleCores o).getD []).contains g) ||
      (! (d.sgCores i).contains g && (d.coreOwner g).isSome && ! d.flag F.coreStateLent g))
  if b.length ≠ 80 then 2
  else if ¬ sgOk b then 0xB4
  else if ps = [] then (if had.any (fun p => d.bindsAny p (d.sgCores i)) then 0xA9 else 0)
  else if (d.legalCores h).isNone then 0xA4
  else if ps.any (fun p => decide (d.pstate p = 0)) then 0xA3
  else if ((d.legalCores h).getD []).any (fun g => ! freeOf g) then 0xA5
  else if joining.any (fun p => ! d.saveFits p [h]) then 0xAA
  else if ¬ d.admitsLend (d.lendHandles ++ others ++ [h]) then 0xA6
  else if 1024 < d.ctxCount + joining.length then 0xA8
  else if leaving.any (fun p => d.bindsAny p (d.sgCores i)) then 0xA9
  else 0

/-- The shared group of a descriptor, made from the one there: kept grants keep their tags and their residency, new ones begin blocked. -/
def sgMake (b : Bytes) (old : SharedGroup) (d : Dev) : SharedGroup :=
  let first : Bool := old.grants = []
  let res := fld b 0 8 6 + 1
  let gs := (sgGrantsOf b).zipIdx.map (fun z =>
    match old.grants.find? (fun g => g.part = z.1.1) with
    | some g => { g with weight := z.1.2 }
    | none => { part := z.1.1, weight := z.1.2, resident := first && decide (z.2 < res), blocked := some d.acyc, outAt := d.acyc })
  -- a smaller resident set keeps its first members
  let gs := gs.zipIdx.map (fun z =>
    { z.1 with resident := bit b 0 5 || (z.1.resident && decide (((gs.take z.2).filter (fun g => g.resident)).length < res)) })
  let runPart := (old.run.bind (fun k => old.grants[k]?)).map (·.part)
  { old with handle := fld b 4 15 0, fixed := bit b 0 5, resM1 := fld b 0 8 6, slice := fld b 8 9 0, yield := fld b 8 19 10, grants := gs
             run := runPart.bind (fun p => gs.findIdx? (fun g => g.part = p)) }

/-- The a-cycle of the first 100 µs boundary of network time after now. -/
def nextBoundary (d : Dev) : Nat := (acycOf d (BitVec.ofNat 64 ((d.nt.toNat / 800000 + 1) * 800000))).toNat

/-- A shared group changes: contexts that leave are scrubbed off the cores and their save areas dropped, and the command completes when
that is done; freed resident positions are filled. -/
def sgApply (b : Bytes) (c : Src) (d : Dev) : Dev :=
  let i := fld b 0 4 0
  let old := d.sg i
  let moved : Bool := decide (old.handle ≠ fld b 4 15 0)
  let cores := d.sgCores i
  let gone := (old.grants.map (·.part)).filter (fun p => moved || ! ((sgGrantsOf b).map (·.1)).contains p)
  let keep := if moved then { old with grants := old.grants.map (fun g => { g with resident := false }), run := none } else old
  let new := sgMake b keep d
  let scrubbing := cores.any (fun g => match d.coreOwner g with
    | some p => gone.contains p && ! d.flag F.coreStateLent g
    | none => false)
  let d := gone.foldl (fun d p => cores.foldl (leaveCore p) d) d
  let new := if new.grants = [] ∧ scrubbing then { old with grants := [], run := none } else new
  let d := { d with shared := if new.grants = [] ∧ ¬ scrubbing then tabDel d.shared i else tabPut d.shared i new }
  let d := if new.fixed ∧ (¬ old.fixed ∨ old.grants = []) then
      d.modSg i (fun x => { x with run := none, sliceAt := nextBoundary d }) else d
  let d := if new.grants = [] then d else sgFill i d
  let d := (old.grants.map (·.part) ++ new.grants.map (·.part)).eraseDups.foldl (fun d p => esView p (partView p d)) (sgView i d)
  if scrubbing then d.modSg i (fun x => { x with ending := x.ending ++ [c] }) else done c 0 d

/-- SG_SET: a new shared group takes effect at once, a change of one at its next decision point. -/
def sgSet (c : Src) (b : Bytes) (d : Dev) : Dev :=
  let i := fld b 0 4 0
  match sgStatus d b with
  | 0 => if (d.sg i).grants = [] ∧ (d.sg i).ending = [] then sgApply b c d else d.modSg i (fun x => { x with pend := x.pend ++ [(b, c)] })
  | st => done c st d

def execSgSet (c : Src) (desc : List Byte) (s : State) : Res := upd s (sgSet c desc)

/-! ### Decision points (R310, R313) -/

/-- The group is between units: its cores idle or unowned, none lent. -/
def Dev.sgQuiet (d : Dev) (i : Nat) : Bool :=
  (d.sgCores i).all (fun g => decide (d.coreSt g = 0 ∨ d.coreSt g = 1) && ! d.flag F.coreStateLent g) && (d.sg i).suspended.isNone &&
    (d.sg i).ending.isEmpty

/-- Waiting changes of a group take effect at a decision point, oldest first. -/
def sgPending (i : Nat) (d : Dev) : Dev :=
  match (d.sg i).pend with
  | [] => d
  | (b, c) :: r => if d.sgQuiet i then sgApply b c (d.modSg i (fun x => { x with pend := r })) else d

/-- SG_DECISION: a waiting change takes effect; the group without a running context chooses, or evicts one for a runnable context that is
swapped out. -/
def sgDecision (i : Nat) (d : Dev) : Dev :=
  if (d.sg i).grants = [] then d
  else
    let x := d.sg i
    let evicted : Bool := match x.run.bind (fun k => x.grants[k]?) with
      | some g => ! g.resident
      | none => true
    let d := if x.fixed then d else sgPending i d
    if evicted ∨ ! (d.grantIx i).any (fun k =>
        ((d.sg i).grants.getD k { part := 0, weight := 1, resident := false }).resident && d.sgRunnable i k) then sgDecide i false d
    else d

def execSgDecision (sg : Nat) (s : State) : Res := there (sg < 32) s (upd s (sgDecision sg))

/-- YIELD_EXPIRY: the running context has been blocked for YIELD. -/
def yieldExpiry (i : Nat) (d : Dev) : Dev :=
  let x := d.sg i
  match (x.run.bind (fun k => x.grants[k]?)).bind (·.blocked) with
  | some t => if t + x.yield * 3000 ≤ d.acyc ∧ ¬ x.fixed then sgDecide i true (sgPending i d) else d
  | none => d

def execYieldExpiry (sg : Nat) (s : State) : Res := there (sg < 32) s (upd s (yieldExpiry sg))

/-- FIXED_SLICE_BOUNDARY: the first slice begins at its boundary, each later one SLICE after the last; the next grant's context is
restored. -/
def fixedSliceBoundary (i : Nat) (d : Dev) : Dev :=
  let x := d.sg i
  let at_ := if x.run.isNone then x.sliceAt else x.sliceAt + x.slice * 300000
  if ¬ x.fixed ∨ x.grants = [] ∨ x.suspended.isSome ∨ d.acyc < at_ then d
  else
    let d := sgPending i d
    let y := d.sg i
    if ¬ y.fixed ∨ y.grants = [] ∨ (y.run.isNone ∧ d.acyc < y.sliceAt) then d
    else
      let k := match y.run with
        | some k => (k + 1) % y.grants.length
        | none => 0
      let p := (y.grants.getD k { part := 0, weight := 1, resident := true }).part
      let d := sgView i (d.modSg i (fun z => { z with run := some k, sliceAt := at_ }))
      if d.degraded ∨ d.pstate p ≠ 1 then d else (d.sgCores i).foldl (fun d g => startRestore g p d) d

def execFixedSliceBoundary (sg : Nat) (s : State) : Res := there (sg < 32) s (upd s (fixedSliceBoundary sg))

end Sys2Proof.Machine
end

