-- ==== Sys2Proof/Machine/Lorgil.lean ====
section
/-! DEFINITION. Lorgil: identity and mailbox (R351 to R362), the keys of a partition (R363 to R366), attestation (R367, R368), the start
of a key rotation (R369), staged firmware (R356). -/

namespace Sys2Proof.Machine

open Sys2Proof

/-! ### Identity (R352, R353) -/

/-- A private scalar from 56 bytes of HKDF output. -/
def scalarOf (h : Bytes) : Nat := leNat h.reverse % (Config.curveOrder - 1) + 1

/-- The DIK scalar. -/
def Flash.dik (f : Flash) : Nat := scalarOf (leBytes 56 (Config.hkdf f.seed [] (ascii "av32 dik") 56).toNat)

/-- The AK scalar: from the seed and the digests of what booted. -/
def Flash.ak (f : Flash) : Nat := scalarOf (leBytes 56 (Config.hkdf f.seed (f.fwDigest ++ f.cfgDigest) (ascii "av32 ak") 56).toNat)

/-- The public key of a scalar, 97 bytes. -/
def pubBytes (k : Nat) : Bytes := leBytes 97 (Config.pubKey k).toNat

/-- A signature under the AK, 96 bytes. -/
def Dev.akSign (d : Dev) (msg : Bytes) : Bytes := leBytes 96 (Config.sign d.flash.ak msg).toNat

/-! ### The mailbox (R357 to R359) -/

/-- The request that waits: LEN bytes of LG_MBOX_REQ. -/
def Dev.mbox (d : Dev) : Bytes := memRead d.mboxReq 0 (d.eff F.lgMboxCtlLen 0 4096)

/-- A request of this CODE is being processed. -/
def Dev.mboxIs (d : Dev) (code : Nat) : Bool := d.flag F.lgMboxCtlBusy && decide (at_ d.mbox 0 1 = code)

/-- The answer: LG_MBOX_RSP holds it, LEN its length, STATUS its code, DONE is set and BUSY ends. -/
def mboxAnswer (st : Nat) (b : Bytes) (d : Dev) : Dev :=
  let d := { d with mboxRsp := memWrite (memZero d.mboxRsp 0 4096) 0 b }
  let d := ((d.setF F.lgMboxCtlLen 0 b.length).setF F.lgMboxCtlStatus 0 st).setF F.lgMboxCtlBusy 0 0
  d.setF F.lgMboxCtlDone 0 1

/-- An answer that carries a status alone: CODE, SESSION and two zero bytes. -/
def mboxFail (code i st : Nat) (d : Dev) : Dev := mboxAnswer st (leBytes 4 (code + i * 256)) d

/-- A length field and a byte string. -/
def withLen (b : Bytes) : Bytes := leBytes 2 b.length ++ b

/-- GET_CERTS. -/
def getCerts (d : Dev) : Dev :=
  if ¬ d.mboxIs 1 then d
  else if d.mbox.length ≠ 4 ∨ at_ d.mbox 1 3 ≠ 0 then mboxFail 1 0 1 d
  else if ¬ d.flag F.lgStateIdentityOk then mboxFail 1 0 7 d
  else
    let f := d.flash
    mboxAnswer 0 (leBytes 4 1 ++ withLen f.deviceCert ++
      withLen (Config.akCert f.dik (pubBytes f.ak) f.fwDigest f.fwSvn f.cfgDigest)) d

def execGetCerts (s : State) : Res := upd s getCerts

/-- Lowest session index neither open nor opening. -/
def Dev.freeSession (d : Dev) : Option Nat :=
  (List.range 65).find? (fun i => decide (i ≠ 0) && ! d.flag F.lgSessValid i && (d.sess i).opening.isNone)

/-- The status of a SESS_OPEN, its checks in the order of their codes. -/
def openStatus (d : Dev) (b : Bytes) : Nat :=
  let role := at_ b 1 1
  if b.length ≠ 0xE6 ∨ role = 0 ∨ 3 < role ∨ at_ b 3 1 ≠ 0 ∨ (role ≠ 3 ∧ at_ b 2 1 ≠ 0) ∨
      ¬ Config.onCurve ((b.drop 0x24).take 97) ∨ ¬ Config.onCurve ((b.drop 0x85).take 97) then 1
  else if d.freeSession = none then 2
  else if ¬ d.flag F.lgStateIdentityOk then 7
  else 0

/-- SESS_OPEN (R357, R358): a session index waits for its SESS_FINISH; the answer carries Lorgil's nonce, its ephemeral point and the AK
signature over TH1. -/
def sessOpen (d : Dev) : Dev :=
  let b := d.mbox
  if ¬ d.mboxIs 2 then d
  else match openStatus d b, d.freeSession with
    | 0, some i =>
      let read := takeBytes 32 d
      let nl := read.1
      let d := read.2
      let read := takeFree 384 d
      let e := read.1
      let d := read.2
      let scalar := e.toNat % (Config.curveOrder - 1) + 1
      let head := leBytes 4 (2 + i * 256) ++ nl ++ pubBytes scalar
      let th1 := sha384 (b ++ head)
      let sig := d.akSign th1
      let z := leBytes 48 (Config.ecdh scalar ((b.drop 0x85).take 97)).toNat
      let d := d.setSess i { role := at_ b 1 1, part := at_ b 2 1, opening := some d.nt, th1 := th1, sigL := sig,
                             qs := (b.drop 0x24).take 97, z := z }
      mboxAnswer 0 (head ++ sig) d
    | st, _ => mboxFail 2 0 st d

def execSessOpen (s : State) : Res := upd s sessOpen

/-- Frees a session index that is opening. -/
def dropOpening (i : Nat) (d : Dev) : Dev := d.setSess i { role := 0, part := 0 }

/-- The role's check of SESS_FINISH (R359): 0, or the status. -/
def roleStatus (d : Dev) (x : Session) : Nat :=
  if x.role = 1 then (if x.qs = d.flash.operKey then 0 else 3)
  else if x.role = 2 then (if x.qs = d.flash.fmKey then 0 else 3)
  else if x.part = 0 ∨ 31 < x.part then 5
  else if d.pstate x.part ≠ 1 then 5
  else if d.flag F.lgStateDebug then 6
  else match (d.part x.part).tenantKey with
    | some k => if x.qs = k then 0 else 3
    | none => 0

/-- SESS_FINISH: with SIG_R and the role verified the session is open, and a tenant's key is bound to its partition. -/
def sessFinish (d : Dev) : Dev :=
  let b := d.mbox
  let i := at_ b 1 1
  let x := d.sess i
  if ¬ d.mboxIs 3 then d
  else if b.length ≠ 100 ∨ at_ b 2 2 ≠ 0 then mboxFail 3 0 1 d
  else if i = 0 ∨ 64 < i ∨ x.opening = none then mboxFail 3 i 8 d
  else
    let sigR := (b.drop 4).take 96
    let th2 := sha384 (x.th1 ++ x.sigL)
    if ¬ Config.verify x.qs th2 sigR then mboxFail 3 i 4 d
    else match roleStatus d x with
      | 0 =>
        let d := if x.role = 3 then d.modPart x.part (fun y => { y with tenantKey := some x.qs }) else d
        let d := d.setSess i { role := x.role, part := if x.role = 3 then x.part else 0, qs := x.qs, z := x.z, th := sha384 (th2 ++ sigR) }
        let d := ((d.setF F.lgSessValid i 1).setF F.lgSessRole i x.role).setF F.lgSessPart i (if x.role = 3 then x.part else 0)
        mboxAnswer 0 (leBytes 4 (3 + i * 256)) (d.setF F.lgStateSessions 0 (d.getF F.lgStateSessions + 1))
      | st => mboxFail 3 i st (dropOpening i d)

def execSessFinish (s : State) : Res := upd s sessFinish

/-- SESS_OPEN_LAPSE (R358): 1 s after its SESS_OPEN an unfinished session lapses with its ephemeral key. -/
def openLapse (i : Nat) (d : Dev) : Dev :=
  match (d.sess i).opening with
  | some t => if reached d (later t 8000000000) then dropOpening i d else d
  | none => d

def execSessOpenLapse (session : Nat) (s : State) : Res := there (session < 65) s (upd s (openLapse session))

/-! ### Keys of a partition (R363 to R366, R369) -/

/-- The wrap key of the session a command came in. -/
def Dev.wrapKey (d : Dev) (c : Src) : Bytes := d.sessKey (d.getF F.ringAuxSession c.ring) (ascii "av32 wrap") 32

/-- The XTS key a wrapped string holds; none: KEY_BAD. -/
def Dev.xtsKey (d : Dev) (c : Src) (w : Bytes) : Option (BitVec 512) :=
  (Config.unwrap (d.wrapKey c) w).bind (fun k =>
    if k.length = 64 ∧ k.take 32 ≠ k.drop 32 then some (BitVec.ofNat 512 (leNat k)) else none)

/-- KEY_LOAD. -/
def keyLoadCmd (c : Src) (p : Nat) (w : Bytes) (d : Dev) : Dev :=
  if p ≠ 0 ∧ d.pstate p ≠ 1 then done c 0xC6 d
  else if (d.part p).slot0.isSome ∨ (d.part p).slot1.isSome then done c 0xC2 d
  else match d.xtsKey c w with
    | none => done c 0xC1 d
    | some k => done c 0 (((d.modPart p (fun x => { x with slot0 := some k })).setF F.lgKeysSlot0 p 1).setF F.lgKeysWgen p 0)

def execKeyLoad (c : Src) (p : Nat) (wrapped : List Byte) (s : State) : Res :=
  upd s (if p < 32 then keyLoadCmd c p wrapped else done c 2)

/-- KEY_ROTATE: the new key stands in the other slot and every write uses it from now; the walker begins. -/
def keyRotateCmd (c : Src) (p rate : Nat) (w : Bytes) (d : Dev) : Dev :=
  let x := d.part p
  let g := d.wgen p
  if p ≠ 0 ∧ d.pstate p ≠ 1 then done c 0xC6 d
  else if x.rot.isSome then done c 0xC3 d
  else if (if g then x.slot1 else x.slot0).isNone then done c 0xC2 d
  else if 255 < rate then done c 2 d
  else match d.xtsKey c w with
    | none => done c 0xC1 d
    | some k =>
      let r : Rotation := { cmd := c, rate := rate, pages := 0, used := 0, interval := d.interval }
      let d := d.modPart p (fun x => if g then { x with slot0 := some k, rot := some r } else { x with slot1 := some k, rot := some r })
      let d := (d.setF (if g then F.lgKeysSlot0 else F.lgKeysSlot1) p 1).setF F.lgKeysWgen p (if g then 0 else 1)
      rotateEnd p (d.setF F.lgKeysRotating p 1)

def execKeyRotate (c : Src) (p rate : Nat) (wrapped : List Byte) (s : State) : Res :=
  upd s (if p < 32 then keyRotateCmd c p rate wrapped else done c 2)

/-- FABRIC_KEY_LOAD: refused while flits can be in flight. -/
def fabricKeyCmd (c : Src) (p : Nat) (w : Bytes) (d : Dev) : Dev :=
  if linkState (d.esState p) then done c 0xC6 d
  else match d.xtsKey c w with
    | none => done c 0xC1 d
    | some k => done c 0 ((d.modPart p (fun x => { x with fabricKey := some k })).setF F.lgKeysFabric p 1)

def execFabricKeyLoad (c : Src) (p : Nat) (wrapped : List Byte) (s : State) : Res :=
  upd s (if p < 32 then fabricKeyCmd c p wrapped else done c 2)

/-- MIG_KEY_LOAD. -/
def migKeyCmd (c : Src) (p : Nat) (w : Bytes) (d : Dev) : Dev :=
  match Config.unwrap (d.wrapKey c) w with
  | some k =>
    if k.length ≠ 32 then done c 0xC1 d
    else done c 0 ((d.modPart p (fun x => { x with migKey := some (BitVec.ofNat 256 (leNat k)) })).setF F.lgKeysMig p 1)
  | none => done c 0xC1 d

def execMigKeyLoad (c : Src) (p : Nat) (wrapped : List Byte) (s : State) : Res :=
  upd s (if p < 32 then migKeyCmd c p wrapped else done c 2)

/-- IMAGE_ALLOW: one more digest, at most eight; all zeros clear the list. -/
def imageAllowCmd (c : Src) (p : Nat) (b : Bytes) (d : Dev) : Dev :=
  let l := (d.part p).allowed
  if leNat b = 0 then done c 0 (d.modPart p (fun x => { x with allowed := [] }))
  else if l.contains b then done c 0 d
  else if 8 ≤ l.length then done c 0xC5 d
  else done c 0 (d.modPart p (fun x => { x with allowed := x.allowed ++ [b] }))

def execImageAllow (c : Src) (p : Nat) (digest : List Byte) (s : State) : Res :=
  upd s (if p < 32 then imageAllowCmd c p digest else done c 2)

/-! ### Attestation (R367, R368) -/

/-- One bit of a word. -/
def bitAt (b : Bool) (i : Nat) : Nat := if b then 2 ^ i else 0

/-- Bytes 0x000 to 0x0FF of the report. -/
def reportHead (d : Dev) (kind p : Nat) (nonce : Bytes) : Bytes :=
  let f := d.flash
  leBytes 4 0x54535441 ++ leBytes 4 (kind + p * 256 + 65536) ++ leBytes 8 d.nt.toNat ++ nonce ++ f.fwDigest ++
    leBytes 4 (f.fwMajor + f.fwMinor * 65536) ++ leBytes 4 f.fwSvn ++ f.cfgDigest ++ sha384 (memRead d.inForce 0 512) ++
    sha384 f.operRecord ++ leBytes 4 (d.rd .pkgId).toNat ++
    leBytes 4 (bitAt d.locked 0 + bitAt (d.flag F.lgStateDebug) 1 + bitAt (d.flag F.lgStateFwStaged) 2)

/-- Grants of p on shared groups: handle, FIXED and weight, in index order. -/
def Dev.sgWords (d : Dev) (p : Nat) : List Nat :=
  d.shared.filterMap (fun e => (e.2.grants.find? (fun g => g.part = p)).map (fun g =>
    e.2.handle + bitAt e.2.fixed 16 + g.weight * 2 ^ 24))

/-- Byte strings in ascending order, as numbers whose first byte counts most. -/
def ascending (l : List Bytes) : List Bytes := sortL (fun a b => decide (leNat a.reverse ≤ leNat b.reverse)) l

/-- An image digest, zero without an image. -/
def digestOf (im : Option Image) : Bytes :=
  match im with
  | some x => x.digest
  | none => zeros 48

/-- Bytes 0x100 to 0x30F of a KIND 1 report; the key digest of a partition without a bound tenant key is free. -/
def reportPart (p : Nat) (d : Dev) : Bytes × Dev :=
  let x := d.part p
  let read := if x.tenantKey.isNone then takeBytes 48 d else ([], d)
  let noKey := read.1
  let d := read.2
  let sg := d.sgWords p
  let tdi := if p = 0 then 0 else d.getF F.hiTdiState p
  let host := (x.grants.filter (fun g => g.2.kind = 0)).length
  let mir := match d.mirrorOf p with
    | some q => d.getF F.tlMirStatusPartner + q * 4096 + d.mirSt * 2 ^ 17
    | none => 0
  (leBytes 4 (d.pstate p + d.getF F.ptPartStateClass p * 8 + x.groups.length * 256 + sg.length * 65536 +
      sumL ((List.range 9).map (fun r => bitAt (regCr (d.regWord p r)) (22 + r)))) ++
    leBytes 4 ((d.rd .lgKeys p).toNat % 4 + bitAt (d.wgen p) 2 + bitAt x.rot.isSome 3 + bitAt x.fabricKey.isSome 4 + bitAt x.migKey.isSome 5) ++
    (List.range 16).flatMap (fun i => leBytes 2 (x.groups.getD i 0)) ++ (List.range 9).flatMap (fun r => leBytes 4 (d.regWord p r)) ++
    (List.range 4).flatMap (fun k => leBytes 1 (tabGet 0 x.sb k)) ++ (List.range 4).flatMap (fun k => leBytes 2 (tabGet 0 x.saveCount k)) ++
    leBytes 4 (host + (x.grants.length - host) * 256 + x.pasids.length * 65536 + tdi * 2 ^ 24) ++ leBytes 4 mir ++
    (List.range 32).flatMap (fun i => leBytes 4 (sg.getD i 0)) ++
    (match x.tenantKey with
     | some k => sha384 k
     | none => noKey) ++ digestOf x.sched.active ++ digestOf x.sched.standby ++
    (match x.sched.active with
     | some im => im.jobDigest
     | none => zeros 48) ++ d.lglSum ++ sha384 (ascending x.allowed).flatten ++ zeros 16, d)

/-- ATTEST: the report signed with the AK, at the result address. -/
def attestCmd (c : Src) (kind p result : Nat) (nonce : Bytes) (d : Dev) : Dev :=
  if 1 < kind then done c 2 d
  else
    let read := if kind = 1 then reportPart p d else (zeros 0x210, d)
    let tail := read.1
    let d := read.2
    let body := reportHead d kind (if kind = 1 then p else 0) nonce ++ tail
    done c 0 (hostWrite result (body ++ d.akSign body) d)

def execAttest (c : Src) (kind p result : Nat) (nonce : List Byte) (s : State) : Res :=
  upd s (if kind ≠ 1 ∨ p < 32 then attestCmd c kind p result nonce else done c 2)

/-- DEVICE_INTERFACE_REPORT (R368): the kick pages of p's rings as BAR2 offsets, then the digest of the vendor field. -/
def interfaceReport (p : Nat) (d : Dev) : Dev :=
  let read := reportPart p d
  let b := read.1
  let d := read.2
  emit (.doe true ((d.ringsOf p).flatMap (fun r => leBytes 8 (r * 0x1000)) ++ sha384 b)) d

def execDeviceInterfaceReport (p : Nat) (s : State) : Res := upd s (if 1 ≤ p ∧ p < 32 then interfaceReport p else emit (.doe false []))

/-! ### Sessions end, firmware is staged -/

/-- SESS_CLOSE: the session ends after the command's completion (R362). -/
def execSessClose (c : Src) (s : State) : Res :=
  need (c.ring < 16384) .noSuchRing (upd s (fun d => endSession (d.getF F.ringAuxSession c.ring) (done c 0 d)))

/-- FW_STAGE (R356): an image that verifies, at or above SVN_FLOOR, waits in the flash for the next power cycle. -/
def fwStageCmd (c : Src) (host len : Nat) (d : Dev) : Dev :=
  let b := d.hostRead host len
  match Config.fwImage b with
  | some (_, _, svn) =>
    if svn < d.flash.svnFloor then done c 0xC7 d
    else done c 0 ({ d with flash := { d.flash with staged := b } }.setF F.lgStateFwStaged 0 1)
  | none => done c 0xC7 d

def execFwStage (c : Src) (host len : Nat) (s : State) : Res := upd s (fwStageCmd c host len)

end Sys2Proof.Machine
end

