-- ==== Sys2Proof/Machine/Timebase.lean ====
section
/-! DEFINITION. The timebase: time-stamps (R236, R237), the servo and its states (R240 to R242), steps (R243 to R245),
Synchronous Ethernet (R239), and the pulse inputs and outputs (R437, R438). -/

namespace Sys2Proof.Machine

open Sys2Proof

/-! ### Time-stamps (R236) -/

/-- Quickset stage Q7 has calibrated the ports: it has passed (R236, R420). -/
def Dev.calibrated (d : Dev) : Bool := decide (d.qsResult 7 = 1 ∨ d.qsResult 7 = 2)

/-- PTP seconds and whole nanoseconds of a network time (R233). -/
def Dev.ptpTime (d : Dev) (t : BitVec 64) : Nat × Nat :=
  (d.getF F.tbOriginSeconds + t.toNat / 8000000000, t.toNat % 8000000000 / 8)

/-- Its fraction in units of 2^-16 ns (R237). -/
def ptpFraction (t : BitVec 64) : Nat := t.toNat % 8 * 2 ^ 13

/-- A carrier exists: in force or waiting for its first frame. -/
def Dev.carrierExists (d : Dev) (c : Nat) : Bool := decide ((d.carrier c).desc ≠ []) || (d.carrier c).pend.isSome

/-- A time-stamp of an event that happens now: within ±1 ns of its true passage once the ports are calibrated, a free value
before (R236). -/
def stampNow (d : Dev) : BitVec 64 × Dev :=
  if d.calibrated then
    let read := takeFree 5 d
    let j := read.1
    let d := read.2
    (d.nt + BitVec.ofNat 64 (j.toNat % 17) - 8, d)
  else takeFree 64 d

/-- An ingress time-stamp of port e: with TB_PORT_CFG.ASYM (R236). -/
def stampIn (e : Nat) (d : Dev) : BitVec 64 × Dev :=
  let read := stampNow d
  let t := read.1
  let d := read.2
  (t + BitVec.ofNat 64 (ofSigned 64 (toSigned 16 (d.getF F.tbPortCfgAsym e))), d)

/-! ### Servo values -/

/-- TB_STATUS.STATE. -/
def Dev.servoSt (d : Dev) : Nat := d.getF F.tbStatusState

/-- The limits of TB_CTL in eighths of a ns (R241). -/
def Dev.slewMax (d : Dev) : Int := d.eff F.tbCtlSlewMax 8 1000 * 8
def Dev.stepThr (d : Dev) : Int :=
  let v := d.eff F.tbCtlStepThr 16 65535
  (if v < d.eff F.tbCtlSlewMax 8 1000 then F.tbCtlStepThr.reset else v) * 8

/-- A carrier exists, or a schedule is ARMED, RUNNING, HELD or STOPPING (R243). -/
def Dev.gridLive (d : Dev) : Bool :=
  (tabKeys d.carriers).any (fun c => d.carrierExists c) || (List.range 32).any (fun p => decide (3 ≤ d.esState p ∧ d.esState p ≤ 6))

/-- FADJ is written, clamped to 50 ppm; at a clamp PULL_LIMIT is set (R241). -/
def setFadj (x : Int) (d : Dev) : Dev :=
  let y := clampI (-14073748835) 14073748835 x
  (d.setF F.tbFadjFadj 0 (ofSigned 40 y)).raiseIf (decide (y = 14073748835 ∨ y = -14073748835)) F.tbStatusPullLimit

/-- f_sync: a measurement of the source's frequency, or 0 without one or with HYBRID = 0 (R239, R241). -/
def measureSync (d : Dev) : Dev :=
  if d.flag F.tbCtlHybrid ∧ d.servo.src.isSome then
    let read := takeFree 40 d
    let v := read.1
    let d := read.2
    d.modServo (fun s => { s with fsync := v.toInt })
  else d.modServo (fun s => { s with fsync := 0 })

/-- The 100 ppb of a slew in units of 2^-48 (R244). -/
def slewRate : Int := 28147498

/-- One loop update for an accepted offset (R241). -/
def loopUpdate (theta : Int) (d : Dev) : Dev :=
  let d := measureSync d
  let u := (theta * 2 ^ 48).tdiv 500000000
  let i := clampI (-2814749767) 2814749767 (d.servo.i + roundShift u (d.eff F.tbCtlKiSh 4 15))
  let o := d.servo.fsync - i - roundShift u (d.eff F.tbCtlKpSh 1 12)
  let out := clampI (-14073748835) 14073748835 o - d.servo.fsync
  setFadj o (d.modServo (fun s => { s with i := i, outs := (out :: s.outs).take 256 }))

/-- The servo enters HOLDOVER: fadj at the mean of its last 256 outputs, plus f_sync while a source remains (R242). -/
def enterHoldover (d : Dev) : Dev :=
  if d.servoSt = 3 then d
  else
    let o := d.servo.outs
    let d := (d.setF F.tbStatusState 0 3).raise F.tbStatusHoldover
    let d := d.modServo (fun s => { s with good := 0, outliers := [], slew := none })
    if o = [] then d else setFadj ((o.foldl (· + ·) 0).tdiv o.length + d.servo.fsync) d

/-- The servo enters ACQUIRING. -/
def enterAcquiring (d : Dev) : Dev := (d.setF F.tbStatusState 0 1).modServo (fun s => { s with good := 0, outliers := [] })

/-- An offset within SLEW_MAX: it ends a slew, feeds the loop, and the 16th in a row locks the servo (R241). -/
def goodOffset (theta : Int) (d : Dev) : Dev :=
  let d := if d.servoSt = 3 then enterAcquiring d else d
  let d := loopUpdate theta (d.modServo (fun s => { s with outliers := [], good := s.good + 1, slew := none }))
  if d.servoSt = 1 ∧ 16 ≤ d.servo.good then (d.setF F.tbStatusState 0 2).modServo (fun s => { s with everLocked := true }) else d

/-! ### Steps (R243 to R245) -/

/-- PPS_OUT rises (R438). -/
def ppsRise (d : Dev) : Dev := d.modPins (fun x => { x with ppsOut := true, ppsAt := some d.nt })

/-- Device-kept times move with the step, so that their remaining length is unchanged (R245). -/
def shiftKept (v : BitVec 64) (d : Dev) : Dev :=
  let d := d.modTeril (fun t =>
    { t with ld := if t.ld = 0 then 0 else t.ld + v
             reqs := t.reqs.map (fun e => (e.1, { e.2 with itime := e.2.itime + v, last := e.2.last + v }))
             tagBusy := t.tagBusy.map (fun e => (e.1, e.2 + v))
             replies := t.replies.map (fun e => (e.1, { e.2 with expiry := e.2.expiry + v }))
             bulkDone := t.bulkDone.map (fun e => (e.1, e.2 + v))
             noticed := t.noticed.map (fun e => (e.1, e.2 + v))
             mirAt := t.mirAt + v
             copying := t.copying.map (fun (a, b, c, w, x) => (a, b, c, w, x + v)) })
  let d := d.modServo (fun s => { s with announce := s.announce + v, lastSync := s.lastSync + v, t3 := none, sync := none })
  let d := d.modPins (fun x => { x with pwrcycAt := x.pwrcycAt + v, ppsAt := x.ppsAt.map (· + v) })
  { d with ports := d.ports.map (fun e => (e.1,
             { e.2 with sending := e.2.sending.map (fun x => (x.1, x.2 + v))
                        queues := e.2.queues.map (fun q => (q.1, q.2.map (fun f => { f with at_ := f.at_ + v }))) }))
           sessions := d.sessions.map (fun e => (e.1, { e.2 with opening := e.2.opening.map (· + v) }))
           rings := d.rings.map (fun e => (e.1, { e.2 with polled := e.2.polled + v }))
           ladders := d.ladders.map (fun e => (e.1, { e.2 with at_ := e.2.at_ + v }))
           oosResets := d.oosResets.map (· + v) }

/-- The grid of a partition's schedule moves with the step: TIME_STEP and, while it runs, an epoch report (R151, R152). -/
def stepSched (v : Int) (d : Dev) (p : Nat) : Dev :=
  let st := d.esState p
  if st < 3 ∨ 6 < st then d
  else
    let d := d.raise F.esStatusTimeStep p
    if st = 3 then d else epochReport p 4 (d.epoch p) (ofSigned 32 v) 0 0 0 d

/-- A whole second lies in the span a forward step skips. -/
def skipsSecond (a b : Nat) : Bool := decide (a / 8000000000 < b / 8000000000)

/-- Boundaries of a period that a forward step skips are not acted on. -/
def skipBeat (k period : Nat) (d : Dev) : Dev :=
  match d.beat k period 0 with
  | some b => if b = d.nt then d else beatDone k b d
  | none => d

/-- A step of v eighths of a ns is applied (R245, R254, R438). -/
def stepTime (v : Int) (d : Dev) : Dev :=
  let w := BitVec.ofNat 64 (ofSigned 64 v)
  let old := d.nt
  let d := skipBeat 5 8000000000 (skipBeat 2 8000 (shiftKept w { d with nt := d.nt + w }))
  let d := (d.raise F.tbStatusStepped).addSat F.tbStatusSteps 0 1
  let d := (List.range 32).foldl (stepSched v) d
  if 0 < v ∧ skipsSecond old.toNat d.nt.toNat ∧ d.flag F.ppsCtlOutEn then (ppsRise d).raise F.ppsCtlOutStepped else d

/-- A step is refused: the servo is in HOLDOVER, and the request waits in TB_STEP_REQ with a step record (R243). -/
def refuseStep (v : Int) (d : Dev) : Dev :=
  let d := (enterHoldover d).raise F.tbStatusStepRefused
  let d := d.setF F.tbStepReqStep 0 (ofSigned 40 v)
  let d := (d.setF F.tbStepReqSeq 0 (d.getF F.tbStepReqSeq + 1)).setF F.tbStepReqPending 0 1
  mgmtReport 5 (leBytes 8 (d.getF F.tbStepReqStep + d.getF F.tbStepReqSeq * 2 ^ 40) ++ leBytes 8 (d.getF F.tbStatusSlave)) d

/-- A requested step: applied at once within STEP_THR or while no grid lives, else refused (R241, R243). -/
def requestStep (v : Int) (d : Dev) : Dev :=
  let d := d.modServo (fun s => { s with outliers := [] })
  if ¬ d.gridLive ∨ (-d.stepThr ≤ v ∧ v ≤ d.stepThr) then enterAcquiring (stepTime v d) else refuseStep v d

/-- The offset of smallest magnitude. -/
def smallest (l : List Int) : Int := l.foldl (fun a b => if b.natAbs < a.natAbs then b else a) (l.headD 0)

/-- An offset beyond SLEW_MAX: the fourth in a row of one sign requests a step (R241). A frozen request, or a slew that runs, takes none. -/
def outlier (theta : Int) (d : Dev) : Dev :=
  let l := theta :: d.servo.outliers.filter (fun x => decide (x < 0) == decide (theta < 0))
  let d := d.modServo (fun s => { s with outliers := l.take 4, good := 0 })
  if 4 ≤ l.length ∧ ¬ d.flag F.tbStepReqPending ∧ d.servo.slew.isNone then requestStep (-(smallest (l.take 4))) d
  else d.raise F.tbStatusOutlier

/-- A confirmed offset and mean path delay (R240, R241). -/
def offset (theta mpd : Int) (d : Dev) : Dev :=
  let d := (d.setF F.tbOffsetTheta 0 (ofSigned 32 theta)).setF F.tbOffsetMpd 0 (ofSigned 32 mpd)
  if d.slewMax < theta ∨ theta < -d.slewMax then outlier theta d
  else if d.servoSt = 3 ∧ d.flag F.tbStepReqPending then d
  else goodOffset theta d

/-- TB_STEP_ACCEPT (R244). -/
def tbStepAccept (c : Src) (seq mode : Nat) (d : Dev) : Dev :=
  if 1 < mode then done c 2 d
  else if ¬ d.flag F.tbStepReqPending ∨ d.getF F.tbStepReqSeq ≠ seq then done c 0x71 d
  else
    let v := toSigned 40 (d.getF F.tbStepReqStep)
    let d := enterAcquiring (d.setF F.tbStepReqPending 0 0)
    if mode = 0 then done c 0 (stepTime v d)
    else
      let s : Int := if v < 0 then -slewRate else slewRate
      done c 0 (setFadj (toSigned 40 (d.getF F.tbFadjFadj) + s) (d.modServo (fun x => { x with slew := some s })))

def execTbStepAccept (c : Src) (seq mode : Nat) (s : State) : Res := upd s (tbStepAccept c seq mode)

/-! ### PTP messages (R236 to R240) -/

/-- A message of the timebase joins its queue: 2 of a fronthaul port, 1 of a Teril link, where it is a CTRL flit of subtype 4 (R246, R256). -/
def sendTiming (e kind : Nat) (bytes : Bytes) (d : Dev) : Dev :=
  if isTeril e then
    enqueue e 1 { flitFrame (hdrOf [(0, 8), (16, d.getF F.tlSelfFaddr), (28, 4)]) bytes with ptp := some kind } d
  else enqueue e 2 { len := 64, at_ := 0, bytes := bytes, ptp := some kind } d

/-- TB_CTL.DOMAIN (R238, R446). -/
def Dev.ptpDomain (d : Dev) : Nat := d.eff F.tbCtlDomain 24 43

/-- Port e is the slave port. -/
def Dev.isSlave (d : Dev) (e : Nat) : Bool := d.flag F.tbStatusSlaveValid && decide (d.getF F.tbStatusSlave = e)

/-- The BMCA makes port e the slave port (R238, R241). -/
def chooseSlave (e : Nat) (d : Dev) : Dev :=
  if d.flag F.tbPortCfgNotSlave e ∨ d.isSlave e then d
  else
    let d := (d.setF F.tbStatusSlave 0 e).setF F.tbStatusSlaveValid 0 1
    let d := d.modServo (fun s => { s with lastSync := d.nt, sync := none, t3 := none, outliers := [], good := 0 })
    if d.servoSt = 0 then enterAcquiring d else d

/-- A received PTP message of a domain on port e (R237 to R240); one of another domain is not this clock's (log 157). -/
def ptpMessage (e dom : Nat) (m : PtpMsg) (d : Dev) : Dev :=
  let d := if isTeril e then flitIn (e - 16) d else d
  if ¬ d.flag F.tbPortCfgPtpEn e ∨ dom ≠ d.ptpDomain then d
  else match m with
  | .malformed => d.raise F.tbPortStatusPtpRxErr e
  | .announce best =>
    let d := if best then chooseSlave e d else d
    if d.isSlave e then d.modServo (fun s => { s with announce := d.nt }) else d
  | .delayReq =>
    if d.isSlave e then d
    else
      let read := stampIn e d
      let t4 := read.1
      let d := read.2
      sendTiming e 2 (leBytes 8 t4.toNat) d
  | .sync t1 c1 =>
    if ¬ d.isSlave e then d
    else
      let read := stampIn e d
      let t2 := read.1
      let d := read.2
      d.modServo (fun s => { s with sync := some (t1, t2, c1), t3 := none, lastSync := d.nt })
  | .delayResp t4 c2 =>
    if ¬ d.isSlave e then d
    else match d.servo.sync, d.servo.t3 with
      | some (t1, t2, c1), some t3 =>
        let a := (t2 - t1).toInt - roundShift c1 13
        let b := (t4 - t3).toInt - roundShift c2 13
        let d := d.modServo (fun s => { s with sync := none, t3 := none })
        if (d.nt - t2).toInt ≤ 1000000000 then offset (roundShift (a - b) 1) (roundShift (a + b) 1) d else d
      | _, _ => d

def execPtpMessageReceive (e : Nat) (m : PtpFrame) (s : State) : Res := there (e < portCount) s (upd s (ptpMessage e m.dom m.msg))

/-- SLAVE_PORT_LOST: 375 ms without Announce or without Sync (R241, R243). -/
def slaveLost (d : Dev) : Dev :=
  let gone := fun (t : BitVec 64) => decide (3000000000 ≤ (d.nt - t).toInt)
  if ¬ d.flag F.tbStatusSlaveValid ∨ ¬ (gone d.servo.announce || gone d.servo.lastSync) then d
  else
    let d := (d.setF F.tbStatusSlaveValid 0 0).setF F.tbStepReqPending 0 0
    if d.servo.everLocked then enterHoldover d
    else if d.servoSt = 1 then d.setF F.tbStatusState 0 0 else d

def execSlavePortLost (s : State) : Res := upd s slaveLost

/-- SYNCE_SOURCE_LOST: the frequency term freezes, and the servo goes on with PTP alone (R239, R241, R242). -/
def synceLost (d : Dev) : Dev :=
  match d.servo.src with
  | none => d
  | some e =>
    let d := (d.raise F.tbStatusFreqLost).raise F.tbPortStatusFsrcLost e
    let d := (d.setF F.tbStatusFreqOk 0 0).modServo (fun s => { s with src := none, fsync := 0 })
    let o := d.servo.outs
    if d.servoSt = 3 ∧ o ≠ [] then setFadj ((o.foldl (· + ·) 0).tdiv o.length) d else d

def execSynceSourceLost (s : State) : Res := upd s synceLost

/-- ESMC_RECEIVE: the port's quality level; `choose`: Lorgil makes the port the frequency source (R239). -/
def esmc (e ql : Nat) (choose : Bool) (d : Dev) : Dev :=
  let d := if isTeril e then flitIn (e - 16) d else d
  let d := d.modPort e (fun p => { p with ql := some ql })
  if choose ∧ d.flag F.tbPortCfgFsrc e ∧ d.flag F.tbCtlHybrid then
    (d.setF F.tbStatusFreqOk 0 1).modServo (fun s => { s with src := some e })
  else d

def execEsmcReceive (e ql : Nat) (choose : Bool) (s : State) : Res := there (e < portCount) s (upd s (esmc e ql choose))

/-- The interval of Sync and Delay_Req, 62.5 ms (R238). -/
def ptpInterval : Nat := 500000000

/-- A message that port e sends once per period, where `ok` holds. -/
def sendEach (key period e kind : Nat) (bytes : Bytes) (ok : Bool) (d : Dev) : Dev :=
  match d.beat key period 0 with
  | none => d
  | some b => if ok then sendTiming e kind bytes (beatDone key b d) else beatDone key b d

/-- The quality level of the source in use; none: no source (R239). -/
def Dev.sourceQl (d : Dev) : Option Nat := d.servo.src.bind (fun e => (d.port e).ql)

/-- PTP_SYNC_SEND: a master port sends a Sync sixteen times a second (R237, R238); with it the Announce messages, eight times a second, and
the ESMC messages of Lorgil firmware, once a second (R238, R239, log 157). -/
def syncSend (e : Nat) (d : Dev) : Dev :=
  let master := ! d.isSlave e && decide (d.mbps e ≠ 0)
  let ptp := master && d.flag F.tbPortCfgPtpEn e
  let d := sendEach (48 + e) (2 * ptpInterval) e 4 [] ptp (sendEach (16 + e) ptpInterval e 0 [] ptp d)
  sendEach (80 + e) (16 * ptpInterval) e 5 (leBytes 1 (d.sourceQl.getD 15)) master d

def execPtpSyncSend (e : Nat) (s : State) : Res := there (e < portCount) s (upd s (syncSend e))

/-- DELAY_REQ_SEND: the slave port sends a Delay_Req sixteen times a second (R237, R238). -/
def delayReqSend (d : Dev) : Dev :=
  match d.beat 8 ptpInterval 0 with
  | none => d
  | some b =>
    let d := beatDone 8 b d
    if d.flag F.tbStatusSlaveValid then sendTiming (d.getF F.tbStatusSlave) 1 [] d else d

def execDelayReqSend (s : State) : Res := upd s delayReqSend

/-! ### Pulses (R437, R438) -/

/-- PPS_IN_EDGE: the edge is time-stamped within ±2 ns (R437). -/
def ppsIn (d : Dev) : Dev :=
  let read := takeFree 6 d
  let j := read.1
  let d := read.2
  (d.setF F.ppsInNt 0 (d.nt + BitVec.ofNat 64 (j.toNat % 33) - 16).toNat).raise F.ppsCtlInSeen

def execPpsInEdge (s : State) : Res := updS s ppsIn

/-- PPS_OUT_PULSE: PPS_OUT rises in the T-cycle in which network time reaches a whole second; a boundary that a backward step brings again gives none (R438). -/
def ppsPulse (d : Dev) : Dev :=
  match d.beat 5 8000000000 0 with
  | none => d
  | some b =>
    let d := beatDone 5 b d
    if d.flag F.ppsCtlOutEn ∧ (d.nt - b).toNat < 8 then ppsRise d else d

def execPpsOutPulse (s : State) : Res := updS s ppsPulse

/-- PPS_OUT falls 100 ms after its rise (R438). -/
def ppsFall (d : Dev) : Dev :=
  match d.pins.ppsAt with
  | some t => if reached d (later t 800000000) then d.modPins (fun x => { x with ppsOut := false, ppsAt := none }) else d
  | none => d

end Sys2Proof.Machine
end

