-- ==== Sys2Proof/Machine/Radio.lean ====
section
/-! DEFINITION. Fronthaul: carriers and their descriptors (R162 to R164, R451), the frame grid (R165), downlink egress (R166 to
R168), uplink ingress (R169 to R172), admission (R173), time-domain mode (R174, R175), gain (R176, R177), frequency and TDD control
words (R178 to R183), ownership (R184 to R186), and the start of a frame on any egress port (R247). -/

namespace Sys2Proof.Machine

open Sys2Proof

/-- x / y rounded to the nearest integer, ties to even (R38). -/
def roundDiv (x : Int) (y : Nat) : Int :=
  let q := x.fdiv (y : Int)
  let r := 2 * (x - q * y)
  if r > y ∨ (r = y ∧ q % 2 = 1) then q + 1 else q

/-! ### Carrier descriptor (R162) -/

def dMu (b : Bytes) : Nat := fld b 0 9 8
def dCatB (b : Bytes) : Bool := bit b 0 10
def dTd (b : Bytes) : Bool := bit b 0 11
def dPort (b : Bytes) : Nat := fld b 0 15 12
def dNprb (b : Bytes) : Nat := fld b 0 24 16
def dTx (b : Bytes) : Nat := fld b 4 5 0 + 1
def dRx (b : Bytes) : Nat := fld b 4 11 6 + 1
def dPrach (b : Bytes) : Nat := fld b 4 15 12
/-- Uplink and PRACH streams. -/
def dUl (b : Bytes) : Nat := dRx b + dPrach b
/-- udIqWidth 0 means 16 (R46). -/
def iqWidth (w : Nat) : Nat := if w = 0 then 16 else w
def dT1aMax (b : Bytes) : Nat := at_ b 0x18 2 * 800
def dT1aMin (b : Bytes) : Nat := at_ b 0x1A 2 * 800
def dTcpAdv (b : Bytes) : Nat := at_ b 0x1C 2 * 800
def dTa4Min (b : Bytes) : Nat := at_ b 0x1E 2 * 800
def dTa4Max (b : Bytes) : Nat := at_ b 0x20 2 * 800
def dRhAddr (b : Bytes) : Nat := at_ b 0x34 4
def dApply (b : Bytes) : Nat := at_ b 0x38 4

/-- Symbols of the TDD period. -/
def dSyms (b : Bytes) : Nat := 14 * (fld b 0x28 22 16 + 1)

/-- Bytes of the pattern (R451). -/
def patBytes (b : Bytes) : Nat := ceilDiv (2 * dSyms b) 8

/-- Code of symbol x of the period: 0 D, 1 U, 2 G, 3 both (R451). -/
def pat (b : Bytes) (x : Nat) : Nat := at_ b 80 (patBytes b) / 4 ^ x % 4

/-- An FDD carrier (R163). -/
def isFdd (b : Bytes) : Bool := decide (dSyms b = 14) && (List.range 14).all (fun x => pat b x = 3)

/-- The code of symbol l of carrier slot n. -/
def symCode (b : Bytes) (n l : Nat) : Nat := pat b ((n * 14 + l) % dSyms b)

/-! ### Frame grid (R165) -/

/-- Start of symbol k of a frame in Tc. -/
def symTc (mu k : Nat) : Nat := k * (140288 / 2 ^ mu) + 1024 * ceilDiv k (7 * 2 ^ mu)

/-- Start of symbol k of frame 0 in eighths of a ns, counted on over later frames. -/
def symTime (mu k : Nat) : Nat :=
  let per := 140 * 2 ^ mu
  k / per * 80000000 + (roundDiv (symTc mu (k % per) * 15625 : Nat) 3840).toNat

/-- The air time of symbol l of carrier slot n; l = 14 is the end of symbol 13. -/
def Dev.air (d : Dev) (mu n l : Nat) : BitVec 64 :=
  BitVec.ofNat 64 (d.gridOfs + symTime mu (n * 14 + l))

/-- The start of frame f. -/
def Dev.frameStart (d : Dev) (f : Nat) : BitVec 64 := BitVec.ofNat 64 (d.gridOfs + f * 80000000)

/-- The frame in progress; 0 before the first. -/
def Dev.frameNow (d : Dev) : Nat := (d.nt.toNat - d.gridOfs) / 80000000

/-! ### Time-domain mode (R174) -/

/-- FFT size. -/
def fftSize (b : Bytes) : Nat := ([512, 1024, 2048].find? (fun n => decide (12 * dNprb b * 100 ≤ n * 85))).getD 4096

/-- Prefix samples of symbol l of slot n. -/
def prefixLen (b : Bytes) (n l : Nat) : Nat := (if (n * 14 + l) % (7 * 2 ^ dMu b) = 0 then 160 else 144) * fftSize b / 2048

/-- Blocks of a line: resource blocks, or blocks of 12 samples (R169, R175). -/
def lineBlocks (b : Bytes) : Nat := if dTd b then ceilDiv (fftSize b) 12 else dNprb b

/-! ### Status counts -/

def modCnt (c n : Nat) (f : SlotCnt → SlotCnt) (d : Dev) : Dev := d.modCarrier c (fun x => { x with cnt := tabMod {} x.cnt n f })

/-- The latest descriptor of a carrier; a carrier that is being deleted counts no more. -/
def Dev.latestDesc (d : Dev) (c : Nat) : Option Bytes :=
  let x := d.carrier c
  match x.pend with
  | some b => some b
  | none => if x.desc = [] ∨ x.deleting then none else some x.desc

/-! ### Admission (R173) -/

/-- bytes_per_symbol of a width and method. -/
def symBytes (b : Bytes) (w m : Nat) : Nat :=
  let blk := ceilDiv (24 * iqWidth w + 4 * m) 8
  if dTd b then ceilDiv (fftSize b * 15) (14 * 12) * blk else dNprb b * blk

/-- Bits per second of `streams` streams. -/
def rate (mtu : Nat) (b : Bytes) (streams w m : Nat) : Nat :=
  let y := symBytes b w m
  streams * (y + 96 * ceilDiv y (mtu - 64)) * 8 * 14000 * 2 ^ dMu b

def dlRate (mtu : Nat) (b : Bytes) : Nat := rate mtu b (dTx b) (fld b 8 11 8) (fld b 8 12 12)
def ulRate (mtu : Nat) (b : Bytes) : Nat := rate mtu b (dUl b) (fld b 8 3 0) (fld b 8 4 4)

/-- MTU of a port. -/
def Dev.mtu (d : Dev) (port : Nat) : Nat := d.eff F.fhQuadCfgMtu 1518 9216 (port / 4)

/-- The latest descriptors of the other carriers. -/
def Dev.otherDescs (d : Dev) (c : Nat) : List Bytes := ((tabKeys d.carriers).filter (· ≠ c)).filterMap d.latestDesc

/-- Both directions of the port stay within 95 % of its rate. -/
def Dev.portFits (d : Dev) (b : Bytes) : Bool :=
  let port := dPort b
  let all := b :: (d.otherDescs (fld b 0 7 0)).filter (fun x => dPort x = port)
  let cap := modeMbps (d.getF F.fhQuadCfgMode (port / 4)) port * 1000000 * 95
  decide (sumL (all.map (dlRate (d.mtu port))) * 100 ≤ cap ∧ sumL (all.map (ulRate (d.mtu port))) * 100 ≤ cap)

/-! ### TDD switch list (R181, R182) -/

/-- The first symbol at or after x, of at most `fuel`, whose code is k. -/
def symFrom (b : Bytes) (k : Nat) : Nat → Nat → Option Nat
  | 0, _ => none
  | fuel + 1, x => if pat b (x % dSyms b) = k then some x else symFrom b k fuel (x + 1)

/-- The first symbol at or after x that is not D. -/
def runEnd (b : Bytes) : Nat → Nat → Nat
  | 0, x => x
  | fuel + 1, x => if pat b (x % dSyms b) = 0 then runEnd b fuel (x + 1) else x

/-- The last U symbol before x, of at most `fuel`. -/
def uBefore (b : Bytes) : Nat → Nat → Option Nat
  | 0, _ => none
  | _ + 1, 0 => none
  | fuel + 1, x + 1 => if pat b (x % dSyms b) = 1 then some x else uBefore b fuel x

/-- First symbols of the D runs of one period, counted from the period's second copy. -/
def dRuns (b : Bytes) : List Nat :=
  ((List.range (dSyms b)).map (· + dSyms b)).filter (fun s => pat b (s % dSyms b) = 0 ∧ pat b ((s - 1) % dSyms b) ≠ 0)

/-- The switch list: offset in the period in eighths of a ns and state 1 ramp-up, 2 transmit, 3 ramp-down, 4 receive. -/
def tddList (b : Bytes) : List (Nat × Nat) :=
  let n := dSyms b
  let t := symTime (dMu b)
  let per := t (2 * n) - t n
  let up := at_ b 0x24 2 * 800
  let dn := at_ b 0x26 2 * 800
  if isFdd b then []
  else if (List.range n).all (fun x => pat b x = 0) then [(0, 2)]
  else ((dRuns b).flatMap (fun s =>
    let e := runEnd b n s
    [(t s - up, 1), (t s, 2), (t e, 3), (t e + dn, 4)])).map (fun x => ((x.1 + 2 * per - t n) % per, x.2))

/-- The ramps fit their gaps: times scaled by 768, N_TA,offset × Tc being 3,125 of those units each (R182). -/
def rampFits (b : Bytes) : Bool :=
  let n := dSyms b
  let t := symTime (dMu b)
  let nta := at_ b 0x22 2 * 3125
  isFdd b || (dRuns b).all (fun s =>
    let e := runEnd b n s
    (match symFrom b 1 n e with
      | some u => decide ((t e + at_ b 0x26 2 * 800) * 768 + nta ≤ t u * 768)
      | none => true) &&
    (match uBefore b n s with
      | some v => decide (t (v + 1) * 768 ≤ (t s - at_ b 0x24 2 * 800) * 768 + nta)
      | none => true))

/-! ### CARRIER_CFG and CARRIER_DEL (R164) -/

/-- The checks of CARRIER_BAD. -/
def carrierOk (d : Dev) (b : Bytes) : Bool :=
  let mixed := (List.range (dSyms b)).any (fun x => pat b x = 3) && ! isFdd b
  rsv b 0 31 25 && rsv b 8 31 21 && rsv b 0x28 15 13 && rsv b 0x28 31 23 && rsv b 0x2C 31 19 && rsv b 0x30 7 4 && rsv b 0x3C 31 16 &&
    decide (1 ≤ dNprb b ∧ dNprb b ≤ 273 ∧ dPrach b ≤ 8 ∧ fld b 8 3 0 ≠ 1 ∧ fld b 8 11 8 ≠ 1 ∧ fld b 8 19 16 ≠ 1) &&
    [0x18, 0x1A, 0x1C, 0x1E, 0x20].all (fun o => decide (at_ b o 2 ≤ 20000)) &&
    decide (dT1aMin b ≤ dT1aMax b ∧ dTa4Min b ≤ dTa4Max b) &&
    [0x24, 0x26].all (fun o => decide (20 ≤ at_ b o 2 ∧ at_ b o 2 ≤ 200)) &&
    decide (1 ≤ at_ b 0x2C 2 ∧ at_ b 0x2C 2 ≤ 32767) && decide (at_ b 0x40 8 % 64 = 0 ∧ at_ b 0x48 8 % 64 = 0) &&
    decide (at_ b 80 (patBytes b) < 4 ^ dSyms b) && ! mixed &&
    decide (sumL ((b :: d.otherDescs (fld b 0 7 0)).map (fun x => dTx x + dUl x)) ≤ 8192)

/-- The status of CARRIER_CFG's checks (R164). -/
def carrierStatus (d : Dev) (b : Bytes) : Nat :=
  if ¬ carrierOk d b then 0x31
  else if ¬ d.portFits b then 0x32
  else if ¬ rampFits b then 0x33
  else if (d.frameStart (dApply b) - d.nt).toInt < 16000000 then 0x34
  else if 256 < (tddList b).length then 0x37
  else 0

/-- A control-class frame of a carrier: its token is checked at its start (R184, R246). -/
def sendControl (c : Nat) (b : Bytes) (ptp : Option Nat) (bytes : Bytes) (d : Dev) : Dev :=
  enqueue (dPort b) 1 { len := bytes.length, at_ := 0, bytes := bytes, carrier := some (c, d.frameNow * 10 * 2 ^ dMu b), ptp := ptp } d

/-- The switch list goes to the head in frame APPLY_FRAME - 1 (R183). -/
def sendTdd (c : Nat) (b : Bytes) (d : Dev) : Dev :=
  if isFdd b ∨ dRhAddr b = 0 ∨ d.frameNow + 1 ≠ dApply b then d
  else
    let l := tddList b
    sendControl c b none (Config.rmaFrame b (dRhAddr b + 0x100) (Config.switchList 2 l.length l)) d

/-- CARRIER_CFG (R164): the descriptor waits for the first boundary of APPLY_FRAME. -/
def carrierCfg (c : Src) (addr len : Nat) (d : Dev) : Dev :=
  let b := d.hostRead addr len
  if addr % 64 ≠ 0 ∨ len < 80 ∨ len ≠ 80 + patBytes b then done c 2 d
  else if d.oos then done c 0xE3 d
  else
    let st := carrierStatus d b
    if st ≠ 0 then done c st d
    else
      let k := fld b 0 7 0
      done c 0 (sendTdd k b (d.modCarrier k (fun x => { x with pend := some b })))

def execCarrierCfg (c : Src) (addr len : Nat) (s : State) : Res := upd s (carrierCfg c addr len)

/-- The token of a carrier becomes NONE. -/
def dropToken (k : Nat) (d : Dev) : Dev := (d.setF F.fhOwnState k 0).setF F.fhOwnEpoch k 0

/-- CARRIER_DEL (R164): the token goes at once, the carrier at the next frame boundary. -/
def carrierDel (c : Src) (k : Nat) (d : Dev) : Dev :=
  if ¬ d.carrierExists k then done c 0x36 d
  else
    let d := dropToken k d
    let x := d.carrier k
    done c 0 (if x.desc = [] then d.setCarrier k { revoking := x.revoking } else d.setCarrier k { x with pend := none, deleting := true })

def execCarrierDel (c : Src) (k : Nat) (s : State) : Res := upd s (if k < 256 then carrierDel c k else done c 0x36)

/-! ### Ownership (R185, R186) -/

/-- OWN_GRANT (R185). -/
def ownGrant (c : Src) (k epoch : Nat) (d : Dev) : Dev :=
  let m := d.getF F.fhMemberMepoch
  if d.oos then done c 0xE3 d
  else if ¬ d.carrierExists k then done c 0x36 d
  else if epoch < m then done c 0x35 d
  else done c 0 ((d.setF F.fhOwnState k (if epoch = m then 2 else 1)).setF F.fhOwnEpoch k epoch)

def execOwnGrant (c : Src) (k epoch : Nat) (s : State) : Res := upd s (if k < 256 then ownGrant c k epoch else done c 0x36)

/-- OWN_REVOKE (R185): the token goes at once; the command completes when the frame that its port sends has left. -/
def ownRevoke (c : Src) (k : Nat) (d : Dev) : Dev :=
  if ¬ d.carrierExists k then done c 0x36 d
  else
    let d := dropToken k d
    let x := d.carrier k
    if x.desc = [] ∨ d.txFree (dPort x.desc) then done c 0 d
    else
      d.modCarrier k (fun x => { x with revoking := x.revoking ++ [(c, dPort x.desc)] })

def execOwnRevoke (c : Src) (k : Nat) (s : State) : Res := upd s (if k < 256 then ownRevoke c k else done c 0x36)

/-- Revocations whose port has become free complete (R185). -/
def revokesDone (d : Dev) : Dev :=
  (tabKeys d.carriers).foldl (fun d k =>
    let freed := (d.carrier k).revoking.filter (fun r => d.txFree r.2)
    if freed = [] then d
    else freed.foldl (fun d r => done r.1 0 d) (d.modCarrier k (fun x => { x with revoking := x.revoking.filter (fun r => ! d.txFree r.2) }))) d

/-- LEASE_EXPIRY: network time reaches LD (R186, R400). -/
def leaseExpiry (d : Dev) : Dev :=
  if d.teril.ld = 0 ∨ ¬ ntLe d.teril.ld d.nt then d
  else enterFenced ((clearTokens (d.modTeril (fun t => { t with ld := 0 }))).raise F.fhMemberLapsed)

def execLeaseExpiry (s : State) : Res := upd s leaseExpiry

/-! ### Gain (R176, R177) -/

/-- g of a stream; 4,096 when the carrier is created. -/
def Carrier.gain (x : Carrier) (r : Nat) : Nat := if tabGet 0 x.g r = 0 then 4096 else tabGet 0 x.g r

/-- g as it stood at a time. -/
def Carrier.gainAt (x : Carrier) (r : Nat) (t : BitVec 64) : Nat :=
  match (tabGet [] x.gHist r).find? (fun e => ntLe e.1 t) with
  | some e => e.2
  | none => if tabGet [] x.gHist r = [] then x.gain r else 4096

/-- g reaches a value: entries older than 4 ms are kept up to the newest of them. -/
def setGain (k r g : Nat) (d : Dev) : Dev :=
  d.modCarrier k (fun x =>
    let old := tabGet [] x.gHist r
    let fresh := old.takeWhile (fun e => decide ((d.nt - e.1).toInt < 32000000))
    { x with g := tabSet 0 x.g r g, gHist := tabSet [] x.gHist r ((d.nt, g) :: fresh ++ (old.drop fresh.length).take 1) })

/-- The detection window that a line lies in: of an uplink stream, an uplink symbol (R177). -/
def Carrier.window (x : Carrier) (n l r : Nat) : Option Window :=
  if r < dRx x.desc ∧ symCode x.desc n l ≠ 1 ∧ symCode x.desc n l ≠ 3 then none
  else (x.win.find? (fun e => e.1 % 128 = r ∧ e.2.slot = n ∧ e.2.first ≤ l ∧ l ≤ e.2.last)).map (·.2)

/-- loop_update of R176: s the sum of squares, m the number of samples. -/
def loopGain (s m tgt a g : Nat) : Nat :=
  let rms := Nat.sqrt (s / (m * 2 ^ 30))
  let target : Int := if rms = 0 then 65535 else clampI 256 65535 (roundDiv (tgt * 4096 : Nat) rms)
  (clampI 256 65535 (g + roundShift (target - g) a)).toNat

/-! ### Downlink (R166 to R168) -/

/-- The slot area of slot n in the downlink buffer. -/
def slotArea (k : Nat) (b : Bytes) (n : Nat) : Nat := at_ b 0x48 8 + n % 4 * (64 + 32 * 4096 + Config.dlPayload k)

/-- Key of a section record. -/
def sectKey (n i : Nat) : Nat := n * 4096 + i

/-- The record's state of Carrier.sent, and its change. -/
def Dev.sentOf (d : Dev) (k n i : Nat) : Nat := tabGet 0 (d.carrier k).sent (sectKey n i)
def setSent (k n i v : Nat) (d : Dev) : Dev := d.modCarrier k (fun x => { x with sent := tabSet 0 x.sent (sectKey n i) v })

/-- First symbol and number of symbols of a record. -/
def rSym (r : Bytes) : Nat := fld r 0 3 0
def rNsym (r : Bytes) : Nat := fld r 0 7 4 + 1

/-- A record lies in the carrier and has a section type of its category (R161). -/
def recordOk (b r : Bytes) : Bool :=
  let n := if fld r 4 17 9 = 0 then dNprb b - fld r 4 8 0 else fld r 4 17 9
  let ty := fld r 0 16 14
  decide (rSym r + rNsym r ≤ 14 ∧ 1 ≤ n ∧ fld r 4 8 0 + n ≤ dNprb b ∧ fld r 0 13 8 < max (dTx b) (dUl b)) &&
    (if dCatB b then decide (ty ≤ 1 ∨ ty = 3 ∨ ty = 5 ∨ ty = 6) else decide (ty ≤ 1 ∨ ty = 3))

/-- A section carries U-plane data: types 1 and 3 that are not C-plane only. -/
def hasUplane (r : Bytes) : Bool := ! bit r 0 17 && decide (fld r 0 16 14 = 1 ∨ fld r 0 16 14 = 3)

/-- Every symbol of the section is D, or the carrier is FDD (R167). -/
def sectionDown (b r : Bytes) (n : Nat) : Bool :=
  (List.range (rNsym r)).all (fun x => decide (symCode b n (rSym r + x) = 0 ∨ symCode b n (rSym r + x) = 3))

/-- A read of p0's memory by FH for a frame of a port; an unmapped page counts in UNKNOWN (R225). -/
def fhRead (port a n : Nat) (d : Dev) : Bytes × Dev :=
  let read := tierRead 3 0 0 a n d
  (read.1, read.2.raiseIf (d.vMissing 0 a n).isSome F.fhPortStatusUnknown port)

/-- Header and record i of slot n as memory holds them; none: the area holds another slot, or the record is not there. -/
def readSection (k : Nat) (b : Bytes) (n i : Nat) (d : Dev) : Option (Bytes × Bytes) × Dev :=
  let a := slotArea k b n
  let read := fhRead (dPort b) a 64 d
  let h := read.1
  let d := read.2
  if at_ h 0 4 ≠ n % 2 ^ 32 ∨ fld h 4 11 0 ≤ i then (none, d)
  else
    let read := fhRead (dPort b) (a + 64 + 32 * i) 32 d
    let r := read.1
    let d := read.2
    (some (h, r), d)

/-- A section is closed: nothing of it is sent any more. -/
def closeSection (k n i : Nat) (d : Dev) : Dev := setSent k n i 63 d

/-- A downlink section is not sent: DL_LATE (R168). -/
def dlLate (k n i port : Nat) (d : Dev) : Dev :=
  modCnt k n (fun x => { x with dlLate := x.dlLate + 1 }) ((closeSection k n i d).raise F.fhPortStatusDlLate port)

/-- The section is dropped for its direction (R168), or for a record or extension that FH does not generate for the carrier (R161, log 159). -/
def dlRefuse (k n i : Nat) (b r : Bytes) (d : Dev) : Dev :=
  let d := closeSection k n i d
  if ¬ recordOk b r ∨ sectionDown b r n then d.raise F.fhPortStatusUnknown (dPort b)
  else modCnt k n (fun x => { x with dir := x.dir + 1 }) (d.raise F.fhPortStatusDir (dPort b))

/-- Types of the section extensions in extension data: ef and extType in the first byte, the length in 4-byte words after it, in two bytes
for type 11 (O-RAN, log 7). -/
def extTypes : Nat → Bytes → List Nat
  | 0, _ => []
  | fuel + 1, b =>
    if b = [] then []
    else
      let ty := at_ b 0 1 % 128
      let len := if ty = 11 then at_ b 1 1 * 256 + at_ b 2 1 else at_ b 1 1
      ty :: (if at_ b 0 1 < 128 then [] else extTypes fuel (b.drop (4 * max 1 len)))

/-- Every extension is one that FH generates for the carrier's category (R161); in time-domain mode the data hold the gain (R175). -/
def extOk (b ext : Bytes) : Bool :=
  dTd b || (extTypes ext.length ext).all (fun t => decide (t = 6) || (dCatB b && decide (t = 1 ∨ t = 11)))

/-- Frames of a message join a queue of the carrier's port. -/
def sendFrames (k n port q sect : Nat) (before : BitVec 64) (prach : Option (Nat × Nat × Nat)) (fs : List Bytes) (d : Dev) : Dev :=
  fs.zipIdx.foldl (fun d f =>
    enqueue port q { len := f.1.length, at_ := 0, bytes := f.1, carrier := some (k, n), before := some before, sect := some sect,
                     lead := decide (f.2 = 0), prach := if f.2 = 0 then prach else none } d) d

/-- CPLANE_SEND: record i of slot n, in the window of its first symbol (R167). -/
def cplaneSend (k n i : Nat) (d : Dev) : Dev :=
  let b := (d.carrier k).desc
  if b = [] ∨ d.sentOf k n i ≠ 0 ∨ ¬ ntLe (d.air (dMu b) n 0 - BitVec.ofNat 64 (dT1aMax b + dTcpAdv b)) d.nt then d
  else match readSection k b n i d with
  | (none, d) => d
  | (some (h, r), d) =>
    let a := d.air (dMu b) n (rSym r)
    let lo := a - BitVec.ofNat 64 (dT1aMax b + dTcpAdv b)
    let hi := a - BitVec.ofNat 64 (dT1aMin b + dTcpAdv b)
    if ¬ recordOk b r ∨ ¬ sectionDown b r n then dlRefuse k n i b r d
    else if ¬ (ntLe lo d.nt && ntLe d.nt hi && bit h 8 (rSym r)) then d
    else
      let read := if at_ r 0x10 4 = 0 then ([], d) else fhRead (dPort b) (at_ b 0x48 8 + at_ r 0x10 4) (at_ r 0x14 2) d
      let ext := read.1
      let d := read.2
      if ¬ extOk b ext then dlRefuse k n i b r d
      else
        let prach := if fld r 0 16 14 = 3 then some (fld r 0 13 8, rSym r, rSym r + rNsym r - 1) else none
        sendFrames k n (dPort b) 1 (2 * i) hi prach (Config.cplaneFrames b n r ext) (setSent k n i 1 d)

def execCplaneSend (k n i : Nat) (s : State) : Res := there (k < 256) s (upd s (cplaneSend k n i))

/-- Blocks of a record's line. -/
def recBlocks (b r : Bytes) : Nat :=
  if dTd b then lineBlocks b else if fld r 4 17 9 = 0 then dNprb b - fld r 4 8 0 else fld r 4 17 9

/-- Bytes of an element line and of an exponent line of n blocks (R169). -/
def elemLine (n : Nat) : Nat := 64 * ceilDiv (n * 48) 64
def expLine (n : Nat) : Nat := 64 * ceilDiv (ceilDiv n 2) 64

/-- Mantissas and exponent of block j of a cq16 line: elements and exponents. -/
def cqBlock (el ex : Bytes) (j : Nat) : List Int × Nat :=
  ((List.range 24).map (fun i => toSigned 16 (at_ el (48 * j + 2 * i) 2)), at_ ex (j / 2) 1 / (if j % 2 = 1 then 16 else 1) % 16)

/-- Time-domain samples of a record as sent, the prefix first (R175): I and Q as the exact product of mantissa, 2^E and gain, and E. -/
def tdSamples (b : Bytes) (n l gain : Nat) (blocks : List (List Int × Nat)) : List (Int × Int × Nat) :=
  let v := fun (m : Int) (e : Nat) => m * ((2 ^ e * gain : Nat) : Int)
  let xs := (blocks.flatMap (fun x => (List.range 12).map (fun i =>
    (v (x.1.getD (2 * i) 0) x.2, v (x.1.getD (2 * i + 1) 0) x.2, x.2)))).take (fftSize b)
  xs.drop (fftSize b - prefixLen b n l) ++ xs

/-- Egress of 12 time-domain samples, rounded once (R38, R47, R175). Samples of two cq16 blocks can meet in one block that leaves: its E is
the larger of theirs (log 158). -/
def egressTd (w method : Nat) (xs : List (Int × Int × Nat)) : Nat × List Int × Nat :=
  let x := if method = 0 then 0 else (xs.map (·.2.2)).foldl max 0 + 1 - w
  let lim : Int := ((2 ^ (w - 1) : Nat) : Int) - 1
  let ys := xs.flatMap (fun v => [roundShift v.1 (27 + x), roundShift v.2.1 (27 + x)])
  (x, ys.map (clampI (-lim) lim), (ys.filter (fun y => decide (y < -lim ∨ lim < y))).length)

/-- The payload of symbol l as it leaves: exponent, mantissas and saturations of each block (R47, R175). -/
def txBlocks (b : Bytes) (n l gain : Nat) (blocks : List (List Int × Nat)) : List (Nat × List Int × Nat) :=
  let w := iqWidth (fld b 8 11 8)
  let m := fld b 8 12 12
  if dTd b then
    (blocksOf 12 (0, 0, 0) (ceilDiv (fftSize b + prefixLen b n l) 12) (tdSamples b n l gain blocks)).map (egressTd w m)
  else blocks.map (fun x => egress x.1 x.2 w m)

/-- UPLANE_SEND: the next symbol of record i of slot n, in its window (R167). -/
def uplaneSend (k n i : Nat) (d : Dev) : Dev :=
  let b := (d.carrier k).desc
  let v := d.sentOf k n i
  if b = [] ∨ v = 0 ∨ v = 63 then d
  else match readSection k b n i d with
  | (none, d) => d
  | (some (h, r), d) =>
    let l := rSym r + (v - 1)
    let a := d.air (dMu b) n l
    let lo := a - BitVec.ofNat 64 (dT1aMax b)
    let hi := a - BitVec.ofNat 64 (dT1aMin b)
    let ready := (List.range (rNsym r)).all (fun x => bit h 8 (rSym r + x))
    if ¬ (recordOk b r && sectionDown b r n && hasUplane r && decide (v - 1 < rNsym r) && ready && ntLe lo d.nt && ntLe d.nt hi) then d
    else
      let nb := recBlocks b r
      let at0 := at_ b 0x48 8 + at_ r 0x0C 4 + (v - 1) * (elemLine nb + expLine nb)
      let read := fhRead (dPort b) at0 (48 * nb) d
      let el := read.1
      let d := read.2
      let read := fhRead (dPort b) (at0 + elemLine nb) (ceilDiv nb 2) d
      let ex := read.1
      let d := read.2
      let read := if dTd b then fhRead (dPort b) (at_ b 0x48 8 + at_ r 0x10 4) 2 d else ([], d)
      let g := read.1
      let d := read.2
      let blocks := txBlocks b n l (leNat g) ((List.range nb).map (cqBlock el ex))
      let d := { d with fhSat := d.fhSat + sumL (blocks.map (·.2.2)) }
      sendFrames k n (dPort b) 0 (2 * i + 1) hi none (Config.uplaneFrames b n l r (blocks.map (fun x => (x.1, x.2.1)))) (setSent k n i (v + 1) d)

def execUplaneSend (k n i : Nat) (s : State) : Res := there (k < 256) s (upd s (uplaneSend k n i))

/-- DL_WINDOW_CLOSE: a section whose next message has missed its window is not sent (R168). -/
def dlWindowClose (k n i : Nat) (d : Dev) : Dev :=
  let b := (d.carrier k).desc
  let v := d.sentOf k n i
  if b = [] ∨ v = 63 then d
  else match readSection k b n i d with
  | (none, d) => d
  | (some (_, r), d) =>
    let adv := if v = 0 then dT1aMin b + dTcpAdv b else dT1aMin b
    let hi := d.air (dMu b) n (rSym r + (v - 1)) - BitVec.ofNat 64 adv
    if ntLe d.nt hi ∨ (v ≠ 0 ∧ ¬ (hasUplane r && decide (v - 1 < rNsym r))) then d
    else if ¬ recordOk b r ∨ ¬ sectionDown b r n then dlRefuse k n i b r d
    else dlLate k n i (dPort b) d

def execDlWindowClose (k n i : Nat) (s : State) : Res := there (k < 256) s (upd s (dlWindowClose k n i))

/-! ### Uplink (R169 to R172) -/

/-- Key of line (n, l, r). -/
def lineKey (n l r : Nat) : Nat := (n * 14 + l) * 128 + r

/-- Addresses of the element line, the exponent line and the gain record (R169). -/
def lineAddr (b : Bytes) (n l r : Nat) : Nat × Nat × Nat :=
  let per := 4 * 2 ^ dMu b
  let s := dUl b
  let ln := (n % per * 14 + l) * s + r
  let all := per * 14 * s
  let nb := lineBlocks b
  let base := at_ b 0x40 8
  (base + ln * elemLine nb, base + all * elemLine nb + ln * expLine nb, base + all * (elemLine nb + expLine nb) + 4 * ln)

/-- A block of a line is written: its 48 bytes and its exponent nibble. -/
def putBlock (el ex j : Nat) (ms : List Int) (e : Nat) (d : Dev) : Dev :=
  let d := tierWrite 3 0 0 (el + 48 * j) (ms.flatMap (fun m => leBytes 2 (ofSigned 16 m))) d
  let old := at_ (d.vRead 0 (ex + j / 2) 1) 0 1
  tierWrite 3 0 0 (ex + j / 2) (leBytes 1 (if j % 2 = 0 then old / 16 * 16 + e else old % 16 + e * 16)) d

/-- Sum of (m × 2^e)^2. -/
def squares (ms : List Int) (e : Nat) : Nat := sumL (ms.map (fun (m : Int) => (m * ((2 ^ e : Nat) : Int)).natAbs ^ 2))

/-- One resource block of a line, or block of 12 samples, arrives (R46, R170, R175). -/
def ulBlock (k n l r : Nat) (b : Bytes) (own : Bool) (d : Dev) (jb : Nat × (List Int × Nat)) : Dev :=
  let (j, blk) := jb
  let key := lineKey n l r
  let x := tabGet {} (d.carrier k).lines key
  let dup := x.got.contains j
  let d := if dup then modCnt k n (fun y => { y with dup := y.dup + 1 }) (d.raise F.fhPortStatusDup (dPort b)) else d
  let (e, ms, drop) := ingress blk.1 blk.2 (iqWidth (fld b 8 3 0)) (fld b 8 4 4)
  let d := if drop then evPart 0 0x4C 0 1 d else d
  if ¬ own then d
  else
    let pre := prefixLen b n l
    let (el, ex, _) := lineAddr b n l r
    let d := if dTd b then d else putBlock el ex j ms e d
    let samples : List (Nat × Int) := if ¬ dTd b then [] else
      (List.range 24).filterMap (fun i =>
        let s := 12 * j + i / 2
        if pre ≤ s ∧ s < pre + fftSize b then some (2 * (s - pre) + i % 2, (ms.getD i 0 * ((2 ^ e : Nat) : Int)).tdiv 32768) else none)
    let y : Line := { x with got := if dup then x.got else j :: x.got, sq := tabSet (0, 0) x.sq j (squares ms e, 12)
                             td := samples.foldl (fun t v => tabSet 0 t v.1 v.2) x.td }
    d.modCarrier k (fun c => { c with lines := tabSet {} c.lines key y })

/-- The carrier and stream of a port and eAxC ID (R170). -/
def Dev.carrierOf (d : Dev) (port eaxc : Nat) : Option (Nat × Nat) :=
  ((tabKeys d.carriers).find? (fun k =>
    let b := (d.carrier k).desc
    b ≠ [] ∧ dPort b = port ∧ fld b 4 31 16 ≤ eaxc ∧ eaxc < fld b 4 31 16 + dUl b)).map
    (fun k => (k, eaxc - fld (d.carrier k).desc 4 31 16))

/-- The frame with this frameId nearest to now. -/
def Dev.nearFrame (d : Dev) (id : Nat) : Nat :=
  let f := d.frameNow
  let lo := f - (f + 256 - id % 256) % 256
  if f % 256 < id % 256 ∧ f < 256 then id % 256
  else if 128 ≤ f - lo then lo + 256 else lo

/-- UPLANE_RECEIVE (R170). -/
def uplaneReceive (u : UlSection) (d : Dev) : Dev :=
  if ¬ d.flag F.fhPortStatusUp u.port then d
  else match d.carrierOf u.port u.eaxc with
  | none => d.raise F.fhPortStatusUnknown u.port
  | some (k, r) =>
    let b := (d.carrier k).desc
    let mu := dMu b
    let n := (d.nearFrame u.frameId * 10 + u.subframe) * 2 ^ mu + u.slotId
    let blocks := if dTd b then ceilDiv (fftSize b + prefixLen b n u.symbol) 12 else dNprb b
    let a := d.air mu n u.symbol
    if 9 < u.subframe ∨ 2 ^ mu ≤ u.slotId ∨ 13 < u.symbol ∨ blocks < u.prb0 + u.blocks.length ∨
        ¬ ntLe (a - 8000000) d.nt then d.raise F.fhPortStatusUnknown u.port
    else if ¬ ntLe d.nt (a + BitVec.ofNat 64 (dTa4Max b)) then
      modCnt k n (fun x => { x with lateUl := x.lateUl + 1 }) (d.raise F.fhPortStatusLateUl u.port)
    else if symCode b n u.symbol = 0 ∨ symCode b n u.symbol = 2 then
      modCnt k n (fun x => { x with dir := x.dir + 1 }) (d.raise F.fhPortStatusDir u.port)
    else
      let d := if ntLe (a + BitVec.ofNat 64 (dTa4Min b)) d.nt then d else
        modCnt k n (fun x => { x with earlyUl := x.earlyUl + 1 }) (d.raise F.fhPortStatusEarlyUl u.port)
      let own := d.tokenValid k
      (u.blocks.zipIdx.map (fun x => (u.prb0 + x.2, x.1))).foldl (ulBlock k n u.symbol r b own) d

def execUplaneReceive (u : UlSection) (s : State) : Res := there (u.port < 16) s (upd s (uplaneReceive u))

/-- The blocks of a time-domain line at its close: scaled by the gain, quantised (R175). -/
def tdBlocks (b : Bytes) (g : Nat) (t : Tab Int) : List (Nat × List Int) :=
  (List.range (lineBlocks b)).map (fun j =>
    let q := quantiseCq none ((List.range 24).map (fun i =>
      let x := 24 * j + i
      if 2 * fftSize b ≤ x then Num.zero
      else Num.ofInt (clampI (-32767) 32767 (roundShift (tabGet 0 t x * g) 12))))
    (q.1, q.2.1))

/-- Missing blocks of a line; in time-domain mode those of which no sample arrived. -/
def missing (b : Bytes) (x : Line) : List Nat :=
  (List.range (lineBlocks b)).filter (fun j =>
    if dTd b then ! x.td.any (fun e => e.1 / 24 = j) else ! x.got.contains j)

/-- LINE_CLOSE: line (n, l, r) at A + TA4_MAX (R171, R172, R176); a line on an unmapped page counts in UNKNOWN (R225). -/
def lineClose (k n l r : Nat) (d : Dev) : Dev :=
  let c := d.carrier k
  let b := c.desc
  let x := tabGet {} c.lines (lineKey n l r)
  if b = [] ∨ 13 < l ∨ dUl b ≤ r ∨ x.closed ∨ ¬ ntLe (d.air (dMu b) n l + BitVec.ofNat 64 (dTa4Max b)) d.nt then d
  else
    let own := d.tokenValid k
    let win := c.window n l r
    let gain := match win with
      | some w => w.gain
      | none => c.gainAt r (d.air (dMu b) n l - 8000000)
    let (el, ex, gr) := lineAddr b n l r
    let miss := if own then missing b x else List.range (lineBlocks b)
    let nb := lineBlocks b
    let lost := (d.vMissing 0 el (48 * nb)).isSome || (d.vMissing 0 ex (ceilDiv nb 2)).isSome || (d.vMissing 0 gr 4).isSome
    let d := d.raiseIf lost F.fhPortStatusUnknown (dPort b)
    let d := if dTd b ∧ own then
        ((tdBlocks b gain x.td).zipIdx).foldl (fun d y => putBlock el ex y.2 y.1.2 y.1.1 d) d
      else miss.foldl (fun d j => putBlock el ex j (List.replicate 24 0) 0 d) d
    let w := gain + miss.length * 2 ^ 16 + (if win.isSome then 2 ^ 25 else 0) + (if own then 0 else 2 ^ 26)
    let d := tierWrite 3 0 0 gr (leBytes 4 w) d
    let d := modCnt k n (fun y => { y with ulMiss := y.ulMiss + miss.length, notown := y.notown || ! own }) d
    let m := sumL (x.sq.map (fun e => e.2.2))
    let d := if own ∧ m ≠ 0 then
        setGain k r (loopGain (sumL (x.sq.map (fun e => e.2.1))) m (at_ b 0x2C 2) (fld b 0x2C 18 16) (c.gain r)) d
      else d
    d.modCarrier k (fun y =>
      { y with lines := tabSet {} (y.lines.filter (fun e => n ≤ e.1 / (14 * 128) + 64)) (lineKey n l r) { closed := true } })

def execLineClose (k n l r : Nat) (s : State) : Res := there (k < 256) s (upd s (lineClose k n l r))

/-- A presence bit of p0 that the device sets: of a listed receive slot, for the epoch after the one whose nominal interval holds t (R171). -/
def devPresence (slot : Nat) (t : BitVec 64) (d : Dev) : Dev :=
  match (d.sched 0).active with
  | none => d
  | some im =>
    if d.esState 0 < 3 ∨ 6 < d.esState 0 ∨ im.epochLen = 0 ∨ ! (im.slots.any (fun s => s.1 = slot)) then d
    else
      let e : Int := (d.sched 0).eS + (t - (d.sched 0).t0).toInt.fdiv (im.epochLen * 800 : Nat) + 1
      if e < (d.sched 0).eS then d
      else
        let e := e.toNat
        d.modSched 0 (fun s =>
          { s with presence := tabSet {} s.presence (slot * 2 + e % 2) { epoch := e, full := 1, setAt := some d.acyc } })

/-- UL_PRESENCE_SET (R171). -/
def ulPresence (k n : Nat) (d : Dev) : Dev :=
  let b := (d.carrier k).desc
  let t := d.air (dMu b) n 13 + BitVec.ofNat 64 (dTa4Max b + 16000)
  if b = [] ∨ ¬ ntLe t d.nt then d
  else
    let q := match (d.sched 0).active with
      | some im => max 1 (im.epochLen * 2 ^ dMu b / 10000)
      | none => 1
    devPresence (fld b 0x28 12 0 + n % q) t d

def execUlPresenceSet (k n : Nat) (s : State) : Res := there (k < 256) s (upd s (ulPresence k n))

/-! ### Detection windows (R177) -/

/-- U symbols of slot n; every symbol of an FDD carrier. -/
def ulSyms (b : Bytes) (n : Nat) : List Nat := (List.range 14).filter (fun l => symCode b n l = 1 ∨ symCode b n l = 3)

/-- First and last symbols of the sections of type 3 of slot n and stream r that FH has sent (R168, R177). -/
def Carrier.prachSyms (x : Carrier) (n r : Nat) : List (Nat × Nat) :=
  (x.prach.filter (fun e => e.1 = n ∧ e.2.1 = r)).map (fun e => e.2.2)

/-- DETECTION_WINDOW_START: g of stream r is latched for the window that has begun in slot n. -/
def windowStart (k n r : Nat) (d : Dev) : Dev :=
  let c := d.carrier k
  let b := c.desc
  if b = [] ∨ dUl b ≤ r then d
  else
    let spans := if r < dRx b then (match ulSyms b n with
        | [] => []
        | f :: rest => [(f, rest.getLastD f)])
      else c.prachSyms n r
    let due := spans.filter (fun s => ntLe (d.air (dMu b) n s.1) d.nt ∧ tabFind c.win (lineKey n s.1 r) = none)
    d.modCarrier k (fun x =>
      { x with win := due.foldl (fun t s => tabPut t (lineKey n s.1 r) { gain := c.gain r, slot := n, first := s.1, last := s.2 })
                  (x.win.filter (fun e => n ≤ e.2.slot + 32)) })

def execDetectionWindowStart (k n r : Nat) (s : State) : Res := there (k < 256) s (upd s (windowStart k n r))

/-! ### The frame boundary (R164, R179, R183, R190) -/

/-- corr of R179; FC_KHZ = 0 leaves it open (log 2). -/
def corrOf (fhat : Int) (khz : Nat) (d : Dev) : Int × Dev :=
  if khz = 0 then
    let read := takeFree 32 d
    let v := read.1
    let d := read.2
    (v.toInt, d)
  else (-(roundDiv (fhat * 100000000000) (khz * 1000)), d)

/-- The frequency correction at the end of frame f - 1, sent in frame f (R179). -/
def correct (k f : Nat) (d : Dev) : Dev :=
  let x := d.carrier k
  let b := x.desc
  let per := fld b 0x30 23 16
  if per = 0 ∨ f = 0 ∨ (f - 1) % per ≠ 0 ∨ dRhAddr b = 0 ∨ x.fhat.natAbs ≤ fld b 0x30 15 8 * 10 then d
  else
    let read := corrOf x.fhat (at_ b 0x14 4) d
    let corr := read.1
    let d := read.2
    let w := leBytes 4 (1 + (f + 1) % 1024 * 2 ^ 16) ++ leBytes 4 (ofSigned 32 corr) ++ leBytes 4 x.seq ++ zeros 4
    let d := d.modCarrier k (fun y => { y with fhat := 0, settle := 0, seq := (y.seq + 1) % 2 ^ 32 })
    sendControl k b none (Config.rmaFrame b (dRhAddr b) w) d

/-- What the boundary at which frame f begins does to a carrier. -/
def frameCarrier (f : Nat) (d : Dev) (k : Nat) : Dev :=
  let x := d.carrier k
  let d := if x.deleting then d.setCarrier k { pend := x.pend, revoking := x.revoking } else d
  let d := match (d.carrier k).pend with
    | some b =>
      if dApply b ≤ f then
        d.modCarrier k (fun y => { y with desc := b, pend := none, settle := if y.desc = [] then 255 else y.settle })
      else sendTdd k b d
    | none => d
  let d := match (d.carrier k).slotpPend with
    | some (b, f0) => if f0 ≤ f then d.modCarrier k (fun y => { y with slotp := some b, slotpPend := none }) else d
    | none => d
  let b := (d.carrier k).desc
  if b = [] then d
  else
    let d := correct k f (sendRecord k d)
    let per := at_ b 0x3C 2
    if per ≠ 0 ∧ f % per = 0 then sendControl k b (some 3) (Config.delayFrame b false (0, 0) 0) d else d

/-- FRAME_BOUNDARY. -/
def frameBoundary (d : Dev) : Dev :=
  let ofs := d.gridOfs
  match d.beat 3 80000000 ofs with
  | none => d
  | some t => (tabKeys d.carriers).foldl (frameCarrier ((t.toNat - ofs) / 80000000)) (beatDone 3 t d)

def execFrameBoundary (s : State) : Res := upd s frameBoundary

/-! ### Received frames (R159, R160) -/

/-- ETHERNET_FRAME_RECEIVE: what the MAC and the eCPRI header give; the rows of IQ data, delay requests and write responses carry the
rest of a frame that passes. -/
def ethernetFrame (port : Nat) (f : FhFrame) (d : Dev) : Dev :=
  if ¬ d.flag F.fhPortStatusUp port then d
  else if ¬ f.fcsOk ∨ d.mtu port < f.len ∨ 1 < f.tags then
    evEdge 0xC5 port 1 (evEdge 0xC4 port 1 (d.raise F.fhPortStatusFrameErr port))
  else if f.pause then evEdge 0xC4 port 1 d
  else if f.etherType = 0x88F7 ∨ f.etherType = 0x8809 then evEdge 0xC4 port 1 d
  else if f.etherType ≠ 0xAEFE ∨ ¬ f.hdrOk ∨ (f.ecpri ≠ 0 ∧ f.ecpri ≠ 4 ∧ f.ecpri ≠ 5) then
    evEdge 0xC4 port 1 (d.raise F.fhPortStatusUnknown port)
  else if f.ecpri = 4 then d else evEdge 0xC4 port 1 d

def execEthernetFrameReceive (port : Nat) (f : FhFrame) (s : State) : Res :=
  there (port < 16) s (upd s (ethernetFrame port f))

/-- DELAY_REQUEST_RECEIVE: answered with the ingress time-stamp t2 (R160, R237). -/
def delayRequest (port : Nat) (t2 : BitVec 64) (d : Dev) : Dev :=
  if ¬ d.flag F.fhPortStatusUp port then d
  else
    let t := t2 + BitVec.ofNat 64 (ofSigned 64 (toSigned 16 (d.getF F.tbPortCfgAsym port)))
    let b := Config.delayFrame [] true (d.ptpTime t) 0
    enqueue port 1 { len := b.length, at_ := 0, bytes := b } d

def execDelayRequestReceive (port : Nat) (t2 : BitVec 64) (s : State) : Res :=
  there (port < 16) s (upd s (delayRequest port t2))

/-- RMA_RESPONSE_RECEIVE: a write response is counted among the frames received, and nothing else (R160, R179). -/
def rmaResponse (port : Nat) (d : Dev) : Dev := if d.flag F.fhPortStatusUp port then evEdge 0xC4 port 1 d else d

def execRmaResponseReceive (port : Nat) (s : State) : Res := there (port < 16) s (upd s (rmaResponse port))

/-! ### TRANSMIT_START (R168, R184, R237, R247) -/

/-- What R167 asks of the record of a message as its first frame would start: the header still names the slot, the READY bits stand, and
the symbols are D. -/
def Dev.recordStands (d : Dev) (k n sect : Nat) : Bool :=
  let b := (d.carrier k).desc
  let a := slotArea k b n
  let h := d.vRead 0 a 64
  let r := d.vRead 0 (a + 64 + 32 * (sect / 2)) 32
  decide (at_ h 0 4 = n % 2 ^ 32 ∧ sect / 2 < fld h 4 11 0) && sectionDown b r n &&
    (if sect % 2 = 0 then bit h 8 (rSym r) else (List.range (rNsym r)).all (fun x => bit h 8 (rSym r + x)))

/-- A frame that may not start, as the device without it: its section is closed, its time has passed, its record no longer stands, or its
token is invalid. -/
def frameDrop (e : Nat) (f : Frame) (d : Dev) : Option Dev :=
  match f.carrier with
  | none => none
  | some (k, n) =>
    let shut := match f.sect with
      | some s => decide (d.sentOf k n (s / 2) = 63)
      | none => false
    let late := match f.before with
      | some t => ! ntLe d.nt t
      | none => false
    if shut then some d
    else if late ∨ (f.lead ∧ ¬ d.recordStands k n (f.sect.getD 0)) then some (dlLate k n ((f.sect.getD 0) / 2) e d)
    else if d.tokenValid k then none
    else
      let d := modCnt k n (fun x => { x with staleEgress := x.staleEgress + 1, notown := true }) (d.raise F.fhPortStatusStaleEgress e)
      some (match f.sect with
        | some s => if s % 2 = 0 then closeSection k n (s / 2) d else d
        | none => d)

/-- What a message of the timebase carries with time t (R237, R238). -/
def Dev.ptpOut (d : Dev) (kind : Nat) (t : BitVec 64) : PtpOut :=
  { kind := kind, seconds := (d.ptpTime t).1, ns := (d.ptpTime t).2, corr := ptpFraction t, domain := d.ptpDomain, addr := d.getF F.tbCtlFwd }

/-- A message of the timebase as it leaves (R237 to R239): a Sync, a Delay_Req and an eCPRI request take the egress time-stamp, a Delay_Resp
carries t4; the stamp of a Delay_Req on the slave port is t3. -/
def stampOut (e : Nat) (f : Frame) (d : Dev) : Frame × Dev :=
  match f.ptp with
  | none => (f, d)
  | some 2 => (f, emit (.ptp e (d.ptpOut 2 (BitVec.ofNat 64 (leNat f.bytes)))) d)
  | some 4 => (f, emit (.ptp e { kind := 4, domain := d.ptpDomain, addr := d.getF F.tbCtlFwd }) d)
  | some 5 => (f, emit (.ptp e { kind := 5, ql := some (leNat f.bytes) }) d)
  | some kind =>
    let read := stampNow d
    let t := read.1
    let d := read.2
    if kind = 3 then
      ({ f with bytes := Config.delayFrame ((f.carrier.map (fun c => (d.carrier c.1).desc)).getD []) false (d.ptpTime t) 0 }, d)
    else
      let d := if kind = 1 ∧ d.isSlave e then d.modServo (fun s => { s with t3 := some t }) else d
      (f, emit (.ptp e (d.ptpOut kind t)) d)

/-- A section of type 3 has been sent: the carrier remembers its symbols for four slots (R168, R177). -/
def notePrach (f : Frame) (d : Dev) : Dev :=
  match f.carrier, f.prach with
  | some (k, n), some x => d.modCarrier k (fun c => { c with prach := (n, x) :: c.prach.filter (fun y => decide (n ≤ y.1 + 32)) })
  | _, _ => d

/-- Frame f, item j of queue i of port e, starts. -/
def startItem (e i j : Nat) (f : Frame) (d : Dev) : Dev :=
  let out := stampOut e f (notePrach f (startFrame e i j f d))
  let f := out.1
  let d := out.2
  if isTeril e then
    let d := linkSent (e - 16) i f d
    match f.send, f.wclass with
    | some x, some (_, p) => flitHanded p x d
    | _, _ => d
  else evEdge 0xC3 e 1 (emit (.frame e f) d)

/-- The first eligible item that no check drops starts; `fuel` is at least the number of items. -/
def transmit (e : Nat) : Nat → Dev → Dev
  | 0, d => d
  | fuel + 1, d =>
    match d.nextItem e with
    | none => d
    | some (i, j) =>
      match ((d.port e).q i)[j]? with
      | none => d
      | some f =>
        match frameDrop e f d with
        | some d => transmit e fuel (d.modPort e (popHead i))
        | none => startItem e i j f d

/-- TRANSMIT_START: port e, when its transmitter is free; nothing leaves while PWRCYC_REQ_N is asserted (R434). -/
def transmitStart (e : Nat) (d : Dev) : Dev :=
  let d := revokesDone d
  if ¬ d.txFree e ∨ d.mbps e = 0 ∨ d.pins.pwrcycReq ∨ (isTeril e ∧ 1024 ≤ (d.link (e - 16)).replay.length) then d
  else
    let d := guardDrop e d
    transmit e (sumL ((List.range 8).map (fun i => ((d.port e).q i).length)) + 1) d

def execTransmitStart (e : Nat) (s : State) : Res := there (e < portCount) s (upd s (transmitStart e))

end Sys2Proof.Machine
end

