-- ==== Sys2Proof/Machine/Codes.lean ====
section
/-! DEFINITION. Channel codes as functions of bits and LLRs: CRCs, scrambling, LDPC segmentation and rate matching (R189, R199), the
layered decoder (R203), soft buffers (R202), and the polar and small-block decoders (R207). Constants that the spec takes from 3GPP
TS 38.211 and TS 38.212 without restating them are PRESUMED (log 7). -/

namespace Sys2Proof.Machine

open Sys2Proof

/-! ### Bits -/

/-- Bits of bytes in the order of R199: a_0 is bit 7 of byte 0. -/
def msbBits (b : Bytes) : List Bool := b.flatMap (fun x => (List.range 8).map (fun i => x.getLsbD (7 - i)))

/-- The number a list of bits spells, the first bit highest. -/
def bitsNat (l : List Bool) : Nat := l.foldl (fun a b => 2 * a + (if b then 1 else 0)) 0

/-- n bits of a number, the highest first. -/
def natBits (n v : Nat) : List Bool := (List.range n).map (fun i => v.testBit (n - 1 - i))

/-- Bytes of bits in the order of R199, padded with 0. -/
def msbBytes (l : List Bool) : Bytes := (blocksOf 8 false (ceilDiv l.length 8) l).map (fun x => BitVec.ofNat 8 (bitsNat x))

/-- Bytes of bits in the order of R24: bit i is bit i mod 8 of byte i / 8. -/
def lsbBytes (l : List Bool) : Bytes := (blocksOf 8 false (ceilDiv l.length 8) l).map (fun x => BitVec.ofNat 8 (bitsNat x.reverse))

/-- CRC bits of length n under generator g without its leading term. -/
def crcBits (n g : Nat) (l : List Bool) : List Bool :=
  natBits n ((l ++ List.replicate n false).foldl (fun r b =>
    let x := 2 * r + (if b then 1 else 0)
    if x.testBit n then Nat.xor (x % 2 ^ n) g else x) 0)

/-- The CRCs of TS 38.212. -/
def crc24a (l : List Bool) : List Bool := crcBits 24 0x864CFB l
def crc24b (l : List Bool) : List Bool := crcBits 24 0x800063 l
def crc24c (l : List Bool) : List Bool := crcBits 24 0xB2B117 l
def crc16b (l : List Bool) : List Bool := crcBits 16 0x1021 l
def crc11 (l : List Bool) : List Bool := crcBits 11 0x621 l
def crc6 (l : List Bool) : List Bool := crcBits 6 0x21 l

/-- The next bit and state of the two 31-bit registers of the Gold sequence (TS 38.211). -/
def goldNext (s : Nat × Nat) : Bool × (Nat × Nat) :=
  let (a, b) := s
  let x := xor (a.testBit 3) (a.testBit 0)
  let y := xor (xor (b.testBit 3) (b.testBit 2)) (xor (b.testBit 1) (b.testBit 0))
  (xor (a.testBit 0) (b.testBit 0), a / 2 + (if x then 2 ^ 30 else 0), b / 2 + (if y then 2 ^ 30 else 0))

/-- n bits from a state. -/
def goldBits : Nat → (Nat × Nat) → List Bool
  | 0, _ => []
  | n + 1, s => (goldNext s).1 :: goldBits n (goldNext s).2

/-- The state after n bits. -/
def goldSkip : Nat → (Nat × Nat) → (Nat × Nat)
  | 0, s => s
  | n + 1, s => goldSkip n (goldNext s).2

/-- n bits of the scrambling sequence of c_init. -/
def gold (cinit n : Nat) : List Bool := goldBits n (goldSkip 1600 (1, cinit % 2 ^ 31))

/-- Scrambled bits, and descrambled LLRs (R201). -/
def scramble (cinit : Nat) (l : List Bool) : List Bool := List.zipWith xor l (gold cinit l.length)
def descramble (cinit : Nat) (l : List Int) : List Int := List.zipWith (fun v c => if c then -v else v) l (gold cinit l.length)

/-! ### LDPC segmentation (R189, R199) -/

/-- The 51 lifting sizes. -/
def liftingSizes : List Nat :=
  ([2, 3, 5, 7, 9, 11, 13, 15].flatMap (fun a => (List.range 8).map (fun j => a * 2 ^ j))).filter (· ≤ 384)

/-- Parameters of a transport block: base graph (1, 2), code blocks, bits of a block without filler, lifting size, CRC bits. -/
structure Seg where
  bg : Nat
  c : Nat
  kp : Nat
  zc : Nat
  tbCrc : Nat
  deriving DecidableEq, Repr

/-- Systematic columns and all columns but the first two. -/
def sysCols (bg : Nat) : Nat := if bg = 1 then 22 else 10
def outCols (bg : Nat) : Nat := if bg = 1 then 66 else 50

/-- Segmentation of A bits. -/
def segment (bg a : Nat) : Seg :=
  let tb := if 3824 < a then 24 else 16
  let b := a + tb
  let kcb := if bg = 1 then 8448 else 3840
  let c := if b ≤ kcb then 1 else ceilDiv b (kcb - 24)
  let kp := (if c = 1 then b else b + 24 * c) / c
  let kb := if bg = 1 then 22 else if 640 < b then 10 else if 560 < b then 9 else if 192 < b then 8 else 6
  let zc := (liftingSizes.filter (fun z => kp ≤ kb * z)).foldl (fun m z => if m = 0 ∨ z < m then z else m) 0
  ⟨bg, c, kp, zc, tb⟩

/-- Bits of a block with filler, and of the circular buffer without and with the limit. -/
def Seg.k (s : Seg) : Nat := sysCols s.bg * s.zc
def Seg.n (s : Seg) : Nat := outCols s.bg * s.zc
def Seg.ncb (s : Seg) (nref : Nat) : Nat := if nref = 0 then s.n else min s.n nref

/-- k0 of a redundancy version. -/
def Seg.k0 (s : Seg) (ncb rv : Nat) : Nat :=
  let f := if s.bg = 1 then [0, 17, 33, 56] else [0, 13, 25, 43]
  f.getD rv 0 * ncb / (outCols s.bg * s.zc) * s.zc

/-- E_r of block r. -/
def Seg.e (s : Seg) (g qm nl r : Nat) : Nat :=
  let u := qm * nl
  let t := g / u
  if r + t % s.c < s.c then u * (t / s.c) else u * ceilDiv t s.c

/-- The first bit of block r in the codeword. -/
def Seg.ofs (s : Seg) (g qm nl r : Nat) : Nat := sumL ((List.range r).map (s.e g qm nl))

/-- Filler positions of the circular buffer. -/
def Seg.filler (s : Seg) (p : Nat) : Bool := decide (s.kp ≤ p + 2 * s.zc ∧ p + 2 * s.zc < s.k)

/-- Positions of the circular buffer from k0 on that are not filler, `e` of them. -/
def circPos (s : Seg) (ncb : Nat) : Nat → Nat → Nat → List Nat
  | 0, _, _ => []
  | fuel + 1, e, p =>
    if e = 0 ∨ ncb = 0 then []
    else if s.filler (p % ncb) then circPos s ncb fuel e (p + 1)
    else p % ncb :: circPos s ncb fuel (e - 1) (p + 1)

/-- The position of each bit of a block in transmission order: rate matching, then the bit interleaver. -/
def Seg.positions (s : Seg) (ncb rv e qm : Nat) : List Nat :=
  let ps := (circPos s ncb (2 * e + 2 * ncb) e (s.k0 ncb rv)).toArray
  (List.range e).map (fun t => ps.getD (t % qm * (e / qm) + t / qm) 0)

/-- Rows used for a highest written position W - 1 (R204). -/
def Seg.rows (s : Seg) (w : Nat) : Nat :=
  if s.bg = 1 then min 46 (4 + (ceilDiv w s.zc - 24)) else min 42 (4 + (ceilDiv w s.zc - 12))

/-! ### DL_SCH (R199) -/

/-- The information bits of block r: data, its CRC and filler. -/
def blockInfo (s : Seg) (tb : List Bool) (r : Nat) : List Bool :=
  let len := if s.c = 1 then s.kp else s.kp - 24
  let x := (tb.drop (r * len)).take len
  let x := if s.c = 1 then x else x ++ crc24b x
  x ++ List.replicate (s.k - x.length) false

/-- Check i of a row over the columns of a codeword but `col`. -/
def rowSum (zc col : Nat) (row : List (Nat × Nat)) (x : Array Bool) (i : Nat) : Bool :=
  (row.filter (fun e => e.1 ≠ col)).foldl (fun a e => xor a (x.getD (e.1 * zc + (i + e.2) % zc) false)) false

/-- A codeword with column `col` set so that checks whose other columns have the sums `want`, and meet it with a shift, are satisfied. -/
def setCol (zc col shift : Nat) (want : Nat → Bool) (x : Array Bool) : Array Bool :=
  (List.range zc).foldl (fun x i => x.setIfInBounds (col * zc + (i + shift) % zc) (want i)) x

/-- The shift with which a row meets a column. -/
def shiftOf (row : List (Nat × Nat)) (col : Nat) : Nat := ((row.find? (fun e => e.1 = col)).map (·.2)).getD 0

/-- The codeword of a block: its parity columns satisfy the rows of the base graph, the ones the decoder checks. The first parity column
follows from the sum of rows 0 to 3, where the other three cancel, and each further one from its own row (PRESUMED, log 7). -/
def ldpcEncode (s : Seg) (info : List Bool) : List Bool :=
  let c0 := sysCols s.bg
  let row := fun j => Config.ldpcRow s.bg s.zc j
  let core := [0, 1, 2, 3].flatMap row
  let odd := ((core.filter (fun e => e.1 = c0)).map (·.2)).filter (fun v => decide (((core.filter (fun e => e.1 = c0 ∧ e.2 = v)).length) % 2 = 1))
  let x := (info ++ List.replicate ((outCols s.bg + 2 - c0) * s.zc) false).toArray
  let x := setCol s.zc c0 (odd.headD 0) (fun i => rowSum s.zc c0 (core.filter (fun e => e.1 < c0)) x i) x
  let solve := fun (x : Array Bool) (e : Nat × Nat) => setCol s.zc e.2 (shiftOf (row e.1) e.2) (rowSum s.zc e.2 (row e.1) x) x
  let own := [0, 1, 2].map (fun j => (j, c0 + 1 + j)) ++ (List.range (outCols s.bg - 2 - c0)).map (fun j => (j + 4, c0 + 4 + j))
  (own.foldl solve x).toList

/-- The rate-matched, interleaved bits of block r. -/
def blockOut (s : Seg) (tb : List Bool) (rv e qm ncb r : Nat) : List Bool :=
  let d := ((ldpcEncode s (blockInfo s tb r)).drop (2 * s.zc)).toArray
  (s.positions ncb rv e qm).map (fun p => d.getD p false)

/-- The transport block with its CRC. -/
def withTbCrc (a : List Bool) : List Bool := a ++ (if 3824 < a.length then crc24a a else crc16b a)

/-! ### Soft buffers (R202) -/

/-- Bytes of a soft buffer, of its header and element plane. -/
def softSize (bg : Nat) : Nat := if bg = 1 then 13568 else 10304
def softScale (bg : Nat) : Nat := if bg = 1 then 12736 else 9664

/-- The header of a soft buffer. -/
def softHeader (s : Seg) (tbs ncb w : Nat) : Bytes :=
  leBytes 4 tbs ++ leBytes 2 (s.zc + (s.bg - 1) * 2 ^ 15) ++ zeros 2 ++ leBytes 4 ncb ++ leBytes 4 w ++ zeros 48

/-- Stored values of positions below W, from the blocks and scales below ceil(W / 32). -/
def softRead (elems scales : Bytes) (w : Nat) : List Int :=
  (List.range (ceilDiv w 32)).flatMap (fun j =>
    let el := (elems.drop (16 * j)).take 16
    let x := at_ scales j 1
    (List.range 32).map (fun i => toIntSat (-127) 127 (bsValue 4 x (leNat el / 16 ^ i % 16))))

/-- The buffer as written back: header, blocks below ceil(W / 32) and their scales, as offset and bytes. -/
def softWrite (s : Seg) (tbs ncb w : Nat) (c : List Int) : List (Nat × Bytes) :=
  let blk := (blocksOf 32 0 (ceilDiv w 32) c).map (fun x => quantiseBs 4 none (x.map Num.ofInt))
  [(0, softHeader s tbs ncb w), (64, blk.flatMap (fun x => packBits 4 x.2.1)), (softScale s.bg, blk.flatMap (fun x => leBytes 1 x.1))]

/-! ### Layered offset min-sum (R203) -/

/-- Edges of check i of row j: variable and edge number, in ascending column order. -/
def checkEdges (s : Seg) (row : List (Nat × Nat)) (j i : Nat) : List (Nat × Nat) :=
  row.zipIdx.map (fun x => (x.1.1 * s.zc + (i + x.1.2) % s.zc, (j * s.zc + i) * 32 + x.2))

/-- sign(t) with sign(0) = +1. -/
def signI (t : Int) : Int := if t < 0 then -1 else 1

/-- One check node. -/
def checkNode (q r : Array Int) (es : List (Nat × Nat)) : Array Int × Array Int :=
  let ts := es.map (fun e => clampI (-127) 127 (q.getD e.1 0 - r.getD e.2 0))
  let mags := ts.map Int.natAbs
  let m1 := mags.foldl min 1000
  let i1 := mags.findIdx (· = m1)
  let m2 := ((mags.take i1) ++ (mags.drop (i1 + 1))).foldl min 1000
  let s := ts.foldl (fun a t => a * signI t) 1
  ((es.zip ts).zipIdx).foldl (fun st x =>
    let ((e, t), i) := x
    let mag : Int := ((if i = i1 then m2 else m1) - 1 : Nat)
    let v := s * signI t * mag
    (st.1.setIfInBounds e.1 (clampI (-511) 511 (t + v)), st.2.setIfInBounds e.2 v)) (q, r)

/-- One iteration over the rows. -/
def ldpcIter (s : Seg) (rows : List (List (Nat × Nat))) (st : Array Int × Array Int) : Array Int × Array Int :=
  rows.zipIdx.foldl (fun st row =>
    (List.range s.zc).foldl (fun st i => checkNode st.1 st.2 (checkEdges s row.1 row.2 i)) st) st

/-- Every check is satisfied by the hard decisions. -/
def checksMet (s : Seg) (rows : List (List (Nat × Nat))) (q : Array Int) : Bool :=
  rows.zipIdx.all (fun row => (List.range s.zc).all (fun i =>
    ! (checkEdges s row.1 row.2 i).foldl (fun a e => xor a (decide (q.getD e.1 0 < 0))) false))

/-- Iterations until the checks are met with `et`, or imax have run: a-posteriori values and iterations. -/
def ldpcLoop (s : Seg) (rows : List (List (Nat × Nat))) (et : Bool) : Nat → Nat → Array Int × Array Int → Array Int × Nat
  | 0, n, st => (st.1, n)
  | fuel + 1, n, st =>
    let st := ldpcIter s rows st
    if et && checksMet s rows st.1 then (st.1, n + 1) else ldpcLoop s rows et fuel (n + 1) st

/-- decode(c): the K systematic bits and the iterations run. -/
def ldpcDecode (s : Seg) (w imax : Nat) (et : Bool) (c : List Int) : List Bool × Nat :=
  let l := s.rows w
  let rows := (List.range l).map (fun j => sortL (fun a b => decide (a.1 ≤ b.1)) (Config.ldpcRow s.bg s.zc j))
  let cols := (outCols s.bg + 2) * s.zc
  let c : List Int := c.zipIdx.map (fun (x : Int × Nat) => if s.filler x.2 then 127 else x.1)
  let q : Array Int := (List.replicate (2 * s.zc) 0 ++ c).toArray
  let q := q ++ Array.replicate (cols - q.size) 0
  let (q, n) := ldpcLoop s rows et imax 0 (q, Array.replicate (l * s.zc * 32) 0)
  ((List.range s.k).map (fun i => decide (q.getD i 0 < 0)), n)

/-! ### Polar codes (R207) -/

/-- ceil(log2 n). -/
def clog2 (n : Nat) : Nat := if n ≤ 1 then 0 else Nat.log2 (n - 1) + 1

/-- log2 of the code length for k bits and e rate-matched bits (TS 38.212). -/
def polarLog (k e most : Nat) : Nat :=
  let x := clog2 e
  let n1 := if 8 * e ≤ 9 * 2 ^ (x - 1) ∧ 16 * k < 9 * e then x - 1 else x
  max (min n1 (min (clog2 (8 * k)) most)) 5

/-- f and g of the list decoder. -/
def polF (a b : Int) : Int := signI a * signI b * (min a.natAbs b.natAbs : Nat)
def polG (a b : Int) (u : Bool) : Int := clampI (-2047) 2047 (b + (if u then -a else a))

/-- The codeword of 2^n bits. -/
def polEnc : Nat → List Bool → List Bool
  | 0, u => u
  | n + 1, u =>
    let a := polEnc n (u.take (2 ^ n))
    let b := polEnc n (u.drop (2 ^ n))
    List.zipWith xor a b ++ b

/-- The LLR of the next bit after the decisions u, of a code of 2^n bits. -/
def polLlr : Nat → List Int → List Bool → Int
  | 0, l, _ => l.headD 0
  | n + 1, l, u =>
    let a := l.take (2 ^ n)
    let b := l.drop (2 ^ n)
    if u.length < 2 ^ n then polLlr n (List.zipWith polF a b) u
    else polLlr n ((a.zip b).zipWith (fun x v => polG x.1 x.2 v) (polEnc n (u.take (2 ^ n)))) (u.drop (2 ^ n))

/-- A path: its decisions and its metric. -/
abbrev Path := List Bool × Nat

/-- A path with one more decision. -/
def Path.push (p : Path) (llr : Int) (u : Bool) : Path :=
  (p.1 ++ [u], if u = decide (llr < 0) then p.2 else p.2 + llr.natAbs)

/-- The paths by ascending metric; equal ones keep their order. -/
def byMetric (l : List Path) : List Path := sortL (fun a b => decide (a.2 ≤ b.2)) l

/-- Bit i: a fixed bit extends every path, an information bit keeps the 8 best of both decisions. -/
def polBit (n : Nat) (llr : List Int) (frozen : Option (List Nat)) (ps : List Path) : List Path :=
  match frozen with
  | some deps => ps.map (fun p => p.push (polLlr n llr p.1) (deps.foldl (fun a i => xor a (p.1.getD i false)) false))
  | none => (byMetric (ps.flatMap (fun p => let v := polLlr n llr p.1; [p.push v false, p.push v true]))).take 8

/-- K / E above 7 / 16: rate matching shortens; else it punctures (TS 38.212). -/
def polShort (k e : Nat) : Bool := decide (7 * e < 16 * k)

/-- The sub-block interleaver of a code of 2^n bits. -/
def subBlock (n i : Nat) : Nat := subOrder.getD (32 * i / 2 ^ n) 0 * (2 ^ n / 32) + i % (2 ^ n / 32)

/-- Indices that rate matching keeps from carrying information. -/
def polCut (n k e : Nat) : List Nat :=
  if 2 ^ n ≤ e then []
  else if polShort k e then (List.range (2 ^ n - e)).map (fun i => subBlock n (e + i))
  else (List.range (2 ^ n - e)).map (subBlock n) ++
    List.range (if 3 * 2 ^ n ≤ 4 * e then ceilDiv (3 * 2 ^ n - 2 * e) 4 else ceilDiv (9 * 2 ^ n - 4 * e) 16)

/-- Parity-check bits of a UCI code of k bits, and how many of them go by row weight. -/
def polChecks (k e : Nat) : Nat × Nat := if 18 ≤ k ∧ k ≤ 25 then (3, if 192 < e + 3 - k then 1 else 0) else (0, 0)

/-- Indices that carry the k information and the parity-check bits, the most reliable first. -/
def polPlaces (n k e pc : Nat) : List Nat :=
  let cut := polCut n k e
  (polarOrder.filter (fun i => decide (i < 2 ^ n) && ! cut.contains i)).reverse.take (k + pc)

/-- The weight of row i of the generator. -/
def rowWeight (n i : Nat) : Nat := ((List.range n).filter (fun b => i.testBit b)).length

/-- The places of the parity-check bits. -/
def checkPlaces (n k e : Nat) (pc : Nat × Nat) : List Nat :=
  let places := polPlaces n k e pc.1
  let light := (places.take k).foldl (fun m i => min m (rowWeight n i)) n
  places.drop (k + pc.2) ++ ((places.take k).filter (fun i => rowWeight n i = light)).take pc.2

/-- Bit i of a polar code: none for an information bit, else the earlier bits whose sum a frozen or parity-check bit equals. -/
def polRoles (n k e : Nat) (pc : Nat × Nat) : List (Option (List Nat)) :=
  let places := polPlaces n k e pc.1
  let checks := checkPlaces n k e pc
  (List.range (2 ^ n)).map (fun i =>
    if checks.contains i then some ((List.range i).filter (fun m => decide (m % 5 = i % 5) && places.contains m && ! checks.contains m))
    else if places.contains i then none else some [])

/-- Bit t of the rate-matched codeword as an index of the code. -/
def polSelect (n k e t : Nat) : Nat :=
  subBlock n (if 2 ^ n ≤ e then t % 2 ^ n else if polShort k e then t else t + 2 ^ n - e)

/-- The bits of a code in their places: information bits in ascending order of place, frozen and parity-check bits by their roles. -/
def polPlace (roles : List (Option (List Nat))) (info : List Bool) : List Bool :=
  (roles.foldl (fun (acc : List Bool × List Bool) f => match f with
    | none => (acc.1 ++ [acc.2.headD false], acc.2.tail)
    | some deps => (acc.1 ++ [deps.foldl (fun a i => xor a (acc.1.getD i false)) false], acc.2)) ([], info)).1

/-- The interleaved payload of k bits. -/
def payloadMix (c : List Bool) : List Bool :=
  (payloadOrder.filter (fun m => 164 ≤ m + c.length)).map (fun m => c.getD (m + c.length - 164) false)

/-- A DCI or BCH payload with its CRC24C; a DCI's is computed behind 24 ones, and its last 16 bits are masked with the RNTI. -/
def polarCrc (bch : Bool) (rnti : Nat) (a : List Bool) : List Bool :=
  a ++ (if bch then crc24c a
    else List.zipWith xor (crc24c (List.replicate 24 true ++ a)) (List.replicate 8 false ++ natBits 16 rnti))

/-- POLAR_DCI and POLAR_BCH: CRC, interleaving, encoding with N at most 512, rate matching to e bits (R207). -/
def polarEncode (bch : Bool) (rnti : Nat) (a : List Bool) (e : Nat) : List Bool :=
  let c := payloadMix (polarCrc bch rnti a)
  let k := c.length
  let n := polarLog k e 9
  let d := (polEnc n (polPlace (polRoles n k e (0, 0)) c)).toArray
  (List.range e).map (fun t => d.getD (polSelect n k e t) false)

/-- The side of the triangle of the coded-bit interleaver for e bits. -/
def triSide (e : Nat) : Nat := ((List.range (e + 1)).find? (fun t => 2 * e ≤ t * (t + 1))).getD 0

/-- The coded-bit interleaver: the rate-matched bit that leaves at each place. -/
def codedOrder (e : Nat) : List Nat :=
  let t := triSide e
  (List.range t).flatMap (fun j => ((List.range (t - j)).map (fun i => i * t - i * (i - 1) / 2 + j)).filter (· < e))

/-- The LLRs of a UCI code: de-interleaved, those of one bit added; a punctured bit has 0, a shortened one is known to be 0 (log 162). -/
def polRecover (n k e : Nat) (llr : List Int) : List Int :=
  let got := ((codedOrder e).zip llr).foldl (fun (v : Array Int) x =>
    let i := polSelect n k e x.1
    v.setIfInBounds i (v.getD i 0 + x.2)) (Array.replicate (2 ^ n) 0)
  let known := if 2 ^ n ≤ e ∨ ¬ polShort k e then [] else polCut n k e
  got.toList.zipIdx.map (fun x => if known.contains x.2 then Config.knownLlr else x.1)

/-- The information bits of one UCI segment of k bits with its CRC, and whether the CRC passes. -/
def uciSegment (k e : Nat) (crc : List Bool → List Bool) (crcLen : Nat) (llr : List Int) : List Bool × Bool :=
  let n := polarLog k e 10
  let x := polRecover n k e llr
  let roles := polRoles n k e (polChecks k e)
  let ps := byMetric (roles.foldl (fun ps f => polBit n x f ps) [([], 0)])
  let info := fun (p : Path) => ((p.1.zip roles).filter (fun y => y.2.isNone)).map (·.1)
  let good := fun (b : List Bool) => decide (crc (b.take (k - crcLen)) = b.drop (k - crcLen))
  match (ps.map info).find? good with
  | some b => (b.take (k - crcLen), true)
  | none => ((info (ps.headD ([], 0))).take (k - crcLen), false)

/-- UCI segmentation of A bits in E: segments, bits of a segment without its CRC, CRC bits. -/
def uciSegments (a e : Nat) : Nat × Nat × Nat :=
  let c := if (360 ≤ a ∧ 1088 ≤ e) ∨ 1013 ≤ a then 2 else 1
  (c, ceilDiv a c, if a < 20 then 6 else 11)

/-- POLAR_UCI: A payload bits of the descrambled LLRs, and whether every CRC passes. -/
def uciDecode (a : Nat) (llr : List Int) : List Bool × Bool :=
  let (c, ap, cl) := uciSegments a llr.length
  let e := llr.length / c
  let segs := (List.range c).map (fun r => uciSegment (ap + cl) e (if cl = 6 then crc6 else crc11) cl ((llr.drop (r * e)).take e))
  ((segs.flatMap (·.1)).drop (c * ap - a), segs.all (·.2))

/-- The codeword of e bits of an A-bit message, bit a_0 the highest: repetition, simplex or the small block code. The radio image has taken
the placeholder bits of 1- and 2-bit UCI out (R189). -/
def smallCode (a e msg : Nat) : List Bool :=
  let c := natBits a msg
  (List.range e).map (fun t =>
    if a = 1 then c.getD 0 false
    else if a = 2 then (c ++ [xor (c.getD 0 false) (c.getD 1 false)]).getD (t % 3) false
    else (List.zipWith (· && ·) c (natBits 11 (blockBasis.getD (t % 32) 0))).foldl xor false)

/-- SMALL_UCI: the message of largest correlation, the lowest of equal ones (R207). -/
def smallDecode (a : Nat) (llr : List Int) : List Bool :=
  let corr := fun m => (List.zipWith (fun v c => if c then -v else v) llr (smallCode a llr.length m)).foldl (· + ·) (0 : Int)
  let best := (List.range (2 ^ a)).foldl (fun (b : Nat × Int) m => if b.2 < corr m then (m, corr m) else b) (0, corr 0)
  natBits a best.1

end Sys2Proof.Machine
end

