-- ==== Sys2Proof/Machine/Coding.lean ====
section
/-! DEFINITION. Slot processing: its configuration and allocations (R190 to R194), coding queues and their jobs (R195 to R208), the
slot report (R209), and what a reset does to coding (R210). -/

namespace Sys2Proof.Machine

open Sys2Proof

/-! ### SLOTPROC_CFG (R190) -/

/-- Leads and delay of a slot-processing descriptor in eighths of a ns. -/
def spLead (b : Bytes) (dir : Nat) : Nat := at_ b (4 + 2 * dir) 2 * 800
def spDelay (b : Bytes) : Nat := at_ b 8 2 * 800
def spDir (b : Bytes) : Nat := at_ b 0x10 8
def spOfs (b : Bytes) : Nat := at_ b 0x18 8

/-- *Minimum downlink lead*. -/
def minLead (mu : Nat) : Nat := [10000, 5000, 2503, 1254].getD mu 0

/-- The fields of the descriptor other than DL_LEAD's minimum. -/
def slotprocOk (b : Bytes) : Bool :=
  rsv b 0 31 8 && decide (at_ b 4 2 ≤ 40000 ∧ at_ b 6 2 ≤ 40000 ∧ at_ b 8 2 ≤ 40000) && rsv b 8 31 16 && rsv b 0x0C 31 13 &&
    decide (spDir b % 64 = 0 ∧ spOfs b % 64 = 0) && (b.drop 0x20).all (· = 0)

/-- The first frame that begins at or after t. -/
def Dev.frameFrom (d : Dev) (t : BitVec 64) : Nat := ceilDiv (t.toNat - d.gridOfs) 80000000

/-- SLOTPROC_CFG: it applies from the first frame that begins at least 2 ms later. -/
def slotprocCfg (c : Src) (addr len : Nat) (d : Dev) : Dev :=
  let b := d.hostRead addr len
  let k := fld b 0 7 0
  if addr % 64 ≠ 0 ∨ len ≠ 64 then done c 2 d
  else match d.latestDesc k with
  | none => done c 0x36 d
  | some x =>
    if at_ b 4 2 < minLead (dMu x) then done c 0x55 d
    else if ¬ slotprocOk b then done c 0x31 d
    else done c 0 (d.modCarrier k (fun y => { y with slotpPend := some (b, d.frameFrom (later d.nt 16000000)) }))

def execSlotprocCfg (c : Src) (addr len : Nat) (s : State) : Res := upd s (slotprocCfg c addr len)

/-! ### SLOT_SUBMIT and the directory (R191, R192) -/

/-- D_d(n). -/
def Dev.deadline (d : Dev) (b sp : Bytes) (dir n : Nat) : BitVec 64 := d.air (dMu b) n 0 - BitVec.ofNat 64 (spLead sp dir)

/-- Key of (d, n). -/
def allocKey (dir n : Nat) : Nat := dir * 2 ^ 32 + n

/-- The table header agrees with the command and keeps its limits. -/
def tableOk (h : Bytes) (k dir n : Nat) : Bool :=
  decide (at_ h 0 4 = n ∧ at_ h 4 1 = k ∧ fld h 4 8 8 = dir) && rsv h 4 31 9 &&
    decide (at_ h 8 4 % 64 = 0 ∧ 64 ≤ at_ h 8 4 ∧ at_ h 8 4 ≤ 0x100000) && rsv h 0x0C 31 16 && (h.drop 0x10).all (· = 0)

/-- SLOT_SUBMIT (R191). -/
def slotSubmit (c : Src) (k dir n table : Nat) (d : Dev) : Dev :=
  let x := d.carrier k
  if 1 < dir then done c 2 d
  else if ¬ d.carrierExists k then done c 0x36 d
  else match x.slotp with
  | none => done c 0x55 d
  | some sp =>
    let b := (d.latestDesc k).getD []
    if ntLe (d.deadline b sp dir n) d.nt then
      done c 0x51 (d.modCarrier k (fun y =>
        { y with lateOnly := tabSet false y.lateOnly (allocKey dir n) true
                 cnt := tabMod {} y.cnt n (fun z => { z with lateSubmits := z.lateSubmits + 1 }) }))
    else if 16 ≤ n ∧ ¬ ntLe (d.deadline b sp dir (n - 16)) d.nt then done c 0x52 d
    else if table = 0 then done c 0 (d.modCarrier k (fun y => { y with alloc := tabSet 0 y.alloc (allocKey dir n) 0 }))
    else
      let read := tierRead 3 0 0 table 64 d
      let h := read.1
      let d := read.2
      if ¬ tableOk h k dir n then done c 0x53 d
      else done c 0 (d.modCarrier k (fun y => { y with alloc := tabSet 0 y.alloc (allocKey dir n) table }))

def execSlotSubmit (c : Src) (k dir n table : Nat) (s : State) : Res :=
  upd s (if k < 256 then slotSubmit c k dir n table else done c 0x36)

/-- Slots of the carrier that close in one epoch of p0 (R171). -/
def Dev.slotsPerEpoch (d : Dev) (b : Bytes) : Nat :=
  match (d.sched 0).active with
  | some im => max 1 (im.epochLen * 2 ^ dMu b / 10000)
  | none => 1

/-- ALLOC_DEADLINE: the directory entry of (n, d) is written at its deadline, once, with its presence (R192). -/
def allocDeadline (k dir n : Nat) (d : Dev) : Dev :=
  let x := d.carrier k
  let b := (d.latestDesc k).getD []
  match x.slotp with
  | none => d
  | some sp =>
    let t := d.deadline b sp dir n
    if b = [] ∨ ¬ ntLe t d.nt ∨ 80000000 ≤ (d.nt - t).toInt ∨ tabGet false x.dirDone (allocKey dir n) then d
    else
      let table := tabGet 0 x.alloc (allocKey dir n)
      let e := leBytes 4 n ++ leBytes 4 (if table = 0 then 0 else 1) ++ leBytes 8 table
      let d := tierWrite 3 0 0 (spDir sp + (16 * dir + n % 16) * 16) e d
      let keep := fun (i : Nat) => decide (i / 2 ^ 32 ≠ dir ∨ n ≤ i % 2 ^ 32 + 256)
      let d := d.modCarrier k (fun y =>
        { y with dirDone := tabSet false (y.dirDone.filter (fun e => keep e.1)) (allocKey dir n) true
                 alloc := y.alloc.filter (fun e => keep e.1), lateOnly := y.lateOnly.filter (fun e => keep e.1) })
      let q := d.slotsPerEpoch b
      devPresence (fld sp 0x0C 12 0 + dir * q + n % q) (later t 16000) d

def execAllocDeadline (k dir n : Nat) (s : State) : Res :=
  there (k < 256) s (there (dir < 2) s (upd s (allocDeadline k dir n)))

/-! ### The slot report (R209) -/

/-- R(n) of a carrier. -/
def Dev.reportAt (d : Dev) (b sp : Bytes) (n : Nat) : BitVec 64 :=
  let ul := ulSyms b n ≠ []
  if ul then later (d.air (dMu b) n 13) (dTa4Max b + 16000 + spDelay sp) else later (d.air (dMu b) (n + 1) 0) (spDelay sp)

/-- The report of slot n has been written, or its time has passed. -/
def Dev.reportDone (d : Dev) (k n : Nat) : Bool :=
  let x := d.carrier k
  (tabGet {} x.cnt n).reported || (match x.slotp with
    | some sp => ntLe (d.reportAt ((d.latestDesc k).getD []) sp n) d.nt
    | none => false)

/-- fo_update (R178): the filtered offset after a slot. -/
def foUpdate (b : Bytes) (settle : Nat) (phi fhat : Int) : Int :=
  if settle < fld b 0x30 31 24 then fhat else fhat + roundShift (phi - fhat) (fld b 0x30 3 0)

/-- A count of 16 bits that saturates. -/
def sat16 (v : Nat) : Bytes := leBytes 2 (min v 65535)

/-- What became of the allocation of a slot: 0 none, 1 in time, 2 late only. -/
def Carrier.allocCode (x : Carrier) (n dir : Nat) : Nat :=
  if tabGet 0 x.alloc (allocKey dir n) ≠ 0 then 1 else if tabGet false x.lateOnly (allocKey dir n) then 2 else 0

/-- Bytes 0x00 to 0x17 of *Slot report payload*: what the slot's messages met. -/
def slotCounts (k n : Nat) (x : Carrier) (cn : SlotCnt) (absent : Bool) : Bytes :=
  leBytes 4 n ++ leBytes 4 (k + x.allocCode n 0 * 2 ^ 8 + x.allocCode n 1 * 2 ^ 10 + (if absent then 2 ^ 12 else 0) +
      (if cn.notown then 2 ^ 13 else 0)) ++
    sat16 cn.dlLate ++ sat16 cn.dir ++ sat16 cn.staleEgress ++ sat16 cn.lateSubmits ++ sat16 cn.ulMiss ++ sat16 cn.lateUl ++
    sat16 cn.earlyUl ++ sat16 cn.dup

/-- The counts of the slot's jobs. -/
def jobCounts (cn : SlotCnt) (lateTb : Nat) : Bytes :=
  sat16 cn.tbOk ++ sat16 cn.tbCrcFail ++ sat16 cn.tbDeadline ++ sat16 cn.tbErased ++ sat16 lateTb ++ sat16 cn.cbFail ++
    sat16 cn.dlOk ++ sat16 cn.dlFail

/-- The payload of *Slot report payload*. -/
def reportBytes (k n : Nat) (x : Carrier) (cn : SlotCnt) (absent : Bool) (phi : Int) (clamped lateTb : Nat) : Bytes :=
  slotCounts k n x cn absent ++ leBytes 4 (ofSigned 32 phi) ++ leBytes 4 (ofSigned 32 x.fhat) ++ sat16 clamped ++ zeros 2 ++
    jobCounts cn lateTb ++ zeros 12

/-- SLOT_REPORT. -/
def slotReport (k n : Nat) (d : Dev) : Dev :=
  let x := d.carrier k
  let b := (d.latestDesc k).getD []
  match x.slotp with
  | none => d
  | some sp =>
    let t := d.reportAt b sp n
    if b = [] ∨ ¬ ntLe t d.nt ∨ 80000000 ≤ (d.nt - t).toInt ∨ (tabGet {} x.cnt n).reported then d
    else
      let read := tierRead 3 0 0 (spOfs sp) 16 d
      let o := read.1
      let d := read.2
      let absent := decide (at_ o 0 4 ≠ n % 2 ^ 32)
      let phi := if absent then 0 else toSigned 32 (at_ o 4 4)
      let cn := tabGet {} x.cnt n
      let fhat := if absent then x.fhat else foUpdate b x.settle phi x.fhat
      let d := d.modCarrier k (fun y =>
        { y with fhat := fhat, settle := min (y.settle + 1) 255, lateTb := 0
                 cnt := tabSet {} (y.cnt.filter (fun e => n ≤ e.1 + 128)) n { reported := true } })
      report 0 2 (reportBytes k n (d.carrier k) cn absent phi (if absent then 0 else at_ o 8 2) x.lateTb) d

def execSlotReport (k n : Nat) (s : State) : Res := there (k < 256) s (upd s (slotReport k n))

/-! ### Job descriptor (R195) -/

def jKind (b : Bytes) : Nat := fld b 0 3 0
def jBg (b : Bytes) : Nat := fld b 0 4 4 + 1
def jQm (b : Bytes) : Nat := fld b 0 10 7
def jNl (b : Bytes) : Nat := fld b 0 12 11 + 1
def jLlr4 (b : Bytes) : Bool := bit b 0 14
def jA (b : Bytes) : Nat := fld b 4 23 0
def jG (b : Bytes) : Nat := at_ b 8 4
def jCinit (b : Bytes) : Nat := fld b 0x0C 30 0
def jSrc (b : Bytes) : Nat := at_ b 0x18 8
def jDst (b : Bytes) : Nat := at_ b 0x20 8
def jSoft (b : Bytes) : Nat := at_ b 0x28 8
def jSeg (b : Bytes) : Seg := segment (jBg b) (jA b)

/-- An encode job; a decode job. -/
def jEnc (b : Bytes) : Bool := jKind b = 1 ∨ jKind b = 3 ∨ jKind b = 4
def jDec (b : Bytes) : Bool := jKind b = 2 ∨ jKind b = 5 ∨ jKind b = 6

/-- Bytes read at SRC and written at DST. -/
def jSrcLen (b : Bytes) : Nat := if jEnc b then ceilDiv (jA b) 8 else if jLlr4 b then ceilDiv (jG b) 2 else jG b
def jTbLen (b : Bytes) : Nat := 64 * ceilDiv (ceilDiv (jA b) 8) 64
def jDstLen (b : Bytes) : Nat := if jEnc b then 64 * ceilDiv (ceilDiv (jG b) 8) 64 else jTbLen b + 32

/-- Bits that a kind can carry: R207 for small blocks, TS 38.212 for the polar kinds (PRESUMED, log 7). -/
def sizeOk (kind a : Nat) : Bool :=
  match kind with
  | 3 => decide (a + 24 ≤ 164)
  | 4 => decide (a = 32)
  | 5 => decide (12 ≤ a ∧ a ≤ 1706)
  | 6 => decide (a ≤ 11)
  | _ => true

/-- The cause of CD_ERRINFO for which a job fails its checks; 0: none (R196). -/
def jobCause (d : Dev) (b : Bytes) : Nat :=
  let k := jKind b
  let sch := decide (k = 1 ∨ k = 2)
  let qm := sch || decide (k = 5 ∨ k = 6)
  let softLen := (jSeg b).c * softSize (jBg b)
  if k = 0 ∨ 7 < k then 1
  else if ¬ ((b.drop 0x34).all (· = 0)) then 6
  else if ¬ (rsv b 0 31 21 && rsv b 4 31 24 && rsv b 0x0C 31 31 && rsv b 0x14 31 20) then 6
  else if k = 7 then 0
  else if jA b = 0 ∨ jG b = 0 ∨ ¬ sizeOk k (jA b) ∨ ¬ Config.codingLimits k (jBg b) (jQm b) (jNl b) (jA b) (jG b) then 2
  else if qm ∧ jQm b ∉ [1, 2, 4, 6, 8, 10] then 3
  else if jSrc b % 64 ≠ 0 ∨ jDst b % 64 ≠ 0 ∨ (k = 2 ∧ jSoft b % 64 ≠ 0) then 4
  else if (d.vMissing 0 (jSrc b) (jSrcLen b)).isSome ∨ (d.vMissing 0 (jDst b) (jDstLen b)).isSome ∨
      (k = 2 ∧ jSoft b ≠ 0 ∧ (d.vMissing 0 (jSoft b) softLen).isSome) then 5
  else 0

/-! ### Completion (R198, R205) -/

/-- Accesses of the coding unit of a die to p0's memory. -/
def cdRead (die a n : Nat) (d : Dev) : Bytes × Dev := tierRead 2 die 0 a n (d.raiseIf (d.vCorrected 0 a n) F.cdStatusCe die)
def cdWrite (die a : Nat) (b : Bytes) (d : Dev) : Dev := tierWrite 2 die 0 a b d

/-- Depth of a queue. -/
def CodingQueue.depth (x : CodingQueue) : Nat := 2 ^ x.log2depth

/-- Counts of a completed job in its slot's report, or in LATE_TB after it (R209). -/
def countJob (x : Job) (st : Nat) (d : Dev) : Dev :=
  let b := x.bytes
  let k := fld b 0x14 7 0
  let n := at_ b 0x30 4
  if ¬ d.carrierExists k ∨ ¬ (jEnc b ∨ jDec b) then d
  else if d.reportDone k n then d.modCarrier k (fun y => { y with lateTb := y.lateTb + 1 })
  else
    let one := fun (c : Bool) => if c then 1 else 0
    modCnt k n (fun y =>
      { y with tbOk := y.tbOk + one (jDec b && x.crcOk && decide (st = 0)), tbCrcFail := y.tbCrcFail + one (jDec b && decide (st = 0x41))
               tbDeadline := y.tbDeadline + one (decide (st = 0x42)), tbErased := y.tbErased + one x.erased
               cbFail := y.cbFail + x.cbFail, dlOk := y.dlOk + one (jEnc b && decide (st = 0))
               dlFail := y.dlFail + one (jEnc b && decide (st ≠ 0)) }) d

/-- Leading completed jobs leave the queue: CONS (R195). -/
def advance (die q : Nat) (d : Dev) : Dev :=
  let x := d.cq die q
  let k := (x.jobs.takeWhile (·.done)).length
  let cons := (x.cons + k) % 2 ^ 32
  let d := d.modCq die q (fun y => { y with cons := cons, jobs := y.jobs.drop k })
  if k = 0 then d else cdWrite die (x.qbase + 8) (leBytes 4 cons) d

/-- A queue as a command leaves it: enabled with its depth and base, or disabled. -/
def CodingQueue.configured : Option (Nat × Nat) → CodingQueue
  | some (log2depth, qbase) => { enabled := true, log2depth := log2depth, qbase := qbase }
  | none => {}

/-- Commands that wait for the queue take effect and complete, in order, once no job is left (R195). -/
def disableDone (die q : Nat) (d : Dev) : Dev :=
  if (d.cq die q).jobs ≠ [] then d
  else (d.cq die q).waiting.foldl (fun d c => done c.1 0 (d.modCq die q (fun _ => CodingQueue.configured c.2))) d

/-- Job x of queue q completes with a status: its completion record (R198). -/
def finishJob (die q : Nat) (x : Job) (st : Nat) (d : Dev) : Dev :=
  let qd := (d.cq die q).depth
  let a := (d.cq die q).qbase + 64 + 64 * qd + 16 * (x.j % qd)
  let it := x.iters.foldl max 0
  let rec_ := leBytes 4 x.j ++ leBytes 4 (st + (if x.crcOk then 2 ^ 8 else 0) + (if x.erased then 2 ^ 9 else 0) + it * 2 ^ 10) ++
    leBytes 4 (x.cbs % 256 + min x.cbFail 255 * 256) ++ zeros 4
  let d := cdWrite die a rec_ d
  let d := d.modCq die q (fun y =>
    { y with jobs := (y.jobs.takeWhile (fun z => z.j ≠ x.j)) ++ { x with done := true, status := st } ::
        (y.jobs.dropWhile (fun z => z.j ≠ x.j)).tail.map (fun z => if jKind z.bytes = 7 then { z with lastAt := d.acyc + 1 } else z) })
  let d := if st = 0x42 then evDie die 0x83 0 1 d else d
  disableDone die q (advance die q (countJob x st d))

/-- The trailer of R205. -/
def trailer (x : Job) (st : Nat) : Bytes :=
  let b := x.bytes
  leBytes 4 (at_ b 0x30 4) ++
    leBytes 4 (fld b 0x14 19 0 + (if x.crcOk then 2 ^ 20 else 0) + (if x.erased then 2 ^ 21 else 0)) ++
    leBytes 4 (st + x.cbs % 256 * 2 ^ 8 + min x.cbFail 255 * 2 ^ 16 + x.iters.foldl max 0 * 2 ^ 24) ++ leBytes 4 x.j ++ zeros 16

/-- The status a job whose work is done completes with. -/
def Job.outcome (x : Job) : Nat :=
  if x.status ≠ 0 then x.status else if (jKind x.bytes = 2 ∨ jKind x.bytes = 5) ∧ ¬ x.crcOk then 0x41 else 0

/-- A-cycles between the last code block and the completion of a job (R199, R204). -/
def jobTail (b : Bytes) : Nat :=
  if jKind b = 1 then ceilDiv (jG b) 512 + 64 else if jKind b = 2 then ceilDiv (jA b) 512 + 64 else 0

/-- CODING_JOB_COMPLETE: outputs, then the trailer, then the completion record. -/
def jobComplete (die q j : Nat) (d : Dev) : Dev :=
  match (d.cq die q).jobs.find? (fun x => x.j = j) with
  | none => d
  | some x =>
    if x.done ∨ ¬ x.started ∨ jKind x.bytes = 7 ∨ x.ended.length < x.cbs ∨ d.acyc < x.lastAt + jobTail x.bytes then d
    else
      let st := x.outcome
      let d := match x.out with
        | some o => cdWrite die (jDst x.bytes) o d
        | none => d
      let d := if jDec x.bytes then cdWrite die (jDst x.bytes + jTbLen x.bytes) (trailer x st) d else d
      finishJob die q x st d

def execCodingJobComplete (die q j : Nat) (s : State) : Res := there (die < 4 && q < 16) s (upd s (jobComplete die q j))

/-! ### Engines (R197, R200, R204) -/

/-- Engines of a kind on a die. -/
def engineCount (kind : Nat) : Nat := [12, 6, 2, 1].getD (kind - 4) 0

/-- Kind of the engine of a job. -/
def engineOf (b : Bytes) : Nat := if jKind b = 2 then 4 else if jKind b = 1 then 5 else 6

/-- A-cycles of block r of a job on its engine, and of its input stage. -/
def blockTime (x : Job) (r : Nat) : Nat × Nat :=
  let b := x.bytes
  let s := jSeg b
  match jKind b with
  | 1 => (64 + 4 * s.rows (s.ncb (at_ b 0x10 4)), 0)
  | 2 =>
    let w := match x.soft.find? (fun e => e.1 = 2 ^ 32 + r) with
      | some e => at_ e.2 0 4
      | none => s.ncb (at_ b 0x10 4)
    (72 + x.iters.getD r 0 * s.rows w * (if s.bg = 1 then 16 else 12), ceilDiv (s.e (jG b) (jQm b) (jNl b) r) 64)
  | 5 =>
    let (c, ap, cl) := uciSegments (jA b) (jG b)
    let n := polarLog (ap + cl) (jG b / c) 10
    (c * (64 + 2 ^ n * n / 8), 0)
  | 6 => (if jA b < 3 then 16 else 48, 0)
  | _ => (16 + 2 ^ polarLog (jA b + 24) (jG b) 9 / 32, 0)

/-- The lowest-numbered idle engine of a kind that is in service. -/
def Dev.idleEngine (d : Dev) (die kind : Nat) : Option Nat :=
  (List.range (engineCount kind)).find? (fun i =>
    (tabFind (d.cod die).busy (kind * 16 + i)).isNone && ! tabGet false (d.cod die).out (kind * 16 + i))

/-- A waiting block takes an idle engine that is free from `free` on. Its input stage runs from `inAt`, or from where its job is ready; the
engine waits for it (R204). -/
def placeBlock (die free inAt : Nat) (d : Dev) (w : Nat × Nat × Nat × Nat) : Dev :=
  let (kind, q, j, r) := w
  match d.idleEngine die kind, (d.cq die q).jobs.find? (fun x => x.j = j) with
  | some i, some x =>
    let (t, input) := blockTime x r
    let at_ := max free (max inAt x.readyAt + input)
    let run : CbRt := { q := q, j := j, r := r, until_ := at_ + t, since := d.acyc, from_ := at_ }
    d.modCod die (fun c =>
      { c with busy := tabPut c.busy (kind * 16 + i) run
               waiting := c.waiting.filter (· ≠ w) })
  | _, _ => d

/-- Waiting blocks take idle engines in order. -/
def placeBlocks (die free inAt : Nat) (d : Dev) : Dev := (d.cod die).waiting.foldl (placeBlock die free inAt) d

/-- CODE_BLOCK_DONE: the block on an engine ends; its soft buffer is written back (R201); a decoded one counts, with its
iterations (R422). The next block's input stage has run beside its D (R204). -/
def blockDone (die kind i : Nat) (d : Dev) : Dev :=
  match tabFind (d.cod die).busy (kind * 16 + i) with
  | none => d
  | some x =>
    if d.acyc < x.until_ then d
    else
      let d := d.modCod die (fun c => { c with busy := tabDel c.busy (kind * 16 + i) })
      let job : Option Job := (d.cq die x.q).jobs.find? (fun y => y.j = x.j)
      let d := match job with
        | some y => (y.soft.filter (fun (e : Nat × Bytes) => e.1 / softSize (jBg y.bytes) = x.r ∧ e.1 < 2 ^ 32)).foldl
            (fun d (e : Nat × Bytes) => cdWrite die (jSoft y.bytes + e.1) e.2 d) d
        | none => d
      let one : Job → Job := fun z => if z.j = x.j then { z with ended := z.ended ++ [x.r], lastAt := max z.lastAt x.until_ } else z
      let d := d.modCq die x.q (fun y => { y with jobs := y.jobs.map one })
      let d := if kind = 4 then evDie die 0x81 0 ((job.bind (fun y => y.iters[x.r]?)).getD 0) (evDie die 0x80 0 1 d) else d
      placeBlocks die x.until_ x.from_ d

def execCodeBlockDone (die kind i : Nat) (s : State) : Res :=
  there (die < 4 && 4 ≤ kind && kind < 8 && i < engineCount kind) s (upd s (blockDone die kind i))

/-! ### QUEUE_POLL (R195 to R197) -/

/-- A job that fails its checks completes with BAD_JOB or RANGE. -/
def badJob (die q : Nat) (x : Job) (cause : Nat) (d : Dev) : Dev :=
  let d := (d.raise F.cdStatusIllegal die).setF F.cdErrinfoQueue die q
  finishJob die q x (if cause = 5 then 0x45 else 0x43) (d.setF F.cdErrinfoCause die cause)

/-- Job j is read from its slot. -/
def readJob (die q : Nat) (d : Dev) (j : Nat) : Dev :=
  let x := d.cq die q
  let read := cdRead die (x.qbase + 64 + 64 * (j % x.depth)) 64 d
  let b := read.1
  let d := read.2
  let job : Job := { j := j, bytes := b, cbs := if jKind b = 7 then 0 else if jKind b = 1 ∨ jKind b = 2 then (jSeg b).c else 1
                     lastAt := d.acyc }
  let d := d.modCq die q (fun y => { y with jobs := y.jobs ++ [job], seen := (j + 1) % 2 ^ 32 })
  let cause := jobCause d b
  if cause = 0 then d else badJob die q { job with cbs := 0 } cause d

/-- QUEUE_POLL: the producer record is read, and new jobs with it; more than the queue holds is an overflow, and only its depth is read. -/
def queuePoll (die q : Nat) (d : Dev) : Dev :=
  let x := d.cq die q
  if ¬ x.enabled ∨ x.waiting ≠ [] then d
  else
    let read := cdRead die x.qbase 64 d
    let b := read.1
    let d := read.2
    let prod := at_ b 0 4
    let ahead := (prod + 2 ^ 32 - x.cons) % 2 ^ 32
    let d := if x.depth < ahead then
        ((d.raise F.cdStatusOverflow die).setF F.cdErrinfoQueue die q).setF F.cdErrinfoCause die 7
      else d
    let have_ := (x.seen + 2 ^ 32 - x.cons) % 2 ^ 32
    ((List.range (min ahead x.depth - have_)).map (fun i => (x.seen + i) % 2 ^ 32)).foldl (readJob die q) d

def execQueuePoll (die q : Nat) (s : State) : Res := there (die < 4 && q < 16) s (upd s (queuePoll die q))

/-! ### Starting jobs (R197) -/

/-- The next job of a queue that has not started; a SIGNAL takes no engine and starts nothing (R198). -/
def CodingQueue.ready (x : CodingQueue) : Option Job :=
  if x.enabled ∧ x.waiting = [] then x.jobs.find? (fun j => ! j.started && ! j.done && decide (jKind j.bytes ≠ 7)) else none

/-- The job that starts next on a die: queues in ascending order from the round's turn. -/
def Dev.nextJob (d : Dev) (die : Nat) : Option (Nat × Job) :=
  ((List.range 16).map (fun i => ((d.cod die).turn + i) % 16)).findSome? (fun q => ((d.cq die q).ready).map (fun x => (q, x)))

/-- A job starts. An encode job passes the CRC and segmentation unit first, which serves the jobs in their order: 512 bits per a-cycle, 40
a-cycles after the start (R199, R208). Its blocks then go to the engines. -/
def startAs (die q : Nat) (x : Job) (d : Dev) : Dev :=
  let b := x.bytes
  let crcEnd := if jEnc b then max (d.acyc + 40) (d.cod die).crcEnd + ceilDiv (jA b + 24) 512 else (d.cod die).crcEnd
  let x := { x with started := true, readyAt := if jEnc b then crcEnd else d.acyc }
  let d := d.modCq die q (fun y => { y with jobs := y.jobs.map (fun z => if z.j = x.j then x else z) })
  let kind := engineOf b
  let d := d.modCod die (fun c =>
    { c with turn := (q + 1) % 16, crcEnd := crcEnd, waiting := c.waiting ++ (List.range x.cbs).map (fun r => (kind, q, x.j, r)) })
  placeBlocks die d.acyc d.acyc d

/-- Job j of queue q starts if it is the next one and of a kind. -/
def startJob (die q j kind : Nat) (f : Job → Dev → Job × Dev) (d : Dev) : Dev :=
  match d.nextJob die with
  | none => d
  | some (q', x) =>
    if q' ≠ q ∨ x.j ≠ j ∨ jKind x.bytes ≠ kind then d
    else
      let read := f x d
      let x := read.1
      let d := read.2
      startAs die q x (d.raiseIf (x.erased || decide (x.status = 0x44)) F.cdStatusDataLost die)

/-- Bytes of p0's range that lie in uncorrectable units, by offset. -/
def Dev.lostAt (d : Dev) (a n : Nat) : Nat → Bool :=
  let bad := (unitsOf a n).filter (fun u => d.vLost 0 u 64)
  fun o => bad.contains ((a + o) / 64 * 64)

/-- DL_SCH (R199, R206). -/
def dlSch (die : Nat) (x : Job) (d : Dev) : Job × Dev :=
  let b := x.bytes
  let s := jSeg b
  let n := ceilDiv (jA b) 8
  let lost := d.lostAt (jSrc b) n
  let read := cdRead die (jSrc b) n d
  let src := read.1
  let d := read.2
  let tb := withTbCrc ((msbBits src).take (jA b))
  let len := if s.c = 1 then s.kp else s.kp - 24
  let anyLost := (List.range n).any lost
  let bad := fun r => anyLost && (decide (r + 1 = s.c) || (List.range n).any (fun o =>
    lost o && decide (r * len < 8 * o + 8 ∧ 8 * o < (r + 1) * len)))
  let out := (List.range s.c).flatMap (fun r =>
    let e := s.e (jG b) (jQm b) (jNl b) r
    if bad r then List.replicate e false else blockOut s tb (fld b 0 6 5) e (jQm b) (s.ncb (at_ b 0x10 4)) r)
  let keep := (List.range s.c).flatMap (fun r => List.replicate (s.e (jG b) (jQm b) (jNl b) r) (! bad r))
  let y := lsbBytes (List.zipWith (· && ·) (scramble (jCinit b) out) keep)
  ({ x with cbs := s.c, out := some (y ++ zeros (jDstLen b - y.length)), status := if anyLost then 0x44 else 0 }, d)

def execDlSch (die q j : Nat) (s : State) : Res := there (die < 4 && q < 16) s (upd s (startJob die q j 1 (dlSch die)))

/-- LLRs of a job (R201): 8-bit, or 4-bit times 16 with the low nibble first. -/
def readLlrs (b raw : Bytes) : List Int :=
  if jLlr4 b then ((raw.flatMap (fun x => [x.toNat % 16, x.toNat / 16])).take (jG b)).map (fun v => toSigned 4 v * 16)
  else (raw.take (jG b)).map (fun x => x.toInt)

/-- One code block of a UL_SCH job: bits, iterations, soft writes, W, erased. -/
def schBlock (die : Nat) (b : Bytes) (s : Seg) (llr : Array Int) (lost : Nat → Bool) (r : Nat) (d : Dev) :
    (List Bool × Nat × List (Nat × Bytes) × Nat × Bool) × Dev :=
  let ncb := s.ncb (at_ b 0x10 4)
  let e := s.e (jG b) (jQm b) (jNl b) r
  let o := s.ofs (jG b) (jQm b) (jNl b) r
  let soft := jSoft b
  let base := soft + r * softSize s.bg
  let ps := s.positions ncb (fld b 0 6 5) e (jQm b)
  let lostS := d.lostAt base (softSize s.bg)
  let use := decide (soft ≠ 0) && ! bit b 0 13
  let read := if use then cdRead die base 64 d else ([], d)
  let head := read.1
  let d := read.2
  let lostHdr := use && lostS 0
  let agrees := lostHdr || decide (head.take 12 = (softHeader s (jA b) ncb 0).take 12)
  let d := if use ∧ ¬ agrees then evPart 0 0x4B 0 1 d else d
  let w0 := if use ∧ agrees ∧ ¬ lostHdr then min (at_ head 12 4) ncb else 0
  let elems := cdRead die (base + 64) (16 * ceilDiv w0 32) d
  let scales := cdRead die (base + softScale s.bg) (ceilDiv w0 32) elems.2
  let d := scales.2
  let c0 := (softRead elems.1 scales.1 w0).take ncb
  let c := (c0 ++ List.replicate (ncb - c0.length) 0).toArray
  let c := ps.zipIdx.foldl (fun (c : Array Int) x => c.setIfInBounds x.1 (clampI (-127) 127 (c.getD x.1 0 + llr.getD (o + x.2) 0))) c
  let w := ps.foldl (fun m p => max m (p + 1)) w0
  let byte := fun i => if jLlr4 b then i / 2 else i
  let hit := (ps.zipIdx.filter (fun x => lost (byte (o + x.2)))).map (fun x => x.1 / 32)
  let softHit := if lostHdr then List.range (ceilDiv w 32)
    else (List.range (ceilDiv w0 32)).filter (fun j => lostS (64 + 16 * j) || lostS (softScale s.bg + j))
  let dead := hit ++ softHit
  let c := if dead = [] then c.toList else c.toList.zipIdx.map (fun (x : Int × Nat) => if dead.contains (x.2 / 32) then 0 else x.1)
  let im := fld b 0 19 15
  let (bits, it) := ldpcDecode s w (if im = 0 then 8 else im) (bit b 0 20) c
  let back := if soft = 0 then [] else (softWrite s (jA b) ncb w c).map (fun y => (r * softSize s.bg + y.1, y.2))
  ((bits, it, back, w, decide (dead ≠ [])), d)

/-- UL_SCH (R201 to R206). -/
def ulSch (die : Nat) (x : Job) (d : Dev) : Job × Dev :=
  let b := x.bytes
  let s := jSeg b
  let lost := d.lostAt (jSrc b) (jSrcLen b)
  let read := cdRead die (jSrc b) (jSrcLen b) d
  let raw := read.1
  let d := read.2
  let llr := (descramble (jCinit b) (readLlrs b raw)).toArray
  let (rs, d) := (List.range s.c).foldl (fun (acc : List (List Bool × Nat × List (Nat × Bytes) × Nat × Bool) × Dev) r =>
    let (y, d) := schBlock die b s llr lost r acc.2
    (acc.1 ++ [y], d)) ([], d)
  let len := if s.c = 1 then s.kp else s.kp - 24
  let ok := fun (bits : List Bool) => decide (s.c = 1) || decide (crc24b (bits.take len) = (bits.drop len).take 24)
  let tb := rs.flatMap (fun y => y.1.take len)
  let a := tb.take (jA b)
  let tbOk := decide (withTbCrc a = tb.take (jA b + s.tbCrc))
  let bad := (rs.zipIdx.filter (fun y => ! ok y.1.1)).map (·.2)
  let fails := if s.c = 1 then (if tbOk then 0 else 1) else bad.length
  let y := msbBytes a
  ({ x with cbs := s.c, iters := rs.map (fun y => y.2.1), out := some y, crcOk := tbOk && decide (fails = 0), cbFail := fails, fails := bad
            soft := (rs.flatMap (fun y => y.2.2.1)) ++ rs.zipIdx.map (fun y => (2 ^ 32 + y.2, leBytes 4 y.1.2.2.2.1))
            erased := rs.any (fun y => y.2.2.2.2) }, d)

def execUlSch (die q j : Nat) (s : State) : Res := there (die < 4 && q < 16) s (upd s (startJob die q j 2 (ulSch die)))

/-- An encode job of a polar unit (R207). -/
def polarJob (die : Nat) (bch : Bool) (x : Job) (d : Dev) : Job × Dev :=
  let b := x.bytes
  let n := ceilDiv (jA b) 8
  let bad := (List.range n).any (d.lostAt (jSrc b) n)
  let read := cdRead die (jSrc b) n d
  let src := read.1
  let d := read.2
  let out := if bad then List.replicate (jG b) false
    else scramble (jCinit b) (polarEncode bch (if bch then 0 else at_ b 0x10 2) ((msbBits src).take (jA b)) (jG b))
  let y := lsbBytes out
  ({ x with out := some (y ++ zeros (jDstLen b - y.length)), status := if bad then 0x44 else 0 }, d)

def execPolarDci (die q j : Nat) (s : State) : Res :=
  there (die < 4 && q < 16) s (upd s (startJob die q j 3 (polarJob die false)))

def execPolarBch (die q j : Nat) (s : State) : Res :=
  there (die < 4 && q < 16) s (upd s (startJob die q j 4 (polarJob die true)))

/-- LLRs of a control job; those of uncorrectable units, in blocks of 32, are erased (R206). -/
def ctlLlrs (die : Nat) (b : Bytes) (d : Dev) : List Int × Bool × Dev :=
  let lost := d.lostAt (jSrc b) (jSrcLen b)
  let read := cdRead die (jSrc b) (jSrcLen b) d
  let raw := read.1
  let d := read.2
  let byte := fun i => if jLlr4 b then i / 2 else i
  let l := readLlrs b raw
  let bad := ((List.range l.length).filter (fun i => lost (byte i))).map (· / 32)
  (if bad = [] then l else l.zipIdx.map (fun (x : Int × Nat) => if bad.contains (x.2 / 32) then 0 else x.1), decide (bad ≠ []), d)

/-- POLAR_UCI (R207). -/
def polarUci (die : Nat) (x : Job) (d : Dev) : Job × Dev :=
  let b := x.bytes
  let (l, er, d) := ctlLlrs die b d
  let (bits, ok) := uciDecode (jA b) (descramble (jCinit b) l)
  ({ x with out := some (msbBytes bits), crcOk := ok, cbFail := if ok then 0 else 1, erased := er }, d)

def execPolarUci (die q j : Nat) (s : State) : Res := there (die < 4 && q < 16) s (upd s (startJob die q j 5 (polarUci die)))

/-- SMALL_UCI (R207). -/
def smallUci (die : Nat) (x : Job) (d : Dev) : Job × Dev :=
  let b := x.bytes
  let (l, er, d) := ctlLlrs die b d
  ({ x with out := some (msbBytes (smallDecode (jA b) l)), erased := er }, d)

def execSmallUci (die q j : Nat) (s : State) : Res := there (die < 4 && q < 16) s (upd s (startJob die q j 6 (smallUci die)))

/-! ### SIGNAL (R198) -/

/-- The presence bit that a SIGNAL job sets: PSLOT for epoch CEPOCH of p0. -/
def signalPresence (b : Bytes) (d : Dev) : Dev :=
  let slot := fld b 0x30 12 0
  let e := fld b 0x20 47 0
  match (d.sched 0).active with
  | none => d
  | some im =>
    if d.esState 0 < 3 ∨ 6 < d.esState 0 ∨ ! (im.slots.any (fun s => s.1 = slot)) then d
    else d.modSched 0 (fun s =>
      { s with presence := tabSet {} s.presence (slot * 2 + e % 2) { epoch := e, full := 1, setAt := some d.acyc } })

/-- Jobs of the queue before j that have not completed. -/
def CodingQueue.before (x : CodingQueue) (j : Nat) : List Job := (x.jobs.takeWhile (fun y => y.j ≠ j)).filter (fun y => ! y.done)

/-- SIGNAL: every earlier job of its queue has completed before this a-cycle (R198). -/
def signalJob (die q j : Nat) (d : Dev) : Dev :=
  match (d.cq die q).jobs.find? (fun x => x.j = j) with
  | none => d
  | some x =>
    if x.done ∨ jKind x.bytes ≠ 7 ∨ (d.cq die q).before j ≠ [] ∨ d.acyc < x.lastAt then d
    else finishJob die q x 0 (signalPresence x.bytes d)

def execSignal (die q j : Nat) (s : State) : Res := there (die < 4 && q < 16) s (upd s (signalJob die q j))

/-- Job j leaves the engines of a die without writing anything more. -/
def stopJob (die q j : Nat) (d : Dev) : Dev :=
  let d := d.modCod die (fun c =>
    { c with busy := c.busy.filter (fun e => ¬ (e.2.q = q ∧ e.2.j = j)), waiting := c.waiting.filter (fun w => ¬ (w.2.1 = q ∧ w.2.2.1 = j)) })
  placeBlocks die d.acyc d.acyc d

/-- A job that is stopped at its deadline: a block that has not finished counts as failed beside those whose CRC failed, and only finished
ones ran iterations (R198). A job that had not started counts all its blocks so (log 163). -/
def Job.stopped (x : Job) : Job :=
  { x with crcOk := false, cbFail := (x.ended.filter x.fails.contains).length + (x.cbs - x.ended.length)
           iters := (x.iters.zipIdx.filter (fun e => x.ended.contains e.2)).map (·.1) }

/-- Blocks of a die that are due end. -/
def dueBlocks (die : Nat) (d : Dev) : Dev :=
  (d.cod die).busy.foldl (fun d e => blockDone die (e.1 / 16) (e.1 % 16) d) d

/-- SIGNAL_DEADLINE: earlier jobs that have not completed are stopped with DEADLINE, then the presence is set (R198). -/
def signalDeadline (die q j : Nat) (d : Dev) : Dev :=
  match (d.cq die q).jobs.find? (fun x => x.j = j) with
  | none => d
  | some x =>
    if x.done ∨ jKind x.bytes ≠ 7 ∨ ¬ ntLe (BitVec.ofNat 64 (at_ x.bytes 0x18 8)) d.nt then d
    else
      let d := dueBlocks die d
      let d := ((d.cq die q).before j).foldl (fun d y => jobComplete die q y.j d) d
      let left := ((d.cq die q).before j)
      let d := d.raiseIf (decide (left ≠ [])) F.cdStatusDeadline die
      let d := left.foldl (fun d y =>
        if jKind y.bytes = 7 then finishJob die q y 0 (signalPresence y.bytes d)
        else finishJob die q y.stopped 0x42 (stopJob die q y.j d)) d
      finishJob die q x 0 (signalPresence x.bytes d)

def execSignalDeadline (die q j : Nat) (s : State) : Res := there (die < 4 && q < 16) s (upd s (signalDeadline die q j))

/-! ### CODING_QUEUE_CFG (R195) and resets (R210) -/

/-- A command waits for its queue to run empty: started jobs finish, those not yet started complete with CANCELLED (R195). An enabled queue
that is enabled again is run empty too (log 164). -/
def drainQueue (c : Src) (die q : Nat) (cfg : Option (Nat × Nat)) (d : Dev) : Dev :=
  let d := d.modCq die q (fun x => { x with waiting := x.waiting ++ [(c, cfg)] })
  let idle := (d.cq die q).jobs.filter (fun x => ! x.started && ! x.done)
  disableDone die q (idle.foldl (fun d x => finishJob die q { x with cbs := 0 } 0x46 d) d)

/-- CODING_QUEUE_CFG. -/
def codingQueueCfg (c : Src) (die q enable log2depth qbase : Nat) (d : Dev) : Dev :=
  if 4 ≤ die ∨ 16 ≤ q ∨ 1 < enable then done c 2 d
  else if enable = 1 then
    if log2depth < 4 ∨ 12 < log2depth ∨ qbase % 64 ≠ 0 then done c 2 d
    else if ¬ (d.cq die q).enabled then done c 0 (d.modCq die q (fun _ => CodingQueue.configured (some (log2depth, qbase))))
    else drainQueue c die q (some (log2depth, qbase)) d
  else if ¬ (d.cq die q).enabled then done c 0 d
  else drainQueue c die q none d

def execCodingQueueCfg (c : Src) (die q enable log2depth qbase : Nat) (s : State) : Res :=
  upd s (codingQueueCfg c die q enable log2depth qbase)

/-- The queues of a die are disabled without records, and its jobs stopped (R210). -/
def resetCoding (die : Nat) (d : Dev) : Dev := d.modCod die (fun c => { c with queues := [], busy := [], waiting := [], turn := 0, crcEnd := 0 })

/-- A reset of p0 or of a wider domain: every die, and the allocation directories (R210). -/
def resetRadio (d : Dev) : Dev :=
  let d := (List.range 4).foldl (fun d die => resetCoding die d) d
  { d with carriers := d.carriers.map (fun e => (e.1, { e.2 with alloc := [], lateOnly := [], dirDone := [] })) }

end Sys2Proof.Machine
end

