-- ==== Sys2Proof/Machine/Faults.lean ====
section
/-! DEFINITION. Resets (R382 to R387), watchdogs and suspect replay (R391 to R395), the recovery ladder (R396, R397), membership and
fencing (R398 to R401), heartbeats, health and service states (R402 to R404). -/

namespace Sys2Proof.Machine

open Sys2Proof

/-! ### Resets of a core, a partition and a die (R382) -/

/-- Registers of core g other than CORE_STATE at their reset values. -/
def resetCoreRegs (g : Nat) (d : Dev) : Dev :=
  let d := [2 * g, 2 * g + 1].foldl (fun d i => (d.wr .hbStatus i 0).wr .hbErrinfo i 0) d
  ((((d.wr .seStatus g 0).wr .seErrinfo g 0).wr .suStatus g 0).wr .suErrinfo g 0)

/-- The context on core g is discarded: its generation counts (R388) and the scrub begins. A core lent to p0 is cleared at once and stays
lent; a halted core stays halted (R395). -/
def discardCore (g : Nat) (d : Dev) : Dev :=
  let d := match d.coreOwner g with
    | some p => { d with saves := tabDel d.saves (saveKey p g) }
    | none => d
  let d := d.modCore g (fun c => { c with gen := (c.gen + 1) % 256, next := none })
  if d.coreSt g = 6 ∨ d.coreSt g = 4 ∨ d.coreSt g = 0 then d
  else if d.flag F.coreStateLent g ∧ d.coreOwner g = some 0 then setCoreSt g 1 (clearCore g d)
  else startScrub g d

/-- A core reset: every core state goes, ownership stays (R382). -/
def resetCore (d : Dev) (g : Nat) : Dev := resetCoreRegs g (discardCore g d)

/-- A partition reset: schedule, contexts, save areas, exchange state; a drain barrier; memory, keys, rings and semaphores stay. A freeze
that waits completes with PART_STATE. -/
def resetContexts (d : Dev) (p : Nat) : Dev :=
  let d := match (d.sched p).freezeBy with
    | some c => done c 0xAF ((d.setF F.ptPartStateState p 1).modSched p (fun s => { s with freezeBy := none }))
    | none => d
  let cores := (List.range 80).filter (fun g => decide (d.coreOwner g = some p))
  let d := resetSched p (lateDrops p cores d)
  let d := cores.foldl resetCore { d with saves := d.saves.filter (fun e => e.1 / 128 ≠ p) }
  let d := d.modPart p (fun x => { x with gen := (x.gen + 1) % 65536, barrier := some d.acyc, bank := {} })
  (d.wr .esStatus p 0).wr .ptRegStatus p 0

/-- A partition reset: for p0 also R210. -/
def resetPart (d : Dev) (p : Nat) : Dev := if p = 0 then resetRadio (resetContexts d p) else resetContexts d p

/-- Partition p has a core, a frame or a stream-buffer share on the die. -/
def Dev.hasOn (d : Dev) (p die : Nat) : Bool :=
  ((d.heldGroups p).any (fun h => ((handleCores h).getD []).any (fun g => decide (dieOf g = die)))) ||
    d.mem.owner.any (fun e => decide (e.2 = p + 1 ∧ e.1 / dieFrames = die)) ||
    decide (0 < tabGet 0 (d.part p).sb die)

/-- The partitions of that kind. -/
def Dev.partsOn (d : Dev) (die : Nat) : List Nat := (List.range 32).filter (fun p => decide (d.pstate p ≠ 0) && d.hasOn p die)

/-- A halted core that a die reset frees; one that has been freed before stays halted (R395). -/
def unhalt (d : Dev) (g : Nat) : Dev :=
  if d.coreSt g ≠ 6 ∨ (d.core g).haltedOnce then d
  else
    let d := d.modCore g (fun c => { c with haltedOnce := true })
    startScrub g d

/-- A die reset: as a partition reset for every partition with a part on the die; stream buffer, coding unit (R210) and registers of the die
at reset; HBM contents stay. -/
def resetDie (die : Nat) (d : Dev) : Dev :=
  let d := (d.partsOn die).foldl resetContexts d
  let d := d.modMem (fun m => { m with sb := m.sb.filter (fun e => e.1 / sbSize % 4 ≠ die) })
  let d := (resetCoding die d).modCod die (fun c => { c with out := [] })
  let d := resetRegs (fun r i => r.spec.dom = .die && decide (i = die)) { d with banks := tabDel d.banks die }
  let cores := (List.range 20).map (fun k => die * 20 + k)
  cores.foldl unhalt (cores.foldl (fun d g => resetCoreRegs g d) d)

/-! ### Device reset (R386) -/

/-- Die-link lane bytes of a Coppice map that list a lane: entries of DLX_DLY and DLE. -/
def laneEntries (m : Mem) : Nat := (((memRead m 0x190 0x60).filter (fun (b : Byte) => b ≠ 0xFF)).length)

/-- The map in force as a bring-up starts: the signed map with the die-link lanes in use (R408). -/
def mapRestart (d : Dev) : Dev :=
  let lanes := memRead d.inForce 0x190 0x60
  let m := memWrite d.flash.signed 0x190 lanes
  { d with inForce := memWrite m 6 (leBytes 2 (laneEntries m - laneEntries d.flash.signed)) }

/-- Stages a device reset runs again: Q4 only for a die link out of service (R405). -/
def Dev.rerunList (d : Dev) : List Nat := if d.dieOut = [] then [5, 6, 9] else [4, 5, 6, 9]

/-- Registers that a device reset sets: every domain inside it but the always-on and power-cycle ones; PT_MEM_USE of p0, whose memory
stays, is kept. -/
def deviceDom (r : RegName) (i : Nat) : Bool :=
  match r.spec.dom with
  | .core | .partition | .die | .function | .device => ! (decide (r = .ptMemUse) && decide (i = 0))
  | .power | .always => false

/-- The Teril links, always-on (R383), keep the rates they have trained to. -/
def keepRates (old d : Dev) : Dev :=
  (List.range 16).foldl (fun d l => d.setF F.tbPortCfgPortMbps (16 + l) (old.mbps (16 + l))) d

/-- A device reset (the Teril links, always-on, keep their trained rates): p1 to p31 destroyed, p0 without cores and with an EMPTY schedule, carriers, tokens and membership gone, the host
interface and every core, coding unit and table at reset; the always-on domains go on; Quickset runs again from Q3. -/
def deviceReset (d : Dev) : Dev :=
  let d := (List.range 32).foldl (fun d p => if p = 0 ∨ d.pstate p = 0 then d else destroyPart p d) d
  let d := resetSched 0 d
  let d := d.modPart 0 (fun x =>
    { x with groups := [], reg := [], tokens := [], barrier := none, resetBy := none, resize := [], removing := [], bank := {},
             gen := (x.gen + 1) % 65536 })
  let d := keepRates d (resetRegs deviceDom (fnReset d))
  let gens := d.cores.foldl (fun (t : Tab Core) (e : Nat × Core) =>
    tabSet {} t e.1 ({ gen := (e.2.gen + 1) % 256 } : Core)) []
  let d := { d with cores := gens, saves := [], sems := [], carriers := [], coding := [], lgl := {}, lglPend := none, lends := [],
                    shared := [], watch := [], hn := [], he := [], hbSeq := 0, banks := [] }
  let d := d.modMem (fun m => { m with spad := [], spadUe := [], sb := [], lends := [], tlbs := [], mig := [], patrol := [],
                                       refresh := [], hot := [], owner := m.owner.filter (fun e => e.2 = 1) })
  let d := d.modTeril (fun t => { t with members := none, ld := 0 })
  let d := if d.getF F.fltStateService = 1 then d.setF F.fltStateService 0 0 else d
  let d := (d.setF F.qsStateReady 0 0).addSat F.qsStateRuns 0 1
  mapRestart { d with stage := some 3, rerun := d.rerunList, reduced := false }

/-! ### RESET (R387) -/

/-- The bound of a reset in a-cycles (*Reset domains*). -/
def resetBound (scope : Nat) : Nat :=
  if scope = 1 then 90000 else if scope = 2 then 6300000 else if scope = 3 then 15000000 else 9000000000

/-- What a reset of a scope does at once; a core reset first aborts the schedules of the group's owners. -/
def resetScope (scope target : Nat) (d : Dev) : Dev :=
  if scope = 1 then
    let cores := (handleCores target).getD []
    cores.foldl resetCore (((cores.filterMap (fun g => d.coreOwner g)).eraseDups).foldl (fun d p => abortSched p d) (cores.foldl lateDrop d))
  else if scope = 2 then resetPart d target
  else if scope = 3 then resetDie target d
  else deviceReset { d with resets := [] }

/-- A reset of a scope begins and its bound runs. -/
def startReset (site : SiteId) (scope target : Nat) (cmd : Option Src) (d : Dev) : Dev :=
  let d := resetScope scope target d
  { d with resets := d.resets ++ [{ site := site, scope := scope, target := target, due := d.acyc + resetBound scope, cmd := cmd }] }

/-- RESET_BAD: the scope and its target name nothing that can be reset (R387). -/
def resetBad (d : Dev) (scope p target : Nat) : Bool :=
  if scope = 1 then (d.legalCores target).isNone
  else if scope = 2 then decide (32 ≤ p) || decide (d.pstate p = 0)
  else if scope = 3 then decide (4 ≤ target % 256)
  else decide (scope ≠ 5)

/-- RESET: SCOPE 1 a group handle, 2 a partition, 3 a die, 5 the device. -/
def resetCmd (c : Src) (scope p target : Nat) (d : Dev) : Dev :=
  if resetBad d scope p target then done c 0xE1 d
  else startReset .device scope (if scope = 1 then target else if scope = 2 then p else if scope = 3 then target % 256 else 0) (some c) d

def execReset (c : Src) (scope p target : Nat) (s : State) : Res := upd s (resetCmd c scope p target)

/-- What a reset in progress waits for is done: no core of it is being scrubbed, no barrier of its partitions runs, Q9 has passed. -/
def Dev.resetOver (d : Dev) (x : ResetRt) : Bool :=
  match x.scope with
  | 1 => ((handleCores x.target).getD []).all (fun g => decide (d.coreSt g ≠ 4))
  | 2 => (d.part x.target).barrier.isNone && (d.occupied x.target).all (fun g => decide (d.coreSt g ≠ 4))
  | 3 => (d.partsOn x.target).all (fun p => (d.part p).barrier.isNone) &&
      (List.range 20).all (fun k => decide (d.coreSt (x.target * 20 + k) ≠ 4))
  | _ => d.flag F.qsStateReady && d.stage.isNone

/-- Step-3 resets inside the window of R397. -/
def oosWindow (d : Dev) : Dev :=
  let w := d.eff F.fltLadderOosHours 1 168 * 28800000000000
  let l := d.oosResets.filter (fun t => ntLt d.nt (later t w))
  ({ d with oosResets := l }).setF F.fltStateResets 0 (min l.length 15)

/-- The latch of R397 after a completed step-3 reset. -/
def oosLatch (d : Dev) : Dev :=
  if d.oosResets.length < d.eff F.fltLadderOosCount 1 15 ∨ d.oos then d
  else faultRecord 6 0 0 15 0 0 (raiseFlt F.fltStatusOutOfService (d.setF F.fltStateService 0 2))

/-- RESET_COMPLETE: the first reset whose effects have ended completes its command. -/
def resetComplete (d : Dev) : Dev :=
  match d.resets.find? (fun x => d.resetOver x) with
  | none => d
  | some x =>
    let d := { d with resets := d.resets.erase x }
    let d := match x.cmd with
      | some c => done c 0 d
      | none => d
    if x.scope = 5 ∧ x.target = 3 then oosLatch (oosWindow d) else d

def execResetComplete (s : State) : Res := upd s resetComplete

/-! ### Watched engines (R391) -/

/-- Number of an engine. -/
def engKey : EngineId → Nat
  | .core g k => g * 4 + k
  | .coding die k i => 320 + (die * 4 + (k - 4)) * 16 + i
  | .edge k => 600 + k

/-- KIND, INDEX and DIE of an engine in a device fault record. -/
def engPlace : EngineId → Nat × Nat × Nat
  | .core g k => (k, g % 20, dieOf g)
  | .coding die k i => (k, i, die)
  | .edge k => (k, 0, 4)

/-- The engine exists. -/
def engOk : EngineId → Bool
  | .core g k => decide (g < 80 ∧ k < 4)
  | .coding die k i => decide (die < 4 ∧ 4 ≤ k ∧ k < 8 ∧ i < engineCount k)
  | .edge k => decide (8 ≤ k ∧ k < 12)

def Dev.watchOf (d : Dev) (e : EngineId) : Watch := tabGet {} d.watch (engKey e)
def modWatch (e : EngineId) (f : Watch → Watch) (d : Dev) : Dev := { d with watch := tabMod {} d.watch (engKey e) f }

/-- Exchange entries of p that the engine could be sending. -/
def Dev.sending (d : Dev) (p : Nat) : List SendRt :=
  (d.sched p).sends.filter (fun s => ! s.done && decide (s.sent = 0) && decide ((d.sched p).tick + s.entry.offset ≤ d.acyc))

/-- Partitions with work on an engine: its suspects in the order of R392. -/
def Dev.workers (d : Dev) : EngineId → List Nat
  | .core g _ => (d.coreOwner g).toList
  | .coding _ _ _ => []
  | .edge 8 => (List.range 32).filter (fun p => d.sending p ≠ [])
  | .edge 9 => (List.range 32).filter (fun p => d.teril.dirty.any (fun x => decide (x.1 = p)))
  | .edge 10 => (List.range 32).filter (fun p => d.mem.mig.any (fun m => decide (m.p = p)))
  | .edge _ => []

/-- A move of p on core g has a page in host memory or at a peer, whose bounds are their own (R272, R323, R391). -/
def Dev.waitsFar (d : Dev) (p g : Nat) (m : Move) : Bool :=
  ((d.mvTier2 p g m).1 ++ (d.mvTier2 p g m).2).any (fun r => (pagesOf r.1 r.2).any (fun v => (d.pte p v).any (·.far)))

/-- The engine holds outstanding work that does not wait on what pauses its watchdog. -/
def Dev.engBusy (d : Dev) (e : EngineId) : Bool :=
  match e with
  | .core g 0 => decide ((d.core g).hb0.mms ≠ [])
  | .core g 1 => decide ((d.core g).hb1.mms ≠ [])
  | .core g 2 => (d.core g).se.running
  | .core g _ => (d.core g).moves.any (fun m => m.started.isSome && ! d.waitsFar (d.workOf g) g m) && ! (d.core g).ctx.list.paused
  | .coding die k i => (tabFind (d.cod die).busy (k * 16 + i)).isSome
  | .edge 9 => decide (d.getF F.tlMirStatusState = 2) && decide (d.workers e ≠ [])
  | .edge 11 => true
  | .edge _ => decide (d.workers e ≠ [])

/-- Progress events of an engine so far. -/
def Dev.progOf (d : Dev) (e : EngineId) : Prog :=
  match e with
  | .core g 0 => (d.core g).hb0.prog
  | .core g 1 => (d.core g).hb1.prog
  | .core g 2 => (d.core g).se.prog
  | .core g _ => (d.core g).suProg
  | e => (d.watchOf e).prog

/-- The a-cycle since which the engine has held work without progress. -/
def Dev.stuckSince (d : Dev) (e : EngineId) : Nat :=
  let t := (d.progOf e).at_
  match e with
  | .core g 2 =>
    match (d.core g).unit with
    | some (p, i) => max t ((d.unitRt p i).bind (·.issued) |>.getD 0)
    | none => t
  | .coding die k i => max t (((tabFind (d.cod die).busy (k * 16 + i)).map (·.until_)).getD 0)
  | .edge 8 => max t ((List.range 32).flatMap (fun p => (d.sending p).map (fun s => (d.sched p).tick + s.entry.offset)) |>.foldl max 0)
  | .edge 9 => max t ((d.teril.dirty.map (fun x => (acycOf d x.2.2.2).toNat)).foldl max 0)
  | .edge 11 => 0
  | _ => t

/-- FLT_WDOG.TIMEOUT in a-cycles. -/
def Dev.wdogTime (d : Dev) : Nat := d.eff F.fltWdogTimeout 10 10000 * 30000

/-- FLT_LADDER.WINDOW in eighths of a ns, and in a-cycles. -/
def Dev.ladderWindow (d : Dev) : Nat := d.eff F.fltLadderWindow 1 255 * 800000000
def Dev.ladderWindowA (d : Dev) : Nat := d.eff F.fltLadderWindow 1 255 * 300000000

/-- An engine reset: pipeline, work in flight, staging and code buffers and the accumulator bank go (R382); an array's HB.MMs abort on every
array of their groups (R76). -/
def resetEngine (e : EngineId) (d : Dev) : Dev :=
  let refetch : Nat → Core → Core := fun k c => { c with code := tabSet {} c.code k { fetched := [(2 ^ 32, d.acyc)] } }
  match e with
  | .core g 0 => ((abortArray g 0 d).modHb g 0 (fun h => { prog := h.prog })).modCore g (refetch 0)
  | .core g 1 => ((abortArray g 1 d).modHb g 1 (fun h => { prog := h.prog })).modCore g (refetch 1)
  | .core g 2 => (d.modSe g (fun x => { prog := x.prog })).modCore g (refetch 2)
  | .core g _ => d.modCore g (fun c => { c with moves := [] })
  | .edge 10 => d.modMem (fun m => { m with mig := m.mig.map (fun x => if x.target = none then x else { x with started := d.acyc }) })
  | _ => d

/-! ### Aborts of an engine's work (R392) -/

/-- The moves in flight on core g end with DATA_LOST; what they had still to write is unpredictable (R392). -/
def loseMoves (g : Nat) (d : Dev) : Dev :=
  let p := d.workOf g
  (d.core g).moves.foldl (fun d m =>
    let o := mvOp m.w
    let d := cutMove g p (d.raise F.suStatusDataLost g) m
    noteListFail p g 2 0 (if o.sen then ccInc g o.sctr d else d)) (d.modCore g (fun c => { c with moves := [] }))

/-- The sends of a partition that have begun are cut, with DATA_LOST (R392); where that shows, the spec does not say (log 160). -/
def loseSends (p : Nat) (d : Dev) : Dev :=
  let cut := d.sending p
  if cut = [] then d
  else d.modSched p (fun s => { s with sends := s.sends.map (fun x => if cut.contains x then { x with done := true } else x) })

/-- The work of every suspect in flight on the engine is aborted: a unit ends with a status and SE_STATUS.ABORT (R106, R392), a move or a
send with DATA_LOST. -/
def abortWork (e : EngineId) (status : Nat) (d : Dev) : Dev :=
  match e with
  | .core g 3 => loseMoves g d
  | .core g _ =>
    match (d.core g).unit with
    | some (p, i) =>
      match d.unitRt p i with
      | some u => abortUnit p i status (d.openEngine u.cores) 0 (u.cores.foldl (fun d c => d.raise F.seStatusAbort c) d)
      | none => d
    | none => pruneOld (stopCore d g)
  | .edge 8 => (d.workers e).foldl (fun d p => loseSends p d) d
  | _ => d

/-! ### The ladder (R396) -/

/-- Number of a fault site, and its place in a device fault record. -/
def siteKey : SiteId → Nat
  | .engine e => engKey e
  | .host => 700
  | .device => 701
def sitePlace : SiteId → Nat × Nat × Nat
  | .engine e => engPlace e
  | .host => (11, 0, 4)
  | .device => (15, 0, 4)

/-- One step of the ladder at a site is carried out. -/
def takeStep (site : SiteId) (step : Nat) (cmd : Option Src) (d : Dev) : Dev :=
  let (kind, index, die) := sitePlace site
  let d := { d with ladders := tabSet {} d.ladders (siteKey site) { step := step, at_ := d.nt } }
  let d := faultRecord 3 step 0 kind index die (raiseFlt F.fltStatusLadder (d.setF F.fltStateLadder 0 step))
  match step with
  | 1 =>
    match site with
    | .engine e => resetEngine e (abortWork e 4 d)
    | .host => d
    | .device => startReset site 5 0 cmd d
  | 2 => fnReset d
  | 3 =>
    let d := oosWindow { d with oosResets := d.nt :: d.oosResets }
    startReset site 5 3 cmd d
  | _ => d.modPins (fun x => { x with pwrcycReq := true, pwrcycAt := d.nt })

/-- The ladder at a site: step 1 when none was taken within WINDOW, else the step after the last one; at once the next one when the last
one's reset missed its bound. -/
def ladderStep (site : SiteId) (missed : Bool) (cmd : Option Src) (d : Dev) : Dev :=
  let l : Ladder := tabGet {} d.ladders (siteKey site)
  let stale : Bool := l.step = 0 || reached d (later l.at_ d.ladderWindow)
  takeStep site (if stale && ! missed then 1 else min 4 (l.step + 1)) cmd d

/-- A core whose reset missed its bound is halted until a die reset (R395). -/
def haltCore (d : Dev) (g : Nat) : Dev :=
  if d.coreSt g ≠ 4 then d
  else
    let d := setCoreSt g 6 (health 4 1 (raiseFlt F.fltStatusCoreHalt d))
    let d := match d.coreOwner g with
      | some p => abortSched p d
      | none => d
    faultRecord 8 0 0 15 (g % 20) (dieOf g) d

/-- RESET_BOUND_MISS: the first reset of the site that is past its bound: cores that are not scrubbed are halted (R395); any wider
reset leads to the next step of the ladder (R396). -/
def boundMiss (site : SiteId) (d : Dev) : Dev :=
  match d.resets.find? (fun x => decide (x.site = site ∧ x.due ≤ d.acyc) && ! d.resetOver x) with
  | none => d
  | some x =>
    if x.scope = 1 then ((handleCores x.target).getD []).foldl haltCore d
    else ladderStep site (decide (x.scope = 5)) x.cmd { d with resets := d.resets.erase x }

def execResetBoundMiss (site : SiteId) (s : State) : Res :=
  there (match site with
    | .engine e => engOk e
    | _ => true) s (upd s (boundMiss site))

/-! ### Hangs, replay and kills (R392 to R394) -/

/-- Cores of the context that a kill names: p0's cores; of another partition, those of its group on the core, or for an engine of the
edge die every core it occupies. -/
def Dev.killCores (d : Dev) (e : EngineId) (p : Nat) : List Nat :=
  match e with
  | .core g _ =>
    if p = 0 then (List.range 80).filter (fun x => decide (d.coreOwner x = some 0))
    else (((d.heldGroups p).find? (fun h => ((handleCores h).getD []).contains g)).bind handleCores).getD [g]
  | _ => (List.range 80).filter (fun x => decide (d.coreOwner x = some p))

/-- A context is killed (R393): the schedule becomes FAULTED after a report with KILLED, the cores are scrubbed, a barrier runs. -/
def kill (e : EngineId) (p : Nat) (d : Dev) : Dev :=
  let (kind, index, die) := engPlace e
  let cores := d.killCores e p
  let ran : Bool := match e with
    | .core g k => decide (k ≠ 3) && (d.core g).unit.isSome
    | _ => false
  let d := if ran then abortWork e 5 d else noteListFail p (cores.headD 0) 5 0 d
  let d := abortSched p (lateDrops p cores d)
  let d := (cores.filter (fun g => decide (d.coreOwner g = some p))).foldl (fun d g => discardCore g d) d
  let d := { d with saves := d.saves.filter (fun s => ! (cores.any (fun g => decide (s.1 = saveKey p g)))) }
  let d := d.modPart p (fun x => { x with barrier := some (x.barrier.getD d.acyc) })
  faultRecord 2 0 p kind index die (health 4 1 (raiseFlt F.fltStatusKill d))

/-- The replay goes on with the next suspect. -/
def nextSuspect (e : EngineId) (killed : Bool) (d : Dev) : Dev :=
  let n := (d.progOf e).n
  modWatch e (fun w => { w with suspects := w.suspects.tail, base := n, killed := w.killed || killed }) d

/-- A hang attributed to a coding engine: its block is abandoned, its job completes with DATA_LOST, and a second hang within WINDOW takes
the engine out of service (R394). -/
def codingHang (die kind i : Nat) (d : Dev) : Dev :=
  let e := EngineId.coding die kind i
  let again : Bool := (d.watchOf e).lastHang.any (fun t => decide (d.acyc < t + d.ladderWindowA))
  let d := modWatch e (fun w => { w with lastHang := some d.acyc }) d
  let blk := tabFind (d.cod die).busy (kind * 16 + i)
  let d := if again then
      let d := d.modCod die (fun c => { c with out := tabSet false c.out (kind * 16 + i) true })
      faultRecord 7 0 0 kind i die (health 4 1 (raiseFlt F.fltStatusEngineOut d))
    else d
  match blk with
  | none => d
  | some b =>
    let d := stopJob die b.q b.j d
    match (d.cq die b.q).jobs.find? (fun y => y.j = b.j) with
    | some y => if y.done then d else finishJob die b.q y 0x44 (d.raise F.cdStatusDataLost die)
    | none => d

/-- A hang is attributed to an engine (R394). -/
def attribute_ (e : EngineId) (d : Dev) : Dev :=
  let d := modWatch e (fun w => { w with lastHang := some d.acyc, killed := false }) d
  match e with
  | .edge 11 => ladderStep .host false none d
  | _ => ladderStep (.engine e) false none d

/-- WATCHDOG_EXPIRY (R391, R392): an engine with work and no progress for TIMEOUT. Its suspects' work aborts and they are replayed; a
second expiry on probation kills the suspect; an engine without suspects takes the hang itself. -/
def watchdogExpiry (e : EngineId) (d : Dev) : Dev :=
  if ¬ d.engBusy e ∨ d.acyc < d.stuckSince e + d.wdogTime then d
  else
    let (kind, index, die) := engPlace e
    let d := raiseFlt F.fltStatusHang (d.addSat F.fltStateHangs 0 1)
    let d := faultRecord 1 0 0 kind index die (health 4 1 d)
    match e, (d.watchOf e).suspects with
    | .coding die k i, _ => codingHang die k i d
    | _, q :: _ => nextSuspect e true (resetEngine e (kill e q d))
    | _, [] =>
      let l := d.workers e
      let n := (d.progOf e).n
      let d := resetEngine e (abortWork e 4 d)
      if l = [] then attribute_ e d
      else modWatch e (fun w => { w with suspects := l, base := n, killed := false, prog := { w.prog with at_ := d.acyc } }) d

def execWatchdogExpiry (e : EngineId) (s : State) : Res := there (engOk e) s (upd s (watchdogExpiry e))

/-- The suspect on probation has shown FLT_WDOG.PROBE progress events, or has held no work for 100 µs. -/
def Dev.probed (d : Dev) (e : EngineId) (q : Nat) : Bool :=
  let w := d.watchOf e
  let x := d.progOf e
  decide (d.eff F.fltWdogProbe 1 255 ≤ x.n - w.base) || (! (d.workers e).contains q || ! d.engBusy e) && decide (x.at_ + 300000 ≤ d.acyc)

/-- PROBATION_END (R392, R394): the next suspect follows; when all have passed, the hang is the engine's. -/
def probationEnd (e : EngineId) (d : Dev) : Dev :=
  match (d.watchOf e).suspects with
  | [] => d
  | q :: rest =>
    if ¬ d.probed e q then d
    else
      let d := nextSuspect e false d
      if rest = [] ∧ ¬ (d.watchOf e).killed then attribute_ e d else d

def execProbationEnd (e : EngineId) (s : State) : Res := there (engOk e) s (upd s (probationEnd e))

/-! ### Service states (R397, R404) -/

/-- Every tenant's schedule stops at the end of its current epoch; one that is ARMED returns to LOADED. -/
def degrade (d : Dev) : Dev :=
  (List.range 31).foldl (fun d i =>
    let p := i + 1
    let st := d.esState p
    if st = 4 ∨ st = 5 then stopAtEpoch p (d.currentEpoch p) d else if st = 3 then abortSched p d else d) d

/-- FLT_SERVICE. -/
def fltService (c : Src) (mode : Nat) (d : Dev) : Dev :=
  if 1 < mode then done c 2 d
  else if d.oos then done c 0xE3 d
  else
    let d := if mode = 1 ∧ ¬ d.degraded then degrade d else d
    done c 0 (d.setF F.fltStateService 0 mode)

def execFltService (c : Src) (mode : Nat) (s : State) : Res := upd s (fltService c mode)

/-- FLT_RETURN: the latch and the count clear. -/
def fltReturn (c : Src) (d : Dev) : Dev :=
  if ¬ d.oos then done c 0xE5 d
  else done c 0 ((({ d with oosResets := [] }).setF F.fltStateService 0 0).setF F.fltStateResets 0 0)

def execFltReturn (c : Src) (s : State) : Res := upd s (fltReturn c)

/-! ### MEMBER_CONFIRM (R184 to R186, R398) -/

/-- A token of a carrier after a confirmation of epoch k: without CONT every token is NONE; with it OWNED tokens of k - 1 become those
of k; a PENDING token whose epoch is reached becomes OWNED (R185, R186). -/
def confirmToken (cont : Bool) (k : Nat) (d : Dev) (c : Nat) : Dev :=
  let st := d.getF F.fhOwnState c
  let e := d.getF F.fhOwnEpoch c
  if ¬ cont then (d.setF F.fhOwnState c 0).setF F.fhOwnEpoch c 0
  else if st = 2 ∧ e + 1 = k then d.setF F.fhOwnEpoch c k
  else if st = 1 ∧ e ≤ k then d.setF F.fhOwnState c 2
  else d

/-- Addresses set in a member bitmap. -/
def bitmapList (b : Bytes) : List Nat := (List.range 4096).filter (fun a => (b.getD (a / 8) 0).getLsbD (a % 8))

/-- MEMBER_CONFIRM. -/
def memberConfirm (c : Src) (flags k : Nat) (b : Bytes) (d : Dev) : Dev :=
  if 1 < flags ∨ b.length ≠ 512 then done c 2 d
  else if k < d.getF F.fhMemberMepoch then done c 0xE2 d
  else if ¬ (bitmapList b).contains (d.getF F.tlSelfFaddr) then done c 0 (enterFenced d)
  else
    let d := (List.range 256).foldl (confirmToken (flags = 1) k) d
    let d := d.setF F.fhMemberMepoch 0 k
    let lease := d.eff F.fhLeaseLease 2 100 * 800000
    let d := d.modTeril (fun t => { t with members := some (bitmapList b), ld := later d.nt lease })
    let d := if d.fenced then faultRecord 5 0 0 15 0 0 (d.setF F.fltStateFenced 0 0) else d
    done c 0 d

def execMemberConfirm (c : Src) (flags epoch : Nat) (bitmap : List Byte) (s : State) : Res :=
  upd s (memberConfirm c flags epoch bitmap)

/-! ### Heartbeats (R402) -/

/-- Partitions whose schedule is in a state. -/
def Dev.inEs (d : Dev) (st : Nat) : Nat := ((List.range 32).filter (fun p => decide (d.esState p = st))).length

/-- *Heartbeat, 64 bytes*. -/
def beatBytes (t : BitVec 64) (d : Dev) : Bytes :=
  leBytes 4 (d.getF F.tlSelfFaddr + d.getF F.fltStateService * 2 ^ 12 + (if d.fenced then 2 ^ 14 else 0) +
      (if d.leaseOk then 2 ^ 15 else 0) + d.getF F.fltStateLadder * 2 ^ 16) ++
    leBytes 4 (d.getF F.fhMemberMepoch) ++ leBytes 8 t.toNat ++ leBytes 4 d.hbSeq ++
    leBytes 4 (d.getF F.fltHealthScore + d.inEs 5 * 2 ^ 16 + d.inEs 9 * 2 ^ 22) ++ zeros 40

/-- HEARTBEAT, every 100 µs of network time: to FLT_HB_ADDR and to every valid address of FLT_HB_DEST. -/
def heartbeat (d : Dev) : Dev :=
  match d.beat 0 800000 0 with
  | none => d
  | some t =>
    let b := beatBytes t d
    let a := d.getF F.fltHbAddrBase * 64
    let d := if a = 0 then d else emit (.dma a b) (hostWrite a b d)
    let d := (List.range 4).foldl (fun d i =>
      if (d.getF F.fltHbDestValid).testBit i then sendCtrl (d.getF F.fltHbDestAddr / 2 ^ (12 * i) % 4096) 1 0 b d else d) d
    beatDone 0 t { d with hbSeq := (d.hbSeq + 1) % 2 ^ 32 }

def execHeartbeat (s : State) : Res := upd s heartbeat

/-! ### Health (R403) -/

/-- Weight and cap of a health class. -/
def healthClass (c : Nat) : Nat × Nat :=
  [(1, 100), (25600, 400), (64, 150), (51200, 300), (51200, 300), (25600, 100)].getD c (0, 0)

/-- FLT_HEALTH's field of a class. -/
def healthField (c : Nat) : Field :=
  [F.fltHealthPCe, F.fltHealthPUe, F.fltHealthPReplay, F.fltHealthPLinkdown, F.fltHealthPFault].getD c F.fltHealthPThermal

/-- e[c] after an interval with n events. -/
def healthNext (e : Int) (n : Nat) : Int := e + roundShift ((n : Int) * 65536 - e) 6

/-- p[c]. -/
def healthPenalty (c : Nat) (e : Int) : Nat := min (healthClass c).2 ((e * (healthClass c).1 / 2 ^ 24).toNat)

/-- HEALTH_UPDATE, every 10 ms of network time. -/
def healthUpdate (d : Dev) : Dev :=
  match d.beat 1 80000000 0 with
  | none => d
  | some t =>
    let e := fun c => healthNext (tabGet 0 d.he c) (tabGet 0 d.hn c)
    let d' : Dev := { d with hn := [], he := (List.range 6).foldl (fun (x : Tab Int) c => tabSet 0 x c (e c)) [] }
    let p := (List.range 6).map (fun c => healthPenalty c (e c))
    let d' := (List.range 6).foldl (fun (x : Dev) c => x.setF (healthField c) 0 (p.getD c 0)) d'
    beatDone 1 t (oosWindow (d'.setF F.fltHealthScore 0 (1000 - sumL p)))

def execHealthUpdate (s : State) : Res := upd s healthUpdate

/-! ### Die-link replays (R127) -/

/-- A replayed tree flit delays the whole group of the HB.MM that engine e of core g is executing, by at most 32 f-cycles (R70, R127). -/
def treeReplay (g e n : Nat) (d : Dev) : Dev :=
  match (d.hb g e).mms.find? (fun x => x.t0.isSome) with
  | some x => hbStall g e x d.acyc (min n 48) d
  | none => d

/-- DIE_LINK_REPLAY: counted in DL_STATUS, the source DL_REPLAY and the class REPLAY; the group, engine and delay of a tree flit. -/
def dieLinkReplay (die link : Nat) (tree : Option (Nat × Nat × Nat)) (d : Dev) : Dev :=
  let i := die * 3 + link
  let d := evDie die 0x86 link 1 (health 2 1 ((d.raise F.dlStatusReplay i).addSat F.dlStatusReplays i 1))
  match tree with
  | some (g, e, n) => treeReplay g e n d
  | none => d

def execDieLinkReplay (die : Nat) (x : DieReplay) (s : State) : Res :=
  there (die < 4 && x.link < 3) s (upd s (dieLinkReplay die x.link x.tree))

end Sys2Proof.Machine
end

