-- ==== Sys2Proof/Machine/Quickset.lean ====
section
/-! DEFINITION. Quickset bring-up and the Coppice map (R405 to R420), the I3C port (R421), power, straps, sensors and throttling (R431 to
R434, R439 to R444). -/

namespace Sys2Proof.Machine

open Sys2Proof

/-! ### The map in force (R408, R409) -/

/-- A byte of the map in force, and the map with it changed. -/
def Dev.mapByte (d : Dev) (o : Nat) : Nat := (memByte d.inForce o).toNat
def putMap (o v : Nat) (d : Dev) : Dev := { d with inForce := memSet d.inForce o (BitVec.ofNat 8 v) }

/-- One more added entry. -/
def addEntry (d : Dev) : Dev := { d with inForce := memWrite d.inForce 6 (leBytes 2 (leNat (memRead d.inForce 6 2) + 1)) }

/-- CORES of a die in a map. -/
def mapCores (m : Mem) (die : Nat) : Nat := leNat (memRead m (0x10 + 4 * die) 4)

/-- Rows a map lists. -/
def mapRows (m : Mem) : Nat := ((memRead m 0x20 336).filter (fun (b : Byte) => b ≠ 0xFF)).length

/-- Octets out in a map. -/
def mapOctets (m : Mem) : Nat := popcount 256 (leNat (memRead m 0x170 32))

/-- Frames present. -/
def Dev.framesPresent (d : Dev) : Nat := 786432 - 3072 * mapOctets d.inForce

/-- A signed map is consistent (R409). -/
def mapOk (m : Mem) : Bool :=
  decide (leNat (memRead m 0 4) = 0x50434F43 ∧ leNat (memRead m 4 2) = 1 ∧ leNat (memRead m 8 8) = 0) &&
    (List.range 4).all (fun d => decide (mapCores m d < 2 ^ 21) && decide (popcount 21 (mapCores m d) ≤ 20)) &&
    (List.range 168).all (fun i =>
      let a := (memByte m (0x20 + 2 * i)).toNat
      let b := (memByte m (0x21 + 2 * i)).toNat
      decide ((a ≤ 129 ∨ a = 255) ∧ (b ≤ 129 ∨ b = 255) ∧ (a ≠ b ∨ a = 255))) &&
    (List.range 96).all (fun i =>
      let a := (memByte m (0x190 + i)).toNat
      decide (a ≤ 32 ∨ a = 255)) &&
    decide (leNat (memRead m 0x1FA 6) = 0)

/-! ### Stage work -/

/-- Registers that show the map in force: MEM_OCTETS. -/
def showOctets (d : Dev) : Dev :=
  (List.range 4).foldl (fun d die => d.wr .memOctets die (BitVec.ofNat 64 (leNat (memRead d.inForce (0x170 + 8 * die) 8)))) d

/-- Frame f lies in an octet of a die (R212, R213). -/
def octetOf (f : Nat) : Nat := f % dieFrames % 8 * 8 + f % dieFrames / 8 % 8

/-- Octet bit b of a die holds a frame of p0: after a device reset it stays in service (R407). -/
def Dev.octetHeld (d : Dev) (die b : Nat) : Bool :=
  d.mem.owner.any (fun e => decide (e.2 = 1 ∧ e.1 / dieFrames = die ∧ octetOf e.1 = b))

/-- An octet that Q3 found bad is mapped out. -/
def outOctet (d : Dev) (x : Nat × Nat) : Dev :=
  let (die, b) := x
  let o := 0x170 + 8 * die + b / 8
  if 4 ≤ die ∨ 64 ≤ b ∨ (d.mapByte o).testBit (b % 8) ∨ d.octetHeld die b then d
  else addEntry (putMap o (d.mapByte o + 2 ^ (b % 8)) d)

/-- Every frame that no partition holds reads zero after Q3 (R407). -/
def zeroFrames (d : Dev) : Dev :=
  let kept : Nat → Bool := fun pa => tabGet 0 d.mem.owner (pa / pageSize) ≠ 0
  d.modMem (fun m => { m with hbm := m.hbm.filter (fun e => kept e.1), tags := m.tags.filter (fun e => kept (64 * e.1)) })

/-- Byte of the map for a lane group of a die link in map order. -/
def laneByte (link b : Nat) : Nat := if link < 4 then 0x190 + 16 * link + b else 0x1D0 + 8 * (link - 4) + b

/-- A failed die-link lane takes the group's spare; none: a second spare would be needed (R419). -/
def takeSpare (o lane : Nat) (d : Dev) : Option Dev :=
  if d.mapByte o = 255 then some (addEntry (putMap o lane d)) else if d.mapByte o = lane then some d else none

/-- Lanes that Q4 found bad: the map with their spares, and the first link and group that needs a second one. -/
def repairLanes (l : List (Nat × Nat × Nat)) (d : Dev) : Dev × Option (Nat × Nat) :=
  l.foldl (fun (a : Dev × Option (Nat × Nat)) x =>
    let (link, b, lane) := x
    if a.2.isSome ∨ 8 ≤ link ∨ (if link < 4 then 16 else 8) ≤ b then a
    else match takeSpare (laneByte link b) lane a.1 with
      | some d => (d, none)
      | none => (a.1, some (link, b % (if link < 4 then 8 else 4)))) (d, none)

/-- A failed row joins ROWS while the array lists fewer than two; else its core is to be disabled (R410). -/
def addRow (a : Dev × List (Nat × Nat)) (x : Nat × Nat × Nat × Nat) : Dev × List (Nat × Nat) :=
  let (d, bad) := a
  let (die, core, eng, row) := x
  let o := 0x20 + 84 * die + 4 * core + 2 * eng
  if 4 ≤ die ∨ 21 ≤ core ∨ 2 ≤ eng ∨ 130 ≤ row ∨ d.mapByte o = row ∨ d.mapByte (o + 1) = row then a
  else if d.mapByte o = 255 then (addEntry (putMap o row d), bad)
  else if d.mapByte (o + 1) = 255 then (addEntry (putMap (o + 1) row d), bad)
  else (d, (die, core) :: bad)

/-- CORES of a die replaced. -/
def putCores (die v : Nat) (d : Dev) : Dev := { d with inForce := memWrite d.inForce (0x10 + 4 * die) (leBytes 4 v) }

/-- A bad core is disabled, and a disabled core of the die that is not bad takes its place (R410). -/
def swapCore (bad : List (Nat × Nat)) (d : Dev) (x : Nat × Nat) : Dev :=
  let (die, core) := x
  let m := mapCores d.inForce die
  if 4 ≤ die ∨ ¬ m.testBit core then d
  else
    let spare := (List.range 21).find? (fun i => ! m.testBit i && ! bad.contains (die, i))
    let m' := m - 2 ^ core + (match spare with
      | some i => 2 ^ i
      | none => 0)
    addEntry (putCores die m' d)

/-! ### Stages (R405, R420) -/

/-- The 32-byte report record of a stage. -/
def qsRecord (k result code dur : Nat) (t : BitVec 64) (det : List Nat) : Bytes :=
  leBytes 4 (k + result * 256 + code * 65536) ++ leBytes 4 (min dur 0xFFFFFFFF) ++ leBytes 8 t.toNat ++
    (List.range 4).flatMap (fun i => leBytes 4 (det.getD i 0))

/-- Q0 has ended: the I3C port serves reads (R421). -/
def Dev.q0Done (d : Dev) : Bool := d.qsResult 0 ≠ 0

/-- Codes that a finding may give a stage, beyond what the device sees itself. -/
def stageCodes (k : Nat) : List Nat :=
  match k with
  | 0 => [0x01, 0x02, 0x03]
  | 1 => [0x11, 0x12]
  | 2 => [0x21, 0x22, 0x23, 0x24, 0x25]
  | 4 => [0x42]
  | _ => []

/-- Links of Q7 by state. -/
def Dev.linksIn (d : Dev) (sts : List Nat) : Nat :=
  ((List.range 16).filter (fun l => sts.contains (d.getF F.qsLinkState (16 + l)))).length

/-- The work of a stage on the maps, with its failure code, detail words and whether it is a reduced pass. -/
def stageWork (k : Nat) (f : QsFinding) (d : Dev) : Dev × Nat × List Nat × Bool :=
  let given := if (stageCodes k).contains f.code then f.code else 0
  match k with
  | 0 =>
    let good := f.detail0 % 4096
    (d.modPins (fun x => { x with pwrOk := BitVec.ofNat 12 good }), if given ≠ 0 then given else if good ≠ 4095 then 0x01 else 0,
      [good, f.detail1, 0, 0], false)
  | 1 => (d, if given ≠ 0 then given else if d.flash.helperOk then 0 else 0x11, [f.detail0, f.detail1, 0, 0], false)
  | 2 =>
    let x := d.flash
    (d, if given ≠ 0 then given else if x.fwSvn < x.svnFloor then 0x23 else 0,
      [x.fwSvn, x.svnFloor, x.fwMinor + x.fwMajor * 65536, f.detail3 % 2], false)
  | 3 =>
    let d := showOctets (zeroFrames (f.octets.foldl outOctet d))
    let few : Bool := (List.range 4).any (fun die => decide (16 < popcount 64 (d.rd .memOctets die).toNat))
    (d, if few then 0x31 else 0, [mapOctets d.flash.signed, f.octets.eraseDups.length, d.framesPresent, f.detail3], decide (f.octets ≠ []))
  | 4 =>
    let (d', bad) := repairLanes f.lanes d
    let added := laneEntries d'.inForce - laneEntries d.flash.signed
    match bad with
    | some (l, g) => (d', 0x41, [laneEntries d.flash.signed, added, l + g * 256, 0], false)
    | none =>
      if given ≠ 0 then (d', given, [laneEntries d.flash.signed, added, f.detail2 % 65536, 0], false)
      else ({ d' with dieOut := [] }, 0, [laneEntries d.flash.signed, added, 0, 0], false)
  | 5 =>
    let dig := sha384 (memRead d.inForce 0 512)
    (d, if mapOk d.flash.signed then 0 else 0x51, [at_ dig 0 4, at_ dig 4 4, 0, 0], false)
  | 6 =>
    let (d', more) := f.rows.foldl addRow (d, [])
    let bad := (f.cores ++ more).eraseDups
    let gone := (bad.filter (fun x => (mapCores d'.inForce x.1).testBit x.2)).length
    let d' := bad.foldl (swapCore bad) d'
    let n := (List.range 4).map (fun die => popcount 21 (mapCores d'.inForce die))
    (d', if n.any (fun x => decide (x < 16)) then 0x61 else 0,
      [leNat (n.map (fun x => BitVec.ofNat 8 x)), mapRows d.flash.signed, mapRows d'.inForce - mapRows d.inForce, gone],
      n.any (fun x => decide (x < 20)))
  | 7 =>
    let low : Bool := d.linksIn [3] < 16 || d.getF F.qsLinkState 32 ≠ 3
    (d, 0, [d.linksIn [3] + d.linksIn [4, 5] * 65536, d.linksIn [6] + d.linksIn [1, 2] * 65536,
      d.getF F.hiLinkWidth % 32 + d.getF F.hiLinkGen * 256, 0], low)
  | 8 =>
    let st := d.getF F.tbStatusState
    (d, 0, [st, if st = 2 then f.detail1 else 0xFFFFFFFF, if d.flag F.tbStatusSlaveValid then d.getF F.tbStatusSlave else 255, 0],
      decide (st ≠ 2 ∨ d.getF F.qsCfgQ8Wait * 1000 < f.detail1))
  | _ => (d, 0, [sumL ((List.range 4).map d.coresOn), d.framesPresent, d.terilGbs, 0], d.reduced)

/-- What a stage that passed leaves behind: the PCIe controller released (Q0), LG_STATE and PKG_ID (Q1, Q2), the signed map taken up (Q2),
READY (Q9). -/
def stagePassed (k : Nat) (d : Dev) : Dev :=
  match k with
  | 0 => d.modPins (fun x => { x with pcieReset := x.perst })
  | 1 => d.setF F.lgStateIdentityOk 0 1
  | 2 =>
    let d := (d.setF F.lgStateConfigOk 0 1).setF F.lgStateDebug 0 (if d.flash.debug then 1 else 0)
    let d := (d.setF F.lgStateFwSvn 0 d.flash.fwSvn).setF F.pkgIdStepping 0 d.flash.stepping
    { d with inForce := d.flash.signed }
  | 9 => d.setF F.qsStateReady 0 1
  | _ => d

/-- What starts with a stage: at Q7 every Teril link trains and the PCIe link is measured (R413, R417). -/
def stageBegins (k : Nat) (d : Dev) : Dev :=
  let d := (d.setF F.qsStateStage 0 k)
  let d := { d with stage := some k }
  if k = 7 then (List.range 16).foldl (fun d l => trainLink l d) (d.setF F.qsLinkState 32 2) else d

/-- QUICKSET_STAGE_END: the record, the in-band interrupt, then the next stage, or a stop at a failed one. -/
def stageEnd (f : QsFinding) (d : Dev) : Dev :=
  match d.stage with
  | none => d
  | some k =>
    let (d, code, det, low) := stageWork k f d
    let result := if code ≠ 0 then 3 else if low then 2 else 1
    let d := { d with qs := memWrite d.qs (32 * k) (qsRecord k result code f.duration d.nt det), reduced := d.reduced || decide (result = 2) }
    let d := d.setF F.qsStateReduced 0 (if (List.range 10).any (fun i => decide (d.qsResult i = 2)) then 1 else 0)
    let d := emit (.i3cInt (k + if code ≠ 0 then 128 else 0)) d
    if code ≠ 0 then
      ({ d with stage := none, rerun := [] }.setF F.qsStateFailed 0 1).setF F.qsStateFailStage 0 k
    else
      let d := stagePassed k d
      match d.rerun with
      | [] => { d with stage := none }
      | n :: rest => stageBegins n { d with rerun := rest }

def execQuicksetStageEnd (f : QsFinding) (s : State) : Res := upd s (stageEnd f)

/-- Map order of a die's link: X, Y, E (R408). -/
def dieLinkIndex (die link : Nat) : Nat :=
  match link with
  | 0 => die / 2
  | 1 => 2 + die % 2
  | _ => 4 + die

/-- DIE_LINK_LANE_FAIL: the spare takes the lane, or the link goes out of service and the device takes step 3 of the ladder (R419).
`dir` 0: from the lower-numbered die, or toward E. -/
def dieLinkLaneFail (die link dir group lane : Nat) (d : Dev) : Dev :=
  let i := dieLinkIndex die link
  let d := d.raise F.dlStatusLane (die * 3 + link)
  match takeSpare (laneByte i (dir * (if link = 2 then 4 else 8) + group)) lane d with
  | some d => d
  | none =>
    let d := health 3 1 (d.raise F.dlStatusDown (die * 3 + link))
    takeStep .device 3 none { d with dieOut := tabSet false d.dieOut i true }

def execDieLinkLaneFail (die link dir group lane : Nat) (s : State) : Res :=
  there (die < 4 && link < 3 && dir < 2 && (group < if link = 2 then 4 else 8) && lane < 33) s
    (upd s (dieLinkLaneFail die link dir group lane))

/-! ### The I3C port (R421) -/

/-- n bytes of a 64-bit register. -/
def Dev.regBytes (d : Dev) (r : RegName) (i n : Nat) : Bytes := leBytes n (d.view d.gridLive r i).toNat

/-- The byte at an I3C pointer (*I3C read map*). -/
def Dev.i3cByte (d : Dev) (a : Nat) : Byte :=
  if a < 4 then (d.regBytes .qsState 0 4).getD a 0
  else if 0x100 ≤ a ∧ a < 0x240 then memByte d.qs (a - 0x100)
  else if 0x400 ≤ a ∧ a < 0x508 then (d.regBytes .qsLink ((a - 0x400) / 8) 8).getD (a % 8) 0
  else if 0x600 ≤ a ∧ a < 0x800 then memByte d.inForce (a - 0x600)
  else if 0x800 ≤ a ∧ a < 0xA00 then memByte d.flash.signed (a - 0x800)
  else if 0xA00 ≤ a ∧ a < 0xA08 then (d.regBytes .fltHealth 0 8).getD (a - 0xA00) 0
  else if 0xA08 ≤ a ∧ a < 0xA0C then (d.regBytes .fltState 0 4).getD (a - 0xA08) 0
  else 0

/-- I3C_POINTER_WRITE: two bytes set the pointer; any other length is NACKed. -/
def i3cWrite (b : Bytes) (d : Dev) : Dev :=
  if b.length = 2 ∧ d.q0Done then { d with i3c := leNat b } else emit .i3cNack d

def execI3cPointerWrite (bytes : List Byte) (s : State) : Res := updS s (i3cWrite bytes)

/-- I3C_READ: n bytes from the pointer onward, which advances. -/
def i3cRead (n : Nat) (d : Dev) : Dev :=
  if ¬ d.q0Done then emit .i3cNack d
  else emit (.i3c ((List.range n).map (fun i => d.i3cByte ((d.i3c + i) % 65536)))) { d with i3c := (d.i3c + n) % 65536 }

def execI3cRead (n : Nat) (s : State) : Res := updS s (i3cRead n)

/-! ### Power (R432 to R434, R439, R440) -/

/-- POWER_ON: PWRON_N rises: the straps are sampled and Q0 begins. -/
def powerOn (straps : BitVec 3) (d : Dev) : Dev :=
  if d.pins.pwron then d
  else
    let d := (d.modPins (fun x => { x with pwron := true, straps := straps })).addSat F.qsStateRuns 0 1
    stageBegins 0 { d with rerun := [1, 2, 3, 4, 5, 6, 7, 8, 9], reduced := false }

def execPowerOn (straps : BitVec 3) (s : State) : Res := updS s (powerOn straps)

/-- The card flash as the next power-up finds it: a staged image is the firmware (R356). -/
def Flash.booted (f : Flash) : Flash :=
  match f.staged, Config.fwImage f.staged with
  | [], _ => f
  | _, none => f
  | _, some (major, minor, svn) =>
    { f with fwDigest := sha384 f.staged, fwMajor := major, fwMinor := minor, fwSvn := svn, staged := [] }

/-- POWER_CYCLE: PWRON_N falls: everything but the card flash, host memory and the memory of peers starts again. -/
def powerCycle (d : Dev) : Dev :=
  { flash := d.flash.booted, host := d.host, mem := { peer := d.mem.peer, farTags := d.mem.farTags }, free := d.free, out := d.out,
    pins := { perst := d.pins.perst } }

def execPowerCycle (s : State) : Res := updS s powerCycle

/-- Tokens go and every clock but the S-clock and T-clock stops. -/
def stopClocks (d : Dev) : Dev := (clearTokens d).modPins (fun x => { x with stopped := true })

/-- PWR_OK_FALL: after Q0, RAIL_LOST holds the bit, tokens go, PWRCYC_REQ_N is asserted and the clocks stop. -/
def pwrOkFall (b : Nat) (d : Dev) : Dev :=
  if d.qsResult 0 ≠ 1 ∨ ¬ d.pins.pwrOk.getLsbD b then d
  else
    let d := d.modPins (fun x => { x with pwrOk := x.pwrOk &&& ~~~ (1#12 <<< b) })
    let d := d.setF F.pwrStatusRailLost 0 (d.getF F.pwrStatusRailLost ||| 2 ^ b)
    if d.pins.stopped then d
    else stopClocks (d.modPins (fun x => { x with pwrcycReq := true, pwrcycAt := d.nt }))

def execPwrOkFall (bit : Nat) (s : State) : Res := there (bit < 12) s (updS s (pwrOkFall bit))

/-- PWRCYC_REQ_N_RELEASE: 100 ms after the assertion. -/
def pwrcycRelease (d : Dev) : Dev :=
  if d.pins.pwrcycReq ∧ reached d (later d.pins.pwrcycAt 800000000) then d.modPins (fun x => { x with pwrcycReq := false }) else d

def execPwrcycReqNRelease (s : State) : Res := updS s pwrcycRelease

/-- PERST_ASSERT: the PCIe controller is in reset; after Q9 the function domain is reset. -/
def perstAssert (d : Dev) : Dev :=
  let d := pcieChange false false 0 0 (d.modPins (fun x => { x with perst := true, pcieReset := true }))
  if d.flag F.qsStateReady then fnReset d else d

def execPerstAssert (s : State) : Res := upd s perstAssert

/-- PERST_DEASSERT: the controller is released once Q0 has ended. -/
def perstDeassert (d : Dev) : Dev := d.modPins (fun x => { x with perst := false, pcieReset := ! d.q0Done })

def execPerstDeassert (s : State) : Res := upd s perstDeassert

/-! ### Sensors and throttling (R431, R441 to R443) -/

/-- The greatest of a list of temperatures; the old value of an empty one. -/
def hottest (old : Int) : List Int → Int
  | [] => old
  | x :: xs => xs.foldl max x

/-- A signed degree byte. -/
def degree (t : Int) : Nat := ofSigned 8 (clampI (-128) 127 t)

/-- The temperatures of C0 to C3 and E from the 68 sensors: 16 for each compute die, then 4. -/
def dieTemps (old : List Int) (s : List Int) : List Int :=
  (List.range 5).map (fun i => hottest (old.getD i 0) ((s.drop (16 * i)).take (if i = 4 then 4 else 16)))

/-- SENSOR_READ: PKG_TEMP, doubled refresh above 85 °C (R217), and the trip of R442. -/
def sensorRead (dieT hbmT : List Int) (d : Dev) : Dev :=
  let die := dieTemps d.pins.dieTemp dieT
  let hbm := if hbmT = [] then d.pins.stackTemp else hbmT.take 32
  let d := d.modPins (fun x => { x with dieTemp := die, stackTemp := hbm })
  let d := (d.setF F.pkgTempC 0 (leNat ((die.take 4).map (fun t => BitVec.ofNat 8 (degree t))))).setF F.pkgTempE 0 (degree (die.getD 4 0))
  let d := d.setF F.pkgTempHbm 0 (degree (hottest 0 hbm))
  let d := hbm.zipIdx.foldl (fun d x =>
    let was := tabGet false d.mem.hot x.2
    let hot : Bool := 85 < x.1
    let d := d.modMem (fun m => { m with hot := tabSet false m.hot x.2 hot })
    d.raiseIf (hot && ! was) F.memStatusHot (x.2 / 8)) d
  if die.any (fun t => decide (115 ≤ t)) ∨ hbm.any (fun t => decide (105 ≤ t)) then
    (stopClocks d).modPins (fun x => { x with thermtrip := true })
  else d

def execSensorRead (dieT hbmT : List Int) (s : State) : Res := upd s (sensorRead dieT hbmT)

/-- AVS_READ: voltage in mV and current in mA of every rail, in the order of *Supply rails*; STRAP_AVS = 0 disables both ports. -/
def avsRead (rails : List (Nat × Nat)) (d : Dev) : Dev :=
  if ¬ d.pins.straps.getLsbD 1 then d
  else
    let w := rails.map (fun x => x.1 * x.2)
    let c := (List.range 4).map (fun i => w.getD (4 + i) 0)
    d.modPins (fun x => { x with rails := rails, power := ((sumL w, c) :: x.power).take 150 })

def execAvsRead (rails : List (Nat × Nat)) (s : State) : Res := upd s (avsRead rails)

/-- The readings of the last WINDOW milliseconds: their number, the sum of P and the sums of the VDD_C rails, in µW. -/
def Dev.powerSums (d : Dev) : Nat × Nat × List Nat :=
  let l := d.pins.power.take (10 * d.eff F.pwrCfgWindow 1 15)
  (l.length, sumL (l.map (·.1)), (List.range 4).map (fun i => sumL (l.map (fun x => x.2.getD i 0))))

/-- The four conditions of R443: P, a VDD_C rail, a die, a stack. -/
def Dev.overConds (d : Dev) : List Bool :=
  let (n, p, c) := d.powerSums
  [decide (d.eff F.pwrCfgLimit 500 4000 * 1000000 * n < p), c.any (fun x => decide (660000000 * n < x)),
    d.pins.dieTemp.any (fun t => decide (((d.eff F.pwrCfgTThr 70 105 : Nat) : Int) ≤ t)), d.pins.stackTemp.any (fun t => decide (92 ≤ t))]

/-- The condition under which the level falls. -/
def Dev.underCond (d : Dev) : Bool :=
  let (n, p, c) := d.powerSums
  (decide (p * 100 < d.eff F.pwrCfgLimit 500 4000 * 97 * 1000000 * n) || decide (n = 0)) &&
    c.all (fun x => decide (x < 640000000 * n ∨ n = 0)) &&
    d.pins.dieTemp.all (fun t => decide (t ≤ ((d.eff F.pwrCfgTThr 70 105 : Nat) : Int) - 3)) && d.pins.stackTemp.all (fun t => decide (t ≤ 89))

/-- The level after an interval. -/
def nextLevel (over_ under : Bool) (l lmax : Nat) : Nat := if over_ && decide (l < lmax) then l + 1 else if ! over_ && under && decide (0 < l) then l - 1 else l

/-- THROTTLE_INTERVAL, every 1 ms: the level, its status bits, the power shown, the THERMAL class (R403). -/
def throttle (d : Dev) : Dev :=
  match d.beat 4 8000000 0 with
  | none => d
  | some t =>
    let c := d.overConds
    let over_ := c.any id
    let lmax := d.eff F.pwrCfgLmax 0 48
    let l := d.getF F.pwrStatusLevel
    let l' := nextLevel over_ d.underCond l lmax
    let (n, p, _) := d.powerSums
    let d := (((d.raiseIf (c.getD 0 false) F.pwrStatusCap).raiseIf (c.getD 1 false) F.pwrStatusDieCap).raiseIf (c.getD 2 false)
      F.pwrStatusTemp).raiseIf (c.getD 3 false) F.pwrStatusHbmTemp
    let d := d.raiseIf (over_ && decide (l = lmax) && decide (0 < lmax)) F.pwrStatusAtMax
    let d := (d.setF F.pwrStatusPower 0 (min 8191 (p / (1000000 * max n 1)))).setF F.pwrStatusLevel 0 l'
    let d := if 0 < l' ∨ d.mem.hot ≠ [] then health 5 1 d else d
    beatDone 4 t d

def execThrottleInterval (s : State) : Res := upd s throttle

/-- PCIE_LINK_CHANGE: the link trains, or goes down, as the host's root port has it (R321, R417). -/
def execPcieLinkChange (up flit : Bool) (gen width : Nat) (s : State) : Res := upd s (pcieChange up flit gen width)

end Sys2Proof.Machine
end

