-- ==== Sys2Proof/Machine/HostRegs.lean ====
section
/-! DEFINITION. Host accesses to BAR0 and BAR2 (R18 to R21, R322, R380, R381, R406, R446): register writes by access code, the windows
beside the registers, the event banks (R422 to R428), and rejected accesses. -/

namespace Sys2Proof.Machine

open Sys2Proof

/-- What a BAR0 offset reaches. -/
inductive BarTarget where
  /-- register r, element i -/
  | reg (r : RegName) (i : Nat)
  /-- byte o of event bank k: 0 to 3 dies, 4 E0, 5 E1, 6 p0's partition bank, 100 + g the core bank of core g -/
  | bank (k o : Nat)
  /-- byte o of the MSI-X table -/
  | msix (o : Nat)
  /-- byte o of LG_MBOX_REQ -/
  | mbox (o : Nat)
  /-- a read-only window -/
  | readOnly
  deriving DecidableEq, Repr

/-- Read-only windows: pending bits, LG_MBOX_RSP, gate list mirrors, histograms, Quickset records, Coppice maps. -/
def roWindows : List (Nat × Nat) :=
  [(0x308000, 0x100), (0x602000, 0x1000), (0x840000, 0x20000), (0x880000, 0x8000), (0x40100, 0x140), (0x50000, 0x400)]

/-- The event bank at an offset of the EV unit, and the byte within it. -/
def bankAt (off : Nat) : Option (Nat × Nat) :=
  let x := off - 0x1000000
  let o := x % 0x100
  if off < 0x1000000 then none
  else if x < 0x200 then some (4 + x / 0x100, o)
  else if 0x100000 ≤ x ∧ x < 0x100400 then some ((x - 0x100000) / 0x100, o)
  else if 0x200000 ≤ x ∧ x < 0x205000 then some (100 + (x - 0x200000) / 0x100, o)
  else if 0x300000 ≤ x ∧ x < 0x300100 then some (6, o)
  else none

/-- Width in bytes of the bank register that starts at byte o of a bank; 0: none. -/
def bankWidth (o : Nat) : Nat :=
  if o = 0 ∨ o = 8 then 4
  else if 0x10 ≤ o ∧ o < 0x30 ∧ o % 4 = 0 then 4
  else if 0x40 ≤ o ∧ o < 0xC8 ∧ o % 8 = 0 then 8
  else 0

/-- Width in bytes of the register that starts at an offset; 0: none starts there. -/
def regWidthAt (off : Nat) : Nat :=
  match findReg off with
  | some (r, _) => r.spec.width / 8
  | none => match bankAt off with
    | some (_, o) => bankWidth o
    | none => 0

/-- The target of an access of a width at an offset: the target, or whether it is rejected for its width or alignment (true) or as a
reserved offset (false) (R19). -/
def barTarget (off width : Nat) : BarTarget ⊕ Bool :=
  let fits : Bool := (width = 4 || width = 8) && off % width = 0
  if regWidthAt off ≠ 0 then
    if regWidthAt off ≠ width then .inr true
    else match findReg off with
      | some (r, i) => .inl (.reg r i)
      | none => match bankAt off with
        | some (k, o) => .inl (.bank k o)
        | none => .inr false
  else if 0x300000 ≤ off ∧ off < 0x308000 then (if fits then .inl (.msix (off - 0x300000)) else .inr true)
  else if 0x601000 ≤ off ∧ off < 0x602000 then (if fits then .inl (.mbox (off - 0x601000)) else .inr true)
  else if roWindows.any (fun w => decide (w.1 ≤ off ∧ off < w.1 + w.2)) then (if fits then .inl .readOnly else .inr true)
  else .inr ((List.range 8).any (fun k => decide (k ≤ off ∧ k < regWidthAt (off - k))))

/-- How BAR0 stands toward an offset: 0 no access arrives, 1 the offset is treated as reserved, 2 open (R405, R406). -/
def Dev.barOpen (d : Dev) (off : Nat) : Nat :=
  if d.flag F.qsStateReady then 2
  else if d.flag F.qsStateFailed then
    if d.getF F.qsStateFailStage < 2 then 0
    else if (0x40000 ≤ off ∧ off < 0x60000) ∨ (0x600000 ≤ off ∧ off < 0x800000 ∧ d.flag F.lgStateConfigOk) then 2
    else 1
  else if d.qsResult 1 = 0 then 0
  else if (0x400000 ≤ off ∧ off < 0x600000) ∨ 0x2000000 ≤ off then 1
  else 2

/-! ### Rejected accesses (R19, R380) -/

/-- A rejected access is recorded. -/
def recordAccess (bar2 write mis : Bool) (off : Nat) (d : Dev) : Dev :=
  let d := raiseFlt F.fltStatusHostAccess d
  if d.flag F.fltHostErrValid then d
  else
    let d := (d.setF F.fltHostErrValid 0 1).setF F.fltHostErrBar2 0 (if bar2 then 1 else 0)
    ((d.setF F.fltHostErrWrite 0 (if write then 1 else 0)).setF F.fltHostErrMisaligned 0 (if mis then 1 else 0)).setF F.fltHostErrOffset 0 off

/-- A rejected access: recorded; a read returns zero (R19). -/
def rejectAccess (bar2 write mis : Bool) (off : Nat) (d : Dev) : Dev :=
  let d := recordAccess bar2 write mis off d
  if write then d else emit (.read off 0) d

/-- HOST_ACCESS_ERROR: an access that R19 or R322 rejects; any other changes nothing here. -/
def hostAccess (bar2 write : Bool) (off width : Nat) (d : Dev) : Dev :=
  if bar2 then
    if write ∧ width = 4 ∧ off % 4096 = 0 then d
    else rejectAccess true write (decide (off % 4096 = 0)) off d
  else match d.barOpen off, barTarget off width with
    | 0, _ => d
    | 1, _ => rejectAccess false write false off d
    | _, .inr mis => rejectAccess false write mis off d
    | _, .inl _ => d

def execHostAccessError (bar2 write : Bool) (off width : Nat) (s : State) : Res :=
  there (off < 0x4000000) s (upd s (hostAccess bar2 write off width))

/-! ### Event banks (R422 to R428) -/

/-- An event bank that BAR0 reaches; none: the core is not p0's (R424). -/
def Dev.barBank (d : Dev) (k : Nat) : Option EvBank :=
  if k < 6 then some (tabGet {} d.banks k)
  else if k = 6 then some (d.part 0).bank
  else if d.coreOwner (k - 100) = some 0 then some (d.core (k - 100)).ctx.bank
  else none

def putBank (k : Nat) (b : EvBank) (d : Dev) : Dev :=
  if k < 6 then { d with banks := tabSet {} d.banks k b }
  else if k = 6 then d.modPart 0 (fun x => { x with bank := b })
  else d.modCtx (k - 100) (fun c => { c with bank := b })

/-- EV_CTL.CLEAR: every counter, sample and OVF bit is 0. -/
def EvBank.cleared (b : EvBank) : EvBank := { b with cnt := [], samp := [], ovf := 0, tally := [] }

/-- A bank after a write of the register at byte o in a-cycle `now`, which an SU.EVC of that cycle prevails over. An OVF bit that this cycle
sets stays set, and SETCNT becomes the number of events counted in it (R21, R381); a counter takes the value and this cycle's events (R427). -/
def EvBank.write (now : Nat) (b : EvBank) (o v : Nat) : EvBank :=
  let b := b.mark now
  if b.evcAt = some now then b
  else if o = 0 then
    let b := { b.setFreeze (v.testBit 0) with frzOvf := v.testBit 1, sample := v.testBit 2 }
    if v.testBit 3 then b.cleared else b
  else if o = 8 then
    { b with ovf := b.ovf &&& (~~~ BitVec.ofNat 8 v ||| b.ovfNow)
             setcnt := popcount 8 (b.ovfNow &&& (b.ovfWas ||| BitVec.ofNat 8 v)).toNat }
  else if o < 0x30 then { b with sel := tabSet 0 b.sel ((o - 0x10) / 4) (v % 2 ^ 15) }
  else if o < 0x80 then
    let i := (o - 0x40) / 8
    { b with cnt := tabSet 0 b.cnt i (v % 2 ^ 48) }.bump i (if b.freeze then 0 else tabGet 0 b.tally i)
  else b

/-- A write of a bank register; a bank of a core that p0 does not own ignores it (R424). -/
def bankWrite (k o v : Nat) (d : Dev) : Dev :=
  match d.barBank k with
  | some b => putBank k (b.write d.acyc o v) d
  | none => d

/-- EV_CLEAR: a write of the EV_CTL at an offset. -/
def evClear (off : Nat) (v : BitVec 32) (d : Dev) : Dev :=
  match d.barOpen off, bankAt off with
  | 2, some (k, 0) => bankWrite k 0 v.toNat d
  | _, _ => d

def execEvClear (off : Nat) (v : BitVec 32) (s : State) : Res := upd s (evClear off v)

/-! ### Register writes (R21) -/

/-- A field after a write of its register; a W1C bit that hardware has set in this a-cycle stays set (R21). -/
def writeField (locked : Bool) (i : Nat) (v : Nat) (d : Dev) (f : Field) : Dev :=
  let x := bitsOf v f.hi f.lo
  match f.acc with
  | .ro => d
  | .rov => d
  | .rw => d.setF f i x
  | .rwl => if locked then d else d.setF f i x
  | .w1c =>
    if d.raised.any (fun e => decide (e.1 = (f.reg.off i, f.lo))) then d
    else
      let d := if x = 0 then d else { d with dropped := (f.reg.off i, f.lo) :: d.dropped }
      d.setF f i (d.getF f i - (d.getF f i &&& x))
  | .w1s => d.setF f i (d.getF f i ||| x)

/-- The events on bits of register r that count in SETCNT in this a-cycle, when v is written in it (R381). -/
def Dev.countedNow (d : Dev) (r : RegName) (i : Nat) (v : BitVec 64) : Nat :=
  (d.raised.filter (fun e => decide (e.1.1 = r.off i) && (e.2 || v.getLsbD e.1.2))).length

/-- A write of a register by its access codes; one that reaches RWL fields while LOCK is 1 counts; any write of a status register
sets SETCNT to the number of events counted in this a-cycle (R21, R381). -/
def writeReg (r : RegName) (i : Nat) (v : BitVec 64) (d : Dev) : Dev :=
  let locked := d.locked
  let d := if locked ∧ r.spec.fields.any (fun f => decide (f.acc = .rwl)) then lockedWrite d else d
  let d := r.spec.fields.foldl (writeField locked i v.toNat) d
  match setcntOf r with
  | some c => d.setF c i (min 255 (d.countedNow r i v))
  | none => d

/-- A write of LG_MBOX_CTL: LEN and DONE by their codes; GO submits the request unless BUSY, once Q2 has passed; an unknown CODE is
answered at once (R357, R406). -/
def mboxCtl (v : BitVec 64) (d : Dev) : Dev :=
  let d := (d.setF F.lgMboxCtlLen 0 (bitsOf v.toNat 20 8)).setF F.lgMboxCtlDone 0 (if v.getLsbD 2 then 0 else d.getF F.lgMboxCtlDone)
  if ¬ v.getLsbD 0 ∨ d.flag F.lgMboxCtlBusy ∨ ¬ d.flag F.lgStateConfigOk then d
  else
    let code := at_ d.mbox 0 1
    if code = 1 ∨ code = 2 ∨ code = 3 then d.setF F.lgMboxCtlBusy 0 1 else mboxFail code 0 1 d

/-- A write of PKG_SETUP_LOCK (R21, R23). -/
def setupLockWrite (v : BitVec 32) (d : Dev) : Dev := if v.getLsbD 0 then d.setF F.setupLockLock 0 1 else d

def execSetupLock (v : BitVec 32) (s : State) : Res := upd s (setupLockWrite v)

/-- One 32-bit word of the MSI-X table written; unmasking a pending vector raises it (R350). -/
def msixWord (w : Nat) (v : BitVec 32) (d : Dev) : Dev :=
  let d := { d with msixTab := tabSet (if w % 4 = 3 then 1 else 0) d.msixTab w (if w % 4 = 3 then v &&& 1 else v) }
  if w % 4 = 3 ∧ ¬ v.getLsbD 0 ∧ tabGet false d.pba (w / 4) then
    emit (.msix (w / 4)) { d with pba := tabSet false d.pba (w / 4) false }
  else d

/-- What a write does at its target. Ring registers, SEM_PART, FH_QUAD_CFG, QS_TL_PLAN, TB_HIST_CTL, LG_MBOX_CTL and PKG_SETUP_LOCK have
rules of their own; every other register follows its access codes. -/
def writeAt (t : BarTarget) (width : Nat) (v : BitVec 64) (d : Dev) : Dev :=
  match t with
  | .readOnly => d
  | .bank k o => bankWrite k o v.toNat d
  | .mbox o => { d with mboxReq := memWrite d.mboxReq o (leBytes width v.toNat) }
  | .msix o =>
    let d := msixWord (o / 4) (v.truncate 32) d
    if width = 8 then msixWord (o / 4 + 1) ((v >>> 32).truncate 32) d else d
  | .reg .ringSq i => ringAreaWrite i 0 v d
  | .reg .ringCq i => ringAreaWrite i 1 v d
  | .reg .ringDb i => ringAreaWrite i 2 v d
  | .reg .ringAux i => ringAreaWrite i 3 v d
  | .reg .ringCtl i => ringCtlWrite i v d
  | .reg .semPart i => semPartWrite i (v.truncate 32) d
  | .reg .fhQuadCfg i => quadModeSet i (v.truncate 32) d
  | .reg .qsTlPlan i => retrain i (v.truncate 32) d
  | .reg .tbHistCtl _ => histClear (v.truncate 32) d
  | .reg .lgMboxCtl _ => mboxCtl v d
  | .reg .setupLock _ => setupLockWrite (v.truncate 32) d
  | .reg r i => writeReg r i v d

/-- A host write of BAR0: rejected accesses change nothing but the FLT unit (R19, R406). -/
def registerWrite (off width : Nat) (v : BitVec 64) (d : Dev) : Dev :=
  match d.barOpen off, barTarget off width with
  | 2, .inl t => writeAt t width v d
  | _, _ => hostAccess false true off width d

def execRegisterWrite (off width : Nat) (v : BitVec 64) (s : State) : Res :=
  there (off < 0x4000000) s (upd s (registerWrite off width v))

/-- A read of DL_STATUS or TL_LINK_STATUS returns the register and clears REPLAYS (R127, *TL_LINK_STATUS*). -/
def replaysRead (off : Nat) (d : Dev) : Dev :=
  match d.barOpen off, findReg off with
  | 2, some (.dlStatus, i) => (emit (.read off (d.view false .dlStatus i)) d).setF F.dlStatusReplays i 0
  | 2, some (.tlLinkStatus, i) => (emit (.read off (d.view false .tlLinkStatus i)) d).setF F.tlLinkStatusReplays i 0
  | _, _ => hostAccess false false off 4 d

def execReplaysReadClear (off : Nat) (s : State) : Res := there (off < 0x4000000) s (upd s (replaysRead off))

/-! ### Host-memory access failures (R323) -/

/-- A failed host-memory access: HOST_FAULT, and by its use a ring error with cause 8, BUF_RANGE, or DATA_LOST of the oldest move on the
core that consumes the far page. -/
def hostTimeout (u : HostUse) (d : Dev) : Dev :=
  let d := d.raise F.hiStatusHostFault
  match u with
  | .ringArea r => ringError r 8 d
  | .buffer c => done c 6 d
  | .farPage p g =>
    let d := d.raise F.suStatusDataLost g
    match (d.core g).moves with
    | [] => noteListFail p g 2 0 d
    | m :: rest =>
      let o := mvOp m.w
      let d := mvFree g p m (d.modCore g (fun c => { c with moves := rest }))
      noteListFail p g 2 0 (if o.sen then ccInc g o.sctr d else d)

def execHostAccessTimeout (u : HostUse) (s : State) : Res :=
  there (match u with
    | .ringArea r => decide (r < 16384)
    | .buffer c => decide (c.ring < 16384)
    | .farPage p g => decide (p < 32 ∧ g < 80)) s (upd s (hostTimeout u))

end Sys2Proof.Machine
end

