-- ==== Sys2Proof/Machine/Dispatch.lean ====
section
/-! DEFINITION. The dispatch: one arm per command, each a call of its meaning. -/

namespace Sys2Proof.Machine

open Sys2Proof

/-- What a command does to the device. -/
def exec (i : Instr) (s : State) : Host.Outcome State Fault Refusal :=
  match i with
  | .registerWrite off width v => Sys2Proof.Machine.execRegisterWrite off width v s
  | .hostAccessError bar2 write off width => Sys2Proof.Machine.execHostAccessError bar2 write off width s
  | .setupLock v => Sys2Proof.Machine.execSetupLock v s
  | .replaysReadClear off => Sys2Proof.Machine.execReplaysReadClear off s
  | .ringEnable r ctl => Sys2Proof.Machine.execRingEnable r ctl s
  | .ringDisable r ctl => Sys2Proof.Machine.execRingDisable r ctl s
  | .ringDrainComplete r => Sys2Proof.Machine.execRingDrainComplete r s
  | .kick r v => Sys2Proof.Machine.execKick r v s
  | .doorbellPoll r => Sys2Proof.Machine.execDoorbellPoll r s
  | .idleHandshake r => Sys2Proof.Machine.execIdleHandshake r s
  | .reportDoorbellRead r => Sys2Proof.Machine.execReportDoorbellRead r s
  | .commandAccept r => Sys2Proof.Machine.execCommandAccept r s
  | .interruptModerationEnd r => Sys2Proof.Machine.execInterruptModerationEnd r s
  | .hostAccessTimeout u => Sys2Proof.Machine.execHostAccessTimeout u s
  | .ideIntegrityFail stream => Sys2Proof.Machine.execIdeIntegrityFail stream s
  | .functionReset => Sys2Proof.Machine.execFunctionReset s
  | .perstAssert => Sys2Proof.Machine.execPerstAssert s
  | .keyProg stream kset dir key => Sys2Proof.Machine.execKeyProg stream kset dir key s
  | .lockInterface p => Sys2Proof.Machine.execLockInterface p s
  | .stopInterface p => Sys2Proof.Machine.execStopInterface p s
  | .semPartWrite sem v => Sys2Proof.Machine.execSemPartWrite sem v s
  | .nop c => Sys2Proof.Machine.execNop c s
  | .semAdd c sem v => Sys2Proof.Machine.execSemAdd c sem v s
  | .semRead c sem => Sys2Proof.Machine.execSemRead c sem s
  | .semNotify c sem vec v => Sys2Proof.Machine.execSemNotify c sem vec v s
  | .load c addr len => Sys2Proof.Machine.execLoad c addr len s
  | .unload c image => Sys2Proof.Machine.execUnload c image s
  | .arm c t0 eS hold => Sys2Proof.Machine.execArm c t0 eS hold s
  | .stop c eX => Sys2Proof.Machine.execStop c eX s
  | .swap c eW => Sys2Proof.Machine.execSwap c eW s
  | .abort c => Sys2Proof.Machine.execAbort c s
  | .jobBind c p job jgen route => Sys2Proof.Machine.execJobBind c p job jgen route s
  | .carrierCfg c addr len => Sys2Proof.Machine.execCarrierCfg c addr len s
  | .carrierDel c carrier => Sys2Proof.Machine.execCarrierDel c carrier s
  | .ownGrant c carrier epoch => Sys2Proof.Machine.execOwnGrant c carrier epoch s
  | .ownRevoke c carrier => Sys2Proof.Machine.execOwnRevoke c carrier s
  | .slotprocCfg c addr len => Sys2Proof.Machine.execSlotprocCfg c addr len s
  | .slotSubmit c carrier dir slot table => Sys2Proof.Machine.execSlotSubmit c carrier dir slot table s
  | .codingQueueCfg c die q enable log2depth qbase => Sys2Proof.Machine.execCodingQueueCfg c die q enable log2depth qbase s
  | .memRangeAdd c p first frames => Sys2Proof.Machine.execMemRangeAdd c p first frames s
  | .memRangeRemove c p first frames => Sys2Proof.Machine.execMemRangeRemove c p first frames s
  | .memFarAdd c p grant kind base pages tgt => Sys2Proof.Machine.execMemFarAdd c p grant kind base pages tgt s
  | .memFarRemove c p grant => Sys2Proof.Machine.execMemFarRemove c p grant s
  | .memMap c addr pages hint die zr => Sys2Proof.Machine.execMemMap c addr pages hint die zr s
  | .memUnmap c addr pages => Sys2Proof.Machine.execMemUnmap c addr pages s
  | .memHint c addr pages hint die rate => Sys2Proof.Machine.execMemHint c addr pages hint die rate s
  | .memQuery c addr pages result => Sys2Proof.Machine.execMemQuery c addr pages result s
  | .tbStepAccept c seq mode => Sys2Proof.Machine.execTbStepAccept c seq mode s
  | .gateSet c desc => Sys2Proof.Machine.execGateSet c desc s
  | .gateListSwitch port => Sys2Proof.Machine.execGateListSwitch port s
  | .tlLend c lend first frames borrower => Sys2Proof.Machine.execTlLend c lend first frames borrower s
  | .tlUnlend c lend => Sys2Proof.Machine.execTlUnlend c lend s
  | .unlendZero lend => Sys2Proof.Machine.execUnlendZero lend s
  | .mirrorSet c partner links cap => Sys2Proof.Machine.execMirrorSet c partner links cap s
  | .mirrorMap c p q => Sys2Proof.Machine.execMirrorMap c p q s
  | .mirrorTakeover c mask result => Sys2Proof.Machine.execMirrorTakeover c mask result s
  | .ckptWrite c p host pasid len => Sys2Proof.Machine.execCkptWrite c p host pasid len s
  | .ckptRestore c p host pasid len => Sys2Proof.Machine.execCkptRestore c p host pasid len s
  | .partCreate c desc => Sys2Proof.Machine.execPartCreate c desc s
  | .partDestroy c p => Sys2Proof.Machine.execPartDestroy c p s
  | .partResize c p handle op => Sys2Proof.Machine.execPartResize c p handle op s
  | .partRegulate c desc => Sys2Proof.Machine.execPartRegulate c desc s
  | .lglSet c desc => Sys2Proof.Machine.execLglSet c desc s
  | .lglSwitch => Sys2Proof.Machine.execLglSwitch s
  | .sgSet c desc => Sys2Proof.Machine.execSgSet c desc s
  | .sliceAssign c p pasid => Sys2Proof.Machine.execSliceAssign c p pasid s
  | .sliceRelease c p pasid => Sys2Proof.Machine.execSliceRelease c p pasid s
  | .sliceFreeze c p eX => Sys2Proof.Machine.execSliceFreeze c p eX s
  | .sliceSave c p host pasid len => Sys2Proof.Machine.execSliceSave c p host pasid len s
  | .sliceRestore c p host pasid len => Sys2Proof.Machine.execSliceRestore c p host pasid len s
  | .sliceThaw c p t0 abandon => Sys2Proof.Machine.execSliceThaw c p t0 abandon s
  | .keyLoad c p wrapped => Sys2Proof.Machine.execKeyLoad c p wrapped s
  | .keyRotate c p rate wrapped => Sys2Proof.Machine.execKeyRotate c p rate wrapped s
  | .fabricKeyLoad c p wrapped => Sys2Proof.Machine.execFabricKeyLoad c p wrapped s
  | .migKeyLoad c p wrapped => Sys2Proof.Machine.execMigKeyLoad c p wrapped s
  | .imageAllow c p digest => Sys2Proof.Machine.execImageAllow c p digest s
  | .attest c kind p result nonce => Sys2Proof.Machine.execAttest c kind p result nonce s
  | .sessClose c => Sys2Proof.Machine.execSessClose c s
  | .fwStage c host len => Sys2Proof.Machine.execFwStage c host len s
  | .reset c scope p target => Sys2Proof.Machine.execReset c scope p target s
  | .resetComplete => Sys2Proof.Machine.execResetComplete s
  | .resetBoundMiss site => Sys2Proof.Machine.execResetBoundMiss site s
  | .fltService c mode => Sys2Proof.Machine.execFltService c mode s
  | .fltReturn c => Sys2Proof.Machine.execFltReturn c s
  | .memberConfirm c flags epoch bitmap => Sys2Proof.Machine.execMemberConfirm c flags epoch bitmap s
  | .getCerts => Sys2Proof.Machine.execGetCerts s
  | .sessOpen => Sys2Proof.Machine.execSessOpen s
  | .sessFinish => Sys2Proof.Machine.execSessFinish s
  | .sessOpenLapse session => Sys2Proof.Machine.execSessOpenLapse session s
  | .hbOd g e w => Sys2Proof.Machine.execHbOd g e w s
  | .hbMm g e w => Sys2Proof.Machine.execHbMm g e w s
  | .hbMmFirstRow g e stall => Sys2Proof.Machine.execHbMmFirstRow g e stall s
  | .hbMmCompletion g e x => Sys2Proof.Machine.execHbMmCompletion g e x s
  | .hbEnd g e w => Sys2Proof.Machine.execHbEnd g e w s
  | .vld g w => Sys2Proof.Machine.execVld g w s
  | .vst g w => Sys2Proof.Machine.execVst g w s
  | .sld g w => Sys2Proof.Machine.execSld g w s
  | .sst g w => Sys2Proof.Machine.execSst g w s
  | .vldB g w => Sys2Proof.Machine.execVldB g w s
  | .vstB g w => Sys2Proof.Machine.execVstB g w s
  | .vstBx g w => Sys2Proof.Machine.execVstBx g w s
  | .vadd g sl w => Sys2Proof.Machine.execVadd g sl w s
  | .vsub g sl w => Sys2Proof.Machine.execVsub g sl w s
  | .vmul g sl w => Sys2Proof.Machine.execVmul g sl w s
  | .vmin g sl w => Sys2Proof.Machine.execVmin g sl w s
  | .vmax g sl w => Sys2Proof.Machine.execVmax g sl w s
  | .vabs g sl w => Sys2Proof.Machine.execVabs g sl w s
  | .vand g sl w => Sys2Proof.Machine.execVand g sl w s
  | .vor g sl w => Sys2Proof.Machine.execVor g sl w s
  | .vxor g sl w => Sys2Proof.Machine.execVxor g sl w s
  | .vshl g sl w => Sys2Proof.Machine.execVshl g sl w s
  | .vshr g sl w => Sys2Proof.Machine.execVshr g sl w s
  | .vshrr g sl w => Sys2Proof.Machine.execVshrr g sl w s
  | .vsel g sl w => Sys2Proof.Machine.execVsel g sl w s
  | .vcmp g sl w => Sys2Proof.Machine.execVcmp g sl w s
  | .vbcast g sl w => Sys2Proof.Machine.execVbcast g sl w s
  | .vfma g sl w => Sys2Proof.Machine.execVfma g sl w s
  | .vfscl g sl w => Sys2Proof.Machine.execVfscl g sl w s
  | .vcvt g sl w => Sys2Proof.Machine.execVcvt g sl w s
  | .vnarrow g sl w => Sys2Proof.Machine.execVnarrow g sl w s
  | .vperm g sl w => Sys2Proof.Machine.execVperm g sl w s
  | .vnorm g sl w => Sys2Proof.Machine.execVnorm g sl w s
  | .vrsum g sl w => Sys2Proof.Machine.execVrsum g sl w s
  | .vrmax g sl w => Sys2Proof.Machine.execVrmax g sl w s
  | .vrmin g sl w => Sys2Proof.Machine.execVrmin g sl w s
  | .vbexp g sl w => Sys2Proof.Machine.execVbexp g sl w s
  | .vcmac g sl w => Sys2Proof.Machine.execVcmac g sl w s
  | .vcmacf g sl w => Sys2Proof.Machine.execVcmacf g sl w s
  | .vbfly4 g sl w => Sys2Proof.Machine.execVbfly4 g sl w s
  | .vdemap g sl w => Sys2Proof.Machine.execVdemap g sl w s
  | .vfdiv g sl w => Sys2Proof.Machine.execVfdiv g sl w s
  | .vfsqrt g sl w => Sys2Proof.Machine.execVfsqrt g sl w s
  | .sadd g w => Sys2Proof.Machine.execSadd g w s
  | .ssub g w => Sys2Proof.Machine.execSsub g w s
  | .smul g w => Sys2Proof.Machine.execSmul g w s
  | .sand g w => Sys2Proof.Machine.execSand g w s
  | .sor g w => Sys2Proof.Machine.execSor g w s
  | .sxor g w => Sys2Proof.Machine.execSxor g w s
  | .sshl g w => Sys2Proof.Machine.execSshl g w s
  | .sshr g w => Sys2Proof.Machine.execSshr g w s
  | .sli g w => Sys2Proof.Machine.execSli g w s
  | .amov g w => Sys2Proof.Machine.execAmov g w s
  | .mmov g w => Sys2Proof.Machine.execMmov g w s
  | .kmov g w => Sys2Proof.Machine.execKmov g w s
  | .loop g w => Sys2Proof.Machine.execLoop g w s
  | .span g w => Sys2Proof.Machine.execSpan g w s
  | .br g w => Sys2Proof.Machine.execBr g w s
  | .brz g w => Sys2Proof.Machine.execBrz g w s
  | .brnz g w => Sys2Proof.Machine.execBrnz g w s
  | .waitc g w => Sys2Proof.Machine.execWaitc g w s
  | .waitcSatisfied g => Sys2Proof.Machine.execWaitcSatisfied g s
  | .sigc g w => Sys2Proof.Machine.execSigc g w s
  | .seEnd g w => Sys2Proof.Machine.execSeEnd g w s
  | .seResultLand x => Sys2Proof.Machine.execSeResultLand x s
  | .suSd g w => Sys2Proof.Machine.execSuSd g w s
  | .suMv g w => Sys2Proof.Machine.execSuMv g w s
  | .moveStart g => Sys2Proof.Machine.execMoveStart g s
  | .moveComplete g ev => Sys2Proof.Machine.execMoveComplete g ev s
  | .suAt g w => Sys2Proof.Machine.execSuAt g w s
  | .atOffsetReached g => Sys2Proof.Machine.execAtOffsetReached g s
  | .suEend g w => Sys2Proof.Machine.execSuEend g w s
  | .suRma g w => Sys2Proof.Machine.execSuRma g w s
  | .suAmo g w => Sys2Proof.Machine.execSuAmo g w s
  | .suFence g w => Sys2Proof.Machine.execSuFence g w s
  | .remoteOpComplete g => Sys2Proof.Machine.execRemoteOpComplete g s
  | .suEvc g w => Sys2Proof.Machine.execSuEvc g w s
  | .suEvr g w => Sys2Proof.Machine.execSuEvr g w s
  | .evClear off v => Sys2Proof.Machine.execEvClear off v s
  | .epochTick p => Sys2Proof.Machine.execEpochTick p s
  | .epochEnd p => Sys2Proof.Machine.execEpochEnd p s
  | .codeFetch g e => Sys2Proof.Machine.execCodeFetch g e s
  | .unitRelease p ix => Sys2Proof.Machine.execUnitRelease p ix s
  | .holdLimit p ix => Sys2Proof.Machine.execHoldLimit p ix s
  | .unitEnd p ix => Sys2Proof.Machine.execUnitEnd p ix s
  | .unitCapExpiry p ix => Sys2Proof.Machine.execUnitCapExpiry p ix s
  | .exchangeSend p ix => Sys2Proof.Machine.execExchangeSend p ix s
  | .xdataReceive link hdr payload => Sys2Proof.Machine.execXdataReceive link hdr payload s
  | .xrelReceive link hdr payload => Sys2Proof.Machine.execXrelReceive link hdr payload s
  | .mreqReceive link hdr payload => Sys2Proof.Machine.execMreqReceive link hdr payload s
  | .mrspReceive link hdr payload => Sys2Proof.Machine.execMrspReceive link hdr payload s
  | .bulkReceive link hdr payload => Sys2Proof.Machine.execBulkReceive link hdr payload s
  | .bulkAckReceive link hdr payload => Sys2Proof.Machine.execBulkAckReceive link hdr payload s
  | .mirrorReceive link hdr payload => Sys2Proof.Machine.execMirrorReceive link hdr payload s
  | .mirrorAckReceive link hdr payload => Sys2Proof.Machine.execMirrorAckReceive link hdr payload s
  | .mirrorHorizonReceive link hdr payload => Sys2Proof.Machine.execMirrorHorizonReceive link hdr payload s
  | .handoverRequest link dead => Sys2Proof.Machine.execHandoverRequest link dead s
  | .handoverResponse link dead count => Sys2Proof.Machine.execHandoverResponse link dead count s
  | .staleNoticeReceive link epoch => Sys2Proof.Machine.execStaleNoticeReceive link epoch s
  | .flitRefused link hdr payload => Sys2Proof.Machine.execFlitRefused link hdr payload s
  | .flitCrcFail link => Sys2Proof.Machine.execFlitCrcFail link s
  | .nakReceive link count => Sys2Proof.Machine.execNakReceive link count s
  | .ackReceive link count => Sys2Proof.Machine.execAckReceive link count s
  | .linkDown link => Sys2Proof.Machine.execLinkDown link s
  | .linkPhaseEnd e pass prefec postfec => Sys2Proof.Machine.execLinkPhaseEnd e pass prefec postfec s
  | .trainingTimeout e => Sys2Proof.Machine.execTrainingTimeout e s
  | .retrain link v => Sys2Proof.Machine.execRetrain link v s
  | .requestRetry tag => Sys2Proof.Machine.execRequestRetry tag s
  | .requestLifetimeExpiry tag => Sys2Proof.Machine.execRequestLifetimeExpiry tag s
  | .bulkRetry tag => Sys2Proof.Machine.execBulkRetry tag s
  | .mirrorChunkCopy => Sys2Proof.Machine.execMirrorChunkCopy s
  | .mirrorAckTimeout => Sys2Proof.Machine.execMirrorAckTimeout s
  | .mirrorHorizonSend => Sys2Proof.Machine.execMirrorHorizonSend s
  | .mirrorPartnerLost => Sys2Proof.Machine.execMirrorPartnerLost s
  | .ethernetFrameReceive port f => Sys2Proof.Machine.execEthernetFrameReceive port f s
  | .uplaneReceive u => Sys2Proof.Machine.execUplaneReceive u s
  | .delayRequestReceive port t2 => Sys2Proof.Machine.execDelayRequestReceive port t2 s
  | .rmaResponseReceive port => Sys2Proof.Machine.execRmaResponseReceive port s
  | .cplaneSend carrier n ix => Sys2Proof.Machine.execCplaneSend carrier n ix s
  | .uplaneSend carrier n ix => Sys2Proof.Machine.execUplaneSend carrier n ix s
  | .dlWindowClose carrier n ix => Sys2Proof.Machine.execDlWindowClose carrier n ix s
  | .lineClose carrier n l r => Sys2Proof.Machine.execLineClose carrier n l r s
  | .ulPresenceSet carrier n => Sys2Proof.Machine.execUlPresenceSet carrier n s
  | .frameBoundary => Sys2Proof.Machine.execFrameBoundary s
  | .leaseExpiry => Sys2Proof.Machine.execLeaseExpiry s
  | .fhPortDown port => Sys2Proof.Machine.execFhPortDown port s
  | .portRetry port => Sys2Proof.Machine.execPortRetry port s
  | .quadModeSet quad v => Sys2Proof.Machine.execQuadModeSet quad v s
  | .allocDeadline carrier dir n => Sys2Proof.Machine.execAllocDeadline carrier dir n s
  | .queuePoll die q => Sys2Proof.Machine.execQueuePoll die q s
  | .dlSch die q j => Sys2Proof.Machine.execDlSch die q j s
  | .ulSch die q j => Sys2Proof.Machine.execUlSch die q j s
  | .polarDci die q j => Sys2Proof.Machine.execPolarDci die q j s
  | .polarBch die q j => Sys2Proof.Machine.execPolarBch die q j s
  | .polarUci die q j => Sys2Proof.Machine.execPolarUci die q j s
  | .smallUci die q j => Sys2Proof.Machine.execSmallUci die q j s
  | .signal die q j => Sys2Proof.Machine.execSignal die q j s
  | .codeBlockDone die kind ix => Sys2Proof.Machine.execCodeBlockDone die kind ix s
  | .codingJobComplete die q j => Sys2Proof.Machine.execCodingJobComplete die q j s
  | .signalDeadline die q j => Sys2Proof.Machine.execSignalDeadline die q j s
  | .slotReport carrier n => Sys2Proof.Machine.execSlotReport carrier n s
  | .patrolRead unit found => Sys2Proof.Machine.execPatrolRead unit found s
  | .bankRefresh die stack pc bank => Sys2Proof.Machine.execBankRefresh die stack pc bank s
  | .migrationStart => Sys2Proof.Machine.execMigrationStart s
  | .migrationSwitch => Sys2Proof.Machine.execMigrationSwitch s
  | .frameRelease p => Sys2Proof.Machine.execFrameRelease p s
  | .walkerPageRewrite p => Sys2Proof.Machine.execWalkerPageRewrite p s
  | .ptpMessageReceive e m => Sys2Proof.Machine.execPtpMessageReceive e m s
  | .slavePortLost => Sys2Proof.Machine.execSlavePortLost s
  | .synceSourceLost => Sys2Proof.Machine.execSynceSourceLost s
  | .ptpSyncSend e => Sys2Proof.Machine.execPtpSyncSend e s
  | .transmitStart e => Sys2Proof.Machine.execTransmitStart e s
  | .histogramSample => Sys2Proof.Machine.execHistogramSample s
  | .histClear v => Sys2Proof.Machine.execHistClear v s
  | .ppsInEdge => Sys2Proof.Machine.execPpsInEdge s
  | .ppsOutPulse => Sys2Proof.Machine.execPpsOutPulse s
  | .lendNotice lg => Sys2Proof.Machine.execLendNotice lg s
  | .takePoint lg => Sys2Proof.Machine.execTakePoint lg s
  | .contextSaveComplete g ue => Sys2Proof.Machine.execContextSaveComplete g ue s
  | .scrubComplete g => Sys2Proof.Machine.execScrubComplete g s
  | .contextRestoreComplete g => Sys2Proof.Machine.execContextRestoreComplete g s
  | .lendWon lg => Sys2Proof.Machine.execLendWon lg s
  | .lendWoff lg => Sys2Proof.Machine.execLendWoff lg s
  | .sgDecision sg => Sys2Proof.Machine.execSgDecision sg s
  | .yieldExpiry sg => Sys2Proof.Machine.execYieldExpiry sg s
  | .fixedSliceBoundary sg => Sys2Proof.Machine.execFixedSliceBoundary sg s
  | .watchdogExpiry e => Sys2Proof.Machine.execWatchdogExpiry e s
  | .probationEnd e => Sys2Proof.Machine.execProbationEnd e s
  | .drainBarrierComplete p => Sys2Proof.Machine.execDrainBarrierComplete p s
  | .fabricLifetimeExpiry tag => Sys2Proof.Machine.execFabricLifetimeExpiry tag s
  | .heartbeat => Sys2Proof.Machine.execHeartbeat s
  | .healthUpdate => Sys2Proof.Machine.execHealthUpdate s
  | .dieLinkReplay die x => Sys2Proof.Machine.execDieLinkReplay die x s
  | .dieLinkLaneFail die link dir group lane => Sys2Proof.Machine.execDieLinkLaneFail die link dir group lane s
  | .powerOn straps => Sys2Proof.Machine.execPowerOn straps s
  | .quicksetStageEnd f => Sys2Proof.Machine.execQuicksetStageEnd f s
  | .i3cPointerWrite bytes => Sys2Proof.Machine.execI3cPointerWrite bytes s
  | .i3cRead n => Sys2Proof.Machine.execI3cRead n s
  | .pwrOkFall bit => Sys2Proof.Machine.execPwrOkFall bit s
  | .powerCycle => Sys2Proof.Machine.execPowerCycle s
  | .sensorRead dieT hbmT => Sys2Proof.Machine.execSensorRead dieT hbmT s
  | .avsRead rails => Sys2Proof.Machine.execAvsRead rails s
  | .throttleInterval => Sys2Proof.Machine.execThrottleInterval s
  | .loadComplete p => Sys2Proof.Machine.execLoadComplete p s
  | .startInterface p => Sys2Proof.Machine.execStartInterface p s
  | .deviceInterfaceReport p => Sys2Proof.Machine.execDeviceInterfaceReport p s
  | .detectionWindowStart carrier n r => Sys2Proof.Machine.execDetectionWindowStart carrier n r s
  | .mirrorPaired => Sys2Proof.Machine.execMirrorPaired s
  | .mirrorPartnerRegained => Sys2Proof.Machine.execMirrorPartnerRegained s
  | .esmcReceive e ql choose => Sys2Proof.Machine.execEsmcReceive e ql choose s
  | .delayReqSend => Sys2Proof.Machine.execDelayReqSend s
  | .perstDeassert => Sys2Proof.Machine.execPerstDeassert s
  | .pwrcycReqNRelease => Sys2Proof.Machine.execPwrcycReqNRelease s
  | .pcieLinkChange up flit gen width => Sys2Proof.Machine.execPcieLinkChange up flit gen width s

end Sys2Proof.Machine
end

