-- ==== Sys2Proof/Machine/Tick.lean ====
section
/-! DEFINITION. What an a-cycle does by itself (R12, R85, R87; log 1): time, the engines that run every cycle, the sources and charges
that grow every cycle. Everything else that time brings has a row of its own. -/

namespace Sys2Proof.Machine

open Sys2Proof

/-- Time moves on by one a-cycle: network time by 1 ns, 8 units, every third one (R12, R13). -/
def passTime (d : Dev) : Dev :=
  { d with acyc := d.acyc + 1, raised := [], dropped := [], nt := if (d.acyc + 1) % 3 = 0 then d.nt + 8 else d.nt }

/-- The a-cycle begins an f-cycle: 2 of 3 do (R12). -/
def Dev.fEdge (d : Dev) : Bool := decide (d.acyc * 2 / 3 ≠ (d.acyc - 1) * 2 / 3)

/-! ### Sources that add in every cycle (R425) -/

/-- CYCLES while a context occupies core g, UNIT_BUSY while a released unit on it has not ended. -/
def coreCycle (g : Nat) (d : Dev) : Dev :=
  match d.coreOwner g with
  | none => d
  | some p =>
    let d := if d.inCore p g then evCore g 0x01 0 1 d else d
    if (d.core g).unit.isSome then evCore g 0x02 0 1 d else d

/-- Decoders of a die that a code block occupies (R204). -/
def Dev.decodersBusy (d : Dev) (die : Nat) : Nat :=
  ((d.cod die).busy.filter (fun e => decide (e.1 / 16 = 4 ∧ e.2.from_ ≤ d.acyc ∧ d.acyc < e.2.until_))).length

/-- CD_DEC_BUSY of a die; MEM_HOT in an m-cycle, every third a-cycle, with a stack in doubled refresh (R217). -/
def dieCycle (die : Nat) (d : Dev) : Dev :=
  let d := evDie die 0x82 0 (d.decodersBusy die) d
  if d.acyc % 3 = 0 ∧ d.mem.hot.any (fun e => e.2 && decide (e.1 / 8 = die)) then evDie die 0x85 0 1 d else d

/-- A due move that waits for the tokens of a regulator: PT_REG_STATUS and REG_THROTTLE, in f-cycles (R297). -/
def moveThrottled (g : Nat) (d : Dev) : Dev :=
  match (d.core g).moves with
  | [] => d
  | m :: _ =>
    if m.started.isNone ∨ m.wrote ∨ d.acyc < mvEarliest (mvOp m.w) (d.mvFrom g m) then d
    else match d.moveWaits g (d.workOf g) m with
      | some r => regWaited (d.workOf g) r d
      | none => d

/-! ### Schedules -/

/-- A unit of p that is due, or a transfer list that has begun, is held by lending in this a-cycle (R142). -/
def Dev.heldByLending (d : Dev) (p : Nat) : Bool :=
  (d.sched p).units.zipIdx.any (fun u =>
    u.1.issued.isNone && u.1.cores.any (fun g => ! d.lendAllows p g) &&
      (match d.dueAt p u.2 with
       | some t => decide (t ≤ d.acyc)
       | none => false)) ||
  (p ≠ 0 && (match (d.sched p).active with
    | some im => im.binding.any (fun g => (d.pctx p g).list.active && ! d.lendAllows p g)
    | none => false))

/-- Every unit has ended past the next nominal tick, and a move of the epoch has not completed. -/
def Dev.lateMoves (d : Dev) (p : Nat) : Bool :=
  decide (d.nominalTick p (d.epoch p + 1) ≤ d.acyc) && (d.sched p).units.all (fun u => u.ended.isSome) &&
    (match (d.sched p).active with
     | some im => im.binding.any (fun g => decide (d.coreOwner g = some p) && ! (d.core g).moves.isEmpty)
     | none => false)

/-- A window of p's class on Teril port e closed with this nanosecond while a flit of p for it still waits (R144, R250). -/
def Dev.windowMissed (d : Dev) (e p : Nat) : Bool :=
  match ((d.port e).q 0).find? (fun f => f.wclass.any (fun w => w.2 = p)) with
  | none => false
  | some f =>
    let open_ := fun t => match (d.port e).active.entry t with
      | some x => (d.port e).active.isOpen e 0 f x
      | none => false
    decide (d.acyc % 3 = 0) && open_ (d.nt - 8) && ! open_ d.nt

/-- What an a-cycle adds to the running epoch of p: ES_LEND_HOLD, and the causes of R152 that arise with time. -/
def schedCycle (p : Nat) (d : Dev) : Dev :=
  if ¬ d.inEpoch p then d
  else
    let held := d.heldByLending p
    let late := d.lateMoves p
    let missed := (List.range 16).any (fun l => d.windowMissed (16 + l) p)
    let d := if held then evPart p 0x44 0 1 d else d
    if held ∨ late ∨ missed then
      d.modSched p (fun s => { s with causes := s.causes ||| (if held then 4 else 0) ||| (if late then 8 else 0) |||
        (if missed then 32 else 0) })
    else d

/-! ### Lending -/

/-- The group of a handle stands outside its lend spans (R311). -/
def Dev.outsideSpan (d : Dev) (g : Nat) : Bool :=
  match d.lendOf g with
  | none => true
  | some (_, x) => ! (decide (2 ≤ x.phase ∧ x.phase ≤ 4) || (decide (x.phase = 5) && ntLt d.nt (later x.woff 276000)))

/-- PT_ACCT takes one a-cycle of every core of p's dedicated groups outside their lend spans (R311). -/
def chargePart (p : Nat) (d : Dev) : Dev :=
  let n := sumL ((d.part p).groups.map (fun h =>
    let cs := (handleCores h).getD []
    if cs.all (fun g => d.outsideSpan g) then cs.length else 0))
  if n = 0 then d else d.wr .ptAcct p (d.rd .ptAcct p + BitVec.ofNat 64 n)

/-- A lend span that follows a return runs out at W_off + 34.5 µs (R311). -/
def spansEnd (d : Dev) : Dev :=
  { d with lends := d.lends.map (fun e =>
      if e.2.phase = 5 ∧ ntLe (later e.2.woff 276000) d.nt then (e.1, { e.2 with phase := 0 }) else e) }

/-! ### The a-cycle -/

/-- What the far port does in an f-cycle: it asks for what migrations read at peers and sends what is stored there (R228, R265). -/
def farCycle (d : Dev) : Dev := let d := migAsk d; farPump d.mem.farOut.length d

/-- What a T-cycle brings to the egress ports (R249, R252). -/
def portCycle (d : Dev) : Dev := (tabKeys d.ports).foldl (fun d e => gateOverrun e d) (cbsTick d)

/-- What every a-cycle brings while the clocks run. -/
def cycle (d : Dev) : Dev :=
  let d := (List.range 80).foldl (fun d g => if (d.core g).se.running then seTick g d else d) d
  let d := (tabKeys d.cores).foldl (fun d g => hbTick g d) d
  let d := (List.range 80).foldl (fun d g => coreCycle g d) d
  let d := (List.range 4).foldl (fun d die => dieCycle die d) d
  let d := (List.range 32).foldl (fun d p => schedCycle p d) d
  let d := (tabKeys d.parts).foldl (fun d p => chargePart p d) (spansEnd d)
  let d := (tabKeys d.shared).foldl (fun d i => sgTick i d) d
  let d := if d.fEdge then farCycle ((tabKeys d.cores).foldl (fun d g => moveAsk g (remotePump g (moveThrottled g d))) d) else d
  revokesDone (if d.acyc % 3 = 0 then portCycle (repliesAge d) else d)

/-- One a-cycle: time and what the S- and T-clocks drive; the rest while its clocks run (R433, R442). -/
def tick (d : Dev) : Dev :=
  let d := ppsFall (passTime d)
  if d.pins.stopped then d else cycle d

end Sys2Proof.Machine
end

