-- ==== Sys2Proof/WellFormed.lean ====
section
/-! DEFINITION. Well-formed commands: every operand names a place the package has. A well-formed command never faults
(the obligation WellFormedQueueRuns). -/

namespace Sys2Proof

/-- One of the 16,384 rings (R326). -/
def ringOk (r : Nat) : Bool := decide (r < 16384)
/-- One of the 80 cores of the package (R5, R120). -/
def coreOk (g : Nat) : Bool := decide (g < 80)
/-- One of the partitions p0 to p31 (R289). -/
def partOk (p : Nat) : Bool := decide (p < 32)
/-- One of the tenant partitions p1 to p31, which have interfaces (R325). -/
def tenantOk (p : Nat) : Bool := decide (1 ≤ p) && decide (p < 32)
/-- One of the carriers 0 to 255 (R162). -/
def carrierOk (k : Nat) : Bool := decide (k < 256)
/-- One of the four compute dies (R5). -/
def dieOk (d : Nat) : Bool := decide (d < 4)
/-- One of the 16 Teril links (R255). -/
def linkOk (l : Nat) : Bool := decide (l < 16)
/-- One of the 16 fronthaul ports (R158). -/
def fhOk (p : Nat) : Bool := decide (p < 16)
/-- One of the 32 egress ports: fronthaul ports, then Teril links (R246). -/
def egressOk (e : Nat) : Bool := decide (e < 32)

/-- A ring command's ring exists, and the semaphore of its SSIG (R347). -/
def Src.ok (c : Src) : Bool := ringOk c.ring && c.ssig.all (fun x => decide (x.1 < 8192))

/-- A host-memory access of a ring, a command or a core. -/
def HostUse.ok : HostUse → Bool
  | .ringArea r => ringOk r
  | .buffer c => c.ok
  | .farPage p g => partOk p && coreOk g

/-- Engines of *Watched engines*: four per core; 12 decoders, 6 encoders, 2 polar units and a CRC unit per die; four on the edge die
(R391). -/
def EngineId.ok : EngineId → Bool
  | .core g k => coreOk g && decide (k < 4)
  | .coding die k i => dieOk die && decide (4 ≤ k) && decide (k < 8) && decide (i < [12, 6, 2, 1].getD (k - 4) 0)
  | .edge k => decide (8 ≤ k) && decide (k < 12)

/-- A site of the ladder. -/
def SiteId.ok : SiteId → Bool
  | .engine e => e.ok
  | .host => true
  | .device => true

/-- A data unit of HBM: 64 bytes of the 786,432 frames of 2 MiB (R212). -/
def unitOk (u : Nat) : Bool := decide (u < 25769803776)

/-- A 4-byte word of a scratchpad of 10 MiB (R107). -/
def wordOk (w : Nat) : Bool := decide (w < 2621440)

/-- What befalls a move names a die, a die link, a data unit or a scratchpad word. -/
def MoveEvent.ok : MoveEvent → Bool
  | .clean => true
  | .uncorrectable _ => true
  | .corrected => true
  | .mesh die => dieOk die
  | .meshLost die _ => dieOk die
  | .link die l => dieOk die && decide (l < 3)
  | .memory unit _ => unitOk unit
  | .scratchpad g word _ => coreOk g && wordOk word

/-- What befalls a signal engine names a vector register or a scratchpad word. -/
def SeEvent.ok : SeEvent → Bool
  | .clean => true
  | .corrected => true
  | .lost v _ => decide (v < 64)
  | .scratchpad word _ => wordOk word

/-- The operands of a command name places the package has. -/
def Instr.wf (i : Instr) : Bool :=
  match i with
  | .registerWrite off _ _ => decide (off < 0x4000000)
  | .hostAccessError _ _ off _ => decide (off < 0x4000000)
  | .setupLock _ => true
  | .replaysReadClear off => decide (off < 0x4000000)
  | .ringEnable r _ => ringOk r
  | .ringDisable r _ => ringOk r
  | .ringDrainComplete r => ringOk r
  | .kick r _ => ringOk r
  | .doorbellPoll r => ringOk r
  | .idleHandshake r => ringOk r
  | .reportDoorbellRead r => ringOk r
  | .commandAccept r => ringOk r
  | .interruptModerationEnd r => ringOk r
  | .hostAccessTimeout u => u.ok
  | .ideIntegrityFail stream => decide (stream < 32)
  | .functionReset => true
  | .perstAssert => true
  | .keyProg stream _ _ _ => decide (stream < 32)
  | .lockInterface p => tenantOk p
  | .stopInterface p => tenantOk p
  | .semPartWrite sem _ => decide (sem < 8192)
  | .nop c => c.ok
  | .semAdd c _ _ => c.ok
  | .semRead c _ => c.ok
  | .semNotify c _ _ _ => c.ok
  | .load c _ _ => c.ok
  | .unload c _ => c.ok
  | .arm c _ _ _ => c.ok
  | .stop c _ => c.ok
  | .swap c _ => c.ok
  | .abort c => c.ok
  | .jobBind c _ _ _ _ => c.ok
  | .carrierCfg c _ _ => c.ok
  | .carrierDel c carrier => c.ok && carrierOk carrier
  | .ownGrant c carrier _ => c.ok && carrierOk carrier
  | .ownRevoke c carrier => c.ok && carrierOk carrier
  | .slotprocCfg c _ _ => c.ok
  | .slotSubmit c carrier _ _ _ => c.ok && carrierOk carrier
  | .codingQueueCfg c _ _ _ _ _ => c.ok
  | .memRangeAdd c p _ _ => c.ok && partOk p
  | .memRangeRemove c p _ _ => c.ok && partOk p
  | .memFarAdd c p _ _ _ _ _ => c.ok && partOk p
  | .memFarRemove c p _ => c.ok && partOk p
  | .memMap c _ _ _ _ _ => c.ok
  | .memUnmap c _ _ => c.ok
  | .memHint c _ _ _ _ _ => c.ok
  | .memQuery c _ _ _ => c.ok
  | .tbStepAccept c _ _ => c.ok
  | .gateSet c _ => c.ok
  | .gateListSwitch port => egressOk port
  | .tlLend c _ _ _ _ => c.ok
  | .tlUnlend c _ => c.ok
  | .unlendZero _ => true
  | .mirrorSet c _ _ _ => c.ok
  | .mirrorMap c _ _ => c.ok
  | .mirrorTakeover c _ _ => c.ok
  | .ckptWrite c p _ _ _ => c.ok && partOk p
  | .ckptRestore c p _ _ _ => c.ok && partOk p
  | .partCreate c _ => c.ok
  | .partDestroy c p => c.ok && partOk p
  | .partResize c p _ _ => c.ok && partOk p
  | .partRegulate c _ => c.ok
  | .lglSet c _ => c.ok
  | .lglSwitch => true
  | .sgSet c _ => c.ok
  | .sliceAssign c p _ => c.ok && partOk p
  | .sliceRelease c p _ => c.ok && partOk p
  | .sliceFreeze c p _ => c.ok && partOk p
  | .sliceSave c p _ _ _ => c.ok && partOk p
  | .sliceRestore c p _ _ _ => c.ok && partOk p
  | .sliceThaw c p _ _ => c.ok && partOk p
  | .keyLoad c p _ => c.ok && partOk p
  | .keyRotate c p _ _ => c.ok && partOk p
  | .fabricKeyLoad c p _ => c.ok && partOk p
  | .migKeyLoad c p _ => c.ok && partOk p
  | .imageAllow c p _ => c.ok && partOk p
  | .attest c kind p _ _ => c.ok && (decide (kind ≠ 1) || partOk p)
  | .sessClose c => c.ok
  | .fwStage c _ _ => c.ok
  | .reset c _ _ _ => c.ok
  | .resetComplete => true
  | .resetBoundMiss site => site.ok
  | .fltService c _ => c.ok
  | .fltReturn c => c.ok
  | .memberConfirm c _ _ _ => c.ok
  | .getCerts => true
  | .sessOpen => true
  | .sessFinish => true
  | .sessOpenLapse session => decide (session < 65)
  | .hbOd g e _ => coreOk g && decide (e < 2)
  | .hbMm g e _ => coreOk g && decide (e < 2)
  | .hbMmFirstRow g e _ => coreOk g && decide (e < 2)
  | .hbMmCompletion g e _ => coreOk g && decide (e < 2)
  | .hbEnd g e _ => coreOk g && decide (e < 2)
  | .vld g _ => coreOk g
  | .vst g _ => coreOk g
  | .sld g _ => coreOk g
  | .sst g _ => coreOk g
  | .vldB g _ => coreOk g
  | .vstB g _ => coreOk g
  | .vstBx g _ => coreOk g
  | .vadd g _ _ => coreOk g
  | .vsub g _ _ => coreOk g
  | .vmul g _ _ => coreOk g
  | .vmin g _ _ => coreOk g
  | .vmax g _ _ => coreOk g
  | .vabs g _ _ => coreOk g
  | .vand g _ _ => coreOk g
  | .vor g _ _ => coreOk g
  | .vxor g _ _ => coreOk g
  | .vshl g _ _ => coreOk g
  | .vshr g _ _ => coreOk g
  | .vshrr g _ _ => coreOk g
  | .vsel g _ _ => coreOk g
  | .vcmp g _ _ => coreOk g
  | .vbcast g _ _ => coreOk g
  | .vfma g _ _ => coreOk g
  | .vfscl g _ _ => coreOk g
  | .vcvt g _ _ => coreOk g
  | .vnarrow g _ _ => coreOk g
  | .vperm g _ _ => coreOk g
  | .vnorm g _ _ => coreOk g
  | .vrsum g _ _ => coreOk g
  | .vrmax g _ _ => coreOk g
  | .vrmin g _ _ => coreOk g
  | .vbexp g _ _ => coreOk g
  | .vcmac g _ _ => coreOk g
  | .vcmacf g _ _ => coreOk g
  | .vbfly4 g _ _ => coreOk g
  | .vdemap g _ _ => coreOk g
  | .vfdiv g _ _ => coreOk g
  | .vfsqrt g _ _ => coreOk g
  | .sadd g _ => coreOk g
  | .ssub g _ => coreOk g
  | .smul g _ => coreOk g
  | .sand g _ => coreOk g
  | .sor g _ => coreOk g
  | .sxor g _ => coreOk g
  | .sshl g _ => coreOk g
  | .sshr g _ => coreOk g
  | .sli g _ => coreOk g
  | .amov g _ => coreOk g
  | .mmov g _ => coreOk g
  | .kmov g _ => coreOk g
  | .loop g _ => coreOk g
  | .span g _ => coreOk g
  | .br g _ => coreOk g
  | .brz g _ => coreOk g
  | .brnz g _ => coreOk g
  | .waitc g _ => coreOk g
  | .waitcSatisfied g => coreOk g
  | .sigc g _ => coreOk g
  | .seEnd g _ => coreOk g
  | .seResultLand x => coreOk x.g && x.ev.ok
  | .suSd g _ => coreOk g
  | .suMv g _ => coreOk g
  | .moveStart g => coreOk g
  | .moveComplete g ev => coreOk g && ev.ok
  | .suAt g _ => coreOk g
  | .atOffsetReached g => coreOk g
  | .suEend g _ => coreOk g
  | .suRma g _ => coreOk g
  | .suAmo g _ => coreOk g
  | .suFence g _ => coreOk g
  | .remoteOpComplete g => coreOk g
  | .suEvc g _ => coreOk g
  | .suEvr g _ => coreOk g
  | .evClear _ _ => true
  | .epochTick p => partOk p
  | .epochEnd p => partOk p
  | .codeFetch g e => coreOk g && decide (e < 4)
  | .unitRelease p _ => partOk p
  | .holdLimit p _ => partOk p
  | .unitEnd p _ => partOk p
  | .unitCapExpiry p _ => partOk p
  | .exchangeSend p _ => partOk p
  | .xdataReceive link _ _ => linkOk link
  | .xrelReceive link _ _ => linkOk link
  | .mreqReceive link _ _ => linkOk link
  | .mrspReceive link _ _ => linkOk link
  | .bulkReceive link _ _ => linkOk link
  | .bulkAckReceive link _ _ => linkOk link
  | .mirrorReceive link _ _ => linkOk link
  | .mirrorAckReceive link _ _ => linkOk link
  | .mirrorHorizonReceive link _ _ => linkOk link
  | .handoverRequest link dead => linkOk link && linkOk dead
  | .handoverResponse link dead _ => linkOk link && linkOk dead
  | .staleNoticeReceive link _ => linkOk link
  | .flitRefused link _ _ => linkOk link
  | .flitCrcFail link => linkOk link
  | .nakReceive link _ => linkOk link
  | .ackReceive link _ => linkOk link
  | .linkDown link => linkOk link
  | .linkPhaseEnd e _ _ _ => decide (e < 33)
  | .trainingTimeout e => egressOk e
  | .retrain link _ => linkOk link
  | .requestRetry _ => true
  | .requestLifetimeExpiry _ => true
  | .bulkRetry _ => true
  | .mirrorChunkCopy => true
  | .mirrorAckTimeout => true
  | .mirrorHorizonSend => true
  | .mirrorPartnerLost => true
  | .ethernetFrameReceive port _ => fhOk port
  | .uplaneReceive u => fhOk u.port
  | .delayRequestReceive port _ => fhOk port
  | .rmaResponseReceive port => fhOk port
  | .cplaneSend carrier _ _ => carrierOk carrier
  | .uplaneSend carrier _ _ => carrierOk carrier
  | .dlWindowClose carrier _ _ => carrierOk carrier
  | .lineClose carrier _ _ _ => carrierOk carrier
  | .ulPresenceSet carrier _ => carrierOk carrier
  | .frameBoundary => true
  | .leaseExpiry => true
  | .fhPortDown port => fhOk port
  | .portRetry port => fhOk port
  | .quadModeSet quad _ => decide (quad < 4)
  | .allocDeadline carrier dir _ => carrierOk carrier && decide (dir < 2)
  | .queuePoll die q => dieOk die && decide (q < 16)
  | .dlSch die q _ => dieOk die && decide (q < 16)
  | .ulSch die q _ => dieOk die && decide (q < 16)
  | .polarDci die q _ => dieOk die && decide (q < 16)
  | .polarBch die q _ => dieOk die && decide (q < 16)
  | .polarUci die q _ => dieOk die && decide (q < 16)
  | .smallUci die q _ => dieOk die && decide (q < 16)
  | .signal die q _ => dieOk die && decide (q < 16)
  | .codeBlockDone die kind i => EngineId.ok (.coding die kind i)
  | .codingJobComplete die q _ => dieOk die && decide (q < 16)
  | .signalDeadline die q _ => dieOk die && decide (q < 16)
  | .slotReport carrier _ => carrierOk carrier
  | .patrolRead unit _ => unitOk unit
  | .bankRefresh die stack pc _ => dieOk die && decide (stack < 8) && decide (pc < 64)
  | .migrationStart => true
  | .migrationSwitch => true
  | .frameRelease p => partOk p
  | .walkerPageRewrite p => partOk p
  | .ptpMessageReceive e m => egressOk e && decide (m.dom < 256)
  | .slavePortLost => true
  | .synceSourceLost => true
  | .ptpSyncSend e => egressOk e
  | .transmitStart e => egressOk e
  | .histogramSample => true
  | .histClear _ => true
  | .ppsInEdge => true
  | .ppsOutPulse => true
  | .lendNotice lg => decide (lg < 64)
  | .takePoint lg => decide (lg < 64)
  | .contextSaveComplete g _ => coreOk g
  | .scrubComplete g => coreOk g
  | .contextRestoreComplete g => coreOk g
  | .lendWon lg => decide (lg < 64)
  | .lendWoff lg => decide (lg < 64)
  | .sgDecision sg => decide (sg < 32)
  | .yieldExpiry sg => decide (sg < 32)
  | .fixedSliceBoundary sg => decide (sg < 32)
  | .watchdogExpiry e => e.ok
  | .probationEnd e => e.ok
  | .drainBarrierComplete p => partOk p
  | .fabricLifetimeExpiry _ => true
  | .heartbeat => true
  | .healthUpdate => true
  | .dieLinkReplay die x => dieOk die && decide (x.link < 3) && x.tree.all (fun t => coreOk t.1 && decide (t.2.1 < 2))
  | .dieLinkLaneFail die link dir group lane => dieOk die && decide (link < 3) && decide (dir < 2) && decide (group < if link = 2 then 4 else 8) && decide (lane < 33)
  | .powerOn _ => true
  | .quicksetStageEnd _ => true
  | .i3cPointerWrite _ => true
  | .i3cRead _ => true
  | .pwrOkFall bit => decide (bit < 12)
  | .powerCycle => true
  | .sensorRead _ _ => true
  | .avsRead _ => true
  | .throttleInterval => true
  | .loadComplete p => partOk p
  | .startInterface p => tenantOk p
  | .deviceInterfaceReport p => tenantOk p
  | .detectionWindowStart carrier _ _ => carrierOk carrier
  | .mirrorPaired => true
  | .mirrorPartnerRegained => true
  | .esmcReceive e _ _ => egressOk e
  | .delayReqSend => true
  | .perstDeassert => true
  | .pwrcycReqNRelease => true
  | .pcieLinkChange _ _ _ _ => true

end Sys2Proof
end

