-- ==== Sys2Proof/Safety.lean ====
section
/-! DEFINITION. What a safe run is: a step that answers a next state. -/

namespace Sys2Proof

open Sys2Proof.Machine

/-- Every waiting command is well formed. -/
def Safe.queue (s : State) : Prop := ∀ c ∈ s.pending, c.wf = true

/-- The step answers a next state: it neither faults nor is refused. -/
def Safe.runs (s : State) : Prop := ∃ t, step s = .next t

end Sys2Proof
end

