-- ==== Sys2Proof/Certificates/Slice0/Obligations.lean ====
section
/-! DEFINITION. The statements for the provers. Each says which rows of the table it is about; `s.dev.pins.stopped = false` says that
the package's clocks run (R433, R442). -/

open Sys2Proof Sys2Proof.Machine

/-- The FLT unit after the record of a rejected access: FLT_STATUS.HOST_ACCESS is raised; FLT_HOST_ERR takes the access while VALID is 0. -/
def Stated.recorded (bar2 write mis : Bool) (off : Nat) (d : Dev) : Dev :=
  let d := raiseFlt F.fltStatusHostAccess d
  if d.flag F.fltHostErrValid then d
  else ((((d.setF F.fltHostErrValid 0 1).setF F.fltHostErrBar2 0 (if bar2 then 1 else 0)).setF F.fltHostErrWrite 0
    (if write then 1 else 0)).setF F.fltHostErrMisaligned 0 (if mis then 1 else 0)).setF F.fltHostErrOffset 0 off

/-- The commands of the signal engine's slots on core g, as R94's table has them: the opcode, the slot of the bundle, the slots and the
types that the instruction may have (none: the type field is reserved), the command. -/
def Stated.slotForms (g : Nat) (sl : SeSlot) (w : Slot64) : List (Nat × SeSlot × List SeSlot × List Nat × Instr) :=
  [(0x10, sl, [.v0, .v1], arithTypes, .vadd g sl w), (0x11, sl, [.v0, .v1], arithTypes, .vsub g sl w),
    (0x12, sl, [.v0, .v1], arithTypes, .vmul g sl w), (0x13, sl, [.v0, .v1], arithTypes, .vmin g sl w),
    (0x14, sl, [.v0, .v1], arithTypes, .vmax g sl w), (0x15, sl, [.v0, .v1], arithTypes, .vabs g sl w),
    (0x16, sl, [.v0, .v1], laneTypes, .vand g sl w), (0x17, sl, [.v0, .v1], laneTypes, .vor g sl w),
    (0x18, sl, [.v0, .v1], laneTypes, .vxor g sl w), (0x19, sl, [.v0, .v1], intTypes, .vshl g sl w),
    (0x1A, sl, [.v0, .v1], intTypes, .vshr g sl w), (0x1B, sl, [.v0, .v1], intTypes, .vshrr g sl w),
    (0x1C, sl, [.v0, .v1], laneTypes, .vsel g sl w), (0x1D, sl, [.v0, .v1], arithTypes, .vcmp g sl w),
    (0x1E, sl, [.v0, .v1], laneTypes, .vbcast g sl w), (0x20, sl, [.v0, .v1], floatTypes, .vfma g sl w),
    (0x21, sl, [.v0, .v1], floatTypes, .vfscl g sl w), (0x22, sl, [.v0, .v1], arithTypes, .vcvt g sl w),
    (0x23, sl, [.v0, .v1], [5, 6, 7], .vnarrow g sl w), (0x24, sl, [.v0, .v1], laneTypes, .vperm g sl w),
    (0x25, sl, [.v0, .v1], [5, 7, 9], .vnorm g sl w), (0x30, sl, [.v1], [8, 9], .vrsum g sl w), (0x31, sl, [.v1], [8, 9], .vrmax g sl w),
    (0x32, sl, [.v1], [8, 9], .vrmin g sl w), (0x33, sl, [.v1], [5, 7, 8, 9], .vbexp g sl w), (0x34, sl, [.v1], [5], .vcmac g sl w),
    (0x35, sl, [.v1], [10], .vcmacf g sl w), (0x36, sl, [.v1], [5], .vbfly4 g sl w), (0x37, sl, [.v1], [5], .vdemap g sl w),
    (0x38, sl, [.v1], [8], .vfdiv g sl w), (0x39, sl, [.v1], [8], .vfsqrt g sl w), (0x01, .m, [.m], laneTypes, .vld g w),
    (0x02, .m, [.m], laneTypes, .vst g w), (0x03, .m, [.m], [8, 9], .sld g w), (0x04, .m, [.m], [8, 9], .sst g w),
    (0x05, .m, [.m], blockTypes, .vldB g w), (0x06, .m, [.m], blockTypes, .vstB g w), (0x07, .m, [.m], blockTypes, .vstBx g w),
    (0x50, .s, [.s], [], .sadd g w), (0x51, .s, [.s], [], .ssub g w), (0x52, .s, [.s], [], .smul g w), (0x53, .s, [.s], [], .sand g w),
    (0x54, .s, [.s], [], .sor g w), (0x55, .s, [.s], [], .sxor g w), (0x56, .s, [.s], [], .sshl g w), (0x57, .s, [.s], [], .sshr g w),
    (0x58, .s, [.s], [], .sli g w), (0x59, .s, [.s], [], .amov g w), (0x5A, .s, [.s], [], .mmov g w), (0x5B, .s, [.s], [], .kmov g w),
    (0x60, .s, [.s], [], .loop g w), (0x61, .s, [.s], [], .span g w), (0x62, .s, [.s], [], .br g w), (0x63, .s, [.s], [], .brz g w),
    (0x64, .s, [.s], [], .brnz g w), (0x65, .s, [.s], [], .waitc g w), (0x66, .s, [.s], [], .sigc g w), (0x67, .s, [.s], [], .seEnd g w)]

/-- The commands alone. -/
def Stated.slotRows (g : Nat) (sl : SeSlot) (w : Slot64) : List Instr :=
  (Stated.slotForms g sl w).map (·.2.2.2.2)

/-- The commands of a Hornbeam engine of core g. -/
def Stated.matrixRows (g e n : Nat) (ev : MmEvent) (x : Word256) : List Instr :=
  [.hbOd g e x, .hbMm g e x, .hbMmFirstRow g e n, .hbMmCompletion g e ⟨n, ev⟩, .hbEnd g e x]

/-- R21, R381: a write of a register without a rule of its own, while the setup lock is off: each field by its access code, RW and RWL take
the written value, W1C clears the bits written 1 that hardware has not set in this a-cycle, W1S sets them, RO and RO/V keep theirs; and
a write of a status register sets its SETCNT to the number of events that count in this a-cycle. -/
def Obligations.RegisterWriteFollowsAccessCodes : Prop :=
  ∀ (s : State) (off width : Nat) (v : BitVec 64) (r : RegName) (i : Nat),
    s.dev.pins.stopped = false → off < 0x4000000 → s.dev.barOpen off = 2 → barTarget off width = .inl (.reg r i) →
    r ∉ [.ringSq, .ringCq, .ringDb, .ringAux, .ringCtl, .semPart, .fhQuadCfg, .qsTlPlan, .tbHistCtl, .lgMboxCtl, .setupLock] →
    s.dev.flag F.setupLockLock = false →
    exec (.registerWrite off width v) s = .next { s with
     dev :=
      let d := r.spec.fields.foldl (fun d f =>
        match f.acc with
        | .ro => d
        | .rov => d
        | .rw => d.setF f i (bitsOf v.toNat f.hi f.lo)
        | .rwl => d.setF f i (bitsOf v.toNat f.hi f.lo)
        | .w1c =>
          if d.raised.any (fun e => decide (e.1 = (f.reg.off i, f.lo))) then d
          else
            let d := if bitsOf v.toNat f.hi f.lo = 0 then d else { d with dropped := (f.reg.off i, f.lo) :: d.dropped }
            d.setF f i (d.getF f i - (d.getF f i &&& bitsOf v.toNat f.hi f.lo))
        | .w1s => d.setF f i (d.getF f i ||| bitsOf v.toNat f.hi f.lo)) s.dev
      match setcntOf r with
      | some c => d.setF c i (min 255 (d.raised.filter (fun e => decide (e.1.1 = r.off i) && (e.2 || v.getLsbD e.1.2))).length)
      | none => d }

/-- R19, R322, R380: a host access of BAR0 or BAR2 that R19 or R322 rejects completes: it sets FLT_STATUS.HOST_ACCESS, counts in SETCNT
where the bit was already set, and raises the vector of FLT_VEC where IEN is 1; while FLT_HOST_ERR.VALID is 0 its offset and kind are
recorded there, with VALID at 1 the first record stays; a rejected read returns zero; nothing else changes. An access that no rule
rejects changes nothing here, nor does any access before BAR0 exists (R406). -/
def Obligations.RejectedAccessIsRecorded : Prop :=
  (∀ (s : State) (write : Bool) (off width : Nat) (mis : Bool),
    s.dev.pins.stopped = false → off < 0x4000000 → s.dev.barOpen off = 2 → barTarget off width = .inr mis →
    exec (.hostAccessError false write off width) s = .next { s with
     dev := if write then Stated.recorded false true mis off s.dev else emit (.read off 0) (Stated.recorded false false mis off s.dev) }) ∧
  (∀ (s : State) (write : Bool) (off width : Nat),
    s.dev.pins.stopped = false → off < 0x4000000 → s.dev.barOpen off = 1 →
    exec (.hostAccessError false write off width) s = .next { s with
     dev := if write then Stated.recorded false true false off s.dev
      else emit (.read off 0) (Stated.recorded false false false off s.dev) }) ∧
  (∀ (s : State) (write : Bool) (off width : Nat),
    s.dev.pins.stopped = false → off < 0x4000000 → (write = false ∨ width ≠ 4 ∨ off % 4096 ≠ 0) →
    exec (.hostAccessError true write off width) s = .next { s with
     dev := if write then Stated.recorded true true (off % 4096 = 0) off s.dev
      else emit (.read off 0) (Stated.recorded true false (off % 4096 = 0) off s.dev) }) ∧
  (∀ (s : State) (write : Bool) (off width : Nat) (t : BarTarget), s.dev.pins.stopped = false →
    s.dev.barOpen off = 0 ∨ (s.dev.barOpen off = 2 ∧ barTarget off width = .inl t) →
    exec (.hostAccessError false write off width) s = .next s) ∧
  (∀ (s : State) (off : Nat), s.dev.pins.stopped = false → off % 4096 = 0 → exec (.hostAccessError true true off 4) s = .next s) ∧
  (∀ d : Dev, raiseFlt F.fltStatusHostAccess d =
    (let again : Bool := d.flag F.fltStatusHostAccess || d.dropped.contains (F.fltStatusHostAccess.reg.off 0, F.fltStatusHostAccess.lo)
     let d := { d with raised := ((F.fltStatusHostAccess.reg.off 0, F.fltStatusHostAccess.lo), again) :: d.raised }
     let d := if d.flag F.fltStatusHostAccess then d else d.setF F.fltStatusHostAccess 0 1
     let d := if again then d.addSat F.fltStatusSetcnt 0 1 else d
     if d.flag F.fltVecIen then raiseVector (d.getF F.fltVecVector) d else d))

/-- R21: with LOCK set, a write of a register that has RWL fields counts once in LOCKED_WRITES and leaves those fields; the other fields of
the register follow their codes. Rows of single registers complete: a write of PKG_SETUP_LOCK sets LOCK where bit 0 is 1 and never
clears it (R21); a read of DL_STATUS or of TL_LINK_STATUS returns the register and clears its REPLAYS (R127, R381); EV_CTL.CLEAR of any
event bank that BAR0 reaches zeroes its counters, samples and OVF and sets its control bits, unless an SU.EVC of the same a-cycle
prevails (R427); TB_HIST_CTL.CLEAR zeroes every bin, and without CLEAR the bins stay (R254). -/
def Obligations.SingleRegisterRowsAct : Prop :=
  (∀ (s : State) (off width : Nat) (v : BitVec 64) (r : RegName) (i : Nat),
    s.dev.pins.stopped = false → off < 0x4000000 → s.dev.barOpen off = 2 → barTarget off width = .inl (.reg r i) →
    r ∉ [.ringSq, .ringCq, .ringDb, .ringAux, .ringCtl, .semPart, .fhQuadCfg, .qsTlPlan, .tbHistCtl, .lgMboxCtl, .setupLock] →
    s.dev.flag F.setupLockLock = true → r.spec.fields.any (fun f => decide (f.acc = .rwl)) = true → setcntOf r = none →
    exec (.registerWrite off width v) s = .next { s with
     dev := (r.spec.fields.filter (fun f => decide (f.acc ≠ .rwl))).foldl (writeField true i v.toNat)
      (s.dev.addSat F.setupLockLockedWrites 0 1) }) ∧
  ((∀ (s : State) (v : BitVec 32), s.dev.pins.stopped = false →
    exec (.setupLock v) s = .next { s with dev := if v.getLsbD 0 then s.dev.setF F.setupLockLock 0 1 else s.dev }) ∧
  (∀ (s : State) (off i : Nat), s.dev.pins.stopped = false → off < 0x4000000 → s.dev.barOpen off = 2 →
    findReg off = some (.dlStatus, i) →
    exec (.replaysReadClear off) s =
      .next { s with dev := (emit (.read off (s.dev.view false .dlStatus i)) s.dev).setF F.dlStatusReplays i 0 }) ∧
  (∀ (s : State) (off i : Nat), s.dev.pins.stopped = false → off < 0x4000000 → s.dev.barOpen off = 2 →
    findReg off = some (.tlLinkStatus, i) →
    exec (.replaysReadClear off) s =
      .next { s with dev := (emit (.read off (s.dev.view false .tlLinkStatus i)) s.dev).setF F.tlLinkStatusReplays i 0 }) ∧
  (∀ (s : State) (off k : Nat) (v : BitVec 32) (b : EvBank), s.dev.pins.stopped = false → s.dev.barOpen off = 2 →
    bankAt off = some (k, 0) → s.dev.barBank k = some b → b.evcAt ≠ some s.dev.acyc → v.toNat.testBit 3 = true →
    ∃ x : EvBank, exec (.evClear off v) s = .next { s with dev := putBank k x s.dev } ∧
      x.cnt = [] ∧ x.samp = [] ∧ x.ovf = 0 ∧ x.freeze = v.toNat.testBit 0 ∧ x.frzOvf = v.toNat.testBit 1 ∧ x.sample = v.toNat.testBit 2 ∧ x.sel = b.sel ∧
      x.sampEpoch = b.sampEpoch) ∧
  (∀ (s : State) (v : BitVec 32), s.dev.pins.stopped = false → v.getLsbD 1 = true →
    ∃ t, exec (.histClear v) s = .next t ∧ t.dev.regs = (s.dev.setF F.tbHistCtlFreeze 0 (bitsOf v.toNat 0 0)).regs ∧
      t.pending = s.pending ∧ (∀ e, (t.dev.port e).hist = []) ∧
      ((s.dev.ports.map (·.1)).Nodup → ∀ e, t.dev.port e = { s.dev.port e with hist := [] })) ∧
  (∀ (s : State) (v : BitVec 32), s.dev.pins.stopped = false → v.getLsbD 1 = false →
    exec (.histClear v) s = .next { s with dev := s.dev.setF F.tbHistCtlFreeze 0 (bitsOf v.toNat 0 0) }))

/-- R327, R328: RING_ENABLE on a disabled ring whose checks pass makes it ACTIVE with every device-side index at 0; RING_DISABLE of an
enabled ring without a waiting record discards what was fetched and drains, DISABLED at once with no started command; and the last
command of a DRAINING ring lets it become DISABLED. -/
def Obligations.RingsEnableAndDrain : Prop :=
  (∀ (s : State) (r : Nat) (ctl : BitVec 64),
    s.dev.pins.stopped = false → r < 16384 → s.dev.flag F.qsStateReady = true →
    (s.dev.getF F.ringCtlKind r < 2 → s.dev.tdiLocked (s.dev.getF F.ringCtlPart r) = false) → s.dev.ringSt r ≠ 4 →
    s.dev.flag F.ringCtlEnable r = false → enableErr (ringCtlFields r (ctl ||| 1) s.dev) r = 0 →
    exec (.ringEnable r ctl) s = .next { s with
     dev :=
      let d := (ringCtlFields r (ctl ||| 1) s.dev).setF F.ringStateErr r 0
      ((d.setRing r { skew := (d.ring r).skew, polled := d.nt }).setF F.ringCtlEnable r 1).setF F.ringStateState r 2 }) ∧
  (∀ (s : State) (r : Nat) (ctl : BitVec 64),
    s.dev.pins.stopped = false → r < 16384 →
    (s.dev.getF F.ringCtlKind r < 2 → s.dev.tdiLocked (s.dev.getF F.ringCtlPart r) = false) → s.dev.ringSt r ≠ 4 →
    s.dev.flag F.ringCtlEnable r = true → (s.dev.ring r).waiting = [] →
    exec (.ringDisable r ctl) s = .next { s with
     dev :=
      let d := (ringCtlFields r (ctl &&& ~~~ 1) s.dev).setF F.ringCtlEnable r 0
      let d := d.setRing r { s.dev.ring r with subs := [], waiting := [], reports := [] }
      d.setF F.ringStateState r (if (d.ring r).started = [] then 0 else 4) }) ∧
  (∀ (s : State) (r : Nat), s.dev.pins.stopped = false → r < 16384 → s.dev.ringSt r = 4 → (s.dev.ring r).started = [] →
    exec (.ringDrainComplete r) s = .next { s with dev := s.dev.setF F.ringStateState r 0 })

/-- R330 to R332: a kick with the right EPOCH wakes an IDLE ring, whose record shows IDLE = 0 and is read; a due poll reads an ACTIVE
command ring's record; the idle handshake ends in IDLE when PROD has not changed; a report ring's record is read and its queued reports
written. R335, R344, R350: the oldest fetched submission of a command ring that passes the checks, without SWAIT and ORDER, starts;
raises merged in the moderation interval become one at its end. -/
def Obligations.SubmissionsAreFetchedAndAccepted : Prop :=
  ((∀ (s : State) (r : Nat) (v : BitVec 32), s.dev.pins.stopped = false → r < 16384 → s.dev.ringSt r = 1 →
    v.toNat = s.dev.getF F.ringAuxEpoch r →
    exec (.kick r v) s = .next { s with
     dev := pollRing r (hostWrite (s.dev.dbAddr r + 0x20) [0, 0, 0, 0]
      ((s.dev.setF F.ringStateState r 2).modRing r (fun x => { x with idlePolls := 0 }))) }) ∧
  (∀ (s : State) (r : Nat), s.dev.pins.stopped = false → r < 16384 → s.dev.ringSt r = 2 → s.dev.isCmdRing r = true →
    reached s.dev (later (s.dev.ring r).polled (s.dev.eff F.ringCtlPoll 1 1000 r * 800)) = true →
    exec (.doorbellPoll r) s = .next { s with dev := pollRing r s.dev }) ∧
  (∀ (s : State) (r : Nat), s.dev.pins.stopped = false → r < 16384 → s.dev.ringSt r = 2 → s.dev.isCmdRing r = true →
    (if s.dev.getF F.hiDbCfgIdlePolls = 0 then 64 else s.dev.getF F.hiDbCfgIdlePolls) ≤ (s.dev.ring r).idlePolls →
    (s.dev.ring r).waiting = [] →
    (readDoorbell r (hostWrite (s.dev.dbAddr r + 0x20) [1, 0, 0, 0] s.dev)).ringSt r = 2 →
    ((readDoorbell r (hostWrite (s.dev.dbAddr r + 0x20) [1, 0, 0, 0] s.dev)).ring r).prod = (s.dev.ring r).prod →
    exec (.idleHandshake r) s = .next { s with
     dev := (readDoorbell r (hostWrite (s.dev.dbAddr r + 0x20) [1, 0, 0, 0] s.dev)).setF F.ringStateState r 1 }) ∧
  (∀ (s : State) (r : Nat), s.dev.pins.stopped = false → r < 16384 → s.dev.ringSt r = 2 → s.dev.isCmdRing r = false →
    (readDoorbell r s.dev).ringSt r = 2 →
    exec (.reportDoorbellRead r) s = .next { s with dev := flushReports r (readDoorbell r s.dev) })) ∧
  ((∀ (s : State) (r : Nat) (b : Bytes) (l : List Bytes) (i : Instr), s.dev.pins.stopped = false → r < 16384 →
    s.dev.ringSt r = 2 → s.dev.getF F.ringCtlKind r = 0 → (s.dev.ring r).subs = b :: l → checkC s.dev r b = .inr i →
    bit b 0 18 = false → bit b 0 17 = false →
    exec (.commandAccept r) s = .next { s with
     dev := (s.dev.modRing r (fun x => { x with subs := x.subs.tail })).modRing r
      (fun x => { x with started := x.started ++ [⟨subSrc r b, i⟩] }) }) ∧
  (∀ (s : State) (r : Nat) (b : Bytes) (l : List Bytes) (st : Nat), s.dev.pins.stopped = false → r < 16384 →
    s.dev.ringSt r = 2 → s.dev.getF F.ringCtlKind r = 0 → (s.dev.ring r).subs = b :: l → checkC s.dev r b = .inl st →
    exec (.commandAccept r) s = .next { s with
     dev := finish { subSrc r b with ssig := none } st 0 0 (s.dev.modRing r (fun x => { x with subs := x.subs.tail })) }) ∧
  (∀ (s : State) (r : Nat), s.dev.pins.stopped = false → r < 16384 → (s.dev.ring r).imodUntil ≤ s.dev.acyc →
    (s.dev.ring r).merged = true →
    exec (.interruptModerationEnd r) s = .next { s with
     dev := raiseVector (s.dev.getF F.ringCtlVector r) (s.dev.modRing r (fun x =>
      { x with merged := false, imodUntil := s.dev.acyc + s.dev.getF F.ringCtlImod r * 3000 })) }))

/-- R323, R324, R385: an access that the host does not complete sets HOST_FAULT; one to a ring's areas puts the ring into ERROR with cause
8, one to a command's data buffer completes the command with BUF_RANGE, one to a far page gives up the oldest move of the core that
waits for it with DATA_LOST; a stream that fails its integrity check is no longer secure, sets IDE_FAIL, and puts the rings that use it
into ERROR with cause 10; a function reset empties the host interface, whose registers take their reset values, and leaves every
engine, memory and schedule. R324, R325, R361, R368: KEY_PROG with the key that an operator session derived makes the link stream
secure, with the key that a session of tenant p's agent derived the stream of p; with any other key it fails. The interface of a tenant
goes from CONFIG_UNLOCKED to CONFIG_LOCKED to RUN, and back with its rings disabled; a message in any other state fails; its report
answers over DOE. -/
def Obligations.HostInterfaceActs : Prop :=
  ((∀ (s : State) (r : Nat), s.dev.pins.stopped = false → r < 16384 →
    exec (.hostAccessTimeout (.ringArea r)) s = .next { s with dev := ringError r 8 (s.dev.raise F.hiStatusHostFault) }) ∧
  (∀ (s : State) (c : Src), s.dev.pins.stopped = false → c.ring < 16384 →
    exec (.hostAccessTimeout (.buffer c)) s = .next { s with dev := done c 6 (s.dev.raise F.hiStatusHostFault) }) ∧
  (∀ (s : State) (p g : Nat), s.dev.pins.stopped = false → p < 32 → g < 80 →
    let d := (s.dev.raise F.hiStatusHostFault).raise F.suStatusDataLost g
    ((d.core g).moves = [] → exec (.hostAccessTimeout (.farPage p g)) s = .next { s with dev := noteListFail p g 2 0 d }) ∧
    (∀ (m : Move) (l : List Move), (d.core g).moves = m :: l →
      exec (.hostAccessTimeout (.farPage p g)) s = .next { s with
       dev :=
        let d := mvFree g p m (d.modCore g (fun c => { c with moves := l }))
        noteListFail p g 2 0 (if (mvOp m.w).sen then ccInc g (mvOp m.w).sctr d else d) })) ∧
  (∀ (s : State) (stream : Nat), s.dev.pins.stopped = false → 1 ≤ stream → stream < 32 →
    exec (.ideIntegrityFail stream) s = .next { s with
     dev :=
      let d := ({ s.dev with ide := tabSet false s.dev.ide stream false } : Dev).raise F.hiStatusIdeFail
      (d.ringsSet.filter (fun r => decide (d.getF F.ringCtlKind r < 2 ∧ d.getF F.ringCtlPart r = stream))).foldl
        (fun d r => ringError r 10 d) d }) ∧
  (∀ s : State, s.dev.pins.stopped = false →
    exec (.ideIntegrityFail 0) s = .next { s with
     dev :=
      let d := (({ s.dev with ide := tabSet false s.dev.ide 0 false } : Dev).raise F.hiStatusIdeFail).setF F.hiLinkIde 0 0
      (d.ringsSet.filter (fun r => decide (¬ d.getF F.ringCtlKind r < 2 ∨ d.getF F.ringCtlPart r = 0 ∨
        tabGet false d.ide (d.getF F.ringCtlPart r) = false))).foldl (fun d r => ringError r 10 d) d }) ∧
  (∀ s : State, s.dev.pins.stopped = false →
    ∃ t, exec .functionReset s = .next t ∧ t.dev = { s.dev with
      regs := t.dev.regs, rings := [], msixTab := [], pba := [], ide := s.dev.ide.filter (fun e => e.1 = 0) } ∧
      t.pending = s.pending ∧ t.dev.rd .hiStatus = 0 ∧
      ∀ r i, findReg (r.off i) = some (r, i) →
        t.dev.rd r i = if r.spec.dom = .function then r.resetVal i else s.dev.rd r i)) ∧
  ((∀ (s : State) (i kset dir : Nat) (key : BitVec 256), s.dev.pins.stopped = false → 1 ≤ i → i < 65 →
    s.dev.flag F.lgSessValid i = true → (s.dev.sess i).role = 1 → s.dev.ideKey i kset dir = key →
    exec (.keyProg 0 kset dir key) s = .next { s with
     dev := emit (.doe true []) (({ s.dev with ide := tabSet false s.dev.ide 0 true } : Dev).setF F.hiLinkIde 0 1) }) ∧
  (∀ (s : State) (p i kset dir : Nat) (key : BitVec 256), s.dev.pins.stopped = false → 1 ≤ i → i < 65 → 1 ≤ p → p < 32 →
    s.dev.flag F.lgSessValid i = true → (s.dev.sess i).role = 3 → (s.dev.sess i).part = p → s.dev.ideKey i kset dir = key →
    exec (.keyProg p kset dir key) s = .next { s with
     dev := emit (.doe true []) { s.dev with ide := tabSet false s.dev.ide p true } }) ∧
  (∀ (s : State) (p kset dir : Nat) (key : BitVec 256), s.dev.pins.stopped = false → p < 32 →
    (∀ i, 1 ≤ i → i < 65 → s.dev.ideKey i kset dir ≠ key) →
    exec (.keyProg p kset dir key) s = .next { s with dev := emit (.doe false []) s.dev }) ∧
  (∀ (s : State) (p : Nat), s.dev.pins.stopped = false → 1 ≤ p → p < 32 →
    exec (.lockInterface p) s = .next { s with
     dev := if s.dev.getF F.hiTdiState p = 0 then emit (.doe true []) (s.dev.setF F.hiTdiState p 1) else emit (.doe false []) s.dev }) ∧
  (∀ (s : State) (p : Nat), s.dev.pins.stopped = false → 1 ≤ p → p < 32 →
    exec (.startInterface p) s = .next { s with
     dev := if s.dev.getF F.hiTdiState p = 1 then emit (.doe true []) (s.dev.setF F.hiTdiState p 2) else emit (.doe false []) s.dev }) ∧
  (∀ (s : State) (p : Nat), s.dev.pins.stopped = false → 1 ≤ p → p < 32 →
    exec (.stopInterface p) s = .next { s with
     dev := emit (.doe true []) ((s.dev.ringsOf p).foldl (fun d r => ringDisableAt r d) (s.dev.setF F.hiTdiState p 0)) }) ∧
  (∀ (s : State) (p : Nat), s.dev.pins.stopped = false → 1 ≤ p → p < 32 →
    exec (.deviceInterfaceReport p) s = .next { s with
     dev := emit (.doe true (((reportPart p s.dev).2.ringsOf p).flatMap
      (fun r => leBytes 8 (r * 0x1000)) ++ sha384 (reportPart p s.dev).1)) (reportPart p s.dev).2 }))

/-- R325, R345, R347 to R349: SEM_PART assigns a semaphore without an owner, or whose owner exists no more, at value 0 and without
notification; an owner's semaphore stays and the write is noted; NOP completes; SEM_ADD adds to a semaphore of the ring's partition,
SEM_READ returns its value, SEM_NOTIFY arms its notification or, where the condition already holds, raises the vector; each then
completes with OK. R348: an add to a semaphore without a notification gives min(value + a, 2^64 - 1), sets SEM_SAT where it saturates,
and changes nothing else. -/
def Obligations.SemaphoresAct : Prop :=
  ((∀ (s : State) (i : Nat) (v : BitVec 32), s.dev.pins.stopped = false → i < 8192 →
    s.dev.flag F.semPartValid i = false ∨
      (s.dev.tdiLocked (s.dev.getF F.semPartPart i) = false ∧ s.dev.pstate (s.dev.getF F.semPartPart i) = 0) →
    exec (.semPartWrite i v) s = .next { s with
     dev := ((s.dev.setF F.semPartValid i (bitsOf v.toNat 5 5)).setF F.semPartPart i (bitsOf v.toNat 4 0)).setSem i
      { value := 0, armed := none } }) ∧
  (∀ (s : State) (i : Nat) (v : BitVec 32), s.dev.pins.stopped = false → i < 8192 → s.dev.flag F.semPartValid i = true →
    s.dev.tdiLocked (s.dev.getF F.semPartPart i) = false → s.dev.pstate (s.dev.getF F.semPartPart i) ≠ 0 →
    exec (.semPartWrite i v) s = .next { s with dev := s.dev.raise F.hiStatusSemWrite }) ∧
  (∀ (s : State) (c : Src), s.dev.pins.stopped = false → c.ring < 16384 →
    exec (.nop c) s = .next { s with dev := done c 0 s.dev }) ∧
  (∀ (s : State) (c : Src) (i : Nat) (v : BitVec 64), s.dev.pins.stopped = false → c.ring < 16384 →
    s.dev.semOf i (s.dev.cpart c) = true →
    exec (.semAdd c i v) s = .next { s with dev := done c 0 (semAddTo i v s.dev) }) ∧
  (∀ (s : State) (c : Src) (i : Nat), s.dev.pins.stopped = false → c.ring < 16384 → s.dev.semOf i (s.dev.cpart c) = true →
    exec (.semRead c i) s = .next { s with dev := complete c 0 (s.dev.sem i).value 0 s.dev }) ∧
  (∀ (s : State) (c : Src) (i vec : Nat) (w : BitVec 64), s.dev.pins.stopped = false → c.ring < 16384 →
    s.dev.semOf i (s.dev.cpart c) = true →
    exec (.semNotify c i vec w) s = .next { s with
     dev := done c 0 (if w ≤ (s.dev.sem i).value then raiseVector vec (s.dev.setSem i { s.dev.sem i with armed := none })
      else s.dev.setSem i { s.dev.sem i with armed := some (w, vec) }) })) ∧
  (∀ (d : Dev) (i : Nat) (a : BitVec 64), (d.sem i).armed = none →
    semAddTo i a d =
      (if 2 ^ 64 ≤ (d.sem i).value.toNat + a.toNat then
        (d.raise F.hiStatusSemSat).setSem i { value := BitVec.ofNat 64 (2 ^ 64 - 1), armed := none }
      else d.setSem i { value := (d.sem i).value + a, armed := none }))

/-- R131, R135: LOAD on a schedule that can take an image holds the image or the status its checks give, and an EMPTY schedule becomes
LOADING; LOAD_COMPLETE binds an image as the active one of a LOADED schedule or as the standby of one that has an active image, or
completes with the failed check's status and the state before; UNLOAD of the standby removes it, UNLOAD of the active image makes the
standby the active one, LOADED, or the schedule EMPTY. R135, R153 to R155: JOB_BIND of a schedule that is neither RUNNING nor HELD
binds job, JGEN and route table, and on one that is RUNNING or HELD keeps the table for the next tick; ARM with a good grid is ARMED
with clean presence bits and credits and zero counts, and completes with OK; STOP of a schedule that runs makes it STOPPING up to e_x
and completes when it has STOPPED or is DONE; SWAP of matching images waits for the tick of e_w; ABORT of an ARMED schedule makes it
LOADED again, and of one that runs FAULTED, its work and its sends cut. -/
def Obligations.ImagesAndSchedulesAct : Prop :=
  ((∀ (s : State) (c : Src) (a n : Nat), s.dev.pins.stopped = false →
    let p := s.dev.cpart c
    s.dev.schedOpen p = true → (s.dev.sched p).standby = none → (s.dev.sched p).loading = none →
    exec (.load c a n) s = .next { s with
     dev :=
      let d := if n < 256 ∨ 0x10000000 < n ∨ (s.dev.vMissing p a n).isSome = true then s.dev else vNote p a n s.dev
      let d := d.modSched p (fun x => { x with loading := some (match loadImage s.dev p a n with
        | .inl st => (c, s.dev.esState p, st, none)
        | .inr im => (c, s.dev.esState p, 0, some im)) })
      if d.esState p = 0 then d.setF F.esStateState p 1 else d }) ∧
  (∀ (s : State) (p : Nat) (c : Src) (prev st : Nat) (im : Image), s.dev.pins.stopped = false → p < 32 →
    (s.dev.sched p).loading = some (c, prev, st, some im) → (s.dev.sched p).active = none →
    exec (.loadComplete p) s = .next { s with
     dev := done c 0 (esView p (setEs p 2 ((s.dev.modSched p (fun x => { x with loading := none })).modSched p
      (fun x => { x with active := some im })))) }) ∧
  (∀ (s : State) (p : Nat) (c : Src) (prev st : Nat) (im : Image), s.dev.pins.stopped = false → p < 32 →
    (s.dev.sched p).loading = some (c, prev, st, some im) → (s.dev.sched p).active.isSome = true →
    exec (.loadComplete p) s = .next { s with
     dev := done c 0 (esView p ((s.dev.modSched p (fun x => { x with loading := none })).modSched p
      (fun x => { x with standby := some im }))) }) ∧
  (∀ (s : State) (p : Nat) (c : Src) (prev st : Nat), s.dev.pins.stopped = false → p < 32 →
    (s.dev.sched p).loading = some (c, prev, st, none) →
    exec (.loadComplete p) s = .next { s with
     dev :=
      let d := s.dev.modSched p (fun x => { x with loading := none })
      done c st ((if s.dev.esState p = 1 then setEs p prev d else d).raise F.esStatusLoadFail p) }) ∧
  (∀ (s : State) (c : Src), s.dev.pins.stopped = false →
    let p := s.dev.cpart c
    s.dev.schedOpen p = true → s.dev.running p = false → (s.dev.sched p).standby.isSome = true →
    exec (.unload c 1) s = .next { s with
     dev := done c 0 (esView p (s.dev.modSched p (fun x => { x with standby := none }))) }) ∧
  (∀ (s : State) (c : Src), s.dev.pins.stopped = false →
    let p := s.dev.cpart c
    s.dev.schedOpen p = true → s.dev.running p = false → (s.dev.sched p).active.isSome = true →
    exec (.unload c 0) s = .next { s with
     dev := done c 0 (esView p (setEs p (if (s.dev.sched p).standby.isSome then 2 else 0)
      (s.dev.modSched p (fun x => { x with active := x.standby, standby := none })))) })) ∧
  ((∀ (s : State) (c : Src) (p job jgen : Nat) (r : List Byte), s.dev.pins.stopped = false → p < 32 → s.dev.schedOpen p = true →
    (match (s.dev.sched p).active with
      | some im => r.length = 16 * (im.rolesM1 + 1)
      | none => r.length % 16 = 0 ∧ 0 < r.length ∧ r.length ≤ 8192) → (routeTable r).all routeOk = true →
    exec (.jobBind c p job jgen r) s = .next { s with
     dev := done c 0 (if s.dev.esState p = 4 ∨ s.dev.esState p = 5 then
        s.dev.modSched p (fun x => { x with routeNext := some ((routeTable r).map routeOf) })
      else (s.dev.modSched p (fun x => { x with
        jobId := job, jgen := jgen, route := (routeTable r).map routeOf, oldCodes := staleCodes x.oldCodes x.route ((routeTable r).map routeOf),
        routeNext := none, bound := true })).setF F.esStateJgen p (jgen % 65536)) }) ∧
  (∀ (s : State) (c : Src) (t0 : BitVec 64) (eS hold : Nat), s.dev.pins.stopped = false →
    let p := s.dev.cpart c
    armStatus s.dev p t0 eS hold = 0 →
    exec (.arm c t0 eS hold) s = .next { s with
     dev := done c 0 (setEs p 3 (((s.dev.modSched p (fun x => { x with
      t0 := t0, eS := eS, hold := (if hold = 0 then 100 else hold) * 300000, stopAt := none, tick := 0, endAt := none,
      units := [], sends := [], presence := [], spent := [], acc := 0, merged := [], fail := none, heldUnits := 0,
      lateUnits := 0, slot := 0, peer := 0, causes := 0, wrote := [] })).setF F.esSlipsSlips p 0).setF F.esLagLag p 0)) }) ∧
  (∀ (s : State) (c : Src) (t0 : BitVec 64) (eS hold : Nat), s.dev.pins.stopped = false →
    let p := s.dev.cpart c
    armStatus s.dev p t0 eS hold ≠ 0 →
    exec (.arm c t0 eS hold) s = .next { s with
     dev := done c (armStatus s.dev p t0 eS hold) (s.dev.raise F.esStatusLoadFail p) }) ∧
  (∀ (s : State) (c : Src) (eX : Nat), s.dev.pins.stopped = false →
    let p := s.dev.cpart c
    s.dev.running p = true →
    exec (.stop c eX) s = .next { s with
     dev :=
      let d := s.dev.modSched p (fun x => { x with stopAt := some (max eX (s.dev.currentEpoch p)) })
      (if s.dev.esState p = 6 then d else setEs p 6 d).modSched p (fun x => { x with stopBy := x.stopBy ++ [c] }) }) ∧
  (∀ (d : Dev) (p st : Nat), st = 7 ∨ st = 8 →
    stopEnded p st d = (d.sched p).stopBy.foldl (fun d c => done c 0 d) (d.modSched p (fun x => { x with stopBy := [] }))) ∧
  (∀ (s : State) (c : Src) (eW : Nat) (a b : Image), s.dev.pins.stopped = false →
    let p := s.dev.cpart c
    (s.dev.sched p).active = some a → (s.dev.sched p).standby = some b → s.dev.running p = true →
    (s.dev.sched p).swap = none → a.jobDigest = b.jobDigest → a.epochLen = b.epochLen → a.slack = b.slack → a.role = b.role →
    a.slots = b.slots →
    exec (.swap c eW) s = .next { s with dev := s.dev.modSched p (fun x => { x with swap := some (eW, c) }) }) ∧
  (∀ (s : State) (c : Src), s.dev.pins.stopped = false →
    let p := s.dev.cpart c
    s.dev.esState p = 3 →
    exec (.abort c) s = .next { s with
     dev := done c 0 (setEs p 2 (s.dev.modSched p (fun x => { x with presence := [], spent := [] }))) }) ∧
  (∀ (s : State) (c : Src), s.dev.pins.stopped = false →
    let p := s.dev.cpart c
    s.dev.running p = true →
    exec (.abort c) s = .next { s with
     dev := done c 0 (setEs p 9 ((cutSends p (cutRun p s.dev)).modSched p
      (fun x => { x with units := [], sends := [], presence := [], spent := [], stopAt := none }))) }))

/-- R137, R149: an ARMED schedule ticks its first epoch 12 a-cycles after network time reaches N_(e_s); a running one ticks the next epoch
at its nominal tick, 4 a-cycles after the last epoch's end at the earliest; an epoch in which all of R149 has happened ends. R133, R139
to R142, R150, R307: a fetch that has ended is in the code buffer; a due unit whose cores allow it issues on them, a late one with its
causes and its slot noted; a unit past the hold limit puts a RUNNING schedule into HELD with one report and one that is HELD into no
other state; a unit whose streams have ended ends; a unit not ended 24,000 a-cycles after its issue is aborted with OVERRUN in the next
one. R144, R146: an entry whose offset, dependency and credit hold while a window of its class is open on a link of its route hands its
data to the links, spends its credit, and is marked sent; without its credit it waits and notes the cause. -/
def Obligations.EpochsUnitsAndExchangeRun : Prop :=
  ((∀ (s : State) (p : Nat), s.dev.pins.stopped = false → p < 32 → s.dev.esState p = 3 →
    s.dev.nominalTick p (s.dev.sched p).eS ≤ s.dev.acyc →
    exec (.epochTick p) s = .next { s with dev := tickEpoch p (s.dev.sched p).eS s.dev }) ∧
  (∀ (s : State) (p t : Nat), s.dev.pins.stopped = false → p < 32 → s.dev.running p = true → (s.dev.sched p).endAt = some t →
    t + 4 ≤ s.dev.acyc → s.dev.nominalTick p ((s.dev.epoch p + 1) % 2 ^ 48) ≤ s.dev.acyc →
    exec (.epochTick p) s = .next { s with dev := tickEpoch p ((s.dev.epoch p + 1) % 2 ^ 48) s.dev }) ∧
  (∀ (s : State) (p t : Nat), s.dev.pins.stopped = false → p < 32 → s.dev.running p = true → (s.dev.sched p).endAt = some t →
    s.dev.acyc < t + 4 → exec (.epochTick p) s = .next s) ∧
  (∀ (s : State) (p : Nat), s.dev.pins.stopped = false → p < 32 → s.dev.inEpoch p = true → s.dev.epochOver p = true →
    exec (.epochEnd p) s = .next { s with
     dev :=
      let d := s.dev.modSched p (fun x => { x with endAt := some s.dev.acyc })
      let d := unitFaultReport p (releaseSlots p (evPart p 0x40 0 1 d))
      let last : Bool := match (d.sched p).active with
        | some im => im.repeats ≠ 0 ∧ im.seq.length * im.repeats ≤ s.dev.epoch p + 1
        | none => true
      if last then setEs p 8 d
      else if d.esState p = 6 ∧ (d.sched p).stopAt.any (· ≤ s.dev.epoch p) then setEs p 7 d
      else throttleEnd p d })) ∧
  ((∀ (s : State) (g e p i t : Nat), s.dev.pins.stopped = false → g < 80 → e < 3 → s.dev.coreOwner g = some p →
    s.dev.inEpoch p = true → s.dev.coreSt g ≠ 5 → s.dev.nextFetch p g e = some (i, t) → t ≤ s.dev.acyc →
    exec (.codeFetch g e) s = .next { s with
     dev := s.dev.modCore g (fun c => { c with code := tabMod {} c.code e (fun b => { fetched := b.fetched ++ [(i, t)] }) }) }) ∧
  (∀ (s : State) (p i t : Nat) (im : Image) (u : UnitRt), s.dev.pins.stopped = false → p < 32 →
    (s.dev.sched p).active = some im → s.dev.unitRt p i = some u → s.dev.dueAt p i = some t → t ≤ s.dev.acyc →
    s.dev.inEpoch p = true → u.cores.all (fun g => s.dev.mayRelease p g) = true →
    let on := (s.dev.sched p).tick + u.entry.release
    exec (.unitRelease p i) s = .next { s with
     dev :=
      let d := s.dev.modUnit p i (fun x => { x with
        issued := some s.dev.acyc, status := if u.cores.any (fun g => (s.dev.core g).saveUe) then 2 else 0 })
      let late := lateCauses s.dev p im u
      let d := if on < d.acyc then
        d.modSched p (fun x => noteSlot late.2 { x with heldUnits := x.heldUnits + 1, causes := x.causes ||| late.1 }) else d
      holdEnds p (u.cores.foldl (fun d g => startStreams im p i u g (evCore g 0x10 0 (d.acyc - on) d)) d) }) ∧
  (∀ (s : State) (p i : Nat) (im : Image) (u : UnitRt), s.dev.pins.stopped = false → p < 32 →
    (s.dev.sched p).active = some im → s.dev.unitRt p i = some u → s.dev.inEpoch p = true → u.issued = none →
    u.holding = false → s.dev.depsAt p im u = none →
    (s.dev.sched p).tick + u.entry.release + (s.dev.sched p).hold < s.dev.acyc →
    let d := s.dev.modUnit p i (fun u => { u with holding := true })
    (s.dev.esState p = 5 → exec (.holdLimit p i) s = .next { s with dev := d }) ∧
    (s.dev.esState p = 4 → exec (.holdLimit p i) s = .next { s with
     dev :=
      let x := lateCauses d p im u
      let d := d.modSched p (fun y => noteSlot x.2 { y with causes := y.causes ||| x.1 })
      epochReport p 2 (d.epoch p) (d.getF F.esLagLag p) (d.sched p).slot (d.sched p).peer (d.sched p).causes.toNat
        (setEs p 5 (d.raise F.esStatusHeld p)) })) ∧
  (∀ (s : State) (p i : Nat) (u : UnitRt), s.dev.pins.stopped = false → p < 32 → s.dev.unitRt p i = some u →
    u.issued.isSome = true → u.ended = none → s.dev.streamsEnded u = true →
    exec (.unitEnd p i) s = .next { s with dev := unitEnded p i s.dev }) ∧
  (∀ (s : State) (p i t : Nat) (u : UnitRt), s.dev.pins.stopped = false → p < 32 → s.dev.unitRt p i = some u →
    u.issued = some t → t + 24001 ≤ s.dev.acyc → u.ended = none → u.aborted = none →
    exec (.unitCapExpiry p i) s = .next { s with
     dev :=
      let d := u.cores.foldl (fun d g => d.raise F.seStatusAbort g) (s.dev.raise F.esStatusOverrun p)
      abortUnit p i 3 (d.openEngine u.cores) 0 (health 4 1 d) })) ∧
  ((∀ (s : State) (p i : Nat) (im : Image) (x : SendRt), s.dev.pins.stopped = false → p < 32 →
    (s.dev.sched p).active = some im → (s.dev.sched p).sends[i]? = some x → s.dev.inEpoch p = true → x.done = false → x.sent = 0 →
    ((s.dev.sched p).sends.take i).any (fun y => decide (y.entry.window = x.entry.window) && decide (y.sent = 0)) = false →
    (s.dev.sched p).tick + x.entry.offset ≤ s.dev.acyc → s.dev.xchReady p im x.entry.dep = true → s.dev.fenced = false →
    s.dev.mayIssue 8 p = true →
    let key := creditKey x.entry.peer x.entry.slot ((s.dev.epoch p + x.entry.edelta) % 2)
    let links := s.dev.dataLinks (((s.dev.sched p).route[x.entry.peer]?).map (·.links) |>.getD 0)
    let insts := s.dev.instances p x.entry.peer
    tabGet false (s.dev.sched p).spent key = false → links.any (s.dev.windowOpen p x.entry.window) = true → insts ≠ [] →
    exec (.exchangeSend p i) s = .next { s with
     dev :=
      let (b, d) := xchBytes p im x.entry s.dev
      let d := insts.foldl (fun d' t => xchFlits p i t.1 (d.ownCode p) (s.dev.epoch p + x.entry.edelta) x.entry links b d') d
      (edgeProg 8 x.entry.len64 d).modSched p (fun y =>
        { y with spent := tabSet false y.spent key true
                 sends := modAt y.sends i (fun z =>
                   { z with sent := x.entry.len64, queued := ceilDiv x.entry.len64 4 * insts.length }) }) }) ∧
  (∀ (s : State) (p i : Nat) (im : Image) (x : SendRt), s.dev.pins.stopped = false → p < 32 →
    (s.dev.sched p).active = some im → (s.dev.sched p).sends[i]? = some x → s.dev.inEpoch p = true → x.done = false → x.sent = 0 →
    ((s.dev.sched p).sends.take i).any (fun y => decide (y.entry.window = x.entry.window) && decide (y.sent = 0)) = false →
    (s.dev.sched p).tick + x.entry.offset ≤ s.dev.acyc → s.dev.xchReady p im x.entry.dep = true → s.dev.fenced = false →
    s.dev.mayIssue 8 p = true →
    tabGet false (s.dev.sched p).spent (creditKey x.entry.peer x.entry.slot ((s.dev.epoch p + x.entry.edelta) % 2)) = true →
    exec (.exchangeSend p i) s = .next { s with dev := s.dev.modSched p (fun y => { y with causes := y.causes ||| 16 }) }))

/-- R164, R185: a CARRIER_CFG whose checks pass waits for APPLY_FRAME; CARRIER_DEL takes the token at once and the carrier at the next
boundary, or at once where its descriptor has not been applied; OWN_GRANT of the confirmed epoch gives OWNED, of a later one PENDING;
OWN_REVOKE takes the token and completes at once or, while a frame leaves the carrier's port, once that port is free; each completes
with OK. R185, R186, R400: at the lease deadline LEASE_EXPIRY clears LD and every token, sets LAPSED and fences the device; before it,
nothing changes. -/
def Obligations.CarriersAndLeasesAct : Prop :=
  ((∀ (s : State) (c : Src) (addr len : Nat), s.dev.pins.stopped = false →
    let b := s.dev.hostRead addr len
    addr % 64 = 0 → 80 ≤ len → len = 80 + patBytes b → s.dev.oos = false → carrierStatus s.dev b = 0 →
    exec (.carrierCfg c addr len) s = .next { s with
     dev := done c 0 (sendTdd (fld b 0 7 0) b (s.dev.modCarrier (fld b 0 7 0) (fun x => { x with pend := some b }))) }) ∧
  (∀ (s : State) (c : Src) (k : Nat), s.dev.pins.stopped = false → k < 256 → (s.dev.carrier k).desc ≠ [] →
    exec (.carrierDel c k) s = .next { s with
     dev := done c 0 (((s.dev.setF F.fhOwnState k 0).setF F.fhOwnEpoch k 0).setCarrier k
      { s.dev.carrier k with pend := none, deleting := true }) }) ∧
  (∀ (s : State) (c : Src) (k : Nat), s.dev.pins.stopped = false → k < 256 → (s.dev.carrier k).desc = [] →
    s.dev.carrierExists k = true →
    exec (.carrierDel c k) s = .next { s with
     dev := done c 0 (((s.dev.setF F.fhOwnState k 0).setF F.fhOwnEpoch k 0).setCarrier k
      { revoking := (s.dev.carrier k).revoking }) }) ∧
  (∀ (s : State) (c : Src) (k e : Nat), s.dev.pins.stopped = false → k < 256 → s.dev.oos = false →
    s.dev.carrierExists k = true → s.dev.getF F.fhMemberMepoch ≤ e →
    exec (.ownGrant c k e) s = .next { s with
     dev := done c 0 ((s.dev.setF F.fhOwnState k (if e = s.dev.getF F.fhMemberMepoch then 2 else 1)).setF F.fhOwnEpoch k e) }) ∧
  (∀ (s : State) (c : Src) (k : Nat), s.dev.pins.stopped = false → k < 256 → s.dev.carrierExists k = true →
    exec (.ownRevoke c k) s = .next { s with
     dev :=
      let d := (s.dev.setF F.fhOwnState k 0).setF F.fhOwnEpoch k 0
      if (s.dev.carrier k).desc = [] ∨ d.txFree (dPort (s.dev.carrier k).desc) = true then done c 0 d
      else d.modCarrier k (fun x => { x with revoking := x.revoking ++ [(c, dPort (s.dev.carrier k).desc)] }) })) ∧
  ((∀ s : State, s.dev.pins.stopped = false → s.dev.teril.ld ≠ 0 → ntLe s.dev.teril.ld s.dev.nt = true →
    exec .leaseExpiry s = .next { s with
     dev := enterFenced ((clearTokens (s.dev.modTeril (fun t => { t with ld := 0 }))).raise F.fhMemberLapsed) }) ∧
  (∀ s : State, ntLe s.dev.teril.ld s.dev.nt = false → exec .leaseExpiry s = .next s))

/-- R161, R166 to R168: in its window a C-plane message of a section whose symbol is marked ready goes to queue 1, with the extensions its
record names; the U-plane message of its next symbol to queue 0, its blocks compressed as the descriptor says, on a time-domain carrier
with the gain its record names; a section whose next message has missed its window is closed and counted in DL_LATE. R170 to R173,
R176, R177: a section in its window on a port that is up stores its blocks where the carrier's token is valid; a line closes at A +
TA4_MAX: with a token the blocks that did not arrive are written as zeros (on a time-domain carrier the blocks are written), the gain
record says their number and whether a detection window froze the gain, and the squares adjust the gain; without a token every block is
written as zeros with NOTOWN in its gain record. The presence bit of the slot is set for the epoch in which it is due; the gain of a
window is latched when the window begins. R159, R160, R165: a frame with a bad FCS sets FRAME_ERR and counts in FH_RX and FH_FRAME_ERR,
a frame of a kind that a port takes counts in FH_RX, one of an unknown kind sets UNKNOWN too; a delay request is answered in queue 1
with its time-stamp; a write response is counted; a frame boundary is acted on once for every carrier. -/
def Obligations.RadioTrafficMoves : Prop :=
  ((∀ (s : State) (k n i : Nat) (b h r : Bytes) (d : Dev), s.dev.pins.stopped = false → k < 256 →
    (s.dev.carrier k).desc = b → b ≠ [] → s.dev.sentOf k n i = 0 →
    ntLe (s.dev.air (dMu b) n 0 - BitVec.ofNat 64 (dT1aMax b + dTcpAdv b)) s.dev.nt = true →
    readSection k b n i s.dev = (some (h, r), d) → recordOk b r = true → sectionDown b r n = true → bit h 8 (rSym r) = true →
    ntLe (d.air (dMu b) n (rSym r) - BitVec.ofNat 64 (dT1aMax b + dTcpAdv b)) d.nt = true →
    ntLe d.nt (d.air (dMu b) n (rSym r) - BitVec.ofNat 64 (dT1aMin b + dTcpAdv b)) = true →
    let x := if at_ r 0x10 4 = 0 then ([], d) else fhRead (dPort b) (at_ b 0x48 8 + at_ r 0x10 4) (at_ r 0x14 2) d
    extOk b x.1 = true →
    exec (.cplaneSend k n i) s = .next { s with
     dev := sendFrames k n (dPort b) 1 (2 * i) (d.air (dMu b) n (rSym r) - BitVec.ofNat 64 (dT1aMin b + dTcpAdv b))
      (if fld r 0 16 14 = 3 then some (fld r 0 13 8, rSym r, rSym r + rNsym r - 1) else none)
      (Config.cplaneFrames b n r x.1) (setSent k n i 1 x.2) }) ∧
  (∀ (s : State) (k n i v : Nat) (b h r : Bytes) (d : Dev), s.dev.pins.stopped = false → k < 256 →
    (s.dev.carrier k).desc = b → b ≠ [] → s.dev.sentOf k n i = v + 1 → v ≠ 62 →
    readSection k b n i s.dev = (some (h, r), d) → recordOk b r = true → sectionDown b r n = true → hasUplane r = true →
    v < rNsym r → (List.range (rNsym r)).all (fun x => bit h 8 (rSym r + x)) = true →
    ntLe (d.air (dMu b) n (rSym r + v) - BitVec.ofNat 64 (dT1aMax b)) d.nt = true →
    ntLe d.nt (d.air (dMu b) n (rSym r + v) - BitVec.ofNat 64 (dT1aMin b)) = true →
    exec (.uplaneSend k n i) s = .next { s with
     dev :=
      let nb := recBlocks b r
      let a := at_ b 0x48 8 + at_ r 0x0C 4 + v * (elemLine nb + expLine nb)
      let el := fhRead (dPort b) a (48 * nb) d
      let ex := fhRead (dPort b) (a + elemLine nb) (ceilDiv nb 2) el.2
      let g := if dTd b then fhRead (dPort b) (at_ b 0x48 8 + at_ r 0x10 4) 2 ex.2 else ([], ex.2)
      let blocks := txBlocks b n (rSym r + v) (leNat g.1) ((List.range nb).map (cqBlock el.1 ex.1))
      sendFrames k n (dPort b) 0 (2 * i + 1) (d.air (dMu b) n (rSym r + v) - BitVec.ofNat 64 (dT1aMin b)) none
        (Config.uplaneFrames b n (rSym r + v) r (blocks.map (fun x => (x.1, x.2.1))))
        (setSent k n i (v + 2) { g.2 with fhSat := g.2.fhSat + sumL (blocks.map (·.2.2)) }) }) ∧
  (∀ (s : State) (k n i : Nat) (b h r : Bytes) (d : Dev), s.dev.pins.stopped = false → k < 256 →
    (s.dev.carrier k).desc = b → b ≠ [] → s.dev.sentOf k n i = 0 → readSection k b n i s.dev = (some (h, r), d) →
    ntLe d.nt (d.air (dMu b) n (rSym r) - BitVec.ofNat 64 (dT1aMin b + dTcpAdv b)) = false →
    recordOk b r = true → sectionDown b r n = true →
    exec (.dlWindowClose k n i) s = .next { s with
     dev := modCnt k n (fun x => { x with dlLate := x.dlLate + 1 })
      ((setSent k n i 63 d).raise F.fhPortStatusDlLate (dPort b)) }) ∧
  (∀ (s : State) (k n i v : Nat) (b h r : Bytes) (d : Dev), s.dev.pins.stopped = false → k < 256 →
    (s.dev.carrier k).desc = b → b ≠ [] → s.dev.sentOf k n i = v + 1 → v ≠ 62 →
    readSection k b n i s.dev = (some (h, r), d) → hasUplane r = true → v < rNsym r →
    ntLe d.nt (d.air (dMu b) n (rSym r + v) - BitVec.ofNat 64 (dT1aMin b)) = false →
    recordOk b r = true → sectionDown b r n = true →
    exec (.dlWindowClose k n i) s = .next { s with
     dev := modCnt k n (fun x => { x with dlLate := x.dlLate + 1 })
      ((setSent k n i 63 d).raise F.fhPortStatusDlLate (dPort b)) })) ∧
  ((∀ (s : State) (u : UlSection) (k r n : Nat) (b : Bytes), s.dev.pins.stopped = false → u.port < 16 →
    s.dev.flag F.fhPortStatusUp u.port = true → s.dev.carrierOf u.port u.eaxc = some (k, r) → (s.dev.carrier k).desc = b →
    n = (s.dev.nearFrame u.frameId * 10 + u.subframe) * 2 ^ dMu b + u.slotId →
    u.subframe ≤ 9 → u.slotId < 2 ^ dMu b → u.symbol ≤ 13 →
    u.prb0 + u.blocks.length ≤ (if dTd b then ceilDiv (fftSize b + prefixLen b n u.symbol) 12 else dNprb b) →
    ntLe (s.dev.air (dMu b) n u.symbol + BitVec.ofNat 64 (dTa4Min b)) s.dev.nt = true →
    ntLe (s.dev.air (dMu b) n u.symbol - 8000000) s.dev.nt = true →
    ntLe s.dev.nt (s.dev.air (dMu b) n u.symbol + BitVec.ofNat 64 (dTa4Max b)) = true →
    symCode b n u.symbol ≠ 0 → symCode b n u.symbol ≠ 2 →
    exec (.uplaneReceive u) s = .next { s with
     dev := (u.blocks.zipIdx.map (fun x => (u.prb0 + x.2, x.1))).foldl (ulBlock k n u.symbol r b (s.dev.tokenValid k)) s.dev }) ∧
  (∀ (s : State) (k n l r : Nat) (b : Bytes), s.dev.pins.stopped = false → k < 256 → (s.dev.carrier k).desc = b → b ≠ [] →
    l ≤ 13 → r < dUl b → (tabGet {} (s.dev.carrier k).lines (lineKey n l r)).closed = false →
    ntLe (s.dev.air (dMu b) n l + BitVec.ofNat 64 (dTa4Max b)) s.dev.nt = true →
    exec (.lineClose k n l r) s = .next { s with
     dev :=
      let x := tabGet {} (s.dev.carrier k).lines (lineKey n l r)
      let own := s.dev.tokenValid k
      let win := (s.dev.carrier k).window n l r
      let gain := match win with
        | some w => w.gain
        | none => (s.dev.carrier k).gainAt r (s.dev.air (dMu b) n l - 8000000)
      let a := lineAddr b n l r
      let miss := if own then missing b x else List.range (lineBlocks b)
      let gone := (s.dev.vMissing 0 a.1 (48 * lineBlocks b)).isSome || (s.dev.vMissing 0 a.2.1 (ceilDiv (lineBlocks b) 2)).isSome ||
        (s.dev.vMissing 0 a.2.2 4).isSome
      let d := s.dev.raiseIf gone F.fhPortStatusUnknown (dPort b)
      let d := if dTd b = true ∧ own = true then ((tdBlocks b gain x.td).zipIdx).foldl (fun d y => putBlock a.1 a.2.1 y.2 y.1.2 y.1.1 d) d
        else miss.foldl (fun d j => putBlock a.1 a.2.1 j (List.replicate 24 0) 0 d) d
      let d := tierWrite 3 0 0 a.2.2 (leBytes 4 (gain + miss.length * 2 ^ 16 + (if win.isSome then 2 ^ 25 else 0) +
        (if own then 0 else 2 ^ 26))) d
      let d := modCnt k n (fun y => { y with ulMiss := y.ulMiss + miss.length, notown := y.notown || ! own }) d
      let m := sumL (x.sq.map (fun e => e.2.2))
      let d := if own = true ∧ m ≠ 0 then
        setGain k r (loopGain (sumL (x.sq.map (fun e => e.2.1))) m (at_ b 0x2C 2) (fld b 0x2C 18 16) ((s.dev.carrier k).gain r)) d else d
      d.modCarrier k (fun y =>
        { y with lines := tabSet {} (y.lines.filter (fun e => n ≤ e.1 / (14 * 128) + 64)) (lineKey n l r) { closed := true } }) }) ∧
  (∀ (s : State) (k n e : Nat) (b : Bytes) (im : Image), s.dev.pins.stopped = false → k < 256 → (s.dev.carrier k).desc = b → b ≠ [] →
    (s.dev.sched 0).active = some im → 3 ≤ s.dev.esState 0 → s.dev.esState 0 ≤ 6 → im.epochLen ≠ 0 →
    let slot := fld b 0x28 12 0 + n % max 1 (im.epochLen * 2 ^ dMu b / 10000)
    let t := s.dev.air (dMu b) n 13 + BitVec.ofNat 64 (dTa4Max b + 16000)
    im.slots.any (fun x => x.1 = slot) = true → (s.dev.sched 0).eS ≤ e →
    ((s.dev.sched 0).eS : Int) + (t - (s.dev.sched 0).t0).toInt.fdiv (im.epochLen * 800 : Nat) + 1 = e → ntLe t s.dev.nt = true →
    exec (.ulPresenceSet k n) s = .next { s with
     dev := s.dev.modSched 0 (fun x =>
      { x with presence := tabSet {} x.presence (slot * 2 + e % 2) { epoch := e, full := 1, setAt := some s.dev.acyc } }) }) ∧
  (∀ (s : State) (k n : Nat) (b : Bytes), s.dev.pins.stopped = false → k < 256 → (s.dev.carrier k).desc = b →
    ntLe (s.dev.air (dMu b) n 13 + BitVec.ofNat 64 (dTa4Max b + 16000)) s.dev.nt = false ∨ (s.dev.sched 0).active = none →
    exec (.ulPresenceSet k n) s = .next s) ∧
  (∀ (s : State) (k n r f : Nat) (l : List Nat) (b : Bytes), s.dev.pins.stopped = false → k < 256 → (s.dev.carrier k).desc = b → b ≠ [] →
    r < dRx b → ulSyms b n = f :: l → ntLe (s.dev.air (dMu b) n f) s.dev.nt = true →
    tabFind (s.dev.carrier k).win (lineKey n f r) = none →
    exec (.detectionWindowStart k n r) s = .next { s with
     dev := s.dev.modCarrier k (fun x => { x with
      win := tabPut (x.win.filter (fun e => n ≤ e.2.slot + 32)) (lineKey n f r)
        { gain := (s.dev.carrier k).gain r, slot := n, first := f, last := l.getLastD f } }) }) ∧
  (∀ (s : State) (k n r f e : Nat) (b : Bytes), s.dev.pins.stopped = false → k < 256 → (s.dev.carrier k).desc = b → b ≠ [] →
    dRx b ≤ r → r < dUl b → (s.dev.carrier k).prachSyms n r = [(f, e)] → ntLe (s.dev.air (dMu b) n f) s.dev.nt = true →
    tabFind (s.dev.carrier k).win (lineKey n f r) = none →
    exec (.detectionWindowStart k n r) s = .next { s with
     dev := s.dev.modCarrier k (fun x => { x with
      win := tabPut (x.win.filter (fun y => n ≤ y.2.slot + 32)) (lineKey n f r)
        { gain := (s.dev.carrier k).gain r, slot := n, first := f, last := e } }) })) ∧
  ((∀ (s : State) (port : Nat) (f : FhFrame), s.dev.pins.stopped = false → port < 16 →
    s.dev.flag F.fhPortStatusUp port = true → f.fcsOk = false →
    exec (.ethernetFrameReceive port f) s = .next { s with
     dev := evEdge 0xC5 port 1 (evEdge 0xC4 port 1 (s.dev.raise F.fhPortStatusFrameErr port)) }) ∧
  (∀ (s : State) (port : Nat) (f : FhFrame), s.dev.pins.stopped = false → port < 16 →
    s.dev.flag F.fhPortStatusUp port = true → f.fcsOk = true → f.len ≤ s.dev.mtu port → f.tags ≤ 1 →
    f.pause = true ∨ f.etherType = 0x88F7 ∨ f.etherType = 0x8809 ∨
      (f.etherType = 0xAEFE ∧ f.hdrOk = true ∧ (f.ecpri = 0 ∨ f.ecpri = 5)) →
    exec (.ethernetFrameReceive port f) s = .next { s with dev := evEdge 0xC4 port 1 s.dev }) ∧
  (∀ (s : State) (port : Nat) (f : FhFrame), s.dev.pins.stopped = false → port < 16 →
    s.dev.flag F.fhPortStatusUp port = true → f.fcsOk = true → f.len ≤ s.dev.mtu port → f.tags ≤ 1 → f.pause = false →
    f.etherType ≠ 0x88F7 → f.etherType ≠ 0x8809 → f.etherType ≠ 0xAEFE →
    exec (.ethernetFrameReceive port f) s = .next { s with dev := evEdge 0xC4 port 1 (s.dev.raise F.fhPortStatusUnknown port) }) ∧
  (∀ (s : State) (port : Nat) (t2 : BitVec 64), s.dev.pins.stopped = false → port < 16 →
    s.dev.flag F.fhPortStatusUp port = true →
    exec (.delayRequestReceive port t2) s = .next { s with
     dev :=
      let b := Config.delayFrame [] true
        (s.dev.ptpTime (t2 + BitVec.ofNat 64 (ofSigned 64 (toSigned 16 (s.dev.getF F.tbPortCfgAsym port))))) 0
      enqueue port 1 { len := b.length, at_ := 0, bytes := b } s.dev }) ∧
  (∀ (s : State) (port : Nat), s.dev.pins.stopped = false → port < 16 → s.dev.flag F.fhPortStatusUp port = true →
    exec (.rmaResponseReceive port) s = .next { s with dev := evEdge 0xC4 port 1 s.dev }) ∧
  (∀ (s : State) (t : BitVec 64), s.dev.pins.stopped = false →
    s.dev.beat 3 80000000 s.dev.gridOfs = some t →
    exec .frameBoundary s = .next { s with
     dev := (tabKeys s.dev.carriers).foldl (frameCarrier ((t.toNat - s.dev.gridOfs) / 80000000))
      (beatDone 3 t s.dev) }))

/-- R190, R191: SLOTPROC_CFG within its limits waits for the first frame that begins 2 ms or more later; a SLOT_SUBMIT in time writes the
directory's pending entry, with table 0 that of no table; a late one is counted and completes with LATE. The grid is that of the
carrier's latest descriptor, applied or not. R192: at its deadline the directory entry of (n, d) holds the slot, a 1 if a table was
submitted, and its address; then its presence is set. R209: at R(n) the slot report is written once, with the estimator's offset, or
ABSENT where the estimator has written none for the slot, the counts of the slot, and LATE_TB, which starts again. -/
def Obligations.SlotsAndReportsAct : Prop :=
  ((∀ (s : State) (c : Src) (addr len : Nat) (x : Bytes), s.dev.pins.stopped = false →
    let b := s.dev.hostRead addr len
    addr % 64 = 0 → len = 64 → s.dev.latestDesc (fld b 0 7 0) = some x → minLead (dMu x) ≤ at_ b 4 2 → slotprocOk b = true →
    exec (.slotprocCfg c addr len) s = .next { s with
     dev := done c 0 (s.dev.modCarrier (fld b 0 7 0)
      (fun y => { y with slotpPend := some (b, s.dev.frameFrom (later s.dev.nt 16000000)) })) }) ∧
  (∀ (s : State) (c : Src) (k dir n : Nat) (b sp : Bytes), s.dev.pins.stopped = false → k < 256 → dir ≤ 1 →
    s.dev.latestDesc k = some b → s.dev.carrierExists k = true → (s.dev.carrier k).slotp = some sp →
    ntLe (s.dev.deadline b sp dir n) s.dev.nt = false →
    (16 ≤ n → ntLe (s.dev.deadline b sp dir (n - 16)) s.dev.nt = true) →
    exec (.slotSubmit c k dir n 0) s = .next { s with
     dev := done c 0 (s.dev.modCarrier k (fun y => { y with alloc := tabSet 0 y.alloc (allocKey dir n) 0 })) }) ∧
  (∀ (s : State) (c : Src) (k dir n table : Nat) (b sp h : Bytes) (d : Dev), s.dev.pins.stopped = false → k < 256 → dir ≤ 1 →
    s.dev.latestDesc k = some b → s.dev.carrierExists k = true → (s.dev.carrier k).slotp = some sp → table ≠ 0 →
    ntLe (s.dev.deadline b sp dir n) s.dev.nt = false →
    (16 ≤ n → ntLe (s.dev.deadline b sp dir (n - 16)) s.dev.nt = true) →
    tierRead 3 0 0 table 64 s.dev = (h, d) → tableOk h k dir n = true →
    exec (.slotSubmit c k dir n table) s = .next { s with
     dev := done c 0 (d.modCarrier k
      (fun y => { y with alloc := tabSet 0 y.alloc (allocKey dir n) table })) }) ∧
  (∀ (s : State) (c : Src) (k dir n table : Nat) (b sp : Bytes), s.dev.pins.stopped = false → k < 256 → dir ≤ 1 →
    s.dev.latestDesc k = some b → s.dev.carrierExists k = true → (s.dev.carrier k).slotp = some sp →
    ntLe (s.dev.deadline b sp dir n) s.dev.nt = true →
    exec (.slotSubmit c k dir n table) s = .next { s with
     dev := done c 0x51 (s.dev.modCarrier k (fun y =>
      { y with lateOnly := tabSet false y.lateOnly (allocKey dir n) true
               cnt := tabMod {} y.cnt n (fun z => { z with lateSubmits := z.lateSubmits + 1 }) })) })) ∧
  (∀ (s : State) (k dir n : Nat) (b sp : Bytes), s.dev.pins.stopped = false → k < 256 → dir < 2 →
    s.dev.latestDesc k = some b → b ≠ [] → (s.dev.carrier k).slotp = some sp →
    let t := s.dev.deadline b sp dir n
    let table := tabGet 0 (s.dev.carrier k).alloc (allocKey dir n)
    let entry := leBytes 4 n ++ leBytes 4 (if table = 0 then 0 else 1) ++ leBytes 8 table
    let w := tierWrite 3 0 0 (spDir sp + (16 * dir + n % 16) * 16) entry s.dev
    ntLe t s.dev.nt = true → (s.dev.nt - t).toInt < 80000000 → tabGet false (s.dev.carrier k).dirDone (allocKey dir n) = false →
    let keep := fun (i : Nat) => decide (i / 2 ^ 32 ≠ dir ∨ n ≤ i % 2 ^ 32 + 256)
    let d := w.modCarrier k (fun y =>
      { y with dirDone := tabSet false (y.dirDone.filter (fun e => keep e.1)) (allocKey dir n) true
               alloc := y.alloc.filter (fun e => keep e.1), lateOnly := y.lateOnly.filter (fun e => keep e.1) })
    exec (.allocDeadline k dir n) s = .next { s with
     dev := devPresence (fld sp 0x0C 12 0 + dir * d.slotsPerEpoch b + n % d.slotsPerEpoch b) (later t 16000) d }) ∧
  (∀ (s : State) (k n : Nat) (b sp o : Bytes) (r : Dev), s.dev.pins.stopped = false → k < 256 →
    s.dev.latestDesc k = some b → b ≠ [] → (s.dev.carrier k).slotp = some sp → tierRead 3 0 0 (spOfs sp) 16 s.dev = (o, r) →
    let x := s.dev.carrier k
    let absent : Bool := at_ o 0 4 ≠ n % 2 ^ 32
    let phi := if absent then 0 else toSigned 32 (at_ o 4 4)
    let d := r.modCarrier k (fun y =>
      { y with fhat := (if absent then x.fhat else foUpdate b x.settle phi x.fhat), settle := min (y.settle + 1) 255, lateTb := 0
               cnt := tabSet {} (y.cnt.filter (fun e => n ≤ e.1 + 128)) n { reported := true } })
    ntLe (s.dev.reportAt b sp n) s.dev.nt = true → (s.dev.nt - s.dev.reportAt b sp n).toInt < 80000000 →
    (tabGet {} x.cnt n).reported = false →
    exec (.slotReport k n) s = .next { s with
     dev := report 0 2 (reportBytes k n (d.carrier k) (tabGet {} x.cnt n) absent phi (if absent then 0 else at_ o 8 2) x.lateTb) d })

/-- R195: CODING_QUEUE_CFG enables a queue afresh, empty; on an enabled queue the command waits while the queue drains, its jobs that have
not started CANCELED; QUEUE_POLL of an enabled queue reads every new job, as many as the queue holds, and sets OVERFLOW with cause 7
where PROD runs further ahead; each job that can start next starts by its kind on its unit's engines. R198, R201, R205: a block whose
time is over leaves its engine, its soft values written back, a decoded block counted; a job whose blocks are done writes its output, a
decode job its trailer, then its completion record; SIGNAL completes once every earlier job has, in the a-cycle after at the earliest;
at its deadline it stops the jobs before it that have not completed, each with DEADLINE, sets CD_STATUS.DEADLINE if there are any, and
completes. -/
def Obligations.CodingJobsRun : Prop :=
  ((∀ (s : State) (c : Src) (die q log2depth qbase : Nat), s.dev.pins.stopped = false → die < 4 → q < 16 →
    4 ≤ log2depth → log2depth ≤ 12 → qbase % 64 = 0 → (s.dev.cq die q).enabled = false →
    exec (.codingQueueCfg c die q 1 log2depth qbase) s = .next { s with
     dev := done c 0 (s.dev.modCq die q (fun _ => { enabled := true, log2depth := log2depth, qbase := qbase })) }) ∧
  (∀ (s : State) (c : Src) (die q enable log2depth qbase : Nat), s.dev.pins.stopped = false → die < 4 → q < 16 →
    enable = 0 ∨ (enable = 1 ∧ 4 ≤ log2depth ∧ log2depth ≤ 12 ∧ qbase % 64 = 0) → (s.dev.cq die q).enabled = true →
    exec (.codingQueueCfg c die q enable log2depth qbase) s = .next { s with
     dev :=
      let d := s.dev.modCq die q (fun x =>
        { x with waiting := x.waiting ++ [(c, if enable = 1 then some (log2depth, qbase) else none)] })
      disableDone die q (((d.cq die q).jobs.filter (fun x => ! x.started && ! x.done)).foldl
        (fun d x => finishJob die q { x with cbs := 0 } 0x46 d) d) }) ∧
  (∀ (s : State) (die q : Nat) (b : Bytes) (d : Dev), s.dev.pins.stopped = false → die < 4 → q < 16 →
    (s.dev.cq die q).enabled = true → (s.dev.cq die q).waiting = [] →
    cdRead die (s.dev.cq die q).qbase 64 s.dev = (b, d) →
    let x := s.dev.cq die q
    let ahead := (at_ b 0 4 + 2 ^ 32 - x.cons) % 2 ^ 32
    exec (.queuePoll die q) s = .next { s with
     dev := ((List.range (min ahead x.depth - (x.seen + 2 ^ 32 - x.cons) % 2 ^ 32)).map (fun i => (x.seen + i) % 2 ^ 32)).foldl
      (readJob die q)
      (if x.depth < ahead then ((d.raise F.cdStatusOverflow die).setF F.cdErrinfoQueue die q).setF F.cdErrinfoCause die 7 else d) }) ∧
  (∀ (s : State) (die q j : Nat) (x y : Job) (d : Dev), s.dev.pins.stopped = false → die < 4 → q < 16 →
    s.dev.nextJob die = some (q, x) → x.j = j →
    let started : Res := .next { s with
     dev := startAs die q y (d.raiseIf (y.erased || decide (y.status = 0x44)) F.cdStatusDataLost die) }
    (jKind x.bytes = 1 → dlSch die x s.dev = (y, d) → exec (.dlSch die q j) s = started) ∧
    (jKind x.bytes = 2 → ulSch die x s.dev = (y, d) → exec (.ulSch die q j) s = started) ∧
    (jKind x.bytes = 3 → polarJob die false x s.dev = (y, d) → exec (.polarDci die q j) s = started) ∧
    (jKind x.bytes = 4 → polarJob die true x s.dev = (y, d) → exec (.polarBch die q j) s = started) ∧
    (jKind x.bytes = 5 → polarUci die x s.dev = (y, d) → exec (.polarUci die q j) s = started) ∧
    (jKind x.bytes = 6 → smallUci die x s.dev = (y, d) → exec (.smallUci die q j) s = started))) ∧
  ((∀ (s : State) (die kind i : Nat) (x : CbRt) (y : Job), s.dev.pins.stopped = false → die < 4 → 4 ≤ kind → kind < 8 → i < engineCount kind →
    tabFind (s.dev.cod die).busy (kind * 16 + i) = some x → x.until_ ≤ s.dev.acyc →
    let d := s.dev.modCod die (fun c => { c with busy := tabDel c.busy (kind * 16 + i) })
    (d.cq die x.q).jobs.find? (fun z => z.j = x.j) = some y →
    exec (.codeBlockDone die kind i) s = .next { s with
     dev :=
      let d := (y.soft.filter (fun (e : Nat × Bytes) => e.1 / softSize (jBg y.bytes) = x.r ∧ e.1 < 2 ^ 32)).foldl
        (fun d (e : Nat × Bytes) => cdWrite die (jSoft y.bytes + e.1) e.2 d) d
      let d := d.modCq die x.q (fun z => { z with jobs := z.jobs.map (fun w =>
        if w.j = x.j then { w with ended := w.ended ++ [x.r], lastAt := max w.lastAt x.until_ } else w) })
      let d := if kind = 4 then evDie die 0x81 0 (y.iters[x.r]?.getD 0) (evDie die 0x80 0 1 d) else d
      placeBlocks die x.until_ x.from_ d }) ∧
  (∀ (s : State) (die q j : Nat) (x : Job), s.dev.pins.stopped = false → die < 4 → q < 16 →
    (s.dev.cq die q).jobs.find? (fun y => y.j = j) = some x → x.done = false → x.started = true → jKind x.bytes ≠ 7 →
    x.cbs ≤ x.ended.length → x.lastAt + jobTail x.bytes ≤ s.dev.acyc →
    exec (.codingJobComplete die q j) s = .next { s with
     dev :=
      let d := match x.out with
        | some o => cdWrite die (jDst x.bytes) o s.dev
        | none => s.dev
      finishJob die q x x.outcome
        (if jDec x.bytes then cdWrite die (jDst x.bytes + jTbLen x.bytes) (trailer x x.outcome) d else d) }) ∧
  (∀ (s : State) (die q j : Nat) (x : Job), s.dev.pins.stopped = false → die < 4 → q < 16 →
    (s.dev.cq die q).jobs.find? (fun y => y.j = j) = some x → x.done = false → jKind x.bytes = 7 → (s.dev.cq die q).before j = [] →
    x.lastAt ≤ s.dev.acyc →
    exec (.signal die q j) s = .next { s with dev := finishJob die q x 0 (signalPresence x.bytes s.dev) }) ∧
  (∀ (s : State) (die q j : Nat) (x : Job), s.dev.pins.stopped = false → die < 4 → q < 16 →
    (s.dev.cq die q).jobs.find? (fun y => y.j = j) = some x → x.done = false → jKind x.bytes = 7 →
    ntLe (BitVec.ofNat 64 (at_ x.bytes 0x18 8)) s.dev.nt = true →
    exec (.signalDeadline die q j) s = .next { s with
     dev :=
      let d := dueBlocks die s.dev
      let d := ((d.cq die q).before j).foldl (fun d y => jobComplete die q y.j d) d
      let left := (d.cq die q).before j
      let d := left.foldl (fun d y =>
        if jKind y.bytes = 7 then finishJob die q y 0 (signalPresence y.bytes d)
        else finishJob die q y.stopped 0x42 (stopJob die q y.j d)) (d.raiseIf (decide (left ≠ [])) F.cdStatusDeadline die)
      finishJob die q x 0 (signalPresence x.bytes d) }))

/-- R251, R254: a GATE_SET that passes its checks waits for T_sw with PENDING set, a list that waited before it SUPERSEDED, and completes
when GATE_LIST_SWITCH puts its list in force; at each whole microsecond every queue of every port is sampled unless FREEZE holds. R237
to R245: an accepted step of the pending request, in mode 0 at once, in mode 1 as a slew; the messages of the device's domain and the
losses the servo is fed with: Sync, Delay_Req and its answer, Announce, a malformed message, the loss of the slave port and of the
frequency source; the Sync, Announce and ESMC sent on each master port and the Delay_Req of the slave port at their intervals. R437,
R438: a PPS_IN edge is time-stamped within ±2 ns (log 2: the error within it is free) and sets SEEN; PPS_OUT rises at a whole second
while OUT_EN is set. Both run on the clocks that never stop. R247 to R252: the free transmitter of a port whose rate is not zero starts
the item its arbiter picks, unless a check of the radio drops it. -/
def Obligations.TimebaseAndPortsAct : Prop :=
  ((∀ (s : State) (c : Src) (b : Bytes), s.dev.pins.stopped = false → b.length = gateLen b → gateOk s.dev b = true →
    let e := fld b 0 4 0
    let apply := BitVec.ofNat 64 (at_ b 0x08 8)
    800000 ≤ (apply - s.dev.nt).toInt →
    exec (.gateSet c b) s = .next { s with
     dev := ((match (s.dev.port e).pend with
        | some (_, _, old) => done old 0x74 s.dev
        | none => s.dev).modPort e (fun p => { p with pend := some (gateDesc b, p.active.nextStart apply, c) })).setF
      F.tbPortStatusPending e 1 }) ∧
  (∀ (s : State) (e : Nat) (l : GateList) (t : BitVec 64) (c : Src), s.dev.pins.stopped = false → e < portCount →
    (s.dev.port e).pend = some (l, t, c) → reached s.dev t = true →
    exec (.gateListSwitch e) s = .next { s with
     dev :=
      let d := s.dev.modPort e (fun p =>
        { p with active := l, pend := none
                 credit := p.credit.filter (fun x => tabGet 0 p.active.mode x.1 = 1 ∧ tabGet 0 l.mode x.1 = 1) })
      done c 0 ((d.setF F.tbPortStatusPending e 0).setF F.tbPortStatusBank e (1 - d.getF F.tbPortStatusBank e)) }) ∧
  (∀ (s : State) (b : BitVec 64), s.dev.pins.stopped = false → s.dev.beat 2 8000 0 = some b → (s.dev.nt - b).toNat < 8 →
    s.dev.flag F.tbHistCtlFreeze = false →
    exec .histogramSample s = .next { s with
     dev := (List.range portCount).foldl (fun d e => d.modPort e (fun p => (List.range 8).foldl (sampleQueue d.nt) p))
      (beatDone 2 b s.dev) })) ∧
  ((∀ (s : State) (c : Src) (seq : Nat), s.dev.pins.stopped = false → s.dev.flag F.tbStepReqPending = true →
    s.dev.getF F.tbStepReqSeq = seq →
    let v := toSigned 40 (s.dev.getF F.tbStepReqStep)
    let d := enterAcquiring (s.dev.setF F.tbStepReqPending 0 0)
    let sl : Int := if v < 0 then -slewRate else slewRate
    exec (.tbStepAccept c seq 0) s = .next { s with dev := done c 0 (stepTime v d) } ∧
    exec (.tbStepAccept c seq 1) s = .next { s with
     dev := done c 0 (setFadj (toSigned 40 (d.getF F.tbFadjFadj) + sl) (d.modServo (fun x => { x with slew := some sl }))) }) ∧
  (∀ (s : State) (e : Nat) (t1 t2 : BitVec 64) (c1 : Int) (d : Dev), s.dev.pins.stopped = false → e < 16 →
    s.dev.flag F.tbPortCfgPtpEn e = true → s.dev.isSlave e = true → stampIn e s.dev = (t2, d) →
    exec (.ptpMessageReceive e ⟨s.dev.ptpDomain, .sync t1 c1⟩) s = .next { s with
     dev := d.modServo (fun x => { x with sync := some (t1, t2, c1), t3 := none, lastSync := d.nt }) }) ∧
  (∀ (s : State) (e : Nat) (t4 : BitVec 64) (d : Dev), s.dev.pins.stopped = false → e < 16 →
    s.dev.flag F.tbPortCfgPtpEn e = true → s.dev.isSlave e = false → stampIn e s.dev = (t4, d) →
    exec (.ptpMessageReceive e ⟨s.dev.ptpDomain, .delayReq⟩) s = .next { s with dev := sendTiming e 2 (leBytes 8 t4.toNat) d }) ∧
  (∀ (s : State) (e : Nat), s.dev.pins.stopped = false → e < 16 → s.dev.flag F.tbPortCfgPtpEn e = true → s.dev.isSlave e = true →
    exec (.ptpMessageReceive e ⟨s.dev.ptpDomain, .announce false⟩) s = .next { s with
     dev := s.dev.modServo (fun x => { x with announce := s.dev.nt }) }) ∧
  (∀ (s : State) (e : Nat), s.dev.pins.stopped = false → e < 16 → s.dev.flag F.tbPortCfgPtpEn e = true →
    exec (.ptpMessageReceive e ⟨s.dev.ptpDomain, .malformed⟩) s = .next { s with dev := s.dev.raise F.tbPortStatusPtpRxErr e }) ∧
  (∀ (s : State), s.dev.pins.stopped = false → s.dev.flag F.tbStatusSlaveValid = true →
    3000000000 ≤ (s.dev.nt - s.dev.servo.announce).toInt ∨ 3000000000 ≤ (s.dev.nt - s.dev.servo.lastSync).toInt →
    let d := (s.dev.setF F.tbStatusSlaveValid 0 0).setF F.tbStepReqPending 0 0
    (s.dev.servo.everLocked = true → exec .slavePortLost s = .next { s with dev := enterHoldover d }) ∧
    (s.dev.servo.everLocked = false →
      exec .slavePortLost s = .next { s with dev := if d.servoSt = 1 then d.setF F.tbStatusState 0 0 else d })) ∧
  (∀ (s : State) (e : Nat), s.dev.pins.stopped = false → s.dev.servo.src = some e →
    exec .synceSourceLost s = .next { s with
     dev :=
      let d := (((s.dev.raise F.tbStatusFreqLost).raise F.tbPortStatusFsrcLost e).setF F.tbStatusFreqOk 0 0).modServo
        (fun x => { x with src := none, fsync := 0 })
      if d.servoSt = 3 ∧ d.servo.outs ≠ [] then setFadj ((d.servo.outs.foldl (· + ·) 0).tdiv d.servo.outs.length) d else d }) ∧
  (∀ (s : State) (e ql : Nat) (choose : Bool), s.dev.pins.stopped = false → e < 16 →
    let d := s.dev.modPort e (fun p => { p with ql := some ql })
    exec (.esmcReceive e ql choose) s = .next { s with
     dev := if choose = true ∧ d.flag F.tbPortCfgFsrc e = true ∧ d.flag F.tbCtlHybrid = true then
      (d.setF F.tbStatusFreqOk 0 1).modServo (fun x => { x with src := some e }) else d }) ∧
  (∀ (s : State) (e : Nat), s.dev.pins.stopped = false → e < portCount →
    let master := ! s.dev.isSlave e && decide (s.dev.mbps e ≠ 0)
    let ptp := master && s.dev.flag F.tbPortCfgPtpEn e
    exec (.ptpSyncSend e) s = .next { s with
     dev :=
      let d := sendEach (48 + e) 1000000000 e 4 [] ptp (sendEach (16 + e) 500000000 e 0 [] ptp s.dev)
      sendEach (80 + e) 8000000000 e 5 (leBytes 1 (d.sourceQl.getD 15)) master d }) ∧
  (∀ (key period e kind : Nat) (bytes : Bytes) (ok : Bool) (d : Dev),
    sendEach key period e kind bytes ok d = match d.beat key period 0 with
      | some b => if ok then sendTiming e kind bytes (beatDone key b d) else beatDone key b d
      | none => d) ∧
  (∀ (s : State) (b : BitVec 64), s.dev.pins.stopped = false → s.dev.beat 8 500000000 0 = some b →
    (beatDone 8 b s.dev).flag F.tbStatusSlaveValid = true →
    exec .delayReqSend s = .next { s with
     dev := sendTiming ((beatDone 8 b s.dev).getF F.tbStatusSlave) 1 [] (beatDone 8 b s.dev) })) ∧
  ((∀ s : State, exec .ppsInEdge s = .next { s with
     dev := ((takeFree 6 s.dev).2.setF F.ppsInNt 0
      ((takeFree 6 s.dev).2.nt + BitVec.ofNat 64 ((takeFree 6 s.dev).1.toNat % 33) - 16).toNat).raise F.ppsCtlInSeen }) ∧
  (∀ (s : State) (b : BitVec 64), s.dev.beat 5 8000000000 0 = some b → (s.dev.nt - b).toNat < 8 →
    s.dev.flag F.ppsCtlOutEn = true →
    exec .ppsOutPulse s = .next { s with
     dev := (beatDone 5 b s.dev).modPins (fun x => { x with ppsOut := true, ppsAt := some s.dev.nt }) })) ∧
  (∀ (s : State) (e i j : Nat) (f : Frame), s.dev.pins.stopped = false → e < portCount →
    let r := revokesDone s.dev
    let d := guardDrop e r
    r.txFree e = true → r.mbps e ≠ 0 → r.pins.pwrcycReq = false → (isTeril e = true → (r.link (e - 16)).replay.length < 1024) →
    d.nextItem e = some (i, j) → ((d.port e).q i)[j]? = some f → frameDrop e f d = none →
    exec (.transmitStart e) s = .next { s with dev := startItem e i j f d })

/-- R220, R221, R226, R227, R229, R448: a memory command of a partition that has none in progress runs at once; where its checks pass it
changes the ranges, the grants or the page table and completes with OK, a MEM_HINT that moves pages once they have moved; while one is
in progress the command waits. MEM_QUERY writes one result for each page. R222, R448: a range or a grant with no page of the partition
inside it, and no table frame, goes at once where no migration of a command is queued and no frame of it is still retiring; a range
with pages inside it that the rest of the pool can take queues their migrations and stays until they have ended. -/
def Obligations.MemoryCommandsAct : Prop :=
  ((∀ (s : State) (c : Src) (p first frames : Nat), s.dev.pins.stopped = false → p < 32 → (s.dev.part p).memBusy = none →
    s.dev.pstate p ≠ 0 → s.dev.pstate p ≠ 4 → frames ≠ 0 → first + frames ≤ frameCount →
    (List.range frames).any (fun i => s.dev.frameAbsent (first + i)) = false → (s.dev.part p).ranges.length < 8 →
    (List.range frames).any (fun i => tabGet 0 s.dev.mem.owner (first + i) ≠ 0) = false →
    exec (.memRangeAdd c p first frames) s = .next { s with
     dev := done c 0 (((s.dev.modMem (fun m =>
      { m with owner := (List.range frames).foldl (fun o i => tabSet 0 o (first + i) (p + 1)) m.owner })).modPart p
      (fun x => { x with ranges := x.ranges ++ [(first, frames)] })).addSat F.ptMemUseHbmFrames p frames) }) ∧
  (∀ (s : State) (c : Src) (p grant base pages tgt : Nat), s.dev.pins.stopped = false → p < 32 → (s.dev.part p).memBusy = none →
    s.dev.pstate p ≠ 0 → s.dev.pstate p ≠ 4 → grant ≤ 15 → pages ≠ 0 → base % pageSize = 0 →
    tabFind (s.dev.part p).grants grant = none → (s.dev.part p).grants.length < 16 → tgt ∈ (s.dev.part p).pasids →
    base + pages * pageSize ≤ 2 ^ 48 →
    exec (.memFarAdd c p grant 0 base pages tgt) s = .next { s with
     dev :=
      let d := s.dev.modPart p (fun x =>
        { x with grants := tabPut x.grants grant { kind := 0, base := base, pages := pages, tgt := tgt } })
      done c 0 ((d.setF F.ptMemUseGrants p (min (d.part p).grants.length 15)).addSat F.ptMemUseFarPages p pages) }) ∧
  (∀ (s : State) (c : Src) (p grant base pages tgt : Nat), s.dev.pins.stopped = false → p < 32 → (s.dev.part p).memBusy = none →
    s.dev.pstate p ≠ 0 → s.dev.pstate p ≠ 4 → grant ≤ 15 → pages ≠ 0 → base % pageSize = 0 →
    tabFind (s.dev.part p).grants grant = none → (s.dev.part p).grants.length < 16 → base + pages * pageSize ≤ 2 ^ 48 →
    tgt < 4096 → tgt / 8 = s.dev.getF F.tlSelfFaddr / 8 → tgt ≠ s.dev.getF F.tlSelfFaddr →
    Config.peerLent tgt base pages s.dev.acyc = true →
    exec (.memFarAdd c p grant 1 base pages tgt) s = .next { s with
     dev :=
      let d := s.dev.modPart p (fun x =>
        { x with grants := tabPut x.grants grant { kind := 1, base := base, pages := pages, tgt := tgt } })
      done c 0 ((d.setF F.ptMemUseGrants p (min (d.part p).grants.length 15)).addSat F.ptMemUseFarPages p pages) }) ∧
  (∀ (s : State) (c : Src) (a pages hint die zr : Nat) (places : List (Bool × Nat × Nat)) (tf : List Nat) (q : Pool),
    s.dev.pins.stopped = false →
    let p := s.dev.cpart c
    let l := vPages a pages
    let new := newTables (s.dev.part p) l
    (s.dev.part p).memBusy = none → vRange a pages 1048576 = true → hint ≤ 3 → die ≤ 3 → zr ≤ 1 →
    l.any (fun v => (s.dev.pte p v).isSome) = false →
    (s.dev.pool p).takeTables (tableCount (s.dev.part p) new.length) = some (tf, q) →
    q.placeAll ((List.range pages).map (fun i => (hint, die, i))) = some places → s.dev.noKey p = false →
    exec (.memMap c a pages hint die zr) s = .next { s with
     dev :=
      let d := s.dev.modPart p (fun x => { addTables tf new x with
        pt := (l.zip places).foldl (fun t y => tabPut t y.1
          { far := y.2.1, gen := s.dev.wgen p, mig := false, hint := hint, die := die
            frame := if y.2.1 then 0 else y.2.2.1, grant := if y.2.1 then y.2.2.1 else 0, gpage := y.2.2.2 }) x.pt })
      done c 0 (l.foldl (fun d v => markPage p v d) (if zr = 1 then l.foldl (fun d v => zeroPage p v d) d else d)) }) ∧
  (∀ (s : State) (c : Src) (a pages : Nat), s.dev.pins.stopped = false →
    let p := s.dev.cpart c
    let l := vPages a pages
    (s.dev.part p).memBusy = none → vRange a pages 1048576 = true → l.any (fun v => (s.dev.pte p v).isNone) = false →
    exec (.memUnmap c a pages) s = .next { s with
     dev := done c 0 (tlbDrop p (fun v => l.contains v) ((pinMoves p l s.dev).modPart p (fun x =>
      { x with pt := l.foldl tabDel x.pt
               retiring := x.retiring ++ l.filterMap (fun v => (s.dev.pte p v).map s.dev.retireAt) }))) }) ∧
  (∀ (s : State) (c : Src) (a pages hint die rate : Nat) (places : List (Bool × Nat × Nat)), s.dev.pins.stopped = false →
    let p := s.dev.cpart c
    let l := vPages a pages
    let moved := l.zipIdx.filter (fun v => s.dev.hintUnmet p hint die v.1)
    (s.dev.part p).memBusy = none → vRange a pages 1048576 = true → hint ≤ 3 → die ≤ 3 →
    l.any (fun v => (s.dev.pte p v).isNone) = false →
    (s.dev.pool p).placeAll (moved.map (fun v => (hint, die, v.2))) = some places →
    exec (.memHint c a pages hint die rate) s = .next { s with
     dev :=
      let d := l.foldl (fun d v => markPage p v d) (l.foldl (setHint p hint die) s.dev)
      if moved = [] then done c 0 d else queueMigs p c rate moved d }) ∧
  (∀ (s : State) (c : Src) (a pages result : Nat), s.dev.pins.stopped = false → vRange a pages 64 = true →
    exec (.memQuery c a pages result) s = .next { s with
     dev := done c 0 (hostWrite result ((vPages a pages).flatMap (fun v => queryWord (s.dev.pte (s.dev.cpart c) v))) s.dev) }) ∧
  (∀ (s : State) (c b : Src) (a pages hint die zr rate : Nat), s.dev.pins.stopped = false →
    let p := s.dev.cpart c
    (s.dev.part p).memBusy = some b →
    ∀ i ∈ [Instr.memMap c a pages hint die zr, Instr.memUnmap c a pages, Instr.memHint c a pages hint die rate],
      exec i s = .next { s with dev := s.dev.modPart p (fun x => { x with memWait := x.memWait ++ [i] }) }) ∧
  (∀ (s : State) (c b : Src) (p n m k x y z : Nat), s.dev.pins.stopped = false → p < 32 → (s.dev.part p).memBusy = some b →
    ∀ i ∈ [Instr.memRangeAdd c p n m, Instr.memRangeRemove c p n m, Instr.memFarAdd c p n k x y z, Instr.memFarRemove c p n],
      exec i s = .next { s with dev := s.dev.modPart p (fun x => { x with memWait := x.memWait ++ [i] }) })) ∧
  ((∀ (s : State) (c : Src) (p first frames : Nat), s.dev.pins.stopped = false → p < 32 → (s.dev.part p).memBusy = none →
    s.dev.pstate p ≠ 0 → s.dev.pstate p ≠ 4 → frames ≠ 0 → (first, frames) ∈ (s.dev.part p).ranges →
    tabWf {} s.dev.parts = true → s.dev.pagesInside p first frames = [] → (s.dev.part p).tableFrames = [] → s.dev.mem.mig = [] → (s.dev.part p).retiring = [] →
    ∃ d : Dev, exec (.memRangeRemove c p first frames) s = .next { s with dev := done c 0 d } ∧
      (first, frames) ∉ (d.part p).ranges ∧ (d.part p).memBusy = none ∧
      (∀ f, first ≤ f → f < first + frames → tabGet 0 d.mem.owner f = 0)) ∧
  (∀ (s : State) (c : Src) (p grant : Nat), s.dev.pins.stopped = false → p < 32 → (s.dev.part p).memBusy = none →
    s.dev.pstate p ≠ 0 → s.dev.pstate p ≠ 4 → grant ≤ 15 → (tabFind (s.dev.part p).grants grant).isSome = true →
    tabWf {} s.dev.parts = true → s.dev.pagesInside p (grant + 1) 0 = [] → s.dev.mem.mig = [] → (s.dev.part p).retiring = [] →
    ∃ d : Dev, exec (.memFarRemove c p grant) s = .next { s with dev := done c 0 d } ∧
      tabFind (d.part p).grants grant = none ∧ (d.part p).memBusy = none) ∧
  (∀ (s : State) (c : Src) (p first frames : Nat) (l : List (Bool × Nat × Nat)), s.dev.pins.stopped = false → p < 32 →
    (s.dev.part p).memBusy = none → tabWf {} s.dev.parts = true →
    s.dev.pstate p ≠ 0 → s.dev.pstate p ≠ 4 → frames ≠ 0 → (first, frames) ∈ (s.dev.part p).ranges →
    (s.dev.part p).tableFrames = [] → s.dev.pagesInside p first frames ≠ [] →
    ((s.dev.modPart p (fun x => { x with memGone := some (first, frames) })).pool p).placeAll
      ((s.dev.pagesInside p first frames).map (fun x => match s.dev.pte p x.1 with
        | some e => (e.hint, e.die, x.2)
        | none => (0, 0, 0))) = some l →
    ∃ d : Dev, exec (.memRangeRemove c p first frames) s = .next { s with dev := d } ∧ (d.part p).memBusy = some c ∧
      (d.part p).memGone = some (first, frames) ∧ (d.part p).ranges = (s.dev.part p).ranges ∧
      d.mem.mig = s.dev.mem.mig ++ (s.dev.pagesInside p first frames).map (fun x =>
        { p := p, vpn := x.1, cmd := some c, rate := 0, i := x.2 })))

/-- R214, R216, R217, R228, R229, R370: the migration engine takes the first page that may start and marks it; once the copy's time has
passed, and a peer has sent all of a page that lies there, the page's entry names its new place, the writes held for it are done there,
and the flits and transfers that waited for it are taken; retired frames return; the walker rewrites a page of the old generation; the
scrubber of a die reads its next unit, what it finds noted, at the last unit a pass counted; a bank is refreshed. -/
def Obligations.MemoryEnginesAct : Prop :=
  (∀ (s : State) (m : Mig) (rest : List Mig) (e : Pte) (t : Bool × Nat × Nat) (q : Pool), s.dev.pins.stopped = false →
    s.dev.migOrder = m :: rest → m.target = none → s.dev.migReady m = true → s.dev.pte m.p m.vpn = some e →
    (s.dev.pool m.p).place (if (s.dev.part m.p).memGone.any (fun g => g.2 = 0) then 2 else e.hint) e.die m.i = some (t, q) →
    exec .migrationStart s = .next { s with
     dev := ((setPte m.p m.vpn { e with mig := true } s.dev).modPart m.p (fun x =>
      { x with migUsed := (if (s.dev.part m.p).migUsed.2 = s.dev.interval then (s.dev.part m.p).migUsed.1 + 1 else 1, s.dev.interval) })).modMem
      (fun x => { x with mig := { m with target := some { e with mig := false, far := t.1, frame := if t.1 then 0 else t.2.1
                                                                 grant := if t.1 then t.2.1 else 0, gpage := t.2.2 }
                                         started := s.dev.acyc } :: rest }) }) ∧
  (∀ (s : State) (m : Mig) (rest : List Mig) (e t : Pte), s.dev.pins.stopped = false →
    s.dev.mem.mig = m :: rest → m.target = some t → s.dev.pte m.p m.vpn = some e →
    m.started + s.dev.copyTime m.p e t ≤ s.dev.acyc → s.dev.migAsking = false →
    exec .migrationSwitch s = .next { s with
     dev :=
      let t := { t with gen := e.gen, hint := e.hint, die := e.die, recvOnly := e.recvOnly }
      let d := setPte m.p m.vpn t (copyPage m.p e t s.dev)
      let d := releaseHeld m.p m.vpn (tlbDrop m.p (· = m.vpn) d)
      let d := d.modPart m.p (fun x => { x with retiring := x.retiring ++ [d.retireAt e] })
      let d := migEnded m (edgeProg 10 (pageSize / 64) (d.modMem (fun x => { x with mig := rest })))
      let d := d.teril.held.foldl takeHeld (d.modTeril (fun t => { t with held := [] }))
      (tabKeys d.teril.bulk).foldl (fun d k => bulkFinish (k / 65536) (k % 65536) d) d }) ∧
  (∀ (s : State) (p : Nat), s.dev.pins.stopped = false → p < 32 →
    exec (.frameRelease p) s = .next { s with
     dev :=
      let d := s.dev.modPart p (fun x =>
        { x with retiring := x.retiring.filter (fun r => s.dev.acyc < r.2.2.2 ∨ (r.1 = 0 ∧ s.dev.pinned r.2.1)) })
      if (d.part p).memGone ≠ none ∧ d.memGoing p = false then memNext p (memRemoved p d) else d }) ∧
  (∀ (s : State) (p v : Nat) (r : Rotation) (e : Pte), s.dev.pins.stopped = false → p < 32 → (s.dev.part p).rot = some r →
    let r' := if r.interval = s.dev.interval then r else { r with used := 0, interval := s.dev.interval }
    r'.rate = 0 ∨ r'.used < r'.rate →
    let d := s.dev.modPart p (fun x => { x with rot := some r' })
    d.walkNext p = some (v, e) →
    exec (.walkerPageRewrite p) s = .next { s with dev := rotateEnd p (rewritePage p v e d) }) ∧
  (∀ (s : State) (unit : Nat) (found : MemFinding), s.dev.pins.stopped = false → unit < 4 * dieUnits →
    let die := unit / dieUnits
    s.dev.flag F.memPatrolEnable die = true → unit % dieUnits = tabGet 0 s.dev.mem.patrol die → s.dev.patrolDue die ≤ s.dev.acyc →
    exec (.patrolRead unit found) s = .next { s with
     dev :=
      let d := match found with
        | .clean => s.dev
        | .corrected => strikeUnit unit false s.dev
        | .uncorrectable => strikeUnit unit true s.dev
      let d := unitNote true (.hbm (unit * 64)) d
      let d := d.modMem (fun m =>
        { m with tags := tabMod {} m.tags unit (fun t => { t with ce := false })
                 patrol := tabSet 0 m.patrol die ((unit % dieUnits + 1) % dieUnits)
                 patrolAt := if unit % dieUnits + 1 = dieUnits then tabSet 0 m.patrolAt die d.acyc else m.patrolAt })
      if unit % dieUnits + 1 = dieUnits then d.addSat F.memPatrolPasses die 1 else d }) ∧
  (∀ (s : State) (die stack pc bank : Nat), s.dev.pins.stopped = false → die < 4 → stack < 8 → pc < 64 →
    exec (.bankRefresh die stack pc bank) s = .next { s with
     dev := s.dev.modMem (fun m => { m with refresh := tabSet (0, 0) m.refresh ((die * 8 + stack) * 64 + pc) (bank, s.dev.acyc) }) })

/-- R275: TL_LEND of present frames that nobody has, under a free index, to a borrower of the own tray, lends them; a TL_LEND that is none
of that completes with LEND_BAD (0x97). TL_UNLEND of a lend that stands refuses new accesses at once; any other completes with
LEND_BAD. UNLEND_ZERO of a lend withdrawn 2 ms ago zeroes the frames, unassigns them and completes the TL_UNLEND; any other does
nothing. Each command completes. R288: CKPT_WRITE of a partition's own PASID into enough room writes the header, every HINT-3 page and,
for p0, every carrier record to the host; a foreign PASID or too little room completes with BUF_RANGE (6). CKPT_RESTORE of a
well-formed stream for a partition whose schedule is not armed and whose keys are not rotating puts the pages and the carrier records
back; otherwise it completes with CKPT_STATE (0x9A), BUF_RANGE (6) or CKPT_BAD (0x9B) and changes nothing else. -/
def Obligations.LendsAndCheckpointsAct : Prop :=
  ((∀ (s : State) (c : Src) (i first frames borrower : Nat), s.dev.pins.stopped = false → i ≤ 15 → frames ≠ 0 →
    first + frames ≤ frameCount →
    (∀ k, k < frames → s.dev.frameAbsent (first + k) = false ∧ tabGet 0 s.dev.mem.owner (first + k) = 0) →
    tabFind s.dev.mem.lends i = none → borrower / 8 = s.dev.getF F.tlSelfFaddr / 8 →
    exec (.tlLend c i first frames borrower) s = .next { s with
     dev := done c 0 (s.dev.modMem (fun m =>
      { m with lends := tabPut m.lends i { first := first, frames := frames, borrower := borrower }
               owner := (List.range frames).foldl (fun o k => tabSet 0 o (first + k) (64 + i)) m.owner })) }) ∧
  (∀ (s : State) (c : Src) (i : Nat) (x : Lend), s.dev.pins.stopped = false → tabFind s.dev.mem.lends i = some x →
    x.withdrawn = none →
    exec (.tlUnlend c i) s = .next { s with
     dev := s.dev.modMem (fun m => { m with lends := tabPut m.lends i { x with withdrawn := some (c, s.dev.acyc) } }) }) ∧
  (∀ (s : State) (c : Src) (i first frames borrower : Nat), s.dev.pins.stopped = false →
    (15 < i ∨ frames = 0 ∨ frameCount < first + frames ∨
      (∃ k, k < frames ∧ (s.dev.frameAbsent (first + k) = true ∨ tabGet 0 s.dev.mem.owner (first + k) ≠ 0)) ∨
      (tabFind s.dev.mem.lends i).isSome = true ∨ borrower / 8 ≠ s.dev.getF F.tlSelfFaddr / 8) →
    exec (.tlLend c i first frames borrower) s = .next { s with dev := done c 0x97 s.dev }) ∧
  (∀ (s : State) (c : Src) (i : Nat), s.dev.pins.stopped = false →
    (∀ x, tabFind s.dev.mem.lends i = some x → x.withdrawn.isSome = true) →
    exec (.tlUnlend c i) s = .next { s with dev := done c 0x97 s.dev }) ∧
  (∀ (s : State) (i : Nat), s.dev.pins.stopped = false →
    (∀ x c t, tabFind s.dev.mem.lends i = some x → x.withdrawn = some (c, t) → s.dev.acyc < t + 6000000) →
    exec (.unlendZero i) s = .next s) ∧
  (∀ (s : State) (c : Src) (i t : Nat) (x : Lend), s.dev.pins.stopped = false → tabFind s.dev.mem.lends i = some x →
    x.withdrawn = some (c, t) → t + 6000000 ≤ s.dev.acyc →
    exec (.unlendZero i) s = .next { s with
     dev :=
      let a := x.first * pageSize
      let n := x.frames * pageSize
      done c 0 (s.dev.modMem (fun m =>
        { m with hbm := memZero m.hbm a n, tags := tabDrop m.tags (a / 64) (n / 64), lends := tabDel m.lends i
                 owner := tabDrop m.owner x.first x.frames })) })) ∧
  ((∀ (s : State) (c : Src) (p host pasid len : Nat), s.dev.pins.stopped = false → p < 32 →
    let pages := (s.dev.part p).pt.filter (fun e => e.2.hint = 3)
    let cars := if p = 0 then s.dev.carrierList else []
    let fits : Prop := s.dev.pasidOk p pasid = true ∧ 64 + pages.length * (64 + pageSize) + 256 * cars.length ≤ len
    (fits → exec (.ckptWrite c p host pasid len) s = .next { s with
     dev := done c 0 (hostWrite host (leBytes 4 0x54504B43 ++ leBytes 4 (3 + s.dev.getF F.tlSelfFaddr * 65536) ++
      leBytes 8 s.dev.nt.toNat ++ leBytes 4 p ++ leBytes 4 pages.length ++ leBytes 4 cars.length ++ zeros 36 ++
      pages.flatMap (ckptPage s.dev p) ++ cars.flatMap (ckptCarrier s.dev)) s.dev) }) ∧
    (¬ fits → exec (.ckptWrite c p host pasid len) s = .next { s with dev := done c 6 s.dev })) ∧
  (∀ (s : State) (c : Src) (p host pasid len : Nat), s.dev.pins.stopped = false → p < 32 →
    let busy : Prop := (3 ≤ s.dev.esState p ∧ s.dev.esState p ≤ 6) ∨ (s.dev.part p).rot.isSome = true
    (busy → exec (.ckptRestore c p host pasid len) s = .next { s with dev := done c 0x9A s.dev }) ∧
    (¬ busy → s.dev.pasidOk p pasid = false → exec (.ckptRestore c p host pasid len) s = .next { s with dev := done c 6 s.dev }) ∧
    (¬ busy → s.dev.pasidOk p pasid = true → ckptOk s.dev p host len = false →
      exec (.ckptRestore c p host pasid len) s = .next { s with dev := done c 0x9B s.dev }) ∧
    (¬ busy → s.dev.pasidOk p pasid = true → ckptOk s.dev p host len = true →
      exec (.ckptRestore c p host pasid len) s = .next { s with
       dev :=
        let h := s.dev.hostRead host 64
        done c 0 ((List.range (fld h 0x18 15 0)).foldl (ckptRecord (host + 64 + at_ h 0x14 4 * (64 + pageSize)))
          ((List.range (at_ h 0x14 4)).foldl (ckptPut p host) s.dev)) })))

/-- R279, R280, R285: MIRROR_SET names a partner and starts PAIRING, or with 0 turns the pair OFF; MIRROR_MAP maps a partition, p0 only to
p0; MIRROR_TAKEOVER ends the receiving of each named partition, makes its pages writable, for p0 loads the carrier records, returns a
horizon for each, in ascending order, and sets TAKEOVER. Values out of range complete with MIR_BAD (0x98), a pair that is OFF with
MIR_STATE (0x99), with no effect. The events of the pair move its state, or in any other state change nothing. R281 to R285, R256:
while the pair is ACTIVE, the device not fenced, the rate cap kept and the mover free to issue, the oldest dirty chunk of a HINT-3 page
of a mirrored partition that is not being frozen is read and sent in its flits on one link of the mask; where one of these conditions
of the pair or of the mover does not hold, nothing is sent. Chunks with no acknowledgement within 1 ms are dirty again. At each
multiple of 10 µs the horizons go out. On a link that is UP, a flit of the partner for this device is taken: an acknowledgement makes
the chunk clean, horizons are noted for the partitions not taken over, page data is stored, and a carrier record is kept. -/
def Obligations.MirrorPairActs : Prop :=
  ((∀ (s : State) (c : Src) (partner links cap : Nat), s.dev.pins.stopped = false →
    let bad : Prop := 4095 < partner ∨ (partner ≠ 0 ∧ (partner = s.dev.getF F.tlSelfFaddr ∨ cap = 0 ∨ 200 < cap ∨ 65535 < links ∨
      s.dev.terilGbs < cap + sumL ((List.range 32).map (fun p => regRate (s.dev.regWord p 8)))))
    let d := s.dev.modTeril (fun t => { t with mirLinks := links, mirCap := cap, dirty := [], copying := [], mirAt := s.dev.nt })
    (bad → exec (.mirrorSet c partner links cap) s = .next { s with dev := done c 0x98 s.dev }) ∧
    (¬ bad → partner ≠ 0 → exec (.mirrorSet c partner links cap) s = .next { s with
     dev := done c 0 ((d.setF F.tlMirStatusPartner 0 partner).setF F.tlMirStatusState 0 1) }) ∧
    (partner = 0 → exec (.mirrorSet c partner links cap) s = .next { s with
     dev := done c 0 ((d.setF F.tlMirStatusPartner 0 0).setF F.tlMirStatusState 0 0) })) ∧
  (∀ (s : State) (c : Src) (p q : Nat), s.dev.pins.stopped = false →
    let bad : Prop := 31 < p ∨ 31 < q ∨ (p = 0 ∧ q ≠ 0) ∨ (p ≠ 0 ∧ q = 0) ∨ (p ≠ 0 ∧ s.dev.pstate p = 0)
    (bad → exec (.mirrorMap c p q) s = .next { s with dev := done c 0x98 s.dev }) ∧
    (¬ bad → s.dev.mirSt = 0 → exec (.mirrorMap c p q) s = .next { s with dev := done c 0x99 s.dev }) ∧
    (¬ bad → s.dev.mirSt ≠ 0 → exec (.mirrorMap c p q) s = .next { s with
     dev := done c 0 (markPart p ((s.dev.modPart p (fun x => { x with mirror := some q })).modTeril
      (fun t => { t with taken := t.taken.filter (· ≠ p) }))) })) ∧
  (∀ (s : State) (c : Src) (mask : BitVec 32) (result : Nat), s.dev.pins.stopped = false →
    let ps := (List.range 32).filter (fun p => mask.getLsbD p)
    let bad : Prop := ∃ p ∈ ps, p ≠ 0 ∧ s.dev.pstate p = 0
    (bad → exec (.mirrorTakeover c mask result) s = .next { s with dev := done c 0x98 s.dev }) ∧
    (¬ bad → s.dev.mirSt = 0 → exec (.mirrorTakeover c mask result) s = .next { s with dev := done c 0x99 s.dev }) ∧
    (¬ bad → s.dev.mirSt ≠ 0 → exec (.mirrorTakeover c mask result) s = .next { s with
     dev :=
      let d := s.dev.modTeril (fun t =>
        { t with taken := ps ++ t.taken.filter (fun p => ! ps.contains p)
                 dirty := t.dirty.filter (fun x => ! ps.contains x.1), copying := t.copying.filter (fun x => ! ps.contains x.1) })
      let d := ps.foldl (fun d p => d.modPart p (fun x => { x with pt := x.pt.map (fun e => (e.1, { e.2 with recvOnly := false })) })) d
      let d := if mask.getLsbD 0 then d.teril.records.foldl (fun d r => loadRecord r.1 r.2 d) d else d
      done c 0 ((hostWrite result (ps.flatMap (fun p => leBytes 8 (d.getF F.tlMirHorizonH p))) d).raise F.tlMirStatusTakeover) })) ∧
  (∀ s : State, s.dev.pins.stopped = false →
    (s.dev.mirSt = 1 → exec .mirrorPaired s = .next { s with dev := markAll (s.dev.setF F.tlMirStatusState 0 2) }) ∧
    (s.dev.mirSt ≠ 1 → exec .mirrorPaired s = .next s) ∧
    (s.dev.mirSt = 2 →
      exec .mirrorPartnerLost s = .next { s with dev := (s.dev.setF F.tlMirStatusState 0 3).raise F.tlMirStatusBroken }) ∧
    (s.dev.mirSt ≠ 2 → exec .mirrorPartnerLost s = .next s) ∧
    (∀ m, s.dev.mirSt = 3 → s.dev.teril.members = some m → s.dev.getF F.tlMirStatusPartner ∈ m → s.dev.fenced = false →
      exec .mirrorPartnerRegained s = .next { s with dev := s.dev.setF F.tlMirStatusState 0 1 }) ∧
    ((s.dev.mirSt ≠ 3 ∨ s.dev.fenced = true ∨ ∀ m, s.dev.teril.members = some m → s.dev.getF F.tlMirStatusPartner ∉ m) →
      exec .mirrorPartnerRegained s = .next s))) ∧
  ((∀ (s : State) (p vpn chunk q l : Nat) (t : BitVec 64) (rest : List (Nat × Nat × Nat × BitVec 64)) (ls : List Nat) (e : Pte),
    s.dev.pins.stopped = false → s.dev.copyOrder = (p, vpn, chunk, t) :: rest →
    s.dev.dataLinks s.dev.teril.mirLinks = l :: ls → s.dev.mirSt = 2 → s.dev.fenced = false →
    reached s.dev s.dev.teril.mirAt = true → s.dev.mayIssue 9 p = true →
    let d := s.dev.modTeril (fun x => { x with dirty := x.dirty.erase (p, vpn, chunk, t) })
    d.mirrorOf p = some q → d.pte p vpn = some e → e.hint = 3 →
    exec .mirrorChunkCopy s = .next { s with
     dev :=
      let link := ((l :: ls)[chunk % (ls.length + 1)]?).getD l
      let d := (edgeProg 9 1024 d).modTeril (fun x =>
        { x with copying := x.copying ++ [(p, vpn, chunk, t, d.nt)], mirAt := later d.nt (ceilDiv (65536 * 8) (max 1 x.mirCap)) })
      sendChunk p vpn chunk q e link (xlate 5 0 p (vpn * pageSize + chunk * 65536) 65536 d) }) ∧
  (∀ s : State, s.dev.pins.stopped = false →
    (s.dev.copyOrder = [] ∨ s.dev.dataLinks s.dev.teril.mirLinks = [] ∨ s.dev.mirSt ≠ 2 ∨ s.dev.fenced = true ∨
      reached s.dev s.dev.teril.mirAt = false) →
    exec .mirrorChunkCopy s = .next s) ∧
  (∀ s : State, s.dev.pins.stopped = false → exec .mirrorAckTimeout s = .next { s with
    dev := s.dev.modTeril (fun t =>
      let back := (t.copying.filter (fun x => reached s.dev (later x.2.2.2.2 8000000))).map (fun x => (x.1, x.2.1, x.2.2.1, x.2.2.2.1))
      { t with copying := t.copying.filter (fun x => ! reached s.dev (later x.2.2.2.2 8000000))
               dirty := back ++ t.dirty.filter (fun x =>
                ! back.any (fun y => decide (y.1 = x.1 ∧ y.2.1 = x.2.1 ∧ y.2.2.1 = x.2.2.1))) }) }) ∧
  (∀ (s : State) (b : BitVec 64), s.dev.pins.stopped = false → s.dev.beat 6 80000 0 = some b → s.dev.mirSt = 2 →
    exec .mirrorHorizonSend s = .next { s with
     dev := sendFlit s.dev.teril.mirLinks 1 (hdrOf [(0, 8), (4, s.dev.getF F.tlMirStatusPartner), (16, s.dev.getF F.tlSelfFaddr), (28, 5)])
      ((List.range 32).flatMap (fun q => leBytes 8 (s.dev.horizonInto q))) (beatDone 6 b s.dev) }) ∧
  (∀ s : State, s.dev.pins.stopped = false → s.dev.beat 6 80000 0 = none → exec .mirrorHorizonSend s = .next s) ∧
  (∀ (s : State) (l : Nat) (hdr : BitVec 96) (b : Bytes), s.dev.pins.stopped = false → l < 16 →
    s.dev.flag F.tlLinkStatusUp l = true → hf hdr 15 4 = s.dev.getF F.tlSelfFaddr →
    let d := flitIn l s.dev
    d.fromPartner hdr = true →
    (hf hdr 3 0 = 8 → hSub hdr = 6 → exec (.mirrorAckReceive l hdr b) s = .next { s with
     dev := d.modTeril (fun t => { t with copying := t.copying.filter (fun x =>
      ¬ (x.2.1 = at_ b 0 8 / pageSize ∧ x.2.2.1 = at_ b 0 8 % pageSize / 65536 ∧ d.mirrorOf x.1 = some (at_ b 8 1))) }) }) ∧
    (hf hdr 3 0 = 8 → hSub hdr = 5 → exec (.mirrorHorizonReceive l hdr b) s = .next { s with
     dev := (List.range 32).foldl (fun d q =>
      if at_ b (8 * q) 8 = 0 ∨ d.teril.taken.contains q then d else d.setF F.tlMirHorizonH q (at_ b (8 * q) 8)) d }) ∧
    (hf hdr 3 0 = 6 → hf hdr 95 78 = 0 → d.refuses (some (hf hdr 27 16)) = false → d.teril.taken.contains (hf hdr 32 28) = false →
      Config.recordIndex (BitVec.ofNat 42 (hf hdr 75 34)) = none → exec (.mirrorReceive l hdr b) s = .next { s with
     dev := mirrorData (hf hdr 32 28) (hf hdr 75 34) (hf hdr 77 76 + 1) (hdr.getLsbD 33) (b.take (64 * (hf hdr 77 76 + 1))) hdr d }) ∧
    (∀ k i r, hf hdr 3 0 = 6 → hf hdr 95 78 = 0 → d.refuses (some (hf hdr 27 16)) = false → d.teril.taken.contains (hf hdr 32 28) = false →
      Config.recordIndex (BitVec.ofNat 42 (hf hdr 75 34)) = some k → Config.recordOf b = some (i, r) →
      exec (.mirrorReceive l hdr b) s = .next { s with
     dev := d.modTeril (fun t => { t with records := tabPut t.records i r }) })))

/-- R257, R399: on a link in service a data flit for this device that keeps its format and whose source is a confirmed member is accepted,
acknowledged and taken by its row: exchange data (that of a role and slot expected in the slot's next consuming epoch is written and
counted in the slot; that of another epoch or instance sets ES_STATUS.STALE and is counted in ES_DROP), release notices, requests,
replies, bulk data. A reply, or an acknowledgement of a bulk transfer, that answers no request of this device is ignored. R257, R399:
on a link in service a flit for another device, and a data flit while the device is FENCED or before its first MEMBER_CONFIRM, is
accepted by the link, then dropped and counted in TL_DROP, whatever its row; the source of a request, reply, bulk or mirror flit that
is no confirmed member gets a stale notice as well. On a link that is not in service nothing arrives. -/
def Obligations.FabricFlitsAreTaken : Prop :=
  (∀ (s : State) (l : Nat) (hdr : BitVec 96) (b : Bytes), s.dev.pins.stopped = false → l < 16 →
    s.dev.flag F.tlLinkStatusUp l = true → hf hdr 15 4 = s.dev.getF F.tlSelfFaddr →
    let d := flitIn l s.dev
    let src := hf hdr 27 16
    let tag := hTag hdr
    (hf hdr 3 0 = 1 → hf hdr 47 47 = 0 → hf hdr 95 92 = 0 → d.refuses (s.dev.codeSrc (hf hdr 31 16)) = false →
      ∀ p role inst a im, d.codeOf (hf hdr 31 16) = some (p, role, inst, a) → (d.sched p).active = some im →
      let slot := hf hdr 44 32
      let cep := hf hdr 46 45
      let key := slot * 2 + cep % 2
      let x := tabGet {} (d.sched p).presence key
      let other := tabGet 0 x.inst role
      let units := hf hdr 91 90 + 1
      ∀ e total c, im.slots.find? (fun s => s.1 = slot) = some (slot, e, total) → d.nextConsuming p slot (cep % 2) = some c →
      (3 ≤ d.esState p → d.esState p ≤ 6 → c % 4 = cep → (other = 0 ∨ other = inst) →
        (Config.xdataTier0 hdr = true ∨ d.vMigrating p (hf hdr 89 48 * 64) (64 * units) = false) →
        exec (.xdataReceive l hdr b) s = .next { s with
         dev := (xdataWrite p im (200 + role, inst, slot) c hdr (b.take (64 * units)) d).modSched p (fun s =>
          { s with presence := tabSet {} s.presence key (received c (e + 1) total role inst units d.acyc x) }) }) ∧
      ((d.esState p < 3 ∨ 6 < d.esState p ∨ c % 4 ≠ cep ∨ (other ≠ 0 ∧ other ≠ inst)) →
        exec (.xdataReceive l hdr b) s = .next { s with dev := evPart p 0x45 0 1 (d.raise F.esStatusStale p) })) ∧
    (hf hdr 3 0 = 1 → hf hdr 47 47 = 0 → hf hdr 95 92 = 0 → d.refuses (s.dev.codeSrc (hf hdr 31 16)) = false →
      exec (.xdataReceive l hdr b) s = .next { s with dev := xdata hdr b d }) ∧
    (hf hdr 3 0 = 2 → 1 ≤ hf hdr 39 32 → hf hdr 39 32 ≤ 64 → hf hdr 47 40 = 0 → hf hdr 95 48 = 0 →
      d.refuses (s.dev.codeSrc (hf hdr 31 16)) = false →
      exec (.xrelReceive l hdr b) s = .next { s with dev := xrel hdr b d }) ∧
    (hf hdr 3 0 = 3 → hf hdr 95 62 = 0 → bodyOk b = true → d.refuses (some src) = false →
      exec (.mreqReceive l hdr b) s = .next { s with dev := mreq hdr b d }) ∧
    (∀ r, hf hdr 3 0 = 4 → hf hdr 95 52 = 0 → d.refuses (some src) = false → tabFind d.teril.reqs tag = some r → r.dst = src →
      exec (.mrspReceive l hdr b) s = .next { s with dev := mrsp tag (hf hdr 51 44) b d }) ∧
    (hf hdr 3 0 = 4 → hf hdr 95 52 = 0 → d.refuses (some src) = false → (∀ r, tabFind d.teril.reqs tag = some r → r.dst ≠ src) →
      exec (.mrspReceive l hdr b) s = .next { s with dev := d }) ∧
    (∀ r, hf hdr 3 0 = 5 → hf hdr 95 79 = 0 → d.refuses (some src) = false → tabFind d.teril.reqs tag = some r → r.dst = src →
      r.bulk = true → r.isGet = true →
      exec (.bulkReceive l hdr b) s = .next { s with
       dev := bulkGet tag (hf hdr 75 44) (b.take (64 * (hf hdr 77 76 + 1))) r d }) ∧
    (hf hdr 3 0 = 5 → hf hdr 95 79 = 0 → d.refuses (some src) = false →
      (∀ r, tabFind d.teril.reqs tag = some r → r.dst ≠ src ∨ r.bulk = false ∨ r.isGet = false) →
      exec (.bulkReceive l hdr b) s = .next { s with
       dev := bulkPut src tag (hf hdr 75 44) (hdr.getLsbD 78) (b.take (64 * (hf hdr 77 76 + 1))) d }) ∧
    (∀ r, hf hdr 3 0 = 8 → hSub hdr = 7 → tabFind d.teril.reqs (at_ b 0 2) = some r → r.dst = src → r.bulk = true → r.isGet = false →
      exec (.bulkAckReceive l hdr b) s = .next { s with dev := resolveReq (at_ b 0 2) 0 0 d }) ∧
    (hf hdr 3 0 = 8 → hSub hdr = 7 →
      (∀ r, tabFind d.teril.reqs (at_ b 0 2) = some r → r.dst ≠ src ∨ r.bulk = false ∨ r.isGet = true) →
      exec (.bulkAckReceive l hdr b) s = .next { s with dev := d })) ∧
  ((∀ (s : State) (l : Nat) (hdr : BitVec 96) (b : Bytes), s.dev.pins.stopped = false → l < 16 →
    s.dev.flag F.tlLinkStatusUp l = true → hf hdr 15 4 ≠ s.dev.getF F.tlSelfFaddr →
    let t : Res := .next { s with dev := evEdge 0xC0 0 1 (flitIn l s.dev) }
    exec (.flitRefused l hdr b) s = t ∧ exec (.xdataReceive l hdr b) s = t ∧ exec (.xrelReceive l hdr b) s = t ∧
      exec (.mreqReceive l hdr b) s = t ∧ exec (.mrspReceive l hdr b) s = t ∧ exec (.bulkReceive l hdr b) s = t ∧
      exec (.mirrorReceive l hdr b) s = t) ∧
  (∀ (s : State) (l : Nat) (hdr : BitVec 96) (b : Bytes), s.dev.pins.stopped = false → l < 16 →
    s.dev.flag F.tlLinkStatusUp l = true → s.dev.fenced = true ∨ s.dev.teril.members = none →
    let t : Res := .next { s with dev := evEdge 0xC0 0 1 (flitIn l s.dev) }
    exec (.flitRefused l hdr b) s = t ∧ exec (.xdataReceive l hdr b) s = t ∧ exec (.xrelReceive l hdr b) s = t ∧
      exec (.mreqReceive l hdr b) s = t ∧ exec (.mrspReceive l hdr b) s = t ∧ exec (.bulkReceive l hdr b) s = t ∧
      exec (.mirrorReceive l hdr b) s = t) ∧
  (∀ (s : State) (l : Nat) (hdr : BitVec 96) (b : Bytes) (m : List Nat), s.dev.pins.stopped = false → l < 16 →
    s.dev.flag F.tlLinkStatusUp l = true → hf hdr 15 4 = s.dev.getF F.tlSelfFaddr → s.dev.fenced = false →
    s.dev.teril.members = some m → hf hdr 27 16 ∉ m →
    let t : Res := .next { s with dev := staleNotice (hf hdr 27 16) (evEdge 0xC0 0 1 (flitIn l s.dev)) }
    (3 ≤ hf hdr 3 0 → hf hdr 3 0 ≤ 6 → exec (.flitRefused l hdr b) s = t) ∧
    (hf hdr 3 0 = 3 → hf hdr 95 62 = 0 → bodyOk b = true → exec (.mreqReceive l hdr b) s = t) ∧
    (hf hdr 3 0 = 4 → hf hdr 95 52 = 0 → exec (.mrspReceive l hdr b) s = t) ∧
    (hf hdr 3 0 = 5 → hf hdr 95 79 = 0 → exec (.bulkReceive l hdr b) s = t) ∧
    (hf hdr 3 0 = 6 → hf hdr 95 78 = 0 → exec (.mirrorReceive l hdr b) s = t)) ∧
  (∀ (s : State) (l : Nat) (hdr : BitVec 96) (b : Bytes), s.dev.pins.stopped = false → s.dev.flag F.tlLinkStatusUp l = false →
    exec (.flitRefused l hdr b) s = .next s ∧ exec (.xdataReceive l hdr b) s = .next s ∧ exec (.xrelReceive l hdr b) s = .next s ∧
      exec (.mreqReceive l hdr b) s = .next s ∧ exec (.mrspReceive l hdr b) s = .next s ∧ exec (.bulkReceive l hdr b) s = .next s ∧
      exec (.mirrorReceive l hdr b) s = .next s ∧ exec (.mirrorAckReceive l hdr b) s = .next s ∧
      exec (.mirrorHorizonReceive l hdr b) s = .next s ∧ exec (.bulkAckReceive l hdr b) s = .next s))

/-- R258 to R260, R399, R400: what the link protocol receives on a link in service. A flit that fails its CRC sets CRC and is named in a
NAK, again when its replay fails; an acknowledgement releases the flits up to its count and returns their credits; a NAK has the flits
from its count on sent again, up to 8 times; a handover request is answered with the count last accepted; a handover response moves the
rest to the other links that join the devices; a stale notice of a later epoch fences the device, another does nothing more than
arrive. -/
def Obligations.LinkProtocolActs : Prop :=
  (∀ (s : State) (l : Nat), s.dev.pins.stopped = false → l < 16 → s.dev.flag F.tlLinkStatusUp l = true →
    exec (.flitCrcFail l) s = .next { s with
     dev := emit (.control l 1 ((s.dev.raise F.tlLinkStatusCrc l).link l).rx)
      ((s.dev.raise F.tlLinkStatusCrc l).modLink l (fun x => { x with naked := true })) }) ∧
  (∀ (s : State) (l count : Nat), s.dev.pins.stopped = false → l < 16 →
    let gone := (s.dev.link l).replay.filter (fun x => countLe x.1 count)
    (gone ≠ [] → exec (.ackReceive l count) s = .next { s with
     dev := s.dev.modLink l (fun x =>
      { x with replay := x.replay.filter (fun y => ! countLe y.1 count), tries := 0, ackAt := s.dev.acyc
               used := gone.foldl (fun u y => tabMod 0 u y.2.queue (· - 1)) x.used }) }) ∧
    (gone = [] → exec (.ackReceive l count) s = .next s)) ∧
  (∀ (s : State) (l count : Nat), s.dev.pins.stopped = false → l < 16 → count < 65536 →
    let d := ackTo l (count + 65535) s.dev
    let t := d.modLink l (fun x => { x with tries := x.tries + 1 })
    (∀ f r, (d.link l).replay = (count, f) :: r → (t.link l).tries ≤ 8 →
      exec (.nakReceive l count) s = .next { s with
       dev :=
        let d := evEdge 0xC2 l 1 (health 2 1 ((t.raise F.tlLinkStatusReplay l).addSat F.tlLinkStatusReplays l 1))
        (d.link l).replay.foldl (fun d x => emit (.frame (16 + l) x.2) d) d }) ∧
    (∀ f r, (d.link l).replay = (count, f) :: r → 8 < (t.link l).tries → exec (.nakReceive l count) s = .next { s with dev := t }) ∧
    ((∀ f r, (d.link l).replay ≠ (count, f) :: r) → exec (.nakReceive l count) s = .next { s with dev := d })) ∧
  (∀ (s : State) (l dead : Nat), s.dev.pins.stopped = false → l < 16 → dead < 16 → s.dev.flag F.tlLinkStatusUp l = true →
    exec (.handoverRequest l dead) s = .next { s with
     dev := sendHandover l 1 dead (((s.dev.link dead).rx + 65535) % 65536) (flitIn l s.dev) }) ∧
  (∀ (s : State) (l dead count : Nat), s.dev.pins.stopped = false → l < 16 → dead < 16 → s.dev.flag F.tlLinkStatusUp l = true →
    s.dev.flag F.tlLinkStatusUp dead = false →
    let d := flitIn l s.dev
    let left := (d.link dead).replay.filter (fun x => ! countLe x.1 count)
    (d.mates dead ≠ [] →
      exec (.handoverResponse l dead count) s = .next { s with
       dev :=
        let d := requeue (d.mates dead)
          (left.map (fun x => { x.2 with send := none }) ++ (List.range 8).flatMap (fun q => (d.port (16 + dead)).q q))
          ((d.modLink dead (fun x => { x with replay := [], tries := 0, used := [] })).modPort (16 + dead)
            (fun p => { p with queues := [] }))
        if left = [] then d else health 2 1 (d.raise F.tlLinkStatusHandover dead) }) ∧
    (d.mates dead = [] → exec (.handoverResponse l dead count) s = .next { s with dev := d })) ∧
  (∀ (s : State) (l : Nat) (epoch : BitVec 32), s.dev.pins.stopped = false → l < 16 → s.dev.flag F.tlLinkStatusUp l = true →
    exec (.staleNoticeReceive l epoch) s = .next { s with
     dev := if s.dev.getF F.fhMemberMepoch < epoch.toNat then enterFenced (flitIn l s.dev) else flitIn l s.dev })

/-- R259, R412 to R418, R158, R21: a lost link leaves service and retrains; a link or port that is not lost, not waiting or not in its
phase is left as it is. The phases of a Teril link lead from training through the screen to service, a failed one to the next
configuration; a fronthaul port trains, and waits for its retry after a failed phase; the measurement of the PCIe link is shown in
entry 32. A RETRAIN write sets the plan and, with its bit 3, retrains; a new quad mode restarts its four ports; under the setup lock
the write is only counted. R321: HI_LINK shows the trained link: UP, its generation, its width and flit mode; all of them 0 once it is
down. -/
def Obligations.LinksAndPortsTrain : Prop :=
  ((∀ (s : State) (l : Nat), s.dev.pins.stopped = false → l < 16 →
    (s.dev.flag F.tlLinkStatusUp l = true → s.dev.linkLost l = true →
      exec (.linkDown l) s = .next { s with dev := trainLink l (leaveService l s.dev) }) ∧
    ((s.dev.flag F.tlLinkStatusUp l = false ∨ s.dev.linkLost l = false) → exec (.linkDown l) s = .next s)) ∧
  (∀ (s : State) (l pre post : Nat), s.dev.pins.stopped = false → l < 16 →
    let st := s.dev.getF F.qsLinkState (16 + l)
    let ph := (s.dev.link l).phase
    let up := s.dev.flag F.tlLinkStatusUp l
    let inPhase := fun k => s.dev.modLink l (fun x => { x with phase := k })
    (ph = 0 → st = 1 → exec (.linkPhaseEnd (16 + l) true pre post) s = .next { s with dev := (inPhase 1).setF F.qsLinkState (16 + l) 2 }) ∧
    (ph = 1 → ((s.dev.link l).again = true → up = true) →
      exec (.linkPhaseEnd (16 + l) true pre post) s = .next { s with dev := noteFec l pre post (inPhase 2) }) ∧
    (ph = 1 → (s.dev.link l).again = true → up = false →
      exec (.linkPhaseEnd (16 + l) true pre post) s = .next { s with dev := enterService l (noteFec l pre post (inPhase 2)) }) ∧
    (ph = 2 → exec (.linkPhaseEnd (16 + l) true pre post) s = .next { s with
      dev := if up then noteFec l pre post (inPhase 3) else enterService l (noteFec l pre post (inPhase 3)) }) ∧
    (st ≠ 0 → st ≠ 6 → ph = 0 → exec (.linkPhaseEnd (16 + l) false pre post) s = .next { s with
      dev := tryConf l ((s.dev.link l).conf + 1) (leaveService l s.dev) }) ∧
    (∀ r, r = noteFec l pre post s.dev → r.getF F.qsLinkState (16 + l) ≠ 0 → r.getF F.qsLinkState (16 + l) ≠ 6 → ph ≠ 0 →
      exec (.linkPhaseEnd (16 + l) false pre post) s = .next { s with dev := tryConf l ((s.dev.link l).conf + 1) (leaveService l r) }) ∧
    (st = 1 → ph = 0 →
      exec (.trainingTimeout (16 + l)) s = .next { s with dev := tryConf l ((s.dev.link l).conf + 1) (leaveService l s.dev) }) ∧
    (st ≠ 1 → exec (.trainingTimeout (16 + l)) s = .next s)) ∧
  (∀ (s : State) (p pre post : Nat), s.dev.pins.stopped = false → p < 16 → s.dev.fhMbps p ≠ 0 →
    let st := s.dev.getF F.qsLinkState p
    let ph := tabGet 0 s.dev.fhPhase p
    let inPhase := fun k => ({ s.dev with fhPhase := tabSet 0 s.dev.fhPhase p k } : Dev)
    let note := fun (d : Dev) => (d.setF F.qsLinkPrefec p (min (pre / 1024) 0xFFFFFF)).setF F.qsLinkPostfec p (min post 255)
    let once := tabGet false s.dev.fhOnce p
    ((st = 1 ∨ st = 2) → s.dev.flag F.fhPortStatusUp p = false →
      (ph = 0 → exec (.linkPhaseEnd p true pre post) s = .next { s with dev := (inPhase 1).setF F.qsLinkState p 2 }) ∧
      (ph = 0 → exec (.linkPhaseEnd p false pre post) s = .next { s with dev := s.dev.setF F.qsLinkState p 6 }) ∧
      (ph ≠ 0 → exec (.linkPhaseEnd p false pre post) s = .next { s with dev := (note s.dev).setF F.qsLinkState p 6 }) ∧
      (ph = 1 → exec (.linkPhaseEnd p true pre post) s = .next { s with
        dev :=
          let d : Dev := { note s.dev with fhPhase := tabSet 0 (note s.dev).fhPhase p 2 }
          if once then fhEnter p d else d }) ∧
      (ph = 2 → exec (.linkPhaseEnd p true pre post) s = .next { s with
        dev := fhEnter p { note s.dev with fhPhase := tabSet 0 (note s.dev).fhPhase p 3 } })) ∧
    (st = 1 → ph = 0 → s.dev.flag F.fhPortStatusUp p = false →
      exec (.trainingTimeout p) s = .next { s with dev := s.dev.setF F.qsLinkState p 6 })) ∧
  (∀ (s : State) (pass : Bool) (pre post : Nat), s.dev.pins.stopped = false →
    exec (.linkPhaseEnd 32 pass pre post) s = .next { s with
     dev :=
      let d := (s.dev.setF F.qsLinkPrefec 32 (min (pre / 1024) 0xFFFFFF)).setF F.qsLinkPostfec 32 (min post 255)
      let d := (d.setF F.qsLinkGen 32 (d.getF F.hiLinkGen)).setF F.qsLinkLanes 32 (d.getF F.hiLinkWidth)
      d.setF F.qsLinkState 32 (if pass ∧ d.getF F.hiLinkGen = 7 ∧ d.getF F.hiLinkWidth = 16 then 3 else 4) }) ∧
  (∀ (s : State) (l : Nat) (v : BitVec 32), s.dev.pins.stopped = false → l < 16 →
    let d := (s.dev.setF F.qsTlPlanPlanHalf l (bitsOf v.toNat 2 2)).setF F.qsTlPlanPlanWidth l (bitsOf v.toNat 1 0)
    exec (.retrain l v) s = .next { s with dev := if v.getLsbD 3 then trainLink l (leaveService l d) else d }) ∧
  (∀ (s : State) (p : Nat), s.dev.pins.stopped = false → p < 16 →
    exec (.fhPortDown p) s = .next { s with
      dev := if s.dev.flag F.fhPortStatusUp p then trainFh p (fhLeave p s.dev) else s.dev }) ∧
  (∀ (s : State) (p : Nat), s.dev.pins.stopped = false → p < 16 →
    exec (.portRetry p) s = .next { s with dev := if s.dev.getF F.qsLinkState p = 6 then trainFh p s.dev else s.dev }) ∧
  (∀ (s : State) (q : Nat) (v : BitVec 32), s.dev.pins.stopped = false → q < 4 →
    let d := (s.dev.setF F.fhQuadCfgMtu q (bitsOf v.toNat F.fhQuadCfgMtu.hi F.fhQuadCfgMtu.lo)).setF F.fhQuadCfgMode q
      (bitsOf v.toNat F.fhQuadCfgMode.hi F.fhQuadCfgMode.lo)
    (s.dev.locked = true → exec (.quadModeSet q v) s = .next { s with dev := s.dev.addSat F.setupLockLockedWrites 0 1 }) ∧
    (s.dev.locked = false → exec (.quadModeSet q v) s = .next { s with
     dev := if d.getF F.fhQuadCfgMode q = s.dev.getF F.fhQuadCfgMode q then d
      else (List.range 4).foldl (fun d i => trainFh (4 * q + i) (fhLeave (4 * q + i) d)) d }))) ∧
  (∀ (s : State) (flit : Bool) (gen width : Nat), s.dev.pins.stopped = false →
    exec (.pcieLinkChange true flit gen width) s = .next { s with
     dev := (((s.dev.setF F.hiLinkUp 0 1).setF F.hiLinkGen 0 gen).setF F.hiLinkWidth 0 width).setF F.hiLinkFlit 0 (if flit then 1 else 0) } ∧
    exec (.pcieLinkChange false flit gen width) s = .next { s with
     dev := (((s.dev.setF F.hiLinkUp 0 0).setF F.hiLinkGen 0 0).setF F.hiLinkWidth 0 0).setF F.hiLinkFlit 0 0 })

/-- R272, R278, R389, R400: a request not answered within RTO is sent again with RETRY, while the device is not FENCED and its lifetime has
not ended; at the end of its lifetime a store or atomic resolves with OUTCOME_UNKNOWN and a get with DATA_LOST; a bulk transfer is sent
again twice, then resolves so. Before its time, or for a TAG that is free, each does nothing. Fabric flits of a TAG wait no longer than
2 ms in the queues. -/
def Obligations.RequestsRetryAndExpire : Prop :=
  (∀ (s : State) (tag : Nat) (r : Req), s.dev.pins.stopped = false → tabFind s.dev.teril.reqs tag = some r →
    let retried := { r with retries := r.retries + 1, last := s.dev.nt }
    let again := sendReq tag retried true
      ((s.dev.modTeril (fun t => { t with reqs := tabPut t.reqs tag retried })).raise F.tlRmStatusRetry)
    let open_ : Prop := r.bulk = false ∧ s.dev.fenced = false ∧ s.dev.reqOver r = false ∧ reached s.dev (later r.last s.dev.rto) = true
    (open_ → exec (.requestRetry tag) s = .next { s with dev := again }) ∧
    (¬ open_ → exec (.requestRetry tag) s = .next s) ∧
    (r.bulk = false → s.dev.reqOver r = true →
      exec (.requestLifetimeExpiry tag) s = .next { s with
       dev := if r.isGet then resolveReq tag 0x95 0 (getLost r (farReply 0x95 [] r s.dev))
        else resolveReq tag 0x94 0 (farReply 0x94 [] r s.dev) }) ∧
    ((r.bulk = true ∨ s.dev.reqOver r = false) → exec (.requestLifetimeExpiry tag) s = .next s) ∧
    (r.bulk = true → reached s.dev (later r.last s.dev.gwRto) = true →
      exec (.bulkRetry tag) s = .next { s with
       dev :=
        if r.retries < 2 then
          (if s.dev.fenced then s.dev.modTeril (fun t => { t with reqs := tabPut t.reqs tag retried }) else again)
        else if r.isGet then resolveReq tag 0x95 0 (getLost r s.dev) else resolveReq tag 0x94 0 s.dev }) ∧
    ((r.bulk = false ∨ reached s.dev (later r.last s.dev.gwRto) = false) → exec (.bulkRetry tag) s = .next s)) ∧
  (∀ (s : State) (tag : Nat), s.dev.pins.stopped = false → tabFind s.dev.teril.reqs tag = none →
    exec (.requestRetry tag) s = .next s ∧ exec (.requestLifetimeExpiry tag) s = .next s ∧ exec (.bulkRetry tag) s = .next s) ∧
  (∀ (s : State) (tag : Nat), s.dev.pins.stopped = false →
    exec (.fabricLifetimeExpiry tag) s = .next { s with
     dev :=
      let old := fun (f : Frame) => f.wclass.isNone && decide (3 ≤ f.hdr.toNat % 16 ∧ f.hdr.toNat % 16 ≤ 5) && decide (hTag f.hdr = tag) &&
        reached s.dev (later f.at_ 16000000)
      (List.range 16).foldl (fun d l => d.modPort (16 + l) (fun p =>
        { p with queues := p.queues.filterMap (fun q =>
            let fs := q.2.filter (fun f => ! old f)
            if fs = [] then none else some (q.1, fs)) })) s.dev })

/-- R290, R291, R297, R315, R390: a PART_CREATE whose checks pass makes the partition; PART_REGULATE sets its regulators; PART_DESTROY
completes the waiting resizes and a waiting freeze with PART_STATE (0xAF), counts what it drops, aborts the schedule and begins the
drain barrier; at the barrier's end the cores are scrubbed, or saved for a freeze; PART_RESIZE acts at once unless the schedule runs. A
command whose checks fail completes with its status and does nothing else. -/
def Obligations.PartitionCommandsAct : Prop :=
  (∀ (s : State) (c : Src) (b : Bytes), s.dev.pins.stopped = false →
    (createStatus s.dev b = 0 → exec (.partCreate c b) s = .next { s with dev := done c 0 (partMake (fld b 0 4 0) b s.dev) }) ∧
    (createStatus s.dev b ≠ 0 → exec (.partCreate c b) s = .next { s with dev := done c (createStatus s.dev b) s.dev })) ∧
  (∀ (s : State) (c : Src) (b : Bytes), s.dev.pins.stopped = false →
    let p := fld b 0 4 0
    let wellFormed := rsv b 0 31 6 = true ∧ (List.range 9).all (fun r => regOk (pdReg b r)) = true ∧ (b.drop 0x74).all (· = 0) = true
    let known := p = 0 ∨ s.dev.pstate p ≠ 0
    let admitted := s.dev.admits p (pdReg b) (s.dev.lendHandles ++ s.dev.sgHandles) = true
    (b.length = 128 → wellFormed → known → admitted →
      exec (.partRegulate c b) s = .next { s with
       dev := done c 0 (partView p (s.dev.modPart p (fun x =>
        { x with reg := (List.range 9).foldl (fun t r => tabPut t r (pdReg b r)) [], tokens := [], tokensAt := s.dev.acyc * 2 / 3 }))) }) ∧
    (b.length ≠ 128 → exec (.partRegulate c b) s = .next { s with dev := done c 2 s.dev }) ∧
    (b.length = 128 → ¬ wellFormed → exec (.partRegulate c b) s = .next { s with dev := done c 0xA1 s.dev }) ∧
    (b.length = 128 → wellFormed → ¬ known → exec (.partRegulate c b) s = .next { s with dev := done c 0xA3 s.dev }) ∧
    (b.length = 128 → wellFormed → known → ¬ admitted → exec (.partRegulate c b) s = .next { s with dev := done c 0xA6 s.dev })) ∧
  (∀ (s : State) (c : Src) (p : Nat), s.dev.pins.stopped = false → p < 32 →
    (p = 0 → exec (.partDestroy c p) s = .next { s with dev := done c 0xB3 s.dev }) ∧
    (p ≠ 0 → s.dev.pstate p = 0 → exec (.partDestroy c p) s = .next { s with dev := done c 0xA3 s.dev }) ∧
    (p ≠ 0 → s.dev.pstate p = 4 → exec (.partDestroy c p) s = .next { s with dev := done c 0xAF s.dev }) ∧
    (p ≠ 0 → s.dev.pstate p ≠ 0 → s.dev.pstate p ≠ 4 →
      exec (.partDestroy c p) s = .next { s with
       dev :=
        let d := (tdiTouched p s.dev).setF F.ptPartStateState p 4
        let d := (d.part p).resize.foldl (fun d x => done x.1 0xAF d) (d.modPart p (fun x => { x with resize := [] }))
        let d := match (d.sched p).freezeBy with
          | some f => done f 0xAF (d.modSched p (fun s => { s with freezeBy := none }))
          | none => d
        let d := abortSched p (lateDrops p (List.range 80) d)
        d.modPart p (fun x => { x with destroyBy := some c, barrier := some d.acyc }) })) ∧
  (∀ (s : State) (p : Nat), s.dev.pins.stopped = false → p < 32 →
    let d := s.dev.modPart p (fun x => { x with barrier := none })
    ((s.dev.part p).barrier = none → exec (.drainBarrierComplete p) s = .next s) ∧
    ((s.dev.part p).barrier.isSome = true → d.pstate p = 4 →
      exec (.drainBarrierComplete p) s = .next { s with dev := partSettled p (scrubPart p d) }) ∧
    ((s.dev.part p).barrier.isSome = true → d.pstate p = 2 → exec (.drainBarrierComplete p) s = .next { s with
     dev := partSettled p ((d.occupied p).foldl (fun d g => startSave g d) d) }) ∧
    ((s.dev.part p).barrier.isSome = true → d.pstate p ≠ 2 → d.pstate p ≠ 4 →
      exec (.drainBarrierComplete p) s = .next { s with dev := d })) ∧
  (∀ (s : State) (c : Src) (p h op : Nat), s.dev.pins.stopped = false → p < 32 →
    let d := s.dev.modPart p (fun x => { x with resize := x.resize ++ [(c, h, op)] })
    (resizeStatus s.dev p h op = 0 → exec (.partResize c p h op) s = .next { s with
     dev := if d.esState p = 4 ∨ d.esState p = 5 then d else applyResize p d }) ∧
    (resizeStatus s.dev p h op ≠ 0 → exec (.partResize c p h op) s = .next { s with dev := done c (resizeStatus s.dev p h op) s.dev }))

/-- R316 to R320: a PASID is assigned, or found already assigned; one is released when nothing uses it; a slice is frozen at the end of its
epoch or at once, through the drain barrier; a frozen one is sealed to the host, opened into a partition of the same shape, and thawed.
A command whose checks fail completes with the status of the first that does and changes nothing else. -/
def Obligations.SlicesMove : Prop :=
  (∀ (s : State) (c : Src) (p x : Nat), s.dev.pins.stopped = false → p < 32 →
    let known := p = 0 ∨ s.dev.pstate p ≠ 0
    let held := sumL ((List.range 32).map (fun q => (s.dev.part q).pasids.length))
    (known → x < 2 ^ 20 → s.dev.pasidOwner x = none → held < 256 →
      exec (.sliceAssign c p x) s = .next { s with
       dev := done c 0 (partView p ((tdiTouched p s.dev).modPart p (fun y => { y with pasids := y.pasids ++ [x] }))) }) ∧
    (∀ q, known → x < 2 ^ 20 → s.dev.pasidOwner x = some q →
      exec (.sliceAssign c p x) s = .next { s with dev := done c (if q = p then 0 else 0xA9) s.dev }) ∧
    (¬ known → exec (.sliceAssign c p x) s = .next { s with dev := done c 0xA3 s.dev }) ∧
    (known → (2 ^ 20 ≤ x ∨ (s.dev.pasidOwner x = none ∧ 256 ≤ held)) →
      exec (.sliceAssign c p x) s = .next { s with dev := done c 0xA1 s.dev })) ∧
  (∀ (s : State) (c : Src) (p x : Nat), s.dev.pins.stopped = false → p < 32 →
    let known := p = 0 ∨ s.dev.pstate p ≠ 0
    (known → x ∈ (s.dev.part p).pasids → s.dev.pasidUsed p x = false →
      exec (.sliceRelease c p x) s = .next { s with
       dev := done c 0 (partView p ((tdiTouched p s.dev).modPart p (fun y => { y with pasids := y.pasids.filter (· ≠ x) }))) }) ∧
    (¬ known → exec (.sliceRelease c p x) s = .next { s with dev := done c 0xA3 s.dev }) ∧
    (known → x ∉ (s.dev.part p).pasids → exec (.sliceRelease c p x) s = .next { s with dev := done c 0xA1 s.dev }) ∧
    (known → x ∈ (s.dev.part p).pasids → s.dev.pasidUsed p x = true →
      exec (.sliceRelease c p x) s = .next { s with dev := done c 0xA9 s.dev })) ∧
  (∀ (s : State) (c : Src) (p eX : Nat), s.dev.pins.stopped = false → p < 32 →
    let one := (s.dev.part p).pasids.length ≤ 1
    let quiet := s.dev.pstate p = 1 ∧ (s.dev.part p).rot = none
    let point := s.dev.manyRoles p = false ∨ s.dev.restartAt p (eX + 1) = true
    let d := ((s.dev.setF F.ptPartStateState p 2).modPart p (fun x => { x with frozenAt := eX })).modSched p
      (fun x => { x with freezeBy := some c })
    let begin_ := fun (d : Dev) => d.modPart p (fun x => { x with barrier := some d.acyc })
    (p ≠ 0 → one → quiet → point → 4 ≤ d.esState p → d.esState p ≤ 6 →
      exec (.sliceFreeze c p eX) s = .next { s with dev := stopAtEpoch p eX d }) ∧
    (p ≠ 0 → one → quiet → point → d.esState p = 3 →
      exec (.sliceFreeze c p eX) s = .next { s with dev := begin_ (abortSched p d) }) ∧
    (p ≠ 0 → one → quiet → point → (d.esState p < 3 ∨ 6 < d.esState p) →
      exec (.sliceFreeze c p eX) s = .next { s with dev := begin_ d }) ∧
    (p = 0 → exec (.sliceFreeze c p eX) s = .next { s with dev := done c 0xB3 s.dev }) ∧
    (p ≠ 0 → ¬ one → exec (.sliceFreeze c p eX) s = .next { s with dev := done c 0xB0 s.dev }) ∧
    (p ≠ 0 → one → ¬ quiet → exec (.sliceFreeze c p eX) s = .next { s with dev := done c 0xAF s.dev }) ∧
    (p ≠ 0 → one → quiet → ¬ point → exec (.sliceFreeze c p eX) s = .next { s with dev := done c 0xA1 s.dev })) ∧
  (∀ (s : State) (c : Src) (p host pasid len : Nat), s.dev.pins.stopped = false → p < 32 →
    (∀ k, p ≠ 0 → s.dev.pstate p = 3 → (s.dev.part p).migKey = some k → s.dev.flag F.ptPartStateSaved p = false →
      let room := (Config.sliceSeal k (s.dev.sliceOf p)).length ≤ len
      (s.dev.pasidOk p pasid = true → room → exec (.sliceSave c p host pasid len) s = .next { s with
       dev := done c 0 ((hostWrite host (Config.sliceSeal k (s.dev.sliceOf p)) s.dev).setF F.ptPartStateSaved p 1) }) ∧
      (s.dev.pasidOk p pasid = false → exec (.sliceSave c p host pasid len) s = .next { s with dev := done c 6 s.dev }) ∧
      (s.dev.pasidOk p pasid = true → ¬ room → exec (.sliceSave c p host pasid len) s = .next { s with dev := done c 0xA1 s.dev })) ∧
    (p = 0 → exec (.sliceSave c p host pasid len) s = .next { s with dev := done c 0xB3 s.dev }) ∧
    (p ≠ 0 → (s.dev.pstate p ≠ 3 ∨ (s.dev.part p).migKey = none ∨ s.dev.flag F.ptPartStateSaved p = true) →
      exec (.sliceSave c p host pasid len) s = .next { s with dev := done c 0xAF s.dev })) ∧
  (∀ (s : State) (c : Src) (p host pasid len : Nat), s.dev.pins.stopped = false → p < 32 →
    let empty := s.dev.pstate p = 1 ∧ s.dev.esState p = 0 ∧ (s.dev.part p).pt = []
    (p = 0 → exec (.sliceRestore c p host pasid len) s = .next { s with dev := done c 0xB3 s.dev }) ∧
    (p ≠ 0 → ¬ empty → exec (.sliceRestore c p host pasid len) s = .next { s with dev := done c 0xAF s.dev }) ∧
    (p ≠ 0 → empty → s.dev.pasidOk p pasid = false → exec (.sliceRestore c p host pasid len) s = .next { s with dev := done c 6 s.dev }) ∧
    (p ≠ 0 → empty → s.dev.pasidOk p pasid = true → (s.dev.part p).migKey = none →
      exec (.sliceRestore c p host pasid len) s = .next { s with dev := done c 0xAF s.dev }) ∧
    (∀ k, p ≠ 0 → empty → s.dev.pasidOk p pasid = true → (s.dev.part p).migKey = some k →
      Config.sliceOpen k (s.dev.hostRead host len) = none →
      exec (.sliceRestore c p host pasid len) s = .next { s with dev := done c 0xB1 s.dev }) ∧
    (∀ (k : BitVec 256) (x : Slice), p ≠ 0 → empty → s.dev.pasidOk p pasid = true → (s.dev.part p).migKey = some k →
      Config.sliceOpen k (s.dev.hostRead host len) = some x →
      let fits := x.sizes = (s.dev.part p).groups.map handleSize ∧
        x.grants = ((s.dev.heldGroups p).drop (s.dev.part p).groups.length).map handleSize
      let new := newTables (s.dev.part p) (x.pages.map (·.1))
      let tables := (s.dev.pool p).takeTables (tableCount (s.dev.part p) new.length)
      let placed := fun (q : Pool) => q.placeAll (x.pages.zipIdx.map (fun z => (z.1.2.2.1, z.1.2.2.2.1, z.2)))
      (¬ fits → exec (.sliceRestore c p host pasid len) s = .next { s with dev := done c 0xB2 s.dev }) ∧
      (fits → (tables = none ∨ ∃ tf q, tables = some (tf, q) ∧ placed q = none) →
        exec (.sliceRestore c p host pasid len) s = .next { s with dev := done c 0x63 s.dev }) ∧
      (∀ tf q places, fits → tables = some (tf, q) → placed q = some places →
        exec (.sliceRestore c p host pasid len) s = .next { s with dev := done c 0 (sliceLoad p x tf new places s.dev) }))) ∧
  (∀ (s : State) (c : Src) (p abandon : Nat) (t0 : BitVec 64), s.dev.pins.stopped = false → p < 32 →
    let saved := s.dev.flag F.ptPartStateSaved p
    let may := s.dev.pstate p = 3 ∧ (saved = true → abandon = 1)
    let good := t0.toNat % 800 = 0 ∧ 800000 ≤ (t0 - s.dev.nt).toInt ∧ abandon ≤ 1
    let e := if saved then ((s.dev.modPart p (fun x => { x with migKey := none })).setF F.lgKeysMig p 0).setF F.ptPartStateSaved p 0
      else s.dev
    let d := restorePart p (e.setF F.ptPartStateState p 1)
    (p ≠ 0 → may → good →
      exec (.sliceThaw c p t0 abandon) s = .next { s with
       dev := done c 0 (if d.manyRoles p = false ∧ d.esState p = 7 then
          setEs p 4 (d.modSched p (fun x =>
            { x with t0 := t0, eS := d.epoch p + 1, stopAt := none, endAt := some (x.endAt.getD d.acyc), idleUntil := none }))
        else d) }) ∧
    (p = 0 → exec (.sliceThaw c p t0 abandon) s = .next { s with dev := done c 0xB3 s.dev }) ∧
    (p ≠ 0 → ¬ may → exec (.sliceThaw c p t0 abandon) s = .next { s with dev := done c 0xAF s.dev }) ∧
    (p ≠ 0 → may → ¬ good → exec (.sliceThaw c p t0 abandon) s = .next { s with dev := done c 0xA1 s.dev }))

/-- R302 to R306: a list that passes its checks waits for T_sw, superseding one that waits (0xAD), and becomes active there; a list that
fails completes with its status. A take's notice, its take point, W_on and W_off act on the group's cores when their times are reached,
and not before. A take whose cores are not all scrubbed at W_on is late. -/
def Obligations.LendGroupsAct : Prop :=
  (∀ (s : State) (c : Src) (b : Bytes), s.dev.pins.stopped = false →
    let apply := BitVec.ofNat 64 (at_ b 0x08 8)
    let sized := b.length = 0x80 + 8 * fld b 0 8 0
    let soon := (apply - s.dev.nt).toInt < 1600000
    let admitted := s.dev.admitsLend (s.dev.lgl.groups ++ (lglDesc b).groups ++ s.dev.sgHandles) = true
    let taken := fun (d : Dev) =>
      lendPlan (({ d with lglPend := some (lglDesc b, (d.lglNow.gates 0).nextStart apply, c) } : Dev).setF F.ptLglStatusPending 0 1)
    (sized → lglOk s.dev b = true → ¬ soon → admitted → s.dev.lglPend = none →
      exec (.lglSet c b) s = .next { s with dev := taken s.dev }) ∧
    (∀ l ts old, sized → lglOk s.dev b = true → ¬ soon → admitted → s.dev.lglPend = some (l, ts, old) →
      exec (.lglSet c b) s = .next { s with dev := taken (done old 0xAD s.dev) }) ∧
    (¬ sized → exec (.lglSet c b) s = .next { s with dev := done c 2 s.dev }) ∧
    (sized → lglOk s.dev b = false → exec (.lglSet c b) s = .next { s with dev := done c 0xAB s.dev }) ∧
    (sized → lglOk s.dev b = true → soon → exec (.lglSet c b) s = .next { s with dev := done c 0xAC s.dev }) ∧
    (sized → lglOk s.dev b = true → ¬ soon → ¬ admitted → exec (.lglSet c b) s = .next { s with dev := done c 0xA6 s.dev })) ∧
  (∀ s : State, s.dev.pins.stopped = false →
    (∀ l t c, s.dev.lglPend = some (l, t, c) → reached s.dev t = true →
      exec .lglSwitch s = .next { s with
       dev :=
        let d := lendPlan { s.dev with lgl := l, lglPend := none }
        let d := ((d.setF F.ptLglStatusNlg 0 l.groups.length).setF F.ptLglStatusNent 0 l.ents.length).setF F.ptLglStatusPending 0 0
        done c 0 ((List.range 32).foldl (fun d p => esView p d) (d.setF F.ptLglStatusBank 0 (1 - d.getF F.ptLglStatusBank))) }) ∧
    ((∀ l t c, s.dev.lglPend = some (l, t, c) → reached s.dev t = false) → exec .lglSwitch s = .next s)) ∧
  (∀ (s : State) (i : Nat), s.dev.pins.stopped = false → i < 64 →
    (∀ w, (s.dev.lend i).next = some w → (s.dev.lend i).noticed = false → reached s.dev (w - 276000 - 800000) = true →
      exec (.lendNotice i) s = .next { s with
       dev := (s.dev.lendParts i).foldl (fun d p => report p 4
        (leBytes 8 (w - 276000).toNat ++ leBytes 8 w.toNat ++ leBytes 8 (s.dev.offAfter (s.dev.lend i).handle w).toNat ++
          leBytes 8 (s.dev.lend i).handle) (d.wr .ptLendNext p (w - 276000)))
        (s.dev.modLend i (fun x => { x with noticed := true })) }) ∧
    ((∀ w, (s.dev.lend i).next = some w → (s.dev.lend i).noticed = true ∨ reached s.dev (w - 276000 - 800000) = false) →
      exec (.lendNotice i) s = .next s)) ∧
  (∀ (s : State) (i : Nat), s.dev.pins.stopped = false → i < 64 →
    let x := s.dev.lend i
    let away := x.phase = 2 ∨ x.phase = 3 ∨ (x.phase = 4 ∧ ∃ g ∈ s.dev.lendCores i, s.dev.flag F.coreStateLent g = true)
    (∀ w, x.next = some w → ¬ away → reached s.dev (w - 276000) = true →
      exec (.takePoint i) s = .next { s with
       dev :=
        let d := (s.dev.lendParts i).foldl (fun d p => if d.rd .ptLendNext p = w - 276000 then d.wr .ptLendNext p 0 else d) s.dev
        let d := suspendGroups (d.lendCores i) d
        let d := d.modLend i (fun x =>
          { x with phase := 2, won := w, woff := d.offAfter x.handle w, next := d.onAfter x.handle w, noticed := false, late := false })
        (d.lendCores i).foldl (fun d g =>
          if d.coreSt g = 0 then d.setF F.coreStateLent g 1 else startSave g (d.modList g (fun l => { l with paused := true }))) d }) ∧
    ((away ∨ ∀ w, x.next = some w → reached s.dev (w - 276000) = false) → exec (.takePoint i) s = .next s)) ∧
  (∀ (s : State) (i : Nat), s.dev.pins.stopped = false → i < 64 →
    let x := s.dev.lend i
    (x.phase = 2 → reached s.dev x.won = true → s.dev.lendClear i = true →
      exec (.lendWon i) s = .next { s with
       dev := (s.dev.lendCores i).foldl (fun d g => lendTaken g d) (s.dev.modLend i (fun x => { x with phase := 3 })) }) ∧
    (x.phase = 2 → reached s.dev x.won = true → s.dev.lendClear i = false → x.late = false →
      exec (.lendWon i) s = .next { s with
       dev := (s.dev.modLend i (fun x => { x with late := true })).raise F.ptStatusTakeLate }) ∧
    ((x.phase ≠ 2 ∨ reached s.dev x.won = false ∨ (s.dev.lendClear i = false ∧ x.late = true)) →
      exec (.lendWon i) s = .next s)) ∧
  (∀ (s : State) (i : Nat), s.dev.pins.stopped = false → i < 64 →
    let x := s.dev.lend i
    ((x.phase = 2 ∨ x.phase = 3) → reached s.dev x.woff = true →
      exec (.lendWoff i) s = .next { s with
       dev :=
        let runs : Bool := decide (x.phase = 3) && (s.dev.lendCores i).any (fun g => decide (s.dev.coreSt g = 2))
        let d := (s.dev.modLend i (fun x => { x with phase := 4 })).raiseIf runs F.ptStatusReturnLate
        lendReturned ((d.lendCores i).foldl (fun d g =>
          if d.flag F.coreStateLent g = false then (if d.coreSt g = 3 then d else d.modList g (fun l => { l with paused := false }))
          else if d.coreSt g = 0 then restoreHome g (d.setF F.coreStateLent g 0)
          else if d.coreSt g = 1 then startScrub g d
          else d) d) }) ∧
    (((x.phase ≠ 2 ∧ x.phase ≠ 3) ∨ reached s.dev x.woff = false) → exec (.lendWoff i) s = .next s))

/-- R293 to R295, R373: a save ends with the context and the scratchpad kept, or with PT_STATUS.SAVE_UE and an unpredictable scratchpad
where an uncorrectable error met it, and the scrub begins; a scrub ends with the core cleared and unowned, or with its owner where the
core stays with it; a restore ends with the context in the core. In any other state of the core each does nothing. R308 to R313: a new
shared group takes effect at once, a change of one waits for its decision point, a descriptor that fails completes with its status; at
a decision point a group whose running context is evicted or has nothing to run chooses one; a context blocked for YIELD gives way; a
fixed slice begins at its boundary, SLICE after the last one, with the next grant's context. A group without grants, a context that is
not blocked so long, and a boundary that has not come, change nothing. -/
def Obligations.ContextsAndSharedGroupsMove : Prop :=
  ((∀ (s : State) (g : Nat) (ue : Bool), s.dev.pins.stopped = false → g < 80 →
    let p := s.dev.workOf g
    let free := takeBytes spadSize (s.dev.raise F.ptStatusSaveUe)
    let kept := spadSaved g s.dev
    let ends := fun (spad : Mem) (lost : Bool) (d : Dev) =>
      let met : Bool := d.mem.spadUe.any (fun e => e.2 && decide (e.1 / (spadSize / 4) = g))
      let x : Saved := { ctx := (d.core g).ctx, spad := spad, ue := lost || (d.saved p g).ue || met }
      let d := d.modMem (fun m => { m with tags := m.tags.filter (fun e => ! (d.saveFrames p g).contains (64 * e.1 / pageSize)) })
      startScrub g { d with saves := tabSet {} d.saves (saveKey p g) x }
    (s.dev.coreSt g = 3 → ue = true →
      exec (.contextSaveComplete g ue) s = .next { s with dev := ends (memWrite [] 0 free.1) true free.2 }) ∧
    (s.dev.coreSt g = 3 → ue = false → exec (.contextSaveComplete g ue) s = .next { s with dev := ends kept.1 false kept.2 }) ∧
    (s.dev.coreSt g ≠ 3 → exec (.contextSaveComplete g ue) s = .next s)) ∧
  (∀ (s : State) (g : Nat), s.dev.pins.stopped = false → g < 80 →
    let p := s.dev.workOf g
    let d := setOwner g none (setCoreSt g 0 (clearCore g s.dev))
    let d := if s.dev.staysWith p g then setOwner g (some p) (setCoreSt g 1 d) else d
    (s.dev.coreSt g = 4 → exec (.scrubComplete g) s = .next { s with dev := partSettled p (removals (afterScrub g d)) }) ∧
    (s.dev.coreSt g ≠ 4 → exec (.scrubComplete g) s = .next s)) ∧
  (∀ (s : State) (g : Nat), s.dev.pins.stopped = false → g < 80 →
    let d := sliceBegins g (restoreDone g s.dev)
    let p := d.workOf g
    let frozen := (d.part p).barrier = none ∧ d.pstate p = 2
    let dying := (d.part p).barrier = none ∧ d.pstate p = 4
    (s.dev.coreSt g = 5 → ¬ (d.lendPhase g = 2 ∨ frozen) → ¬ dying →
      exec (.contextRestoreComplete g) s = .next { s with dev := lendReturned d }) ∧
    (s.dev.coreSt g = 5 → (d.lendPhase g = 2 ∨ frozen) →
      exec (.contextRestoreComplete g) s = .next { s with dev := lendReturned (startSave g d) }) ∧
    (s.dev.coreSt g = 5 → ¬ (d.lendPhase g = 2 ∨ frozen) → dying →
      exec (.contextRestoreComplete g) s = .next { s with dev := lendReturned (startScrub g d) }) ∧
    (s.dev.coreSt g ≠ 5 → exec (.contextRestoreComplete g) s = .next s))) ∧
  ((∀ (s : State) (c : Src) (b : Bytes), s.dev.pins.stopped = false →
    let new := (s.dev.sg (fld b 0 4 0)).grants = [] ∧ (s.dev.sg (fld b 0 4 0)).ending = []
    (sgStatus s.dev b = 0 → new → exec (.sgSet c b) s = .next { s with dev := sgApply b c s.dev }) ∧
    (sgStatus s.dev b = 0 → ¬ new →
      exec (.sgSet c b) s = .next { s with dev := s.dev.modSg (fld b 0 4 0) (fun x => { x with pend := x.pend ++ [(b, c)] }) }) ∧
    (sgStatus s.dev b ≠ 0 → exec (.sgSet c b) s = .next { s with dev := done c (sgStatus s.dev b) s.dev })) ∧
  (∀ (s : State) (i : Nat), s.dev.pins.stopped = false → i < 32 →
    let d := if (s.dev.sg i).fixed then s.dev else sgPending i s.dev
    let evicted := ∀ k g, (s.dev.sg i).run = some k → (s.dev.sg i).grants[k]? = some g → g.resident = false
    let idle := ∀ k ∈ d.grantIx i, ∀ g, (d.sg i).grants[k]? = some g → g.resident = true → d.sgRunnable i k = false
    ((s.dev.sg i).grants ≠ [] → evicted → exec (.sgDecision i) s = .next { s with dev := sgDecide i false d }) ∧
    ((s.dev.sg i).grants ≠ [] → idle → exec (.sgDecision i) s = .next { s with dev := sgDecide i false d }) ∧
    ((s.dev.sg i).grants = [] → exec (.sgDecision i) s = .next s)) ∧
  (∀ (s : State) (i : Nat), s.dev.pins.stopped = false → i < 32 →
    let since := ((s.dev.sg i).run.bind (fun k => (s.dev.sg i).grants[k]?)).bind (·.blocked)
    (∀ t, since = some t → t + (s.dev.sg i).yield * 3000 ≤ s.dev.acyc → (s.dev.sg i).fixed = false →
      exec (.yieldExpiry i) s = .next { s with dev := sgDecide i true (sgPending i s.dev) }) ∧
    (((s.dev.sg i).fixed = true ∨ ∀ t, since = some t → s.dev.acyc < t + (s.dev.sg i).yield * 3000) →
      exec (.yieldExpiry i) s = .next s)) ∧
  (∀ (s : State) (i : Nat), s.dev.pins.stopped = false → i < 32 →
    let x := s.dev.sg i
    let due := if x.run = none then x.sliceAt else x.sliceAt + x.slice * 300000
    (∀ k g, x.fixed = true → x.suspended = none → due ≤ s.dev.acyc → x.pend = [] →
      k = (match x.run with
        | some k => (k + 1) % x.grants.length
        | none => 0) → x.grants[k]? = some g →
      let d := sgView i (s.dev.modSg i (fun z => { z with run := some k, sliceAt := due }))
      (d.degraded = false → d.pstate g.part = 1 →
        exec (.fixedSliceBoundary i) s = .next { s with dev := (d.sgCores i).foldl (fun d g' => startRestore g' g.part d) d }) ∧
      ((d.degraded = true ∨ d.pstate g.part ≠ 1) → exec (.fixedSliceBoundary i) s = .next { s with dev := d })) ∧
    ((x.fixed = false ∨ x.grants = [] ∨ x.suspended.isSome = true ∨ s.dev.acyc < due) →
      exec (.fixedSliceBoundary i) s = .next s)))

/-- R363 to R366, R369: an unwrapped key of the stated form fills its slot: KEY_LOAD slot 0, KEY_ROTATE the slot that is not written with,
and turns the write generation, FABRIC_KEY_LOAD and MIG_KEY_LOAD theirs; IMAGE_ALLOW appends a digest, leaves one that is there, or
clears the list with zeros. A key that does not unwrap completes with KEY_BAD (0xC1), a partition in another state with PART_STATE
(0xC6), slots that are filled, or empty for a rotation, with KEY_STATE (0xC2), a rotation in progress with ROTATE_BUSY (0xC3), a ninth
digest with ALLOW_FULL (0xC5), and nothing else changes. R352 to R359: the mailbox answers: GET_CERTS with the device's certificate and
that of its AK, or BAD_MSG (1) or NO_IDENTITY (7); SESS_OPEN with a session index, a nonce and an ephemeral point (both free values:
the spec names no number), signed, or with the first status that fails; SESS_FINISH of an opening session whose signature and role
verify opens it, and binds a tenant's key to its partition; otherwise it answers with the status, and a role that fails ends the
opening. An unfinished session lapses after 1 s. A request that does not stand in the mailbox changes nothing. -/
def Obligations.KeysAndMailboxAct : Prop :=
  ((∀ (s : State) (c : Src) (p : Nat) (w : Bytes), s.dev.pins.stopped = false → p < 32 →
    let x := s.dev.part p
    let live := p = 0 ∨ s.dev.pstate p = 1
    (∀ k, live → s.dev.xtsKey c w = some k → x.slot0 = none → x.slot1 = none →
      exec (.keyLoad c p w) s = .next { s with
       dev := done c 0 (((s.dev.modPart p (fun x => { x with slot0 := some k })).setF F.lgKeysSlot0 p 1).setF F.lgKeysWgen p 0) }) ∧
    (¬ live → exec (.keyLoad c p w) s = .next { s with dev := done c 0xC6 s.dev }) ∧
    (live → (x.slot0.isSome = true ∨ x.slot1.isSome = true) → exec (.keyLoad c p w) s = .next { s with dev := done c 0xC2 s.dev }) ∧
    (live → x.slot0 = none → x.slot1 = none → s.dev.xtsKey c w = none →
      exec (.keyLoad c p w) s = .next { s with dev := done c 0xC1 s.dev }) ∧
    (∀ rate k, rate ≤ 255 → live → x.rot = none → s.dev.xtsKey c w = some k →
      let rot : Rotation := { cmd := c, rate := rate, pages := 0, used := 0, interval := s.dev.interval }
      (s.dev.wgen p = false → x.slot0.isSome = true →
        exec (.keyRotate c p rate w) s = .next { s with
         dev := rotateEnd p ((((s.dev.modPart p (fun x => { x with slot1 := some k, rot := some rot })).setF
          F.lgKeysSlot1 p 1).setF F.lgKeysWgen p 1).setF F.lgKeysRotating p 1) }) ∧
      (s.dev.wgen p = true → x.slot1.isSome = true →
        exec (.keyRotate c p rate w) s = .next { s with
         dev := rotateEnd p ((((s.dev.modPart p (fun x => { x with slot0 := some k, rot := some rot })).setF
          F.lgKeysSlot0 p 1).setF F.lgKeysWgen p 0).setF F.lgKeysRotating p 1) })) ∧
    (∀ rate, ¬ live → exec (.keyRotate c p rate w) s = .next { s with dev := done c 0xC6 s.dev }) ∧
    (∀ rate, live → x.rot.isSome = true → exec (.keyRotate c p rate w) s = .next { s with dev := done c 0xC3 s.dev }) ∧
    (∀ rate, live → x.rot = none → (if s.dev.wgen p then x.slot1 else x.slot0) = none →
      exec (.keyRotate c p rate w) s = .next { s with dev := done c 0xC2 s.dev }) ∧
    (∀ rate, live → x.rot = none → (if s.dev.wgen p then x.slot1 else x.slot0).isSome = true → s.dev.xtsKey c w = none → rate ≤ 255 →
      exec (.keyRotate c p rate w) s = .next { s with dev := done c 0xC1 s.dev })) ∧
  (∀ (s : State) (c : Src) (p : Nat) (w : Bytes), s.dev.pins.stopped = false → p < 32 →
    (∀ k, linkState (s.dev.esState p) = false → s.dev.xtsKey c w = some k →
      exec (.fabricKeyLoad c p w) s = .next { s with
       dev := done c 0 ((s.dev.modPart p (fun x => { x with fabricKey := some k })).setF F.lgKeysFabric p 1) }) ∧
    (linkState (s.dev.esState p) = true → exec (.fabricKeyLoad c p w) s = .next { s with dev := done c 0xC6 s.dev }) ∧
    (linkState (s.dev.esState p) = false → s.dev.xtsKey c w = none →
      exec (.fabricKeyLoad c p w) s = .next { s with dev := done c 0xC1 s.dev }) ∧
    (∀ k, Config.unwrap (s.dev.wrapKey c) w = some k → k.length = 32 →
      exec (.migKeyLoad c p w) s = .next { s with
       dev := done c 0 ((s.dev.modPart p (fun x => { x with migKey := some (BitVec.ofNat 256 (leNat k)) })).setF F.lgKeysMig p 1) }) ∧
    ((∀ k, Config.unwrap (s.dev.wrapKey c) w = some k → k.length ≠ 32) →
      exec (.migKeyLoad c p w) s = .next { s with dev := done c 0xC1 s.dev })) ∧
  (∀ (s : State) (c : Src) (p : Nat) (b : Bytes), s.dev.pins.stopped = false → p < 32 →
    let l := (s.dev.part p).allowed
    (leNat b ≠ 0 → b ∉ l → l.length < 8 →
      exec (.imageAllow c p b) s = .next { s with dev := done c 0 (s.dev.modPart p (fun x => { x with allowed := x.allowed ++ [b] })) }) ∧
    (leNat b ≠ 0 → b ∈ l → exec (.imageAllow c p b) s = .next { s with dev := done c 0 s.dev }) ∧
    (leNat b ≠ 0 → b ∉ l → 8 ≤ l.length → exec (.imageAllow c p b) s = .next { s with dev := done c 0xC5 s.dev }) ∧
    (leNat b = 0 → exec (.imageAllow c p b) s = .next { s with dev := done c 0 (s.dev.modPart p (fun x => { x with allowed := [] })) }))) ∧
  ((∀ s : State, s.dev.pins.stopped = false →
    let good := s.dev.mbox.length = 4 ∧ at_ s.dev.mbox 1 3 = 0
    (s.dev.mboxIs 1 = true → good → s.dev.flag F.lgStateIdentityOk = true →
      exec .getCerts s = .next { s with
       dev :=
        let f := s.dev.flash
        mboxAnswer 0 (leBytes 4 1 ++ withLen f.deviceCert ++
          withLen (Config.akCert f.dik (pubBytes f.ak) f.fwDigest f.fwSvn f.cfgDigest)) s.dev }) ∧
    (s.dev.mboxIs 1 = true → ¬ good → exec .getCerts s = .next { s with dev := mboxAnswer 1 (leBytes 4 1) s.dev }) ∧
    (s.dev.mboxIs 1 = true → good → s.dev.flag F.lgStateIdentityOk = false →
      exec .getCerts s = .next { s with dev := mboxAnswer 7 (leBytes 4 1) s.dev }) ∧
    (s.dev.mboxIs 1 = false → exec .getCerts s = .next s)) ∧
  (∀ s : State, s.dev.pins.stopped = false →
    (∀ (b nl : Bytes) (e : BitVec 384) (i : Nat) (d1 d : Dev), s.dev.mboxIs 2 = true →
      s.dev.mbox = b → openStatus s.dev b = 0 → s.dev.freeSession = some i → takeBytes 32 s.dev = (nl, d1) → takeFree 384 d1 = (e, d) →
      exec .sessOpen s = .next { s with
       dev :=
        let scalar := e.toNat % (Config.curveOrder - 1) + 1
        let head := leBytes 4 (2 + i * 256) ++ nl ++ pubBytes scalar
        let th1 := sha384 (b ++ head)
        let sig := d.akSign th1
        mboxAnswer 0 (head ++ sig) (d.setSess i
          { role := at_ b 1 1, part := at_ b 2 1, opening := some d.nt, th1 := th1, sigL := sig, qs := (b.drop 0x24).take 97
            z := leBytes 48 (Config.ecdh scalar ((b.drop 0x85).take 97)).toNat }) }) ∧
    (s.dev.mboxIs 2 = true → openStatus s.dev s.dev.mbox ≠ 0 →
      exec .sessOpen s = .next { s with dev := mboxAnswer (openStatus s.dev s.dev.mbox) (leBytes 4 2) s.dev }) ∧
    (s.dev.mboxIs 2 = false → exec .sessOpen s = .next s)) ∧
  (∀ s : State, s.dev.pins.stopped = false →
    let b := s.dev.mbox
    let i := at_ b 1 1
    let x := s.dev.sess i
    let sized := b.length = 100 ∧ at_ b 2 2 = 0
    let opens := 1 ≤ i ∧ i ≤ 64 ∧ x.opening.isSome = true
    let signed := Config.verify x.qs (sha384 (x.th1 ++ x.sigL)) ((b.drop 4).take 96) = true
    (s.dev.mboxIs 3 = true → sized → opens → signed → roleStatus s.dev x = 0 →
      exec .sessFinish s = .next { s with
       dev :=
        let part := if x.role = 3 then x.part else 0
        let d := if x.role = 3 then s.dev.modPart x.part (fun y => { y with tenantKey := some x.qs }) else s.dev
        let d := d.setSess i { role := x.role, part := part, qs := x.qs, z := x.z
                               th := sha384 (sha384 (x.th1 ++ x.sigL) ++ (b.drop 4).take 96) }
        let d := ((d.setF F.lgSessValid i 1).setF F.lgSessRole i x.role).setF F.lgSessPart i part
        mboxAnswer 0 (leBytes 4 (3 + i * 256)) (d.setF F.lgStateSessions 0 (d.getF F.lgStateSessions + 1)) }) ∧
    (s.dev.mboxIs 3 = true → ¬ sized → exec .sessFinish s = .next { s with dev := mboxAnswer 1 (leBytes 4 3) s.dev }) ∧
    (s.dev.mboxIs 3 = true → sized → ¬ opens → exec .sessFinish s = .next { s with dev := mboxAnswer 8 (leBytes 4 (3 + i * 256)) s.dev }) ∧
    (s.dev.mboxIs 3 = true → sized → opens → ¬ signed →
      exec .sessFinish s = .next { s with dev := mboxAnswer 4 (leBytes 4 (3 + i * 256)) s.dev }) ∧
    (s.dev.mboxIs 3 = true → sized → opens → signed → roleStatus s.dev x ≠ 0 →
      exec .sessFinish s = .next { s with
       dev := mboxAnswer (roleStatus s.dev x) (leBytes 4 (3 + i * 256)) (s.dev.setSess i { role := 0, part := 0 }) }) ∧
    (s.dev.mboxIs 3 = false → exec .sessFinish s = .next s)) ∧
  (∀ (s : State) (i : Nat), s.dev.pins.stopped = false → i < 65 →
    (∀ t, (s.dev.sess i).opening = some t → reached s.dev (later t 8000000000) = true →
      exec (.sessOpenLapse i) s = .next { s with dev := s.dev.setSess i { role := 0, part := 0 } }) ∧
    ((∀ t, (s.dev.sess i).opening = some t → reached s.dev (later t 8000000000) = false) → exec (.sessOpenLapse i) s = .next s)))

/-- R356, R362, R367, R368: ATTEST writes the signed report of the device, or of a partition, at the result address; an interface report
sends the kick pages of a partition's rings and the digest of the same fields; SESS_CLOSE ends the session after its completion;
FW_STAGE keeps a verified image, not older than SVN_FLOOR, for the next power cycle, and completes with FW_BAD (0xC7) for any other. -/
def Obligations.LorgilCommandsAct : Prop :=
  (∀ (s : State) (c : Src) (p result : Nat) (nonce : Bytes), s.dev.pins.stopped = false →
    exec (.attest c 0 p result nonce) s = .next { s with
     dev :=
      let body := reportHead s.dev 0 0 nonce ++ zeros 0x210
      done c 0 (hostWrite result (body ++ s.dev.akSign body) s.dev) }) ∧
  (∀ (s : State) (c : Src) (p result : Nat) (nonce b : Bytes) (d : Dev), s.dev.pins.stopped = false → p < 32 →
    reportPart p s.dev = (b, d) →
    exec (.attest c 1 p result nonce) s = .next { s with
     dev := done c 0 (hostWrite result (reportHead d 1 p nonce ++ b ++ d.akSign (reportHead d 1 p nonce ++ b)) d) }) ∧
  (∀ (s : State) (c : Src) (kind p result : Nat) (nonce : Bytes), s.dev.pins.stopped = false → 1 < kind →
    exec (.attest c kind p result nonce) s = .next { s with dev := done c 2 s.dev }) ∧
  (∀ (s : State) (p : Nat) (b : Bytes) (d : Dev), s.dev.pins.stopped = false → 1 ≤ p → p < 32 → reportPart p s.dev = (b, d) →
    exec (.deviceInterfaceReport p) s = .next { s with
     dev := emit (.doe true ((d.ringsOf p).flatMap (fun r => leBytes 8 (r * 0x1000)) ++ sha384 b)) d }) ∧
  (∀ (s : State) (c : Src), s.dev.pins.stopped = false → c.ring < 16384 →
    exec (.sessClose c) s = .next { s with dev := endSession (s.dev.getF F.ringAuxSession c.ring) (done c 0 s.dev) }) ∧
  (∀ (s : State) (c : Src) (host len : Nat), s.dev.pins.stopped = false →
    (∀ x, Config.fwImage (s.dev.hostRead host len) = some x → s.dev.flash.svnFloor ≤ x.2.2 →
      exec (.fwStage c host len) s = .next { s with
       dev := done c 0 ({ s.dev with flash := { s.dev.flash with staged := s.dev.hostRead host len } }.setF F.lgStateFwStaged 0 1) }) ∧
    ((∀ x, Config.fwImage (s.dev.hostRead host len) = some x → x.2.2 < s.dev.flash.svnFloor) →
      exec (.fwStage c host len) s = .next { s with dev := done c 0xC7 s.dev }))

/-- R382, R386 to R388, R395, R396: RESET of each scope begins the reset of its domain, which completes with OK once its effects have
ended; a core reset also counts what it drops and aborts the schedules of the owners. A scope or target that names nothing completes
with RESET_BAD (0xE1). A core reset past its bound halts the cores, a wider one takes the ladder's next step; where no reset of the
site is past its bound, or none has ended, nothing happens. -/
def Obligations.ResetsAct : Prop :=
  (∀ (s : State) (c : Src) (p h : Nat) (cores : List Nat), s.dev.pins.stopped = false → s.dev.legalCores h = some cores →
    exec (.reset c 1 p h) s = .next { s with
     dev :=
      let d := cores.foldl resetCore (((cores.filterMap (fun g => s.dev.coreOwner g)).eraseDups).foldl (fun d p => abortSched p d)
        (cores.foldl lateDrop s.dev))
      { d with resets := d.resets ++ [{ site := .device, scope := 1, target := h, due := d.acyc + 90000, cmd := some c }] } }) ∧
  (∀ (s : State) (c : Src) (p t : Nat), s.dev.pins.stopped = false → p < 32 → s.dev.pstate p ≠ 0 →
    exec (.reset c 2 p t) s = .next { s with
     dev :=
      let d := resetPart s.dev p
      { d with resets := d.resets ++ [{ site := .device, scope := 2, target := p, due := d.acyc + 6300000, cmd := some c }] } }) ∧
  (∀ (s : State) (c : Src) (p t : Nat), s.dev.pins.stopped = false → t < 4 →
    exec (.reset c 3 p t) s = .next { s with
     dev :=
      let d := resetDie t s.dev
      { d with resets := d.resets ++ [{ site := .device, scope := 3, target := t, due := d.acyc + 15000000, cmd := some c }] } }) ∧
  (∀ (s : State) (c : Src) (p t : Nat), s.dev.pins.stopped = false →
    exec (.reset c 5 p t) s = .next { s with
     dev :=
      let d := deviceReset { s.dev with resets := [] }
      { d with resets := d.resets ++ [{ site := .device, scope := 5, target := 0, due := d.acyc + 9000000000, cmd := some c }] } }) ∧
  (∀ (s : State) (c : Src) (scope p t : Nat), s.dev.pins.stopped = false →
    ((scope = 1 ∧ s.dev.legalCores t = none) ∨ (scope = 2 ∧ (32 ≤ p ∨ s.dev.pstate p = 0)) ∨ (scope = 3 ∧ 4 ≤ t % 256) ∨
      (scope ≠ 1 ∧ scope ≠ 2 ∧ scope ≠ 3 ∧ scope ≠ 5)) →
    exec (.reset c scope p t) s = .next { s with dev := done c 0xE1 s.dev }) ∧
  (∀ (s : State) (x : ResetRt), s.dev.pins.stopped = false → s.dev.resets.find? (fun y => s.dev.resetOver y) = some x →
    let d : Dev := { s.dev with resets := s.dev.resets.erase x }
    let d := match x.cmd with
      | some c => done c 0 d
      | none => d
    exec .resetComplete s = .next { s with dev := if x.scope = 5 ∧ x.target = 3 then oosLatch (oosWindow d) else d }) ∧
  (∀ s : State, s.dev.pins.stopped = false → (∀ y ∈ s.dev.resets, s.dev.resetOver y = false) → exec .resetComplete s = .next s) ∧
  (∀ (s : State) (x : ResetRt) (site : SiteId), s.dev.pins.stopped = false → (∀ e, site = .engine e → engOk e = true) →
    s.dev.resets.find? (fun y => decide (y.site = site ∧ y.due ≤ s.dev.acyc) && ! s.dev.resetOver y) = some x →
    exec (.resetBoundMiss site) s = .next { s with
     dev := if x.scope = 1 then ((handleCores x.target).getD []).foldl haltCore s.dev
      else ladderStep site (decide (x.scope = 5)) x.cmd { s.dev with resets := s.dev.resets.erase x } }) ∧
  (∀ (s : State) (site : SiteId), s.dev.pins.stopped = false →
    (∀ y ∈ s.dev.resets, y.site = site → y.due ≤ s.dev.acyc → s.dev.resetOver y = true) →
    exec (.resetBoundMiss site) s = .next s)

/-- R391 to R394: an engine with work and no progress for TIMEOUT is counted in HANGS and recorded. A coding engine's block is abandoned;
of any other, the first suspect on probation is killed and the engine reset, or without suspects its work is aborted, the engine reset,
and the partitions with work on it become suspects; with none, the hang is the engine's. An engine that is not stuck is left alone. A
suspect that shows progress leaves probation; after the last, where none was killed, the hang is the engine's. R184 to R186, R397,
R398, R404: MEMBER_CONFIRM of a bitmap that names the device sets MEPOCH, the members, LD and the tokens, and ends FENCED; one that
does not fences it; an epoch below MEPOCH completes with MEMBER_STALE (0xE2), a malformed one with BAD_DESC (2). FLT_SERVICE sets the
service state, stopping the tenants' schedules as it becomes DEGRADED, and completes with OUT_OF_SERVICE (0xE3) in that state;
FLT_RETURN ends OUT_OF_SERVICE and clears its count, and completes with NOT_LATCHED (0xE5) in any other state. R127, R402, R403: at
each multiple of 100 µs a heartbeat goes to the host address, unless that is 0, and to every valid address of FLT_HB_DEST; at each 10
ms the health score is 1,000 less the penalties of the six classes; a replay on a die link is counted, and that of a tree flit delays
the group of the HB.MM that it belongs to by at most 48 a-cycles. -/
def Obligations.MembershipAndHealthAct : Prop :=
  ((∀ (s : State) (e : EngineId), s.dev.pins.stopped = false → engOk e = true →
    let stuck := s.dev.engBusy e = true ∧ s.dev.stuckSince e + s.dev.wdogTime ≤ s.dev.acyc
    let d := faultRecord 1 0 0 (engPlace e).1 (engPlace e).2.1 (engPlace e).2.2
      (health 4 1 (raiseFlt F.fltStatusHang (s.dev.addSat F.fltStateHangs 0 1)))
    let r := resetEngine e (abortWork e 4 d)
    (∀ die k i, stuck → e = .coding die k i → exec (.watchdogExpiry e) s = .next { s with dev := codingHang die k i d }) ∧
    (∀ q rest, stuck → (∀ die k i, e ≠ .coding die k i) → (d.watchOf e).suspects = q :: rest →
      exec (.watchdogExpiry e) s = .next { s with dev := nextSuspect e true (resetEngine e (kill e q d)) }) ∧
    (stuck → (∀ die k i, e ≠ .coding die k i) → (d.watchOf e).suspects = [] → d.workers e = [] →
      exec (.watchdogExpiry e) s = .next { s with dev := attribute_ e r }) ∧
    (stuck → (∀ die k i, e ≠ .coding die k i) → (d.watchOf e).suspects = [] → d.workers e ≠ [] →
      exec (.watchdogExpiry e) s = .next { s with
       dev := modWatch e (fun w =>
        { w with suspects := d.workers e, base := (d.progOf e).n, killed := false, prog := { w.prog with at_ := r.acyc } }) r }) ∧
    (¬ stuck → exec (.watchdogExpiry e) s = .next s)) ∧
  (∀ (s : State) (e : EngineId), s.dev.pins.stopped = false → engOk e = true →
    (∀ q rest, (s.dev.watchOf e).suspects = q :: rest → s.dev.probed e q = true →
      exec (.probationEnd e) s = .next { s with
       dev :=
        let d := nextSuspect e false s.dev
        if rest = [] ∧ (d.watchOf e).killed = false then attribute_ e d else d }) ∧
    ((∀ q rest, (s.dev.watchOf e).suspects = q :: rest → s.dev.probed e q = false) → exec (.probationEnd e) s = .next s))) ∧
  ((∀ (s : State) (c : Src) (flags k : Nat) (b : Bytes), s.dev.pins.stopped = false →
    let sized := flags ≤ 1 ∧ b.length = 512
    (sized → s.dev.getF F.fhMemberMepoch ≤ k → s.dev.getF F.tlSelfFaddr ∈ bitmapList b →
      exec (.memberConfirm c flags k b) s = .next { s with
       dev :=
        let d := ((List.range 256).foldl (confirmToken (flags = 1) k) s.dev).setF F.fhMemberMepoch 0 k
        let lease := d.eff F.fhLeaseLease 2 100 * 800000
        let d := d.modTeril (fun t => { t with members := some (bitmapList b), ld := later d.nt lease })
        done c 0 (if d.fenced then faultRecord 5 0 0 15 0 0 (d.setF F.fltStateFenced 0 0) else d) }) ∧
    (sized → s.dev.getF F.fhMemberMepoch ≤ k → s.dev.getF F.tlSelfFaddr ∉ bitmapList b →
      exec (.memberConfirm c flags k b) s = .next { s with dev := done c 0 (enterFenced s.dev) }) ∧
    (sized → k < s.dev.getF F.fhMemberMepoch → exec (.memberConfirm c flags k b) s = .next { s with dev := done c 0xE2 s.dev }) ∧
    (¬ sized → exec (.memberConfirm c flags k b) s = .next { s with dev := done c 2 s.dev })) ∧
  (∀ (s : State) (c : Src) (mode : Nat), s.dev.pins.stopped = false →
    (mode ≤ 1 → s.dev.oos = false →
      exec (.fltService c mode) s = .next { s with
       dev := done c 0 ((if mode = 1 ∧ ¬ s.dev.degraded then degrade s.dev else s.dev).setF F.fltStateService 0 mode) }) ∧
    (mode ≤ 1 → s.dev.oos = true → exec (.fltService c mode) s = .next { s with dev := done c 0xE3 s.dev }) ∧
    (1 < mode → exec (.fltService c mode) s = .next { s with dev := done c 2 s.dev }) ∧
    (s.dev.oos = true →
      exec (.fltReturn c) s = .next { s with
       dev := done c 0 (({ s.dev with oosResets := [] }.setF F.fltStateService 0 0).setF F.fltStateResets 0 0) }) ∧
    (s.dev.oos = false → exec (.fltReturn c) s = .next { s with dev := done c 0xE5 s.dev }))) ∧
  ((∀ s : State, s.dev.pins.stopped = false →
    (∀ t, s.dev.beat 0 800000 0 = some t →
      exec .heartbeat s = .next { s with
       dev :=
        let b := beatBytes t s.dev
        let a := s.dev.getF F.fltHbAddrBase * 64
        let d := if a = 0 then s.dev else emit (.dma a b) (hostWrite a b s.dev)
        let d := (List.range 4).foldl (fun d i =>
          if (d.getF F.fltHbDestValid).testBit i then sendCtrl (d.getF F.fltHbDestAddr / 2 ^ (12 * i) % 4096) 1 0 b d else d) d
        beatDone 0 t { d with hbSeq := (d.hbSeq + 1) % 2 ^ 32 } }) ∧
    (s.dev.beat 0 800000 0 = none → exec .heartbeat s = .next s)) ∧
  (∀ s : State, s.dev.pins.stopped = false →
    (∀ t, s.dev.beat 1 80000000 0 = some t →
      exec .healthUpdate s = .next { s with
       dev :=
        let e := fun c => healthNext (tabGet 0 s.dev.he c) (tabGet 0 s.dev.hn c)
        let p := (List.range 6).map (fun c => healthPenalty c (e c))
        let d : Dev := { s.dev with hn := [], he := (List.range 6).foldl (fun (x : Tab Int) c => tabSet 0 x c (e c)) [] }
        let d := (List.range 6).foldl (fun (x : Dev) c => x.setF (healthField c) 0 (p.getD c 0)) d
        beatDone 1 t (oosWindow (d.setF F.fltHealthScore 0 (1000 - sumL p))) }) ∧
    (s.dev.beat 1 80000000 0 = none → exec .healthUpdate s = .next s)) ∧
  (∀ (s : State) (die link : Nat), s.dev.pins.stopped = false → die < 4 → link < 3 →
    let d := evDie die 0x86 link 1 (health 2 1 ((s.dev.raise F.dlStatusReplay (die * 3 + link)).addSat F.dlStatusReplays (die * 3 + link) 1))
    exec (.dieLinkReplay die ⟨link, none⟩) s = .next { s with dev := d } ∧
    (∀ g e n, exec (.dieLinkReplay die ⟨link, some (g, e, n)⟩) s = .next { s with
      dev := match (d.hb g e).mms.find? (fun x => x.t0.isSome) with
        | some x => hbStall g e x d.acyc (min n 48) d
        | none => d })))

/-- R59, R60, R68 to R71, R73, R74, R139: on a stream that takes words, HB.OD writes its descriptor, a legal HB.MM issues with the
descriptors of that a-cycle and holds every other Hornbeam stream of its group, and HB.END lets the stream end once nothing executes; a
stream that is held, has ended or does not run takes no word. The first row of the oldest HB.MM that waits enters at its earliest
a-cycle plus its stall, and the a-cycles that only a tile was awaited are counted; a first row that may not enter yet changes nothing.
The oldest HB.MM whose a-cycle has come, moved by the stall, completes: its arrays have run up to it, a stall delays the group, SCTR
counts on every core of the group, and it leaves the engine and releases the streams it held; where none is due, nothing completes.
R62: an illegal Hornbeam word records its cause and its partition in HB_ERRINFO, sets RANGE for cause 7 and ILLEGAL for any other in
HB_STATUS, and aborts the unit: the word of an opcode that is not its row's (cause 10), an HB.OD or HB.END with a reserved bit set
(cause 9), and an HB.MM with a cause. -/
def Obligations.MatrixStreamsRun : Prop :=
  ((∀ (s : State) (g e : Nat) (w : Word256), s.dev.pins.stopped = false → g < 80 → e < 2 → s.dev.hbReady g e = true →
    let d := hbStep g e s.dev
    let i := wfld w 0 12 8
    let v : BitVec 128 := BitVec.ofNat 128 (wfld w 0x10 127 0)
    (wfld w 0 7 0 = 0x40 → wrsv w 0 31 13 = true → wrsv w 4 95 0 = true → wrsv w 0x1C 31 24 = true →
      exec (.hbOd g e w) s = .next { s with
       dev := d.modCtx g (fun c => if e = 0 then { c with od0 := tabSet 0 c.od0 i v } else { c with od1 := tabSet 0 c.od1 i v }) }) ∧
    (wfld w 0 7 0 = 0x41 → mmCause d g e w = 0 →
      exec (.hbMm g e w) s = .next { s with
       dev :=
        let x : MmRt := { w := w, oda := d.od g e (mmOp w).oda, odb := d.od g e (mmOp w).odb, odc := d.od g e (mmOp w).odc
                          odd := d.od g e (mmOp w).odd, issued := d.acyc, seq := (s.dev.hb g e).pos }
        (mmArrays g e (mmOp w).gsize).foldl (fun d a =>
          if a = (g, e) then d else d.modHb a.1 a.2 (fun h => { h with heldBy := g :: h.heldBy }))
          (hbProg g e (d.modHb g e (fun h => { h with mms := h.mms ++ [x] }))) }) ∧
    (wfld w 0 7 0 = 0x4F → wrsv w 0 255 8 = true →
      exec (.hbEnd g e w) s = .next { s with dev := hbDrain g e (d.modHb g e (fun h => { h with ending := true })) })) ∧
  (∀ (s : State) (g e : Nat) (w : Word256), s.dev.pins.stopped = false → g < 80 → e < 2 → s.dev.hbReady g e = false →
    exec (.hbOd g e w) s = .next s ∧ exec (.hbMm g e w) s = .next s ∧ exec (.hbEnd g e w) s = .next s) ∧
  (∀ (s : State) (g e stall : Nat), s.dev.pins.stopped = false → g < 80 → e < 2 →
    let waiting := (s.dev.hb g e).mms.find? (fun x => x.t0.isNone)
    (∀ x t u, waiting = some x → mmEarliest s.dev g e x = some t → mmUntiled s.dev g e x = some u →
      t + stall ≤ s.dev.acyc → s.dev.mmBlocked g e x = false →
      exec (.hbMmFirstRow g e stall) s = .next { s with
       dev :=
        let d := s.dev.modHb g e (fun h =>
          { h with mms := h.mms.map (fun y => if y.seq = x.seq then { y with t0 := some (t + stall) } else y) })
        let d := (mmArrays g e (mmOp x.w).gsize).foldl (fun d a => evCore a.1 0x06 a.2 (t - u) (evCore a.1 0x05 a.2 stall d)) d
        mmRun g e { x with t0 := some (t + stall) } d }) ∧
    ((∀ x t, waiting = some x → mmEarliest s.dev g e x = some t → s.dev.acyc < t + stall ∨ s.dev.mmBlocked g e x = true) →
      exec (.hbMmFirstRow g e stall) s = .next s)) ∧
  (∀ (s : State) (g e stall : Nat) (ev : MmEvent), s.dev.pins.stopped = false → g < 80 → e < 2 →
    let due := (s.dev.hb g e).mms.find? (fun x => (mmDue g e x).any (fun t => decide (t + stall ≤ s.dev.acyc)))
    (∀ x t, due = some x → mmDue g e x = some t →
      exec (.hbMmCompletion g e ⟨stall, ev⟩) s = .next { s with
       dev :=
        let o := mmOp x.w
        let d := mmEvent g e x ev (hbStall g e x t stall (mmRun g e x s.dev))
        let d := if o.sen then ((gsizeCores g o.gsize).getD [g]).foldl (fun d c => ccIncAt c o.sctr (t + stall) d) d else d
        let d := hbProg g e (d.modHb g e (fun h => { h with mms := h.mms.filter (fun y => y.seq ≠ x.seq) }))
        hbDrain g e (pruneOld (releaseHold g e x d)) }) ∧
    (due = none → exec (.hbMmCompletion g e ⟨stall, ev⟩) s = .next s))) ∧
  (∀ (s : State) (g e : Nat) (w : Word256), s.dev.pins.stopped = false → g < 80 → e < 2 → s.dev.hbReady g e = true →
    let d := hbStep g e s.dev
    let aborted : Nat → Res := fun cause => .next { s with
     dev := abortOn g 1 e cause (((d.setF F.hbErrinfoCause (g * 2 + e) cause).setF F.hbErrinfoPart (g * 2 + e) (d.workOf g)).raise
      (if cause = 7 then F.hbStatusRange else F.hbStatusIllegal) (g * 2 + e)) }
    (wfld w 0 7 0 ≠ 0x40 → exec (.hbOd g e w) s = aborted 10) ∧
    (wfld w 0 7 0 = 0x40 → (wrsv w 0 31 13 = false ∨ wrsv w 4 95 0 = false ∨ wrsv w 0x1C 31 24 = false) →
      exec (.hbOd g e w) s = aborted 9) ∧
    (wfld w 0 7 0 ≠ 0x41 → exec (.hbMm g e w) s = aborted 10) ∧
    (wfld w 0 7 0 = 0x41 → mmCause d g e w ≠ 0 → exec (.hbMm g e w) s = aborted (mmCause d g e w)) ∧
    (wfld w 0 7 0 ≠ 0x4F → exec (.hbEnd g e w) s = aborted 10) ∧
    (wfld w 0 7 0 = 0x4F → wrsv w 0 255 8 = false → exec (.hbEnd g e w) s = aborted 9))

/-- R85, R94, R95: the two-source vector instructions of slots V0 and V1. On an engine that issues, in an enabled stage, with a type of the
instruction and no reserved field, each result of the enabled lanes lands in VD after the latency of its type, and the events of R51
count. VFDIV and VFSQRT issue every eighth a-cycle: what one gives that issues sooner is open (log 148). -/
def Obligations.VectorArithmeticIssues : Prop :=
  ∀ (s : State) (g : Nat) (sl : SeSlot) (w : Slot64), s.dev.pins.stopped = false → g < 80 → sl = .v0 ∨ sl = .v1 →
    let o := slotOp w
    let l := landDue g s.dev
    l.seReady g = true → (l.se g).stageOn o.stg = true → o.km < 8 →
    let d := seCounted g l
    let r := d.se g
    let num := fun n e => laneNum o.t (elemOf (laneW o.t) (r.vr n) e)
    let next : Nat → (Machine.Num → Machine.Num → Machine.Num) → Res := fun lat f =>
      let v := vmap (laneW o.t) (o.mask r) (fun e => laneRes o.t (f (num o.va e) (num o.vb e)))
      .next { s with dev := evNum g 2 v.2 (seOut g sl lat [(r.vdest o.vd, o.mask r, v.1)] d) }
    let bits : (BitVec 1024 → BitVec 1024 → BitVec 1024) → Res := fun f =>
      .next { s with dev := seOut g sl 1 [(r.vdest o.vd, o.mask r, f (r.vr o.va) (r.vr o.vb))] d }
    let long : (Machine.Num → Machine.Num → Machine.Num) → Res := fun f =>
      let v := vmap 32 (o.mask r) (fun e => laneRes 8 (f (num o.va e) (num o.vb e)))
      .next { s with dev := evNum g 2 v.2 (seOutEvery g sl w 8 16 [(r.vdest o.vd, o.mask r, v.1)] d) }
    let lat := if o.t = 6 ∨ o.t = 8 then 4 else 1
    (o.t ∈ arithTypes →
      (o.opc = 0x10 → exec (.vadd g sl w) s = next lat Machine.Num.add) ∧
      (o.opc = 0x11 → exec (.vsub g sl w) s = next lat (fun a b => a.add b.neg)) ∧
      (o.opc = 0x12 → exec (.vmul g sl w) s = next lat Machine.Num.mul) ∧
      (o.opc = 0x13 → exec (.vmin g sl w) s = next lat numMin) ∧
      (o.opc = 0x14 → exec (.vmax g sl w) s = next lat numMax) ∧
      (o.opc = 0x15 → exec (.vabs g sl w) s = next lat (fun a _ => a.abs))) ∧
    (o.t ∈ laneTypes →
      (o.opc = 0x16 → exec (.vand g sl w) s = bits (· &&& ·)) ∧
      (o.opc = 0x17 → exec (.vor g sl w) s = bits (· ||| ·)) ∧
      (o.opc = 0x18 → exec (.vxor g sl w) s = bits (· ^^^ ·))) ∧
    (o.t ∈ intTypes →
      (o.opc = 0x19 → exec (.vshl g sl w) s = next 1 (fun a _ => .ofInt (toInt a * ((2 ^ (o.imm % 32) : Nat) : Int)))) ∧
      (o.opc = 0x1A → exec (.vshr g sl w) s = next 1 (fun a _ => .ofInt ((toInt a).fdiv ((2 ^ (o.imm % 32) : Nat) : Int)))) ∧
      (o.opc = 0x1B → exec (.vshrr g sl w) s = next 1 (fun a _ => .ofInt (roundShift (toInt a) (o.imm % 32))))) ∧
    (sl = .v1 → o.t = 8 →
      (o.opc = 0x38 → exec (.vfdiv g sl w) s = long numDiv) ∧
      (o.opc = 0x39 → exec (.vfsqrt g sl w) s = long (fun a _ => numSqrt a)))

/-- R44, R94, R95, R100, R101: selection, comparison (a bit is open where the two 16-bit elements of a lane disagree and for codes 6 and 7,
log 23), broadcast, fused multiply-add, scaling, conversion (between widths the source element of each is `Config.cvtSource`, log 24),
narrowing (int16 from fp32 or from int32 is open, log 25), permutation and norms in slots V0 and V1. -/
def Obligations.VectorMovesIssue : Prop :=
  ∀ (s : State) (g : Nat) (sl : SeSlot) (w : Slot64), s.dev.pins.stopped = false → g < 80 → sl = .v0 ∨ sl = .v1 →
    let o := slotOp w
    let l := landDue g s.dev
    l.seReady g = true → (l.se g).stageOn o.stg = true → o.km < 8 →
    let d := seCounted g l
    let r := d.se g
    let num := fun n e => laneNum o.t (elemOf (laneW o.t) (r.vr n) e)
    let put : Nat → BitVec 1024 → Res := fun lat v => .next { s with dev := seOut g sl lat [(r.vdest o.vd, o.mask r, v)] d }
    let next : Nat → BitVec 1024 × NumEv → Res := fun lat v =>
      .next { s with dev := evNum g 2 v.2 (seOut g sl lat [(r.vdest o.vd, o.mask r, v.1)] d) }
    (o.opc = 0x1C → o.t ∈ laneTypes → exec (.vsel g sl w) s = put 1 (ofElems 32 (fun i =>
      if (r.kr o.imm).getLsbD i then elemOf 32 (r.vr o.va) i else elemOf 32 (r.vr o.vb) i))) ∧
    (o.opc = 0x1D → o.t ∈ arithTypes → exec (.vcmp g sl w) s = .next { s with
      dev :=
       let n := 32 / laneW o.t
       let res := fun i => (List.range n).map (fun j =>
         cmpOp (o.imm % 8) (laneNum o.t (elemOf (laneW o.t) (r.vr o.va) (i * n + j)))
           (laneNum o.t (elemOf (laneW o.t) (r.vr o.vb) (i * n + j))))
       let bit := fun i => if 6 ≤ o.imm % 8 ∨ ¬ ((res i).all id ∨ (res i).all (! ·)) then 
           decide (Config.fixed 1 0x1D [o.t, o.imm % 8, elemOf 32 (r.vr o.va) i, elemOf 32 (r.vr o.vb) i] = 1) else (res i).all id
       seOut g sl 1 [(.k (o.vd % 8), o.mask r, BitVec.ofNat 1024 ((List.range 32).foldl (fun a i => a + (if bit i then 2 ^ i else 0)) 0))] d }) ∧
    (o.opc = 0x1E → o.t ∈ laneTypes → exec (.vbcast g sl w) s = put 1 (ofElems 32 (fun _ => (r.sr o.va).toNat))) ∧
    (o.opc = 0x20 → o.t ∈ floatTypes → exec (.vfma g sl w) s = next 4 (vmap (laneW o.t) (o.mask r) (fun e =>
      laneRes o.t (((num o.va e).mul (num o.vb e)).add (num o.vc e))))) ∧
    (o.opc = 0x21 → o.t ∈ floatTypes → exec (.vfscl g sl w) s = next 2 (vmap (laneW o.t) (o.mask r) (fun e =>
      laneRes o.t ((num o.va e).scale (toSigned 32 (elemOf 32 (r.vr o.vb) (e * laneW o.t / 32))))))) ∧
    (o.opc = 0x22 → o.t ∈ arithTypes → (o.imm % 16, o.t) ∈ convPairs →
      let src := o.imm % 16
      let source := fun e => if laneW src = laneW o.t then some e else (Config.cvtSource src o.t e).map (· % (1024 / laneW src))
      exec (.vcvt g sl w) s = next 3 (vmap (laneW o.t) (o.mask r) (fun e =>
        match source e with
        | some j => convTo o.t (laneNum src (elemOf (laneW src) (r.vr o.va) j))
        | none => ((Config.fixed 32 0x22 [src, o.t, e, (r.vr o.va).toNat]).toNat, {})))) ∧
    (o.opc = 0x22 → o.t ∈ arithTypes → (o.imm % 16, o.t) ∉ convPairs →
      exec (.vcvt g sl w) s = .next { s with dev := seAbort g 2 d }) ∧
    (o.opc = 0x23 → o.t = 5 ∨ o.t = 6 ∨ o.t = 7 → exec (.vnarrow g sl w) s = .next { s with
      dev :=
       let sh := o.imm % 32
       let x := fun e => elemOf 32 (r.vr (if e < 32 then o.va else o.vb)) (e % 32)
       let big := fun n i => roundShift (toSigned 32 (elemOf 32 (r.vr n) i)) sh
       let cq := fun n i => clampI (-32767) 32767 (big n i)
       let lost := fun n i => if cq n i = big n i then 0 else 1
       let v :=
         if o.t = 5 then vmap 32 (o.mask r) (fun i =>
           (ofSigned 16 (cq o.va i) + 65536 * ofSigned 16 (cq o.vb i), { sat := lost o.va i + lost o.vb i }))
         else if o.t = 6 then vmap 16 (o.mask r) (fun e => convTo 6 (ofF32 (x e)))
         else if Config.fixed 1 0x23 [w.toNat] = 1 then vmap 16 (o.mask r) (fun e => convTo 7 (ofF32 (x e)))
         else vmap 16 (o.mask r) (fun e => laneRes 7 (.ofInt (roundShift (toSigned 32 (x e)) sh)))
       evNum g 2 v.2 (seOut g sl 2 [(r.vdest o.vd, o.mask r, v.1)] d) }) ∧
    (o.opc = 0x24 → o.t ∈ laneTypes → exec (.vperm g sl w) s = put 2 (ofElems 32 (fun i =>
      let j := elemOf 32 (r.vr o.vb) i % 64
      if j < 32 then elemOf 32 (r.vr o.va) j else elemOf 32 (r.vr o.vc) (j - 32)))) ∧
    (o.opc = 0x25 → o.t = 5 ∨ o.t = 7 ∨ o.t = 9 → exec (.vnorm g sl w) s = put 1 (ofElems 32 (normLane o.t (r.vr o.va))))

/-- R96 to R100: the instructions of slot V1 alone: the reductions and VBEXP write an s-register, what is rounded or saturated inside the
tree counted too; VCMAC, VCMACF, VBFLY4 and VDEMAP write their groups of registers, and one that names a register beyond v63 aborts
with cause 9 (log 26). VBFLY4 with SH = 3, VDEMAP with a modulation outside 1 to 5 or F above 10 and VBEXP with no enabled lane give
open values (log 23); VBFLY4 issues every second a-cycle, VDEMAP once in as many as it writes registers (log 148). -/
def Obligations.VectorUnitInstructionsIssue : Prop :=
  ∀ (s : State) (g : Nat) (w : Slot64), s.dev.pins.stopped = false → g < 80 →
    let o := slotOp w
    let l := landDue g s.dev
    l.seReady g = true → (l.se g).stageOn o.stg = true → o.km < 8 →
    let d := seCounted g l
    let r := d.se g
    let lanes := fun z => (List.range 32).map (fun i => if (o.mask r).getLsbD i then laneNum o.t (elemOf 32 (r.vr o.va) i) else z)
    let reduced : (Machine.Num → Machine.Num → Machine.Num × NumEv) → Machine.Num → Res := fun f z =>
      let x := reduceTree (fun a b => ((f a.1 b.1).1, (a.2.add b.2).add (f a.1 b.1).2)) ((lanes z).map (fun v => (v, {})))
      let v := laneRes o.t x.1
      .next { s with
       dev := evNum g 2 (x.2.add v.2) (seOut g .v1 (if o.t = 8 then 8 else 5) [(.s (o.vd % 32), allLanes, BitVec.ofNat 1024 v.1)] d) }
    let h := fun n i j => toSigned 16 (elemOf 16 (r.vr n) (2 * i + j))
    let conj := fun (b : Bool) (x : Int) => if b then -x else x
    let ai := fun i => conj (o.imm.testBit 1) (h o.va i 1)
    let bi := fun i => conj (o.imm.testBit 2) (h o.vb i 1)
    let acc := fun n i => if o.imm.testBit 0 then toSigned 32 (elemOf 32 (r.vr n) i) else 0
    let c := fun n i => (h n i 0, h n i 1)
    (o.t = 8 ∨ o.t = 9 →
      (o.opc = 0x30 → exec (.vrsum g .v1 w) s = reduced (sumOp o.t) .zero) ∧
      (o.opc = 0x31 → exec (.vrmax g .v1 w) s = reduced (fun a b => (numMax a b, {})) (if o.t = 8 then .inf true else .ofInt (-2147483648))) ∧
      (o.opc = 0x32 → exec (.vrmin g .v1 w) s = reduced (fun a b => (numMin a b, {})) (if o.t = 8 then .inf false else .ofInt 2147483647))) ∧
    (o.opc = 0x33 → o.t = 5 ∨ o.t = 7 ∨ o.t = 8 ∨ o.t = 9 → exec (.vbexp g .v1 w) s = .next { s with
      dev :=
       let on := (List.range 32).filter (fun i => (o.mask r).getLsbD i)
       let xs := on.map (fun i => ofF32 (elemOf 32 (r.vr o.va) i))
       let v :=
         if on = [] then (Config.fixed 32 0x33 [o.t, (r.vr o.va).toNat]).toNat
         else if o.t = 8 then ofSigned 32 (if xs.any (fun x => !x.isFin) then 128 else (amaxLog xs).getD (-150))
         else (on.map (normMin o.t (r.vr o.va))).foldl min 31
       seOut g .v1 3 [(.s (o.vd % 32), allLanes, BitVec.ofNat 1024 v)] d }) ∧
    (o.opc = 0x34 → o.t = 5 →
      exec (.vcmac g .v1 w) s = .next { s with
       dev :=
        let re := vmap 32 (o.mask r) (fun i => laneRes 9 (.ofInt (acc o.vd i + h o.va i 0 * h o.vb i 0 - ai i * bi i)))
        let im := vmap 32 (o.mask r) (fun i => laneRes 9 (.ofInt (acc o.vc i + h o.va i 0 * bi i + ai i * h o.vb i 0)))
        evNum g 2 (re.2.add im.2) (seOut g .v1 4 [(r.vdest o.vd, o.mask r, re.1), (r.vdest o.vc, o.mask r, im.1)] d) }) ∧
    (o.opc = 0x35 → o.t = 10 → o.va + 1 < 64 → o.vb + 1 < 64 → exec (.vcmacf g .v1 w) s = .next { s with
      dev :=
       let x := fun n i => ofF32 (elemOf 32 (r.vr n) i)
       let sign := fun (b : Bool) (v : Machine.Num) => if b then v.neg else v
       let start := fun n i => if o.imm.testBit 0 then x n i else .zero
       let ai := fun i => sign (o.imm.testBit 1) (x (o.va + 1) i)
       let bi := fun i => sign (o.imm.testBit 2) (x (o.vb + 1) i)
       let re := vmap 32 (o.mask r) (fun i => laneRes 8 (((start o.vd i).add ((x o.va i).mul (x o.vb i))).add ((ai i).mul (bi i)).neg))
       let im := vmap 32 (o.mask r) (fun i => laneRes 8 (((start o.vc i).add ((x o.va i).mul (bi i))).add ((ai i).mul (x o.vb i))))
       evNum g 2 (re.2.add im.2) (seOut g .v1 5 [(r.vdest o.vd, o.mask r, re.1), (r.vdest o.vc, o.mask r, im.1)] d) }) ∧
    (o.opc = 0x36 → o.t = 5 → o.va + 3 < 64 → o.vb + 2 < 64 → o.vd + 3 < 64 → o.imm % 4 ≠ 3 →
      exec (.vbfly4 g .v1 w) s = .next { s with
       dev :=
        let out := fun i => bfly4 (c o.va i) (c (o.va + 1) i) (c (o.va + 2) i) (c (o.va + 3) i) (c o.vb i) (c (o.vb + 1) i)
          (c (o.vb + 2) i) (o.imm % 4) (o.imm.testBit 2) (o.imm.testBit 3)
        let cl := clampI (-32767) 32767
        let one := fun j => vmap 32 allLanes (fun i =>
          let y := (out i).getD j (0, 0)
          (ofSigned 16 (cl y.1) + 65536 * ofSigned 16 (cl y.2),
            { sat := (if cl y.1 = y.1 then 0 else 1) + (if cl y.2 = y.2 then 0 else 1) }))
        evNum g 2 (NumEv.sum ((List.range 4).map (fun j => (one j).2)))
          (seOutEvery g .v1 w 2 6 ((List.range 4).map (fun j => (r.vdest (o.vd + j), allLanes, (one j).1))) d) }) ∧
    (o.opc = 0x36 → o.t = 5 → o.va + 3 < 64 → o.vb + 2 < 64 → o.vd + 3 < 64 → o.imm % 4 = 3 →
      exec (.vbfly4 g .v1 w) s = .next { s with
        dev :=
         let regs := (List.range 4).map (fun i => (r.vr (o.va + i)).toNat) ++ (List.range 3).map (fun i => (r.vr (o.vb + i)).toNat)
         seOutEvery g .v1 w 2 6 ((List.range 4).map (fun j =>
          (r.vdest (o.vd + j), allLanes, Config.fixed 1024 0x36 (j :: o.imm :: regs)))) d }) ∧
    (let beyond : Res := .next { s with dev := seAbort g 9 d }
     (o.opc = 0x35 → o.t = 10 → 64 ≤ o.va + 1 ∨ 64 ≤ o.vb + 1 → exec (.vcmacf g .v1 w) s = beyond) ∧
     (o.opc = 0x36 → o.t = 5 → 64 ≤ o.va + 3 ∨ 64 ≤ o.vb + 2 ∨ 64 ≤ o.vd + 3 → exec (.vbfly4 g .v1 w) s = beyond) ∧
     (o.opc = 0x37 → o.t = 5 → 1 ≤ o.imm % 8 → o.imm % 8 ≤ 5 →
       64 ≤ o.vd + demapRegs (2 * (o.imm % 8)) (if o.imm.testBit 3 then 4 else 8) - 1 → exec (.vdemap g .v1 w) s = beyond)) ∧
    (o.opc = 0x37 → o.t = 5 → 1 ≤ o.imm % 8 → o.imm % 8 ≤ 5 →
      let width := if o.imm.testBit 3 then 4 else 8
      let n := demapRegs (2 * (o.imm % 8)) width
      o.vd + n - 1 < 64 → exec (.vdemap g .v1 w) s = .next { s with
      dev :=
       let llrs := (List.range 32).flatMap (fun i => demapSym (2 * (o.imm % 8)) (o.imm / 16 % 16) (o.imm / 256 % 32)
         (if width = 8 then 127 else 7) (h o.va i 0) (h o.va i 1) (h o.vb i 0))
       let all := llrs.foldr (fun x a => ofSigned width x + a * 2 ^ width) 0
       let open_ := fun j => Config.fixed 1024 0x37 [j, o.imm, (r.vr o.va).toNat, (r.vr o.vb).toNat]
       seOutEvery g .v1 w n 5 ((List.range n).map (fun j =>
         (r.vdest (o.vd + j), allLanes, if o.imm / 16 % 16 ≤ 10 then BitVec.ofNat 1024 (all / 2 ^ (1024 * j)) else open_ j))) d }) ∧
    (o.opc = 0x37 → o.t = 5 → ¬ (1 ≤ o.imm % 8 ∧ o.imm % 8 ≤ 5) → o.vd < 64 → exec (.vdemap g .v1 w) s = .next { s with
      dev := seOutEvery g .v1 w 1 5
        [(r.vdest o.vd, allLanes, Config.fixed 1024 0x37 [0, o.imm, (r.vr o.va).toNat, (r.vr o.vb).toNat])] d })

/-- R79, R82, R83, R88, R102, R103, R105: loads and stores of slot M at an aligned address inside the scratchpad with legal modifiers: the
bytes the engine's port reads land after six cycles, eight for a block, the bytes stored are written in the same a-cycle, and the
post-modifications land one cycle later. Where no byte is being written by another engine and no word read has an error, the port reads
the bytes of the scratchpad and nothing else changes. Illegal modifiers abort with cause 5, a misaligned address with 6, one out of
range with 7. -/
def Obligations.LoadsAndStoresIssue : Prop :=
  ∀ (s : State) (g : Nat) (w : Slot64), s.dev.pins.stopped = false → g < 80 →
    let o := slotOp w
    let l := landDue g s.dev
    l.seReady g = true → (l.se g).stageOn o.stg = true → o.km < 8 ∨ o.opc = 0x07 →
    let d := seCounted g l
    let r := d.se g
    let a := (effAddr r o).toNat
    let aborts : Nat → Res := fun c => .next { s with dev := seAbort g c d }
    (∀ x n, d.portClear (g, 2, 0) (d.acyc + 1) [] (d.workOf g) [g] x n = true → seRead g x n d = (d.spadRead (d.workOf g) [g] x n, d)) ∧
    (o.t ∈ laneTypes →
      let c := accessCause (effAddr r o) 128 4
      (o.opc = 0x01 → exec (.vld g w) s =
        if modsOk r o false = false then aborts 5 else if c ≠ 0 then aborts c
        else .next { s with
          dev := seOut g .m 1 (postMods r o false)
            (seOut g .m 6 [(r.vdest o.vd, o.mask r, BitVec.ofNat 1024 (leNat (seRead g a 128 d).1))] (seRead g a 128 d).2) }) ∧
      (o.opc = 0x02 → exec (.vst g w) s =
        if modsOk r o false = false then aborts 5 else if c ≠ 0 then aborts c
        else .next { s with
          dev := seOut g .m 1 (postMods r o false) ((List.range 32).foldl (fun d i =>
            if (o.mask r).getLsbD i then seWrite g (a + 4 * i) (leBytes 4 (elemOf 32 (r.vr o.vd) i)) d else d) d) })) ∧
    (o.t = 8 ∨ o.t = 9 →
      let c := accessCause (effAddr r o) 8 8
      (o.opc = 0x03 → exec (.sld g w) s =
        if modsOk r o false = false then aborts 5 else if c ≠ 0 then aborts c
        else .next { s with
          dev := seOut g .m 1 (postMods r o false)
            (seOut g .m 6 [(.s (o.vd % 32), allLanes, BitVec.ofNat 1024 (leNat (seRead g a 8 d).1))] (seRead g a 8 d).2) }) ∧
      (o.opc = 0x04 → exec (.sst g w) s =
        if modsOk r o false = false then aborts 5 else if c ≠ 0 then aborts c
        else .next { s with dev := seOut g .m 1 (postMods r o false) (seWrite g a (leBytes 8 (r.sr o.vd).toNat) d) })) ∧
    (o.t ≤ 5 → 64 ≤ o.vd + o.t / 5 ∨ modsOk r o true = false ∨ blockCause r o ≠ 0 →
      let c := if 64 ≤ o.vd + o.t / 5 then 9 else if modsOk r o true = false then 5 else blockCause r o
      (o.opc = 0x05 → exec (.vldB g w) s = aborts c) ∧ (o.opc = 0x06 → exec (.vstB g w) s = aborts c) ∧
      (o.opc = 0x07 → exec (.vstBx g w) s = aborts c)) ∧
    (o.t < 5 → o.vd < 64 → modsOk r o true = true → blockCause r o = 0 →
      let v := (r.ar o.vc).toNat
      let xs := (List.range 32).map (fun i => ofF32 (elemOf 32 (r.vr o.vd) i))
      let stored : Option Nat → Res := fun given =>
        let q := quantiseBs o.t given xs
        let d := seWrite g v [BitVec.ofNat 8 q.1] (seWrite g a (packBits (bsFmt o.t).width q.2.1) d)
        .next { s with dev := evNum g 2 q.2.2 (seOut g .m 1 (postMods r o true) d) }
      (o.opc = 0x05 → exec (.vldB g w) s = .next { s with
        dev :=
         let x := seRead g a (bsPayload o.t) d
         let y := seRead g v 1 x.2
         let z := vmap 32 allLanes (fun i => laneRes 8 (bsValue o.t (leNat y.1) (elemBits o.t x.1 i)))
         evNum g 2 z.2 (seOut g .m 1 (postMods r o true) (seOut g .m 8 [(r.vdest o.vd, allLanes, z.1)] y.2)) }) ∧
      (o.opc = 0x06 → exec (.vstB g w) s = stored none) ∧
      (o.opc = 0x07 → exec (.vstBx g w) s = stored (some ((r.sr o.km).toNat % 256)))) ∧
    (o.t = 5 → o.vd + 1 < 64 → modsOk r o true = true → blockCause r o = 0 →
      let v := (r.ar o.vc).toNat
      let n := (v + 1) / 2 - v / 2 + 1
      let stored : Option Nat → Res := fun given =>
        let q := (List.range 2).map (fun b => quantiseCq given ((List.range 12).flatMap (fun i =>
          [ofF32 (elemOf 32 (r.vr o.vd) (12 * b + i)), ofF32 (elemOf 32 (r.vr (o.vd + 1)) (12 * b + i))])))
        let exps := (List.range 2).foldl (fun x b =>
          let lo := 4 * (v % 2 + b)
          setBits x (lo + 3) lo ((q.map (·.1)).getD b 0)) (leNat (seRead g (v / 2) n d).1)
        let d := seWrite g a (q.flatMap (fun b => b.2.1.flatMap (fun m => leBytes 2 (ofSigned 16 m)))) (seRead g (v / 2) n d).2
        .next { s with dev := evNum g 2 (NumEv.sum (q.map (·.2.2))) (seOut g .m 1 (postMods r o true) (seWrite g (v / 2) (leBytes n exps) d)) }
      (o.opc = 0x05 → exec (.vldB g w) s = .next { s with
        dev :=
         let x := seRead g a 96 d
         let y := seRead g (v / 2) n x.2
         let f := fun j i => if i < 24 then
           toF32 (cqValue (toSigned 16 (at_ x.1 (4 * i + 2 * j) 2)) ((leNat y.1 >>> (4 * (v % 2 + i / 12))) % 16)) else 0
         seOut g .m 1 (postMods r o true) (seOut g .m 8
           [(r.vdest o.vd, allLanes, ofElems 32 (f 0)), (r.vdest (o.vd + 1), allLanes, ofElems 32 (f 1))] y.2) }) ∧
      (o.opc = 0x06 → exec (.vstB g w) s = stored none) ∧
      (o.opc = 0x07 → exec (.vstBx g w) s = stored (some ((r.sr o.km).toNat % 16))))

/-- R90 to R94, R104, R110: the scalar slot: 64-bit arithmetic that wraps and moves land after their latency (whether SSHR of a value with
its top bit set is arithmetic is open, and so is a shift by 64 or more, log 28); LOOP, SPAN, branches, counter waits, SIGC and END
change the engine, and a fifth loop, a span outside its rules and an END inside a loop abort with causes 3, 8 and 4. A branch counts
from its own bundle (log 46). R85, R86, R105, R110: results that are due land, and an error of the register files or the scratchpad
that the command names befalls them; a WAITC whose counter has reached its value lets the engine issue again, and one that waits on, or
none, changes nothing. -/
def Obligations.ScalarSlotIssues : Prop :=
  (∀ (s : State) (g : Nat) (w : Slot64), s.dev.pins.stopped = false → g < 80 →
    let o := slotOp w
    let l := landDue g s.dev
    l.seReady g = true → (l.se g).stageOn o.stg = true → o.vc = 0 → o.km = 0 → o.t = 0 →
    let d := seCounted g l
    let r := d.se g
    let a := r.sr o.va
    let b := r.sr o.vb
    let put : Nat → SeDest → BitVec 64 → Res := fun lat dest v =>
      .next { s with dev := seOut g .s lat [(dest, allLanes, v.zeroExtend 1024)] d }
    let n := a.toNat % 2 ^ 32
    let jump : Res := .next { s with dev := d.modSe g (fun x => { x with branch := some (x.cyc + 3, (toSigned 20 o.imm + r.pc).toNat) }) }
    (o.opc = 0x50 → exec (.sadd g w) s = put 1 (.s (o.vd % 32)) (a + b)) ∧
    (o.opc = 0x51 → exec (.ssub g w) s = put 1 (.s (o.vd % 32)) (a - b)) ∧
    (o.opc = 0x52 → exec (.smul g w) s = put 3 (.s (o.vd % 32)) (a * b)) ∧
    (o.opc = 0x53 → exec (.sand g w) s = put 1 (.s (o.vd % 32)) (a &&& b)) ∧
    (o.opc = 0x54 → exec (.sor g w) s = put 1 (.s (o.vd % 32)) (a ||| b)) ∧
    (o.opc = 0x55 → exec (.sxor g w) s = put 1 (.s (o.vd % 32)) (a ^^^ b)) ∧
    (o.opc = 0x56 → exec (.sshl g w) s = 
      put 1 (.s (o.vd % 32)) (if 64 ≤ b.toNat then Config.fixed 64 0x56 [a.toNat, b.toNat] else a <<< b.toNat)) ∧
    (o.opc = 0x57 → exec (.sshr g w) s = put 1 (.s (o.vd % 32)) (if 64 ≤ b.toNat then Config.fixed 64 0x57 [a.toNat, b.toNat]
      else if Config.fixed 1 0x57 [] = 1 then a.sshiftRight b.toNat else a >>> b.toNat)) ∧
    (o.opc = 0x58 → exec (.sli g w) s = put 1 (.s (o.vd % 32)) (BitVec.ofInt 64 (toSigned 20 o.imm))) ∧
    (o.opc = 0x59 → exec (.amov g w) s = put 1 (.a (o.vd % 16)) a) ∧
    (o.opc = 0x5A → exec (.mmov g w) s = put 1 (.m (o.vd % 8)) a) ∧
    (o.opc = 0x5B → exec (.kmov g w) s = put 1 (.k (o.vd % 8)) a) ∧
    (o.opc = 0x60 → r.loops.length < 4 → n ≠ 0 → exec (.loop g w) s = .next { s with
      dev := d.modRegs g (fun x =>
        { x with loops := { first := x.pc + 1, last := x.pc + (o.imm % 1024 + 1), n := n, stages := o.imm / 1024 % 16 + 1
                            rot := o.imm.testBit 14, iter := 0 } :: x.loops }) }) ∧
    (o.opc = 0x60 → r.loops.length < 4 → n = 0 → exec (.loop g w) s = .next { s with
      dev := d.modRegs g (fun x => { x with pc := x.pc + (o.imm % 1024 + 1) }) }) ∧
    (o.opc = 0x60 → 4 ≤ r.loops.length → exec (.loop g w) s = .next { s with dev := seAbort g 3 d }) ∧
    (o.opc = 0x61 → o.imm % 64 % 4 = 0 → o.imm % 64 ≤ 60 → o.imm / 64 % 128 % 4 = 0 → o.imm / 64 % 128 ≤ 64 →
      o.imm % 64 + o.imm / 64 % 128 ≤ 64 → exec (.span g w) s = .next { s with
      dev := d.modRegs g (fun x => { x with rb := o.imm % 64, rs := o.imm / 64 % 128, rrb := 0 }) }) ∧
    (o.opc = 0x61 → o.imm % 64 % 4 ≠ 0 ∨ 60 < o.imm % 64 ∨ o.imm / 64 % 128 % 4 ≠ 0 ∨ 64 < o.imm / 64 % 128 ∨
        64 < o.imm % 64 + o.imm / 64 % 128 → exec (.span g w) s = .next { s with dev := seAbort g 8 d }) ∧
    (o.opc = 0x62 → exec (.br g w) s = jump) ∧
    (o.opc = 0x63 → exec (.brz g w) s = if a = 0 then jump else .next { s with dev := d }) ∧
    (o.opc = 0x64 → exec (.brnz g w) s = if a = 0 then .next { s with dev := d } else jump) ∧
    (o.opc = 0x65 → exec (.waitc g w) s = .next { s with
      dev := if a.toNat ≤ d.cc g (o.imm % 16) then d else d.modSe g (fun x => { x with wait := some (o.imm % 16, a.toNat), fresh := true }) }) ∧
    (o.opc = 0x66 → exec (.sigc g w) s = .next { s with
      dev := d.modSe g (fun x => 
        { x with sig := x.sig ++ [((((x.inflight.filter (fun y => y.issued < x.cyc)).map (·.due)).foldl max x.cyc) + 1, o.imm % 16)] }) }) ∧
    (o.opc = 0x67 → r.loops = [] → exec (.seEnd g w) s = .next { s with
      dev := d.modSe g (fun x => { x with drain := some ((x.sig.map (·.1)).foldl max x.lastDue), fresh := true }) }) ∧
    (o.opc = 0x67 → r.loops ≠ [] → exec (.seEnd g w) s = .next { s with dev := seAbort g 4 d })) ∧
  ((∀ (s : State) (g : Nat) (ev : SeEvent), s.dev.pins.stopped = false → g < 80 →
    exec (.seResultLand ⟨g, ev⟩) s = .next { s with dev := seEvent g ev (landDue g s.dev) } ∧ ∀ d, seEvent g .clean d = d) ∧
  (∀ (s : State) (g : Nat), s.dev.pins.stopped = false → g < 80 → exec (.waitcSatisfied g) s =
    match (s.dev.core g).se.wait with
    | some (c, v) => if v ≤ s.dev.cc g c then .next { s with dev := s.dev.modSe g (fun x => { x with wait := none, fresh := false }) } else .next s
    | none => .next s))

/-- R84, R91, R94, R106: a slot command whose engine does not issue, or whose stage is disabled, does nothing but let due results land. On
an engine that issues, in an enabled stage, an opcode of another instruction or a slot that R94's table does not give the instruction
aborts the unit with cause 1, a type it does not take with cause 2, a reserved field or mask register with cause 9. -/
def Obligations.IllegalSlotsAbort : Prop :=
  ∀ (s : State) (g : Nat) (sl : SeSlot) (w : Slot64), s.dev.pins.stopped = false → g < 80 →
    let o := slotOp w
    let l := landDue g s.dev
    let aborts : Nat → Res := fun c => .next { s with dev := seAbort g c l }
    ∀ f ∈ Stated.slotForms g sl w,
      let (opc, slot, slots, types, c) := f
      (l.seReady g = false ∨ (l.se g).stageOn o.stg = false → exec c s = .next { s with dev := l }) ∧
      (l.seReady g = true → (l.se g).stageOn o.stg = true →
        (o.opc ≠ opc ∨ slot ∉ slots → exec c s = aborts 1) ∧
        (o.opc = opc → slot ∈ slots →
          (types ≠ [] → o.t ∉ types → exec c s = aborts 2) ∧
          (types = [] ∨ o.t ∈ types →
            (slot ≠ .s → opc ≠ 0x07 → 8 ≤ o.km → exec c s = aborts 9) ∧
            (slot = .s → o.vc ≠ 0 ∨ o.km ≠ 0 ∨ o.t ≠ 0 → exec c s = aborts 9))))

/-- R113, R116, R143, R422, R428: the words of a transfer list that may issue and are legal: SU.SD loads a descriptor, SU.MV puts a move in
flight (at most eight: with eight it waits) and each of the moves in flight remembers those it met, SU.AT holds the next word until its
offset, SU.EEND ends the list, SU.EVC and SU.EVR set up and record an event bank of the core or the partition, in one a-cycle, once
their counter wait is met. R119, R142, R143, R266: an illegal word of a list that may issue stops the list with its cause; a list that
is not active, paused or held issues nothing; AT_OFFSET_REACHED lets a held list go on and changes nothing else. -/
def Obligations.StreamWordsAct : Prop :=
  (∀ (s : State) (g : Nat) (w : Word256), s.dev.pins.stopped = false → g < 80 → s.dev.suReady g = true →
    let d := suStep g s.dev
    (sdCause w = 0 → exec (.suSd g w) s = .next { s with
      dev := d.modCtx g (fun c => { c with sd := tabSet 0 c.sd (wfld w 0 11 8) (sdOf w) }) }) ∧
    (mvCause s.dev g w = 0 → (s.dev.core g).moves.length < 8 → exec (.suMv g w) s = .next { s with
      dev := d.modCore g (fun c =>
        let new := (w, tabGet 0 c.ctx.sd (mvOp w).sds, tabGet 0 c.ctx.sd (mvOp w).sdd)
        { c with moves := c.moves.map (fun m => { m with met := m.met ++ [new] }) ++
          [{ w := w, sds := new.2.1, sdd := new.2.2, issued := d.acyc, met := c.moves.map (fun m => (m.w, m.sds, m.sdd)) }] }) }) ∧
    (wfld w 0 7 0 = 0x80 → 8 ≤ (s.dev.core g).moves.length → exec (.suMv g w) s = .next s) ∧
    (wfld w 0 7 0 = 0x82 → wrsv w 0 31 8 = true → wrsv w 4 31 22 = true → (w >>> 64).toNat = 0 →
      exec (.suAt g w) s = .next { s with
        dev := d.modList g (fun l =>
          { l with held := if d.acyc < l.tick + wfld w 4 21 0 then some (l.tick + wfld w 4 21 0) else none }) }) ∧
    (wfld w 0 7 0 = 0x8F → (w >>> 8).toNat = 0 → exec (.suEend g w) s = .next { s with
      dev := d.modList g (fun l => { l with active := false }) }) ∧
    (evcCause w = 0 → s.dev.waitMet g w = true → exec (.suEvc g w) s = .next { s with
      dev :=
       let d := if wbit w 0 20 then d.modPart (d.workOf g) (fun x => { x with bank := evcBank d.acyc w x.bank })
         else d.modCtx g (fun c => { c with bank := evcBank d.acyc w c.bank })
       if (suWait w).sen then ccInc g (suWait w).sctr d else d }) ∧
    (evrCause s.dev g w = 0 → s.dev.waitMet g w = true → exec (.suEvr g w) s = .next { s with
      dev :=
       let p := d.workOf g
       let b := if wbit w 0 8 then (d.part p).bank else (d.core g).ctx.bank
       let d := portWrite (g, 3, d.acyc) d.acyc p ((gsizeCores g (evrGsize w)).getD [g]) (wfld w 4 31 0)
         (counterRecord b (wbit w 0 9) (d.getF F.esEpochEpoch p)) d
       if (suWait w).sen then ccInc g (suWait w).sctr d else d }) ∧
    ((evcCause w = 0 → s.dev.waitMet g w = false → exec (.suEvc g w) s = .next s) ∧
     (evrCause s.dev g w = 0 → s.dev.waitMet g w = false → exec (.suEvr g w) s = .next s))) ∧
  ((∀ (s : State) (g : Nat) (w : Word256), s.dev.pins.stopped = false → g < 80 → s.dev.suReady g = true →
    let stops : Nat → Res := fun c => .next { s with dev := suIllegal g c s.dev }
    (sdCause w ≠ 0 → exec (.suSd g w) s = stops (sdCause w)) ∧
    (mvCause s.dev g w ≠ 0 → (s.dev.core g).moves.length < 8 → exec (.suMv g w) s = stops (mvCause s.dev g w)) ∧
    (wfld w 0 7 0 ≠ 0x82 → exec (.suAt g w) s = stops 11) ∧
    (wfld w 0 7 0 = 0x82 → ¬ (wrsv w 0 31 8 = true ∧ wrsv w 4 31 22 = true ∧ (w >>> 64).toNat = 0) → exec (.suAt g w) s = stops 9) ∧
    (wfld w 0 7 0 ≠ 0x8F → exec (.suEend g w) s = stops 11) ∧
    (wfld w 0 7 0 = 0x8F → (w >>> 8).toNat ≠ 0 → exec (.suEend g w) s = stops 9) ∧
    (let sd := sdDesc (s.dev.sdReg g (rmaSd w))
     let c := remCause s.dev g w 0x83 (wrsv w 0 11 9 && wrsv w 0 31 29 && wrsv w 4 31 24 && wrsv w 12 31 16 && wrsv w 20 31 0) true
       (decide (remRes w % 16 = 0)) [remRes w] (decide (sd.tier ≠ 3) && decide (sd.ebase + rmaLen w ≤
         s.dev.tierEnd g (s.dev.workOf g) ((gsizeCores g (remGsize w)).getD [g]) sd.tier) && (decide (sd.tier = 2) || sd.hiZero))
     c ≠ 0 → exec (.suRma g w) s = stops c) ∧
    (let c := remCause s.dev g w 0x84 (wrsv w 0 15 12 && wrsv w 0 31 29 && wrsv w 4 31 0 && wrsv w 12 31 16)
       (decide (amoType w < 2 ∨ (amoType w = 2 ∧ amoOp w = 0)))
       (decide (remRes w % 16 = 0 ∧ amoOpnd w % 16 = 0 ∧ remAddr w % amoSize w = 0)) [remRes w, amoOpnd w] true
     c ≠ 0 → exec (.suAmo g w) s = stops c) ∧
    (remOpc w ≠ 0x85 → exec (.suFence g w) s = stops 11) ∧
    (remOpc w = 0x85 → ¬ (wrsv w 0 15 9 = true ∧ wrsv w 0 31 25 = true ∧ (w >>> 32).toNat % 2 ^ 160 = 0 ∧ (suWait w).rsvOk = true) →
      exec (.suFence g w) s = stops 9) ∧
    (remOpc w = 0x85 → wrsv w 0 15 9 = true → wrsv w 0 31 25 = true → (w >>> 32).toNat % 2 ^ 160 = 0 → (suWait w).rsvOk = true →
      wbit w 0 8 = false → s.dev.roles (s.dev.workOf g) ≤ remRole w → exec (.suFence g w) s = stops 5) ∧
    (evcCause w ≠ 0 → exec (.suEvc g w) s = stops (evcCause w)) ∧
    (evrCause s.dev g w ≠ 0 → exec (.suEvr g w) s = stops (evrCause s.dev g w))) ∧
  (∀ (s : State) (g : Nat) (w : Word256), s.dev.pins.stopped = false → g < 80 → s.dev.suReady g = false →
    exec (.suSd g w) s = .next s ∧ exec (.suMv g w) s = .next s ∧ exec (.suAt g w) s = .next s ∧ exec (.suEend g w) s = .next s ∧
    exec (.suRma g w) s = .next s ∧ exec (.suAmo g w) s = .next s ∧ exec (.suFence g w) s = .next s ∧
    exec (.suEvc g w) s = .next s ∧ exec (.suEvr g w) s = .next s) ∧
  (∀ (s : State) (g t : Nat), s.dev.pins.stopped = false → g < 80 → (s.dev.core g).ctx.list.held = some t →
    exec (.atOffsetReached g) s = .next { s with
      dev := if t ≤ s.dev.acyc then s.dev.modList g (fun l => { l with held := none }) else s.dev }) ∧
  (∀ (s : State) (g : Nat), s.dev.pins.stopped = false → g < 80 → (s.dev.core g).ctx.list.held = none →
    exec (.atOffsetReached g) s = .next s))

/-- R114, R116 to R119, R225, R228, R265, R297, R379: the first move not yet started starts once its wait is met. The oldest move, started,
its bytes passed at 512, transposed 256, an f-cycle behind those of the moves before it, what it reads at peers arrived, its
destination pages at rest and its regulators with tokens, writes its lines; one that writes to lent frames waits for its peers'
answers. It then leaves the unit, its bytes count and its counter counts; lost data and a page without mapping are reported. A move
that cannot be carried out yet, or none, changes nothing. -/
def Obligations.MovesStartAndComplete : Prop :=
  (∀ (s : State) (g : Nat), s.dev.pins.stopped = false → g < 80 →
    exec (.moveStart g) s = .next { s with
      dev := s.dev.modCore g (fun c => { c with moves := startFirst s.dev.acyc (s.dev.waitMet g) c.moves }) }) ∧
  (∀ (s : State) (g : Nat) (ev : MoveEvent) (m : Move) (rest : List Move), s.dev.pins.stopped = false → g < 80 →
    (s.dev.core g).moves = m :: rest →
    let o := mvOp m.w
    let p := s.dev.workOf g
    let ready := m.started ≠ none ∧ s.dev.mvFrom g m + ceilDiv (ceilDiv (mvBytes o) (if o.xpose then 256 else 512) * 3) 2 + 1 ≤ s.dev.acyc ∧
      s.dev.mvToAsk g p m = [] ∧ s.dev.farAsking (g, m.issued) = false ∧
      (∀ x ∈ (s.dev.mvTier2 p g m).2, s.dev.vMigrating p x.1 x.2 = false) ∧ s.dev.moveWaits g p m = none
    let finish : Option (Nat × Bool) × Bool → Dev → Res := fun found d =>
      let d := d.modCore g (fun c => { c with moves := c.moves.tail, suFree := d.mvFrom g m + mvTime o })
      let d := suProgress g (mvBytes o / 64) (evCore g 0x09 0 (mvBytes o) d)
      let d := if o.sen then ccInc g o.sctr d else d
      let d := if found.2 then d.raise F.suStatusDataLost g else d
      .next { s with
       dev := pruneOld (match found.1 with
        | some (page, wr) => noteListFail p g 6 10 (xlateFault p page 1 g wr
            (((d.setF F.suErrinfoPart g p).setF F.suErrinfoCause g 10).raise F.suStatusRange g))
        | none => if found.2 then noteListFail p g 2 0 d else d) }
    (m.wrote = false → ready →
      let x := mvWriteData g p m ev s.dev
      (x.2.mvStoring g p m = false → exec (.moveComplete g ev) s = finish x.1 x.2) ∧
      (x.2.mvStoring g p m = true → exec (.moveComplete g ev) s = .next { s with
        dev := x.2.modCore g (fun c => { c with moves := modAt c.moves 0 (fun m => { m with wrote := true, found := x.1 }) }) })) ∧
    (m.wrote = false → ¬ ready → exec (.moveComplete g ev) s = .next s) ∧
    (m.wrote = true → s.dev.mvStoring g p m = false → exec (.moveComplete g ev) s = finish m.found s.dev) ∧
    (m.wrote = true → s.dev.mvStoring g p m = true → exec (.moveComplete g ev) s = .next s)) ∧
  (∀ (s : State) (g : Nat) (ev : MoveEvent), s.dev.pins.stopped = false → g < 80 → (s.dev.core g).moves = [] →
    exec (.moveComplete g ev) s = .next s)

/-- R265 to R269, R273: legal SU.RMA, SU.AMO and SU.FENCE join the remote operations of the core with an own number and send what they can;
the first operation that has ended writes its result record (a fence writes none; what an atomic returned whose status is not OK is
free, R16) and counts in the following a-cycle. -/
def Obligations.RemoteOperationsAct : Prop :=
  (∀ (s : State) (g : Nat) (w : Word256), s.dev.pins.stopped = false → g < 80 → s.dev.suReady g = true →
    let d := suStep g s.dev
    let joins : BitVec 192 → Nat → Bool → Res := fun sd left fence =>
      let n := d.modTeril (fun t => { t with nextOp := t.nextOp + 1 })
      .next { s with dev := remotePump g (n.modCore g (fun c => { c with remote := c.remote ++
        [{ id := d.teril.nextOp, p := n.workOf g, w := w, sd := sd, issued := n.acyc, tags := [], left := left, fence := fence }] })) }
    let sd := sdDesc (s.dev.sdReg g (rmaSd w))
    let cs := (gsizeCores g (remGsize w)).getD [g]
    (remCause s.dev g w 0x83 (wrsv w 0 11 9 && wrsv w 0 31 29 && wrsv w 4 31 24 && wrsv w 12 31 16 && wrsv w 20 31 0) true
        (decide (remRes w % 16 = 0)) [remRes w] (decide (sd.tier ≠ 3) &&
          decide (sd.ebase + rmaLen w ≤ s.dev.tierEnd g (s.dev.workOf g) cs sd.tier) && (decide (sd.tier = 2) || sd.hiZero)) = 0 →
      exec (.suRma g w) s = joins (s.dev.sdReg g (rmaSd w)) (rmaLen w) false) ∧
    (remCause s.dev g w 0x84 (wrsv w 0 15 12 && wrsv w 0 31 29 && wrsv w 4 31 0 && wrsv w 12 31 16)
        (decide (amoType w < 2 ∨ (amoType w = 2 ∧ amoOp w = 0)))
        (decide (remRes w % 16 = 0 ∧ amoOpnd w % 16 = 0 ∧ remAddr w % amoSize w = 0)) [remRes w, amoOpnd w] true = 0 →
      exec (.suAmo g w) s = joins 0 1 false) ∧
    (remOpc w = 0x85 → wrsv w 0 15 9 = true → wrsv w 0 31 25 = true → (w >>> 32).toNat % 2 ^ 160 = 0 → (suWait w).rsvOk = true →
      wbit w 0 8 = true ∨ remRole w < s.dev.roles (s.dev.workOf g) → exec (.suFence g w) s = joins 0 0 true)) ∧
  (∀ (s : State) (g : Nat) (o : RemoteOp), s.dev.pins.stopped = false → g < 80 →
    firstEnded (s.dev.waitMet g) [] (s.dev.core g).remote = some o →
    let st := opStatus o
    let write : BitVec 64 → Dev → Dev := fun old d => portWrite (g, 3, o.issued) d.acyc o.p ((gsizeCores g (remGsize o.w)).getD [g]) (remRes o.w)
      (leBytes 4 (st + min o.retries 255 * 256) ++ leBytes 4 o.failed ++ leBytes 8 old.toNat) d
    let finish : Dev → Res := fun d =>
      let d := d.modCore g (fun c => { c with remote := c.remote.filter (fun x => x.id ≠ o.id) })
      .next { s with
       dev := remotePump g (if (suWait o.w).sen then ccIncFor o.p g (suWait o.w).sctr (d.acyc + 1) d else d) }
    (o.fence = false → remOpc o.w = 0x84 → st = 0 → exec (.remoteOpComplete g) s = finish (write o.old s.dev)) ∧
    (o.fence = false → remOpc o.w = 0x84 → st ≠ 0 →
      exec (.remoteOpComplete g) s = finish (write (takeFree 64 s.dev).1 (takeFree 64 s.dev).2)) ∧
    (o.fence = false → remOpc o.w ≠ 0x84 → exec (.remoteOpComplete g) s = finish (write 0 s.dev)) ∧
    (o.fence = true → remOpc o.w = 0x85 → exec (.remoteOpComplete g) s = finish s.dev)) ∧
  (∀ (s : State) (g : Nat), s.dev.pins.stopped = false → g < 80 →
    firstEnded (s.dev.waitMet g) [] (s.dev.core g).remote = none → exec (.remoteOpComplete g) s = .next s)

/-- R405, R408, R413, R420, R434: PWRON_N rising samples the straps, counts a run and begins Q0 before the nine other stages; a stage that
ends writes its record and interrupts the BMC: one without a failure code leaves what it leaves and the next one begins, one with a
failure code stops bring-up. -/
def Obligations.BringUpRuns : Prop :=
  (∀ (s : State) (straps : BitVec 3), exec (.powerOn straps) s = .next { s with
    dev :=
      if s.dev.pins.pwron then s.dev
      else stageBegins 0 { ((s.dev.modPins (fun x => { x with pwron := true, straps := straps })).addSat F.qsStateRuns 0 1) with
        rerun := [1, 2, 3, 4, 5, 6, 7, 8, 9], reduced := false } }) ∧
  (∀ (s : State) (f : QsFinding), s.dev.pins.stopped = false → s.dev.stage = none → exec (.quicksetStageEnd f) s = .next s) ∧
  (∀ (s : State) (f : QsFinding) (k : Nat), s.dev.pins.stopped = false → s.dev.stage = some k →
    let x := stageWork k f s.dev
    let code := x.2.1
    let result := if code ≠ 0 then 3 else if x.2.2.2 then 2 else 1
    let d := { x.1 with qs := memWrite x.1.qs (32 * k) (qsRecord k result code f.duration x.1.nt x.2.2.1)
                        reduced := x.1.reduced || decide (result = 2) }
    let d := d.setF F.qsStateReduced 0 (if (List.range 10).any (fun i => decide (d.qsResult i = 2)) then 1 else 0)
    (code ≠ 0 → exec (.quicksetStageEnd f) s = .next { s with
      dev :=
       let e := { emit (.i3cInt (k + 128)) d with stage := none, rerun := [] }
       (e.setF F.qsStateFailed 0 1).setF F.qsStateFailStage 0 k }) ∧
    (code = 0 → (stagePassed k (emit (.i3cInt k) d)).rerun = [] → exec (.quicksetStageEnd f) s = .next { s with
      dev := { stagePassed k (emit (.i3cInt k) d) with stage := none } }) ∧
    (∀ n rest, code = 0 → (stagePassed k (emit (.i3cInt k) d)).rerun = n :: rest → exec (.quicksetStageEnd f) s = .next { s with
      dev := stageBegins n { stagePassed k (emit (.i3cInt k) d) with rerun := rest } }))

/-- R421, R432, R433, R439, R440: what the S-clock drives answers whether or not the other clocks run: the I3C port from the end of Q0 on,
a rail that fails once Q0 has passed, the release of PWRCYC_REQ_N after 100 ms, a power cycle, which keeps the card flash, host memory
and the memory of peers. A rail beyond the twelve, before Q0 has passed or failed already changes nothing. R217, R321, R419, R431,
R434, R439, R441 to R443: PERST, the sensors, PKG_TEMP and HOT with the trip of 115 and 105 °C, the AVS ports behind STRAP_AVS, the
throttle interval every millisecond and a failed lane of a die link, which the group's spare takes or which takes step 3 of the ladder;
a lane that no link has changes nothing. -/
def Obligations.PowerAndPackageAct : Prop :=
  (∀ (s : State),
    (∀ b : Bytes, exec (.i3cPointerWrite b) s = .next { s with
      dev := if b.length = 2 ∧ s.dev.q0Done = true then { s.dev with i3c := leNat b } else emit .i3cNack s.dev }) ∧
    (∀ n : Nat, s.dev.q0Done = true → exec (.i3cRead n) s = .next { s with
      dev := emit (.i3c ((List.range n).map (fun i => s.dev.i3cByte ((s.dev.i3c + i) % 65536))))
        { s.dev with i3c := (s.dev.i3c + n) % 65536 } }) ∧
    (∀ n : Nat, s.dev.q0Done = false → exec (.i3cRead n) s = .next { s with dev := emit .i3cNack s.dev }) ∧
    (∀ b : Nat, b < 12 → s.dev.qsResult 0 = 1 → s.dev.pins.pwrOk.getLsbD b = true →
      exec (.pwrOkFall b) s = .next { s with
        dev :=
         let d := s.dev.modPins (fun x => { x with pwrOk := x.pwrOk &&& ~~~ (1#12 <<< b) })
         let d := d.setF F.pwrStatusRailLost 0 (d.getF F.pwrStatusRailLost ||| 2 ^ b)
         if d.pins.stopped then d else stopClocks (d.modPins (fun x => { x with pwrcycReq := true, pwrcycAt := d.nt })) }) ∧
    (∀ b : Nat, 12 ≤ b ∨ s.dev.qsResult 0 ≠ 1 ∨ s.dev.pins.pwrOk.getLsbD b = false → exec (.pwrOkFall b) s = .next s) ∧
    (exec .pwrcycReqNRelease s = .next { s with
      dev := if s.dev.pins.pwrcycReq = true ∧ reached s.dev (later s.dev.pins.pwrcycAt 800000000) = true
        then s.dev.modPins (fun x => { x with pwrcycReq := false }) else s.dev }) ∧
    (∃ d, exec .powerCycle s = .next { s with dev := d } ∧ d.flash = s.dev.flash.booted ∧ d.host = s.dev.host ∧
      d.mem.peer = s.dev.mem.peer ∧ d.regs = [] ∧ d.rings = [] ∧ d.parts = [] ∧ d.cores = [] ∧ d.mem.hbm = [] ∧ d.nt = 0 ∧
      d.pins.pwron = false ∧ d.pins.stopped = false)) ∧
  (∀ (s : State), s.dev.pins.stopped = false →
    (exec .perstAssert s = .next { s with
      dev :=
       let d := pcieChange false false 0 0 (s.dev.modPins (fun x => { x with perst := true, pcieReset := true }))
       if d.flag F.qsStateReady then fnReset d else d }) ∧
    (exec .perstDeassert s = .next { s with
      dev := s.dev.modPins (fun x => { x with perst := false, pcieReset := ! s.dev.q0Done }) }) ∧
    (∀ dieT hbmT : List Int, exec (.sensorRead dieT hbmT) s = .next { s with
      dev :=
       let die := dieTemps s.dev.pins.dieTemp dieT
       let hbm := if hbmT = [] then s.dev.pins.stackTemp else hbmT.take 32
       let d := s.dev.modPins (fun x => { x with dieTemp := die, stackTemp := hbm })
       let d := d.setF F.pkgTempC 0 (leNat ((die.take 4).map (fun t => BitVec.ofNat 8 (degree t))))
       let d := (d.setF F.pkgTempE 0 (degree (die.getD 4 0))).setF F.pkgTempHbm 0 (degree (hottest 0 hbm))
       let d := hbm.zipIdx.foldl (fun d x =>
         let was := tabGet false d.mem.hot x.2
         let d := d.modMem (fun m => { m with hot := tabSet false m.hot x.2 (decide (85 < x.1)) })
         d.raiseIf (decide (85 < x.1) && ! was) F.memStatusHot (x.2 / 8)) d
       if (∃ t ∈ die, 115 ≤ t) ∨ (∃ t ∈ hbm, 105 ≤ t) then (stopClocks d).modPins (fun x => { x with thermtrip := true }) else d }) ∧
    (∀ dieT hbmT : List Int, (∃ t ∈ dieTemps s.dev.pins.dieTemp dieT, 115 ≤ t) ∨ (∃ t ∈ hbmT.take 32, 105 ≤ t) →
      ∃ d : Dev, exec (.sensorRead dieT hbmT) s = .next { s with dev := d } ∧ d.pins.stopped = true ∧ d.pins.thermtrip = true) ∧
    (∀ rails : List (Nat × Nat), exec (.avsRead rails) s = .next { s with
      dev :=
        if s.dev.pins.straps.getLsbD 1 then
          let w := rails.map (fun x => x.1 * x.2)
          s.dev.modPins (fun x =>
            { x with rails := rails, power := ((sumL w, (List.range 4).map (fun i => w.getD (4 + i) 0)) :: x.power).take 150 })
        else s.dev }) ∧
    (s.dev.beat 4 8000000 0 = none → exec .throttleInterval s = .next s) ∧
    (∀ t, s.dev.beat 4 8000000 0 = some t → exec .throttleInterval s = .next { s with
      dev :=
       let c := s.dev.overConds
       let l := s.dev.getF F.pwrStatusLevel
       let l' := nextLevel (c.any id) s.dev.underCond l (s.dev.eff F.pwrCfgLmax 0 48)
       let d := (s.dev.raiseIf (c.getD 0 false) F.pwrStatusCap).raiseIf (c.getD 1 false) F.pwrStatusDieCap
       let d := (d.raiseIf (c.getD 2 false) F.pwrStatusTemp).raiseIf (c.getD 3 false) F.pwrStatusHbmTemp
       let d := d.raiseIf (c.any id && decide (l = s.dev.eff F.pwrCfgLmax 0 48) && decide (0 < s.dev.eff F.pwrCfgLmax 0 48)) F.pwrStatusAtMax
       let d := (d.setF F.pwrStatusPower 0 (min 8191 (s.dev.powerSums.2.1 / (1000000 * max s.dev.powerSums.1 1)))).setF F.pwrStatusLevel 0 l'
       beatDone 4 t (if 0 < l' ∨ d.mem.hot ≠ [] then health 5 1 d else d) }) ∧
    (∀ die link dir group lane : Nat, ¬ (die < 4 ∧ link < 3 ∧ dir < 2 ∧ group < (if link = 2 then 4 else 8) ∧ lane < 33) →
      exec (.dieLinkLaneFail die link dir group lane) s = .next s) ∧
    (∀ die link dir group lane : Nat, die < 4 → link < 3 → dir < 2 → group < (if link = 2 then 4 else 8) → lane < 33 →
      let d := s.dev.raise F.dlStatusLane (die * 3 + link)
      let o := laneByte (dieLinkIndex die link) (dir * (if link = 2 then 4 else 8) + group)
      (∀ d', takeSpare o lane d = some d' → exec (.dieLinkLaneFail die link dir group lane) s = .next { s with dev := d' }) ∧
      (takeSpare o lane d = none → exec (.dieLinkLaneFail die link dir group lane) s = .next { s with
        dev :=
         let e := health 3 1 (d.raise F.dlStatusDown (die * 3 + link))
         takeStep .device 3 none { e with dieOut := tabSet false e.dieOut (dieLinkIndex die link) true } })))

/-- The queue is first in, first out: a step runs the command at its front on the state with the queue's rest; with no command waiting one
a-cycle passes (log 1). -/
def Obligations.StepRunsFrontCommand : Prop :=
  (∀ (c : Instr) (s : State), step { s with pending := c :: s.pending } = exec c s) ∧
  (∀ (c : Instr) (l : List Instr) (s : State), s.pending = c :: l → step s = exec c { s with pending := l }) ∧
  (∀ s : State, s.pending = [] → step s = .next { s with dev := tick s.dev })

/-- R12, R13 (log 1): a step without a command moves the a-cycle count by one, and network time by 1 ns, 8 units, in every third a-cycle
and not otherwise. -/
def Obligations.IdlingMovesTime : Prop :=
  ∀ s : State, s.pending = [] → ∃ t, step s = .next t ∧ t.pending = [] ∧ t.dev.acyc = s.dev.acyc + 1 ∧
    t.dev.nt = if (s.dev.acyc + 1) % 3 = 0 then s.dev.nt + 8 else s.dev.nt

/-- No command touches the queue of waiting commands. -/
def Obligations.ExecLeavesTheQueue : Prop :=
  ∀ (c : Instr) (s t : State), exec c s = .next t → t.pending = s.pending

/-- R433, R442: once the clocks have stopped, no command but those of the S-clock and the T-clock changes anything, idling moves time and
the PPS output alone, and only a power cycle starts the clocks again. -/
def Obligations.StoppedClocksStayStopped : Prop :=
  ∀ s : State, s.dev.pins.stopped = true →
    (∀ c : Instr, (∀ b, c ≠ .i3cPointerWrite b) → (∀ n, c ≠ .i3cRead n) → (∀ x, c ≠ .powerOn x) → c ≠ .powerCycle →
      (∀ b, c ≠ .pwrOkFall b) → c ≠ .pwrcycReqNRelease → c ≠ .ppsInEdge → c ≠ .ppsOutPulse →
      exec c s = .next s ∨ ∃ e, exec c s = .fault e) ∧
    (∀ (c : Instr) (t : State), c ≠ .powerCycle → exec c s = .next t → t.dev.pins.stopped = true) ∧
    (s.pending = [] → step s = .next { s with dev := ppsFall (passTime s.dev) }) ∧
    (∀ t : State, exec .powerCycle s = .next t → t.dev.pins.stopped = false)

/-- A queue of well-formed commands runs: every step from it answers a next state, neither faulting nor refusing, whatever the rest of the
state, and leaves a queue of well-formed commands. -/
def Obligations.WellFormedQueueRuns : Prop :=
  ∀ s : State, Safe.queue s → ∃ t, step s = .next t ∧ Safe.queue t

/-- R22, R233, R326, R405 and the register maps: the machine after power-up: no command waits, every register reads its reset value,
network time counts from zero, memory is empty and canonical, every ring is DISABLED and no bring-up stage runs. -/
def Obligations.ResetState : Prop :=
  let d := State.reset.dev
  State.reset.pending = [] ∧ Safe.queue State.reset ∧
  (∀ (r : RegName) (i : Nat), d.rd r i = r.resetVal i) ∧
  d.nt = 0 ∧ d.acyc = 0 ∧ d.stage = none ∧ d.pins.stopped = false ∧
  d.mem.hbm = [] ∧ d.mem.spad = [] ∧ d.host = [] ∧ Memory.wf d.mem.hbm = true ∧ Memory.wf d.mem.spad = true ∧ Memory.wf d.host = true ∧
  (∀ r, d.ringSt r = 0) ∧ d.getF F.pkgIdVendor = 78 ∧ d.getF F.hbParamPipeLat = 272 ∧ d.getF F.fhLeaseLease = 5 ∧
  d.getF F.tlRmCfgRto = 10 ∧ d.getF F.hiDbCfgIdlePolls = 64 ∧ d.getF F.fltWdogTimeout = 200 ∧ d.getF F.pwrCfgLimit = 4000 ∧
  d.getF F.fltHealthScore = 1000 ∧ d.pstate 0 = 1 ∧ d.pstate 1 = 0

/-- R5, R120, R326, R347: a command that names a core, engine, ring or semaphore that the package does not have faults under that name and
changes nothing; a row that names a partition the package does not have occurs nowhere and changes nothing (log 150). -/
def Obligations.ForeignUnitsFault : Prop :=
  (∀ (s : State) (g e n : Nat) (sl : SeSlot) (w : Slot64) (x : Word256) (mm : MmEvent) (mv : MoveEvent) (se : SeEvent), 80 ≤ g →
    (∀ c ∈ Stated.slotRows g sl w ++ Stated.matrixRows g e n mm x ++ [.suSd g x, .suMv g x, .suAt g x, .suEend g x, .suRma g x, .suAmo g x,
      .suFence g x, .suEvc g x, .suEvr g x, .moveStart g, .moveComplete g mv, .atOffsetReached g, .remoteOpComplete g, .seResultLand ⟨g, se⟩,
      .waitcSatisfied g], exec c s = .fault .noSuchCore)) ∧
  (∀ (s : State) (g e n : Nat) (ev : MmEvent) (x : Word256), 2 ≤ e → ∀ c ∈ Stated.matrixRows g e n ev x, exec c s = .fault .noSuchCore) ∧
  (∀ (s : State) (r : Nat) (v : BitVec 32) (v' : BitVec 64), 16384 ≤ r →
    (∀ c ∈ ([.kick r v, .doorbellPoll r, .idleHandshake r, .commandAccept r, .ringEnable r v', .ringDisable r v', .ringDrainComplete r,
      .reportDoorbellRead r, .interruptModerationEnd r] : List Instr), exec c s = .fault .noSuchRing)) ∧
  (∀ (s : State) (i : Nat) (v : BitVec 32), 8192 ≤ i → exec (.semPartWrite i v) s = .fault .noSuchRing) ∧
  (∀ (s : State) (p i : Nat), 32 ≤ p → ∀ c ∈ ([.epochTick p, .epochEnd p, .unitEnd p i, .unitRelease p i] : List Instr), exec c s = .next s)

/-- R86: two results for one register that land in one a-cycle, in whichever order they stand among those in flight and whatever lanes each
writes: the result of the later-issued instruction is kept, or of the higher-numbered slot in the order M, V0, V1, S, and the other has
no effect. -/
def Obligations.LaterResultIsKept : Prop :=
  (slotNo .m < slotNo .v0 ∧ slotNo .v0 < slotNo .v1 ∧ slotNo .v1 < slotNo .s) ∧
  ∀ (s : State) (g : Nat) (x y : SeRes), s.dev.pins.stopped = false → g < 80 →
    let r := s.dev.se g
    tabWf {} s.dev.cores = true → tabWf 0 r.v = true → tabWf 0 r.s = true → tabWf 0 r.a = true → tabWf 0 r.m = true → tabWf 0 r.k = true →
    (s.dev.core g).se.inflight = [x, y] ∨ (s.dev.core g).se.inflight = [y, x] →
    x.dest = y.dest → x.due = y.due → y.due ≤ (s.dev.core g).se.cyc →
    x.issued < y.issued ∨ (x.issued = y.issued ∧ x.slot < y.slot) →
    ∃ t, exec (.seResultLand ⟨g, .clean⟩) s = .next t ∧ t.dev.se g = landReg y.dest y.lanes y.val r ∧ (t.dev.core g).se.inflight = []

/-- R91: an instruction whose stage the innermost active loop does not enable, s ≤ i < n + s failing in kernel iteration i, or whose stage
is not 0 outside every loop, writes nothing, accesses no memory and raises no error: only the results that are due land. -/
def Obligations.DisabledStagesDoNothing : Prop :=
  ∀ (s : State) (g : Nat) (sl : SeSlot) (w : Slot64), s.dev.pins.stopped = false → g < 80 →
    (((landDue g s.dev).se g).loops = [] ∧ (slotOp w).stg ≠ 0) ∨
      (∃ l ls, ((landDue g s.dev).se g).loops = l :: ls ∧ ¬ ((slotOp w).stg ≤ l.iter ∧ l.iter < l.n + (slotOp w).stg)) →
    ∀ c ∈ Stated.slotRows g sl w, exec c s = .next { s with dev := landDue g s.dev }

/-- R381, R425 to R428: an event bank counts n events of a source in every counter that selects it: modulo 2^48 with OVF; an OVF bit
already 1 counts in SETCNT up to 255; with FRZ_OVF a counter that would wrap stays at 2^48 - 1 and the bank freezes. A bank that
becomes frozen takes back what it counted in that a-cycle, one that is released counts it; a frozen bank, source 0 and no event count
nothing. A tick samples every counter as it stood at the end of the a-cycle before, with the epoch that ended, where SAMPLE is 1. -/
def Obligations.EventBanksCount : Prop :=
  ∀ (b : EvBank) (now src sub n epoch : Nat), tabWf 0 b.cnt = true →
    let m := b.mark now
    let v := fun i => tabGet 0 m.cnt i
    let hit := fun i => tabGet 0 b.sel i = src + 256 * sub
    let wraps := fun i => hit i ∧ 2 ^ 48 ≤ v i + n
    let back := fun i => (v i + 2 ^ 48 - tabGet 0 m.tally i % 2 ^ 48) % 2 ^ 48
    let c := b.countAt now src sub n
    (m.cnt = b.cnt ∧ m.ovf = b.ovf ∧ m.freeze = b.freeze ∧ (b.seen ≠ now → m.before = b.cnt ∧ m.tally = []) ∧ (b.seen = now → m = b)) ∧
    (b.freeze = true ∨ n = 0 ∨ src = 0 → c.cnt = b.cnt ∧ c.ovf = b.ovf ∧ c.freeze = b.freeze ∧ c.setcnt = b.setcnt) ∧
    (b.freeze = false → n ≠ 0 → src ≠ 0 → b.frzOvf = false ∨ (∀ i < 8, ¬ wraps i) →
      c.freeze = false ∧ ∀ i < 8, (hit i → tabGet 0 c.cnt i = (v i + n) % 2 ^ 48) ∧ (¬ hit i → tabGet 0 c.cnt i = v i) ∧
        (c.ovf.getLsbD i = true ↔ b.ovf.getLsbD i = true ∨ wraps i)) ∧
    (b.freeze = false → n ≠ 0 → src ≠ 0 → b.frzOvf = false → b.setcnt ≤ 255 → c.setcnt = min 255 (b.setcnt + ((List.range 8).filter (fun i =>
      decide (tabGet 0 b.sel i = src + 256 * sub ∧ 2 ^ 48 ≤ tabGet 0 m.cnt i + n) && b.ovf.getLsbD i)).length)) ∧
    (b.freeze = false → n ≠ 0 → src ≠ 0 → b.frzOvf = true → (∃ i < 8, wraps i) →
      c.freeze = true ∧ ∀ i < 8, (wraps i → tabGet 0 c.cnt i = 2 ^ 48 - 1 ∧ c.ovf.getLsbD i = true) ∧
        (¬ wraps i → tabGet 0 c.cnt i = back i)) ∧
    (b.freeze = false → (b.setFreeze true).freeze = true ∧ ∀ i < 8,
      tabGet 0 (b.setFreeze true).cnt i = (tabGet 0 b.cnt i + 2 ^ 48 - tabGet 0 b.tally i % 2 ^ 48) % 2 ^ 48) ∧
    (b.freeze = true → (b.setFreeze false).freeze = false ∧ ∀ i < 8,
      tabGet 0 (b.setFreeze false).cnt i = (tabGet 0 b.cnt i + tabGet 0 b.tally i) % 2 ^ 48) ∧
    (b.sample = true → (b.sampleAt now epoch).samp = (if b.seen = now then b.before else b.cnt) ∧
      (b.sampleAt now epoch).sampEpoch = epoch) ∧
    (b.sample = false → b.sampleAt now epoch = b) ∧
    c.sel = b.sel ∧ c.samp = b.samp ∧ c.frzOvf = b.frzOvf ∧ c.sample = b.sample ∧ c.sampEpoch = b.sampEpoch

/-- The frame of every slot and Hornbeam command, on every path, an abort included: host memory, HBM, stream buffers, what peers lend, the
flash, rings, semaphores, carriers, coding, the timebase, ports, links, lending, sessions, pins and time stay as they are. -/
def Obligations.EngineCommandsFrame : Prop :=
  ∀ (s t : State) (g e n : Nat) (sl : SeSlot) (w : Slot64) (x : Word256) (ev : MmEvent), g < 80 →
    ∀ c ∈ Stated.slotRows g sl w ++ Stated.matrixRows g e n ev x, exec c s = .next t →
      t.dev.host = s.dev.host ∧ t.dev.mem.hbm = s.dev.mem.hbm ∧ t.dev.mem.sb = s.dev.mem.sb ∧ t.dev.mem.peer = s.dev.mem.peer ∧
      t.dev.flash = s.dev.flash ∧ t.dev.rings = s.dev.rings ∧ t.dev.sems = s.dev.sems ∧ t.dev.carriers = s.dev.carriers ∧
      t.dev.coding = s.dev.coding ∧ t.dev.servo = s.dev.servo ∧ t.dev.ports = s.dev.ports ∧ t.dev.teril = s.dev.teril ∧
      t.dev.lends = s.dev.lends ∧ t.dev.sessions = s.dev.sessions ∧ t.dev.pins = s.dev.pins ∧ t.dev.acyc = s.dev.acyc ∧
      t.dev.nt = s.dev.nt

/-- What an instruction that issues does to the device: results put in flight, the events of R51 and the landing of due results change the
core of the engine and nothing else: no other core, no memory, no register. -/
def Obligations.ResultsStayInTheCore : Prop :=
  ∀ (d : Dev) (g e lat : Nat) (sl : SeSlot) (rs : List (SeDest × BitVec 32 × BitVec 1024)) (ev : NumEv),
    let t := evNum g e ev (seOut g sl lat rs (seCounted g (landDue g d)))
    t = { d with cores := t.cores } ∧ ∀ g' ≠ g, t.core g' = d.core g'

/-- R79, R82, R102, R103, R109: the stores of slot M write the bytes at their effective address and no other byte of any scratchpad, and
where no other port is writing the scratchpads their bytes are those of the register; loads write no memory. -/
def Obligations.StoresWriteTheirBytes : Prop :=
  ∀ (s t : State) (g : Nat) (w : Slot64), s.dev.pins.stopped = false → g < 80 →
    let o := slotOp w
    let l := landDue g s.dev
    l.seReady g = true → (l.se g).stageOn o.stg = true → o.km < 8 →
    let d := seCounted g l
    let r := d.se g
    let a := g * spadSize + (effAddr r o).toNat
    let alone := d.racing (g, 2, 0) (d.acyc + 1) = [] ∧ d.inCore (d.workOf g) g = true ∧ Memory.wf s.dev.mem.spad = true
    (o.opc = 0x04 → o.t = 8 ∨ o.t = 9 → modsOk r o false = true → accessCause (effAddr r o) 8 8 = 0 → exec (.sst g w) s = .next t →
      (∀ x, x < a ∨ a + 8 ≤ x → memByte t.dev.mem.spad x = memByte s.dev.mem.spad x) ∧
      (alone → ∀ j < 8, memByte t.dev.mem.spad (a + j) = BitVec.ofNat 8 ((r.sr o.vd).toNat / 256 ^ j))) ∧
    (o.opc = 0x02 → o.t ∈ laneTypes → modsOk r o false = true → accessCause (effAddr r o) 128 4 = 0 → exec (.vst g w) s = .next t →
      (∀ x, x < a ∨ a + 128 ≤ x → memByte t.dev.mem.spad x = memByte s.dev.mem.spad x) ∧
      (∀ i < 32, (o.mask r).getLsbD i = false →
        ∀ j < 4, memByte t.dev.mem.spad (a + 4 * i + j) = memByte s.dev.mem.spad (a + 4 * i + j)) ∧
      (alone → ∀ i < 32, (o.mask r).getLsbD i = true →
        ∀ j < 4, memByte t.dev.mem.spad (a + 4 * i + j) = BitVec.ofNat 8 (elemOf 32 (r.vr o.vd) i / 256 ^ j))) ∧
    (o.opc = 0x01 → o.t ∈ laneTypes → modsOk r o false = true → accessCause (effAddr r o) 128 4 = 0 → exec (.vld g w) s = .next t →
      t.dev.mem = s.dev.mem ∧ t.dev.saves = s.dev.saves) ∧
    (o.opc = 0x03 → o.t = 8 ∨ o.t = 9 → modsOk r o false = true → accessCause (effAddr r o) 8 8 = 0 → exec (.sld g w) s = .next t →
      t.dev.mem = s.dev.mem ∧ t.dev.saves = s.dev.saves)

/-- R336, R339, R348: the completion of a command changes registers, rings, semaphores, pending interrupts, outputs and the 32 bytes of its
record in host memory, and no value of a semaphore falls. -/
def Obligations.CompletionsFrame : Prop :=
  ∀ (c : Src) (st : Nat) (d : Dev), tabWf {} d.sems = true → tabWf {} d.rings = true →
    let t := done c st d
    let a := d.getF F.ringCqBase c.ring * 64 + (d.ring c.ring).recs % d.ringN c.ring * 32
    t = { d with regs := t.regs, host := t.host, rings := t.rings, sems := t.sems, pba := t.pba, out := t.out } ∧
    (∀ x, x < a ∨ a + 32 ≤ x → memByte t.host x = memByte d.host x) ∧
    (∀ i, (d.sem i).value ≤ (t.sem i).value) ∧
    (∀ r ≠ c.ring, t.ring r = d.ring r)

/-- The scratchpads keep their canonical form under every slot and Hornbeam command. -/
def Obligations.ScratchpadsStayCanonical : Prop :=
  Memory.wf State.reset.dev.mem.spad = true ∧
  ∀ (s t : State) (g e n : Nat) (sl : SeSlot) (w : Slot64) (x : Word256) (ev : MmEvent), Memory.wf s.dev.mem.spad = true →
    ∀ c ∈ Stated.slotRows g sl w ++ Stated.matrixRows g e n ev x, exec c s = .next t → Memory.wf t.dev.mem.spad = true

/-- R114, R116, R117: an SU.MV without transposition and decompression, within the scratchpad of its own core, whose destination planes do
not meet its source nor each other, with no other operation writing the scratchpad and no wrong bit in it, copies every byte of every
line of both planes, and no other byte of any scratchpad changes. -/
def Obligations.MovesCopyBitForBit : Prop :=
  ∀ (s : State) (g : Nat) (m : Move) (rest : List Move), s.dev.pins.stopped = false → g < 80 →
    (s.dev.core g).moves = m :: rest → m.wrote = false → m.started ≠ none → mvEarliest (mvOp m.w) (s.dev.mvFrom g m) ≤ s.dev.acyc →
    let o := mvOp m.w
    let p := s.dev.workOf g
    let a := sdDesc m.sds
    let b := sdDesc m.sdd
    let pl := linePayload o.fmt o.len
    let sc := lineScales o.fmt o.len
    let at' := fun x => memByte s.dev.mem.spad (g * spadSize + x)
    o.xpose = false → o.decomp = false → o.gsize ≤ 1 → a.tier = 0 → b.tier = 0 →
    mvInRange a o.fmt (mvShape o).1 spadSize = true → mvInRange b o.fmt (mvShape o).2 spadSize = true →
    mvStrides b o.fmt (mvShape o).2 = true →
    s.dev.openDest p g m = [] → s.dev.openSource p g m = [] → s.dev.farAsking (g, m.issued) = false →
    s.dev.opsWriting (g, 3, m.issued) = [] → s.dev.mem.overwritten = [] → s.dev.mem.spadUe = [] → s.dev.mem.spadCe = [] →
    (∀ i < o.lines, ∀ j < o.lines, b.ebase + i * b.estride + pl ≤ b.sbase + j * b.sstride ∨
      b.sbase + j * b.sstride + sc ≤ b.ebase + i * b.estride) →
    s.dev.inCore p g = true → Memory.wf s.dev.mem.spad = true →
    ∃ t, exec (.moveComplete g .clean) s = .next t ∧ (t.dev.core g).moves = rest ∧
      (∀ i < o.lines, ∀ j < pl, memByte t.dev.mem.spad (g * spadSize + (b.ebase + i * b.estride + j)) = at' (a.ebase + i * a.estride + j)) ∧
      (∀ i < o.lines, ∀ j < sc, memByte t.dev.mem.spad (g * spadSize + (b.sbase + i * b.sstride + j)) = at' (a.sbase + i * a.sstride + j)) ∧
      (∀ x, (∀ i < o.lines, x < g * spadSize + (b.ebase + i * b.estride) ∨ g * spadSize + (b.ebase + i * b.estride + pl) ≤ x) →
        (∀ i < o.lines, x < g * spadSize + (b.sbase + i * b.sstride) ∨ g * spadSize + (b.sbase + i * b.sstride + sc) ≤ x) →
        memByte t.dev.mem.spad x = memByte s.dev.mem.spad x)

/-- R21: a write of a register without a rule of its own changes that register, the record of the W1C bits that this a-cycle's writes met
(R381), and nothing else: no other register, no other part of the device. -/
def Obligations.RegisterWritesFrame : Prop :=
  ∀ (s : State) (off width : Nat) (v : BitVec 64) (r : RegName) (i : Nat),
    s.dev.pins.stopped = false → off < 0x4000000 → s.dev.barOpen off = 2 → barTarget off width = .inl (.reg r i) →
    r ∉ [.ringSq, .ringCq, .ringDb, .ringAux, .ringCtl, .semPart, .fhQuadCfg, .qsTlPlan, .tbHistCtl, .lgMboxCtl, .setupLock] →
    s.dev.flag F.setupLockLock = false →
    ∃ t, exec (.registerWrite off width v) s = .next t ∧ t.dev = { s.dev with regs := t.dev.regs, dropped := t.dev.dropped } ∧
      ∀ x ≠ r.off i, tabGet 0 t.dev.regs x = tabGet 0 s.dev.regs x
end

