-- ==== Sys2Proof/Laws/Tab.lean ====
section
/-! SUPPORT. Laws of tables and byte memories: what a write leaves readable, and that every operation keeps the canonical form. -/

namespace Sys2Proof.Laws

open Sys2Proof Sys2Proof.Machine

variable {α : Type} [DecidableEq α]

/-! ### Reading after writing -/

/-- A write leaves every other key as it was, whatever default the reader takes. -/
theorem tabGet_tabSet_any (d d' : α) (t : Tab α) (k j : Nat) (v : α) (h : j ≠ k) : tabGet d' (tabSet d t k v) j = tabGet d' t j := by
  induction t with
  | nil => by_cases hv : v = d <;> simp [tabSet, tabGet, hv, h]
  | cons e r ih =>
    obtain ⟨k', v'⟩ := e
    simp only [tabSet]
    split_ifs with h1 h2 h3 h4
    · rfl
    · simp [tabGet, h]
    · subst h3; simp [tabGet, h]
    · subst h3; simp [tabGet, h]
    · simp [tabGet, ih]

theorem tabGet_tabSet_ne (d : α) (t : Tab α) (k j : Nat) (v : α) (h : j ≠ k) : tabGet d (tabSet d t k v) j = tabGet d t j :=
  tabGet_tabSet_any d d t k j v h

/-- A written value other than the default is read back. -/
theorem tabGet_tabSet_of_ne_default (d : α) (t : Tab α) (k : Nat) (v : α) (h : v ≠ d) : tabGet d (tabSet d t k v) k = v := by
  induction t with
  | nil => simp [tabSet, tabGet, h]
  | cons e r ih =>
    obtain ⟨k', v'⟩ := e
    simp only [tabSet]
    split_ifs with h1 h2
    · simp [tabGet]
    · simp [tabGet]
    · have : k ≠ k' := h2
      simp [tabGet, this, ih]

theorem tabWfFrom_cons (d : α) (lo : Option Nat) (k : Nat) (v : α) (r : Tab α) :
    tabWfFrom d lo ((k, v) :: r) = true ↔ (∀ x ∈ lo, x < k) ∧ v ≠ d ∧ tabWfFrom d (some k) r = true := by
  cases lo <;> simp [tabWfFrom, and_assoc]

theorem tabWfFrom_weaken (d : α) (lo lo' : Option Nat) (t : Tab α) (h : ∀ x ∈ lo', ∃ y ∈ lo, x ≤ y) (ht : tabWfFrom d lo t = true) :
    tabWfFrom d lo' t = true := by
  cases t with
  | nil => simp [tabWfFrom]
  | cons e r =>
    obtain ⟨k, v⟩ := e
    rw [tabWfFrom_cons] at ht ⊢
    refine ⟨fun x hx => ?_, ht.2⟩
    obtain ⟨y, hy, hle⟩ := h x hx
    exact lt_of_le_of_lt hle (ht.1 y hy)

/-- Nothing is listed at or below the bound of a canonical table. -/
theorem tabGet_below (d : α) (lo k : Nat) (t : Tab α) (h : tabWfFrom d (some lo) t = true) (hk : k ≤ lo) : tabGet d t k = d := by
  induction t generalizing lo with
  | nil => rfl
  | cons e r ih =>
    obtain ⟨k', v'⟩ := e
    rw [tabWfFrom_cons] at h
    have hlt := h.1 lo rfl
    have : k ≠ k' := by omega
    simp [tabGet, this, ih k' h.2.2 (by omega)]

theorem tabWfFrom_tabSet (d : α) (lo : Option Nat) (t : Tab α) (k : Nat) (v : α) (h : tabWfFrom d lo t = true)
    (hk : ∀ x ∈ lo, x < k) : tabWfFrom d lo (tabSet d t k v) = true := by
  induction t generalizing lo with
  | nil => by_cases hv : v = d <;> simp [tabSet, hv, tabWfFrom]; cases lo <;> simp_all
  | cons e r ih =>
    obtain ⟨k', v'⟩ := e
    have h0 := h
    rw [tabWfFrom_cons] at h
    simp only [tabSet]
    split_ifs with h1 h2 h3 h4
    · exact h0
    · rw [tabWfFrom_cons]
      refine ⟨hk, h2, ?_⟩
      rw [tabWfFrom_cons]
      exact ⟨by simpa using h1, h.2⟩
    · subst h3
      exact tabWfFrom_weaken d (some k) lo r (fun x hx => ⟨k, rfl, le_of_lt (hk x hx)⟩) h.2.2
    · subst h3
      rw [tabWfFrom_cons]
      exact ⟨hk, h4, h.2.2⟩
    · rw [tabWfFrom_cons]
      exact ⟨h.1, h.2.1, ih (some k') h.2.2 (by simp; omega)⟩

/-- A write keeps the canonical form. -/
theorem tabWf_tabSet (d : α) (t : Tab α) (k : Nat) (v : α) (h : tabWf d t = true) : tabWf d (tabSet d t k v) = true :=
  tabWfFrom_tabSet d none t k v h (by simp)

/-- A change keeps the canonical form. -/
theorem tabWf_tabMod (d : α) (t : Tab α) (k : Nat) (f : α → α) (h : tabWf d t = true) : tabWf d (tabMod d t k f) = true :=
  tabWf_tabSet d t k _ h

theorem tabGet_tabSet_from (d : α) (lo : Option Nat) (t : Tab α) (k : Nat) (v : α) (h : tabWfFrom d lo t = true) :
    tabGet d (tabSet d t k v) k = v := by
  by_cases hv : v = d
  · subst hv
    induction t generalizing lo with
    | nil => simp [tabSet, tabGet]
    | cons e r ih =>
      obtain ⟨k', v'⟩ := e
      rw [tabWfFrom_cons] at h
      simp only [tabSet, if_true]
      split_ifs with h1 h2
      · have : k ≠ k' := by omega
        simp [tabGet, this, tabGet_below v k' k r h.2.2 (by omega)]
      · subst h2; exact tabGet_below v k k r h.2.2 le_rfl
      · simp [tabGet, h2, ih (some k') h.2.2]
  · exact tabGet_tabSet_of_ne_default d t k v hv

/-- In a canonical table a written value is read back. -/
theorem tabGet_tabSet (d : α) (t : Tab α) (k : Nat) (v : α) (h : tabWf d t = true) : tabGet d (tabSet d t k v) k = v :=
  tabGet_tabSet_from d none t k v h

/-- Of two writes of one key to a canonical table the second prevails. -/
theorem tabSet_tabSet_from (d : α) (lo : Option Nat) (t : Tab α) (k : Nat) (v w : α) (h : tabWfFrom d lo t = true) :
    tabSet d (tabSet d t k v) k w = tabSet d t k w := by
  induction t generalizing lo with
  | nil => by_cases hv : v = d <;> simp [tabSet, hv]
  | cons e r ih =>
    obtain ⟨k', v'⟩ := e
    rw [tabWfFrom_cons] at h
    simp only [tabSet]
    by_cases h1 : k < k'
    · by_cases hv : v = d <;> simp [h1, hv, tabSet]
    · by_cases h2 : k = k'
      · subst h2
        by_cases hv : v = d
        · simp only [lt_irrefl, if_false, if_true, hv]
          cases r with
          | nil => simp [tabSet]
          | cons e2 r2 =>
            obtain ⟨k2, v2⟩ := e2
            have := (tabWfFrom_cons d (some k) k2 v2 r2).1 h.2.2
            have hlt : k < k2 := this.1 k rfl
            simp [tabSet, hlt]
        · simp [hv, tabSet]
      · simp [h1, h2, tabSet, ih (some k') h.2.2]

theorem tabSet_tabSet (d : α) (t : Tab α) (k : Nat) (v w : α) (h : tabWf d t = true) :
    tabSet d (tabSet d t k v) k w = tabSet d t k w := tabSet_tabSet_from d none t k v w h

theorem tabWfFrom_filter (d : α) (lo : Option Nat) (p : Nat × α → Bool) (t : Tab α) (h : tabWfFrom d lo t = true) :
    tabWfFrom d lo (t.filter p) = true := by
  induction t generalizing lo with
  | nil => simp [tabWfFrom]
  | cons e r ih =>
    obtain ⟨k, v⟩ := e
    rw [tabWfFrom_cons] at h
    by_cases hp : p (k, v) = true
    · rw [List.filter_cons_of_pos hp, tabWfFrom_cons]
      exact ⟨h.1, h.2.1, ih (some k) h.2.2⟩
    · rw [List.filter_cons_of_neg hp]
      exact tabWfFrom_weaken d (some k) lo _ (fun x hx => ⟨k, rfl, le_of_lt (h.1 x hx)⟩) (ih (some k) h.2.2)

/-! ### Byte memories -/

/-- One byte written keeps the canonical form. -/
theorem memSet_wf (m : Mem) (a : Nat) (b : Byte) (h : Memory.wf m = true) : Memory.wf (memSet m a b) = true :=
  tabWf_tabSet 0 m a b h

/-- Bytes written keep the canonical form. -/
theorem memWrite_wf (m : Mem) (a : Nat) (bs : Bytes) (h : Memory.wf m = true) : Memory.wf (memWrite m a bs) = true := by
  induction bs generalizing m a with
  | nil => exact h
  | cons b bs ih => exact ih _ _ (memSet_wf m a b h)

/-- Bytes set to zero keep the canonical form. -/
theorem memZero_wf (m : Mem) (a n : Nat) (h : Memory.wf m = true) : Memory.wf (memZero m a n) = true :=
  tabWfFrom_filter 0 none _ m h

/-- A byte outside the written range reads as before. -/
theorem memByte_memWrite_outside (m : Mem) (a : Nat) (bs : Bytes) (x : Nat) (h : x < a ∨ a + bs.length ≤ x) :
    memByte (memWrite m a bs) x = memByte m x := by
  induction bs generalizing m a with
  | nil => rfl
  | cons b bs ih =>
    have hne : x ≠ a := by simp only [List.length_cons] at h; omega
    rw [memWrite, ih _ _ (by simp only [List.length_cons] at h; omega)]
    exact tabGet_tabSet_ne 0 m a x b hne

/-- In a canonical memory a written byte is read back. -/
theorem memByte_memWrite_inside (m : Mem) (a : Nat) (bs : Bytes) (j : Nat) (hj : j < bs.length) (h : Memory.wf m = true) :
    memByte (memWrite m a bs) (a + j) = bs[j] := by
  induction bs generalizing m a j with
  | nil => simp at hj
  | cons b bs ih =>
    cases j with
    | zero =>
      rw [memWrite, memByte_memWrite_outside _ _ _ _ (Or.inl (by omega))]
      exact tabGet_tabSet 0 m a b h
    | succ j =>
      have hj' : j < bs.length := by simpa using hj
      rw [memWrite, show a + (j + 1) = (a + 1) + j by omega, ih _ _ _ hj' (memSet_wf m a b h)]
      rfl

/-- What was written is what is read. -/
theorem memRead_memWrite (m : Mem) (a : Nat) (bs : Bytes) (h : Memory.wf m = true) : memRead (memWrite m a bs) a bs.length = bs := by
  apply List.ext_getElem
  · simp [memRead]
  · intro i h1 h2
    simp only [memRead, List.getElem_map, List.getElem_range]
    exact memByte_memWrite_inside m a bs i h2 h

/-- A zeroed range reads zero and every other byte as before. -/
theorem memByte_memZero (m : Mem) (a n x : Nat) : memByte (memZero m a n) x = if a ≤ x ∧ x < a + n then 0 else memByte m x := by
  unfold memByte memZero
  induction m with
  | nil => simp [tabGet]
  | cons e r ih =>
    obtain ⟨k, v⟩ := e
    by_cases hk : a ≤ k ∧ k < a + n
    · rw [List.filter_cons_of_neg (by simpa using hk), ih]
      by_cases hx : x = k
      · subst hx; simp [hk]
      · simp [tabGet, hx]
    · rw [List.filter_cons_of_pos (by simp; omega)]
      by_cases hx : x = k
      · subst hx; simp [tabGet, hk]
      · simp only [tabGet, hx, if_false]; exact ih

/-! ### Little-endian numbers (R24) -/

theorem leBytes_length (n v : Nat) : (leBytes n v).length = n := by
  induction n generalizing v with
  | zero => rfl
  | succ n ih => simp [leBytes, ih]

/-- n bytes of a number spell it modulo 2^(8n). -/
theorem leNat_leBytes (n v : Nat) : leNat (leBytes n v) = v % 256 ^ n := by
  induction n generalizing v with
  | zero => simp [leBytes, leNat, Nat.mod_one]
  | succ n ih =>
    have h : (BitVec.ofNat 8 v).toNat = v % 256 := by simp
    rw [leBytes, leNat, ih, h, pow_succ, Nat.mul_comm (256 ^ n), Nat.mod_mul]

end Sys2Proof.Laws
end

