-- ==== Sys2Proof/Laws/State.lean ====
section
/-! SUPPORT. What each update of the device leaves as it was: one law an update, with one equation a field, so that no later proof
unfolds a record update; and what reading after the plainest updates gives. -/

namespace Sys2Proof.Laws

open Sys2Proof Sys2Proof.Machine

@[simp] theorem wr_keeps (d : Dev) (r : RegName) (i : Nat) (v : BitVec 64) :
    (d.wr r i v).acyc = d.acyc ∧ (d.wr r i v).nt = d.nt ∧ (d.wr r i v).free = d.free ∧ (d.wr r i v).raised = d.raised ∧
    (d.wr r i v).dropped = d.dropped ∧ (d.wr r i v).host = d.host ∧ (d.wr r i v).rings = d.rings ∧ (d.wr r i v).sems = d.sems ∧
    (d.wr r i v).msixTab = d.msixTab ∧ (d.wr r i v).pba = d.pba ∧ (d.wr r i v).parts = d.parts ∧ (d.wr r i v).cores = d.cores ∧
    (d.wr r i v).saves = d.saves ∧ (d.wr r i v).carriers = d.carriers ∧ (d.wr r i v).coding = d.coding ∧ (d.wr r i v).mem = d.mem ∧
    (d.wr r i v).servo = d.servo ∧ (d.wr r i v).ports = d.ports ∧ (d.wr r i v).teril = d.teril ∧ (d.wr r i v).lgl = d.lgl ∧
    (d.wr r i v).lglPend = d.lglPend ∧ (d.wr r i v).lends = d.lends ∧ (d.wr r i v).shared = d.shared ∧
    (d.wr r i v).sessions = d.sessions ∧ (d.wr r i v).mboxReq = d.mboxReq ∧ (d.wr r i v).mboxRsp = d.mboxRsp ∧
    (d.wr r i v).flash = d.flash ∧ (d.wr r i v).ide = d.ide ∧ (d.wr r i v).watch = d.watch ∧ (d.wr r i v).ladders = d.ladders ∧
    (d.wr r i v).resets = d.resets ∧ (d.wr r i v).oosResets = d.oosResets ∧ (d.wr r i v).hn = d.hn ∧ (d.wr r i v).he = d.he ∧
    (d.wr r i v).beats = d.beats ∧ (d.wr r i v).hbSeq = d.hbSeq ∧ (d.wr r i v).stage = d.stage ∧ (d.wr r i v).reduced = d.reduced ∧
    (d.wr r i v).rerun = d.rerun ∧ (d.wr r i v).qs = d.qs ∧ (d.wr r i v).inForce = d.inForce ∧ (d.wr r i v).i3c = d.i3c ∧
    (d.wr r i v).fhSat = d.fhSat ∧ (d.wr r i v).fhOnce = d.fhOnce ∧ (d.wr r i v).dieOut = d.dieOut ∧
    (d.wr r i v).fhPhase = d.fhPhase ∧ (d.wr r i v).pins = d.pins ∧ (d.wr r i v).banks = d.banks ∧ (d.wr r i v).out = d.out := by
  repeat' first | exact rfl | refine ⟨rfl, ?_⟩

@[simp] theorem setF_keeps (d : Dev) (f : Field) (i x : Nat) :
    (d.setF f i x).acyc = d.acyc ∧ (d.setF f i x).nt = d.nt ∧ (d.setF f i x).free = d.free ∧ (d.setF f i x).raised = d.raised ∧
    (d.setF f i x).dropped = d.dropped ∧ (d.setF f i x).host = d.host ∧ (d.setF f i x).rings = d.rings ∧
    (d.setF f i x).sems = d.sems ∧ (d.setF f i x).msixTab = d.msixTab ∧ (d.setF f i x).pba = d.pba ∧ (d.setF f i x).parts = d.parts ∧
    (d.setF f i x).cores = d.cores ∧ (d.setF f i x).saves = d.saves ∧ (d.setF f i x).carriers = d.carriers ∧
    (d.setF f i x).coding = d.coding ∧ (d.setF f i x).mem = d.mem ∧ (d.setF f i x).servo = d.servo ∧ (d.setF f i x).ports = d.ports ∧
    (d.setF f i x).teril = d.teril ∧ (d.setF f i x).lgl = d.lgl ∧ (d.setF f i x).lglPend = d.lglPend ∧
    (d.setF f i x).lends = d.lends ∧ (d.setF f i x).shared = d.shared ∧ (d.setF f i x).sessions = d.sessions ∧
    (d.setF f i x).mboxReq = d.mboxReq ∧ (d.setF f i x).mboxRsp = d.mboxRsp ∧ (d.setF f i x).flash = d.flash ∧
    (d.setF f i x).ide = d.ide ∧ (d.setF f i x).watch = d.watch ∧ (d.setF f i x).ladders = d.ladders ∧
    (d.setF f i x).resets = d.resets ∧ (d.setF f i x).oosResets = d.oosResets ∧ (d.setF f i x).hn = d.hn ∧ (d.setF f i x).he = d.he ∧
    (d.setF f i x).beats = d.beats ∧ (d.setF f i x).hbSeq = d.hbSeq ∧ (d.setF f i x).stage = d.stage ∧
    (d.setF f i x).reduced = d.reduced ∧ (d.setF f i x).rerun = d.rerun ∧ (d.setF f i x).qs = d.qs ∧
    (d.setF f i x).inForce = d.inForce ∧ (d.setF f i x).i3c = d.i3c ∧ (d.setF f i x).fhSat = d.fhSat ∧
    (d.setF f i x).fhOnce = d.fhOnce ∧ (d.setF f i x).dieOut = d.dieOut ∧ (d.setF f i x).fhPhase = d.fhPhase ∧
    (d.setF f i x).pins = d.pins ∧ (d.setF f i x).banks = d.banks ∧ (d.setF f i x).out = d.out := by
  repeat' first | exact rfl | refine ⟨rfl, ?_⟩

@[simp] theorem addSat_keeps (d : Dev) (f : Field) (i n : Nat) :
    (d.addSat f i n).acyc = d.acyc ∧ (d.addSat f i n).nt = d.nt ∧ (d.addSat f i n).free = d.free ∧
    (d.addSat f i n).raised = d.raised ∧ (d.addSat f i n).dropped = d.dropped ∧ (d.addSat f i n).host = d.host ∧
    (d.addSat f i n).rings = d.rings ∧ (d.addSat f i n).sems = d.sems ∧ (d.addSat f i n).msixTab = d.msixTab ∧
    (d.addSat f i n).pba = d.pba ∧ (d.addSat f i n).parts = d.parts ∧ (d.addSat f i n).cores = d.cores ∧
    (d.addSat f i n).saves = d.saves ∧ (d.addSat f i n).carriers = d.carriers ∧ (d.addSat f i n).coding = d.coding ∧
    (d.addSat f i n).mem = d.mem ∧ (d.addSat f i n).servo = d.servo ∧ (d.addSat f i n).ports = d.ports ∧
    (d.addSat f i n).teril = d.teril ∧ (d.addSat f i n).lgl = d.lgl ∧ (d.addSat f i n).lglPend = d.lglPend ∧
    (d.addSat f i n).lends = d.lends ∧ (d.addSat f i n).shared = d.shared ∧ (d.addSat f i n).sessions = d.sessions ∧
    (d.addSat f i n).mboxReq = d.mboxReq ∧ (d.addSat f i n).mboxRsp = d.mboxRsp ∧ (d.addSat f i n).flash = d.flash ∧
    (d.addSat f i n).ide = d.ide ∧ (d.addSat f i n).watch = d.watch ∧ (d.addSat f i n).ladders = d.ladders ∧
    (d.addSat f i n).resets = d.resets ∧ (d.addSat f i n).oosResets = d.oosResets ∧ (d.addSat f i n).hn = d.hn ∧
    (d.addSat f i n).he = d.he ∧ (d.addSat f i n).beats = d.beats ∧ (d.addSat f i n).hbSeq = d.hbSeq ∧
    (d.addSat f i n).stage = d.stage ∧ (d.addSat f i n).reduced = d.reduced ∧ (d.addSat f i n).rerun = d.rerun ∧
    (d.addSat f i n).qs = d.qs ∧ (d.addSat f i n).inForce = d.inForce ∧ (d.addSat f i n).i3c = d.i3c ∧
    (d.addSat f i n).fhSat = d.fhSat ∧ (d.addSat f i n).fhOnce = d.fhOnce ∧ (d.addSat f i n).dieOut = d.dieOut ∧
    (d.addSat f i n).fhPhase = d.fhPhase ∧ (d.addSat f i n).pins = d.pins ∧ (d.addSat f i n).banks = d.banks ∧
    (d.addSat f i n).out = d.out := by
  repeat' first | exact rfl | refine ⟨rfl, ?_⟩

@[simp] theorem emit_keeps (d : Dev) (o : Out) :
    (emit o d).acyc = d.acyc ∧ (emit o d).nt = d.nt ∧ (emit o d).free = d.free ∧ (emit o d).regs = d.regs ∧
    (emit o d).raised = d.raised ∧ (emit o d).dropped = d.dropped ∧ (emit o d).host = d.host ∧ (emit o d).rings = d.rings ∧
    (emit o d).sems = d.sems ∧ (emit o d).msixTab = d.msixTab ∧ (emit o d).pba = d.pba ∧ (emit o d).parts = d.parts ∧
    (emit o d).cores = d.cores ∧ (emit o d).saves = d.saves ∧ (emit o d).carriers = d.carriers ∧ (emit o d).coding = d.coding ∧
    (emit o d).mem = d.mem ∧ (emit o d).servo = d.servo ∧ (emit o d).ports = d.ports ∧ (emit o d).teril = d.teril ∧
    (emit o d).lgl = d.lgl ∧ (emit o d).lglPend = d.lglPend ∧ (emit o d).lends = d.lends ∧ (emit o d).shared = d.shared ∧
    (emit o d).sessions = d.sessions ∧ (emit o d).mboxReq = d.mboxReq ∧ (emit o d).mboxRsp = d.mboxRsp ∧ (emit o d).flash = d.flash ∧
    (emit o d).ide = d.ide ∧ (emit o d).watch = d.watch ∧ (emit o d).ladders = d.ladders ∧ (emit o d).resets = d.resets ∧
    (emit o d).oosResets = d.oosResets ∧ (emit o d).hn = d.hn ∧ (emit o d).he = d.he ∧ (emit o d).beats = d.beats ∧
    (emit o d).hbSeq = d.hbSeq ∧ (emit o d).stage = d.stage ∧ (emit o d).reduced = d.reduced ∧ (emit o d).rerun = d.rerun ∧
    (emit o d).qs = d.qs ∧ (emit o d).inForce = d.inForce ∧ (emit o d).i3c = d.i3c ∧ (emit o d).fhSat = d.fhSat ∧
    (emit o d).fhOnce = d.fhOnce ∧ (emit o d).dieOut = d.dieOut ∧ (emit o d).fhPhase = d.fhPhase ∧ (emit o d).pins = d.pins ∧
    (emit o d).banks = d.banks := by
  repeat' first | exact rfl | refine ⟨rfl, ?_⟩

@[simp] theorem health_keeps (d : Dev) (c n : Nat) :
    (health c n d).acyc = d.acyc ∧ (health c n d).nt = d.nt ∧ (health c n d).free = d.free ∧ (health c n d).regs = d.regs ∧
    (health c n d).raised = d.raised ∧ (health c n d).dropped = d.dropped ∧ (health c n d).host = d.host ∧
    (health c n d).rings = d.rings ∧ (health c n d).sems = d.sems ∧ (health c n d).msixTab = d.msixTab ∧ (health c n d).pba = d.pba ∧
    (health c n d).parts = d.parts ∧ (health c n d).cores = d.cores ∧ (health c n d).saves = d.saves ∧
    (health c n d).carriers = d.carriers ∧ (health c n d).coding = d.coding ∧ (health c n d).mem = d.mem ∧
    (health c n d).servo = d.servo ∧ (health c n d).ports = d.ports ∧ (health c n d).teril = d.teril ∧ (health c n d).lgl = d.lgl ∧
    (health c n d).lglPend = d.lglPend ∧ (health c n d).lends = d.lends ∧ (health c n d).shared = d.shared ∧
    (health c n d).sessions = d.sessions ∧ (health c n d).mboxReq = d.mboxReq ∧ (health c n d).mboxRsp = d.mboxRsp ∧
    (health c n d).flash = d.flash ∧ (health c n d).ide = d.ide ∧ (health c n d).watch = d.watch ∧
    (health c n d).ladders = d.ladders ∧ (health c n d).resets = d.resets ∧ (health c n d).oosResets = d.oosResets ∧
    (health c n d).he = d.he ∧ (health c n d).beats = d.beats ∧ (health c n d).hbSeq = d.hbSeq ∧ (health c n d).stage = d.stage ∧
    (health c n d).reduced = d.reduced ∧ (health c n d).rerun = d.rerun ∧ (health c n d).qs = d.qs ∧
    (health c n d).inForce = d.inForce ∧ (health c n d).i3c = d.i3c ∧ (health c n d).fhSat = d.fhSat ∧
    (health c n d).fhOnce = d.fhOnce ∧ (health c n d).dieOut = d.dieOut ∧ (health c n d).fhPhase = d.fhPhase ∧
    (health c n d).pins = d.pins ∧ (health c n d).banks = d.banks ∧ (health c n d).out = d.out := by
  repeat' first | exact rfl | refine ⟨rfl, ?_⟩

@[simp] theorem hostWrite_keeps (d : Dev) (a : Nat) (b : Bytes) :
    (hostWrite a b d).acyc = d.acyc ∧ (hostWrite a b d).nt = d.nt ∧ (hostWrite a b d).free = d.free ∧
    (hostWrite a b d).regs = d.regs ∧ (hostWrite a b d).raised = d.raised ∧ (hostWrite a b d).dropped = d.dropped ∧
    (hostWrite a b d).rings = d.rings ∧ (hostWrite a b d).sems = d.sems ∧ (hostWrite a b d).msixTab = d.msixTab ∧
    (hostWrite a b d).pba = d.pba ∧ (hostWrite a b d).parts = d.parts ∧ (hostWrite a b d).cores = d.cores ∧
    (hostWrite a b d).saves = d.saves ∧ (hostWrite a b d).carriers = d.carriers ∧ (hostWrite a b d).coding = d.coding ∧
    (hostWrite a b d).mem = d.mem ∧ (hostWrite a b d).servo = d.servo ∧ (hostWrite a b d).ports = d.ports ∧
    (hostWrite a b d).teril = d.teril ∧ (hostWrite a b d).lgl = d.lgl ∧ (hostWrite a b d).lglPend = d.lglPend ∧
    (hostWrite a b d).lends = d.lends ∧ (hostWrite a b d).shared = d.shared ∧ (hostWrite a b d).sessions = d.sessions ∧
    (hostWrite a b d).mboxReq = d.mboxReq ∧ (hostWrite a b d).mboxRsp = d.mboxRsp ∧ (hostWrite a b d).flash = d.flash ∧
    (hostWrite a b d).ide = d.ide ∧ (hostWrite a b d).watch = d.watch ∧ (hostWrite a b d).ladders = d.ladders ∧
    (hostWrite a b d).resets = d.resets ∧ (hostWrite a b d).oosResets = d.oosResets ∧ (hostWrite a b d).hn = d.hn ∧
    (hostWrite a b d).he = d.he ∧ (hostWrite a b d).beats = d.beats ∧ (hostWrite a b d).hbSeq = d.hbSeq ∧
    (hostWrite a b d).stage = d.stage ∧ (hostWrite a b d).reduced = d.reduced ∧ (hostWrite a b d).rerun = d.rerun ∧
    (hostWrite a b d).qs = d.qs ∧ (hostWrite a b d).inForce = d.inForce ∧ (hostWrite a b d).i3c = d.i3c ∧
    (hostWrite a b d).fhSat = d.fhSat ∧ (hostWrite a b d).fhOnce = d.fhOnce ∧ (hostWrite a b d).dieOut = d.dieOut ∧
    (hostWrite a b d).fhPhase = d.fhPhase ∧ (hostWrite a b d).pins = d.pins ∧ (hostWrite a b d).banks = d.banks ∧
    (hostWrite a b d).out = d.out := by
  repeat' first | exact rfl | refine ⟨rfl, ?_⟩

@[simp] theorem beatDone_keeps (d : Dev) (k : Nat) (b : BitVec 64) :
    (beatDone k b d).acyc = d.acyc ∧ (beatDone k b d).nt = d.nt ∧ (beatDone k b d).free = d.free ∧ (beatDone k b d).regs = d.regs ∧
    (beatDone k b d).raised = d.raised ∧ (beatDone k b d).dropped = d.dropped ∧ (beatDone k b d).host = d.host ∧
    (beatDone k b d).rings = d.rings ∧ (beatDone k b d).sems = d.sems ∧ (beatDone k b d).msixTab = d.msixTab ∧
    (beatDone k b d).pba = d.pba ∧ (beatDone k b d).parts = d.parts ∧ (beatDone k b d).cores = d.cores ∧
    (beatDone k b d).saves = d.saves ∧ (beatDone k b d).carriers = d.carriers ∧ (beatDone k b d).coding = d.coding ∧
    (beatDone k b d).mem = d.mem ∧ (beatDone k b d).servo = d.servo ∧ (beatDone k b d).ports = d.ports ∧
    (beatDone k b d).teril = d.teril ∧ (beatDone k b d).lgl = d.lgl ∧ (beatDone k b d).lglPend = d.lglPend ∧
    (beatDone k b d).lends = d.lends ∧ (beatDone k b d).shared = d.shared ∧ (beatDone k b d).sessions = d.sessions ∧
    (beatDone k b d).mboxReq = d.mboxReq ∧ (beatDone k b d).mboxRsp = d.mboxRsp ∧ (beatDone k b d).flash = d.flash ∧
    (beatDone k b d).ide = d.ide ∧ (beatDone k b d).watch = d.watch ∧ (beatDone k b d).ladders = d.ladders ∧
    (beatDone k b d).resets = d.resets ∧ (beatDone k b d).oosResets = d.oosResets ∧ (beatDone k b d).hn = d.hn ∧
    (beatDone k b d).he = d.he ∧ (beatDone k b d).hbSeq = d.hbSeq ∧ (beatDone k b d).stage = d.stage ∧
    (beatDone k b d).reduced = d.reduced ∧ (beatDone k b d).rerun = d.rerun ∧ (beatDone k b d).qs = d.qs ∧
    (beatDone k b d).inForce = d.inForce ∧ (beatDone k b d).i3c = d.i3c ∧ (beatDone k b d).fhSat = d.fhSat ∧
    (beatDone k b d).fhOnce = d.fhOnce ∧ (beatDone k b d).dieOut = d.dieOut ∧ (beatDone k b d).fhPhase = d.fhPhase ∧
    (beatDone k b d).pins = d.pins ∧ (beatDone k b d).banks = d.banks ∧ (beatDone k b d).out = d.out := by
  repeat' first | exact rfl | refine ⟨rfl, ?_⟩

@[simp] theorem takeFree_keeps (d : Dev) (w : Nat) :
    (takeFree w d).2.acyc = d.acyc ∧ (takeFree w d).2.nt = d.nt ∧ (takeFree w d).2.regs = d.regs ∧
    (takeFree w d).2.raised = d.raised ∧ (takeFree w d).2.dropped = d.dropped ∧ (takeFree w d).2.host = d.host ∧
    (takeFree w d).2.rings = d.rings ∧ (takeFree w d).2.sems = d.sems ∧ (takeFree w d).2.msixTab = d.msixTab ∧
    (takeFree w d).2.pba = d.pba ∧ (takeFree w d).2.parts = d.parts ∧ (takeFree w d).2.cores = d.cores ∧
    (takeFree w d).2.saves = d.saves ∧ (takeFree w d).2.carriers = d.carriers ∧ (takeFree w d).2.coding = d.coding ∧
    (takeFree w d).2.mem = d.mem ∧ (takeFree w d).2.servo = d.servo ∧ (takeFree w d).2.ports = d.ports ∧
    (takeFree w d).2.teril = d.teril ∧ (takeFree w d).2.lgl = d.lgl ∧ (takeFree w d).2.lglPend = d.lglPend ∧
    (takeFree w d).2.lends = d.lends ∧ (takeFree w d).2.shared = d.shared ∧ (takeFree w d).2.sessions = d.sessions ∧
    (takeFree w d).2.mboxReq = d.mboxReq ∧ (takeFree w d).2.mboxRsp = d.mboxRsp ∧ (takeFree w d).2.flash = d.flash ∧
    (takeFree w d).2.ide = d.ide ∧ (takeFree w d).2.watch = d.watch ∧ (takeFree w d).2.ladders = d.ladders ∧
    (takeFree w d).2.resets = d.resets ∧ (takeFree w d).2.oosResets = d.oosResets ∧ (takeFree w d).2.hn = d.hn ∧
    (takeFree w d).2.he = d.he ∧ (takeFree w d).2.beats = d.beats ∧ (takeFree w d).2.hbSeq = d.hbSeq ∧
    (takeFree w d).2.stage = d.stage ∧ (takeFree w d).2.reduced = d.reduced ∧ (takeFree w d).2.rerun = d.rerun ∧
    (takeFree w d).2.qs = d.qs ∧ (takeFree w d).2.inForce = d.inForce ∧ (takeFree w d).2.i3c = d.i3c ∧
    (takeFree w d).2.fhSat = d.fhSat ∧ (takeFree w d).2.fhOnce = d.fhOnce ∧ (takeFree w d).2.dieOut = d.dieOut ∧
    (takeFree w d).2.fhPhase = d.fhPhase ∧ (takeFree w d).2.pins = d.pins ∧ (takeFree w d).2.banks = d.banks ∧
    (takeFree w d).2.out = d.out := by
  repeat' first | exact rfl | refine ⟨rfl, ?_⟩

@[simp] theorem takeBytes_keeps (d : Dev) (n : Nat) :
    (takeBytes n d).2.acyc = d.acyc ∧ (takeBytes n d).2.nt = d.nt ∧ (takeBytes n d).2.regs = d.regs ∧
    (takeBytes n d).2.raised = d.raised ∧ (takeBytes n d).2.dropped = d.dropped ∧ (takeBytes n d).2.host = d.host ∧
    (takeBytes n d).2.rings = d.rings ∧ (takeBytes n d).2.sems = d.sems ∧ (takeBytes n d).2.msixTab = d.msixTab ∧
    (takeBytes n d).2.pba = d.pba ∧ (takeBytes n d).2.parts = d.parts ∧ (takeBytes n d).2.cores = d.cores ∧
    (takeBytes n d).2.saves = d.saves ∧ (takeBytes n d).2.carriers = d.carriers ∧ (takeBytes n d).2.coding = d.coding ∧
    (takeBytes n d).2.mem = d.mem ∧ (takeBytes n d).2.servo = d.servo ∧ (takeBytes n d).2.ports = d.ports ∧
    (takeBytes n d).2.teril = d.teril ∧ (takeBytes n d).2.lgl = d.lgl ∧ (takeBytes n d).2.lglPend = d.lglPend ∧
    (takeBytes n d).2.lends = d.lends ∧ (takeBytes n d).2.shared = d.shared ∧ (takeBytes n d).2.sessions = d.sessions ∧
    (takeBytes n d).2.mboxReq = d.mboxReq ∧ (takeBytes n d).2.mboxRsp = d.mboxRsp ∧ (takeBytes n d).2.flash = d.flash ∧
    (takeBytes n d).2.ide = d.ide ∧ (takeBytes n d).2.watch = d.watch ∧ (takeBytes n d).2.ladders = d.ladders ∧
    (takeBytes n d).2.resets = d.resets ∧ (takeBytes n d).2.oosResets = d.oosResets ∧ (takeBytes n d).2.hn = d.hn ∧
    (takeBytes n d).2.he = d.he ∧ (takeBytes n d).2.beats = d.beats ∧ (takeBytes n d).2.hbSeq = d.hbSeq ∧
    (takeBytes n d).2.stage = d.stage ∧ (takeBytes n d).2.reduced = d.reduced ∧ (takeBytes n d).2.rerun = d.rerun ∧
    (takeBytes n d).2.qs = d.qs ∧ (takeBytes n d).2.inForce = d.inForce ∧ (takeBytes n d).2.i3c = d.i3c ∧
    (takeBytes n d).2.fhSat = d.fhSat ∧ (takeBytes n d).2.fhOnce = d.fhOnce ∧ (takeBytes n d).2.dieOut = d.dieOut ∧
    (takeBytes n d).2.fhPhase = d.fhPhase ∧ (takeBytes n d).2.pins = d.pins ∧ (takeBytes n d).2.banks = d.banks ∧
    (takeBytes n d).2.out = d.out := by
  repeat' first | exact rfl | refine ⟨rfl, ?_⟩

@[simp] theorem modRing_keeps (d : Dev) (r : Nat) (f : Ring → Ring) :
    (d.modRing r f).acyc = d.acyc ∧ (d.modRing r f).nt = d.nt ∧ (d.modRing r f).free = d.free ∧ (d.modRing r f).regs = d.regs ∧
    (d.modRing r f).raised = d.raised ∧ (d.modRing r f).dropped = d.dropped ∧ (d.modRing r f).host = d.host ∧
    (d.modRing r f).sems = d.sems ∧ (d.modRing r f).msixTab = d.msixTab ∧ (d.modRing r f).pba = d.pba ∧
    (d.modRing r f).parts = d.parts ∧ (d.modRing r f).cores = d.cores ∧ (d.modRing r f).saves = d.saves ∧
    (d.modRing r f).carriers = d.carriers ∧ (d.modRing r f).coding = d.coding ∧ (d.modRing r f).mem = d.mem ∧
    (d.modRing r f).servo = d.servo ∧ (d.modRing r f).ports = d.ports ∧ (d.modRing r f).teril = d.teril ∧
    (d.modRing r f).lgl = d.lgl ∧ (d.modRing r f).lglPend = d.lglPend ∧ (d.modRing r f).lends = d.lends ∧
    (d.modRing r f).shared = d.shared ∧ (d.modRing r f).sessions = d.sessions ∧ (d.modRing r f).mboxReq = d.mboxReq ∧
    (d.modRing r f).mboxRsp = d.mboxRsp ∧ (d.modRing r f).flash = d.flash ∧ (d.modRing r f).ide = d.ide ∧
    (d.modRing r f).watch = d.watch ∧ (d.modRing r f).ladders = d.ladders ∧ (d.modRing r f).resets = d.resets ∧
    (d.modRing r f).oosResets = d.oosResets ∧ (d.modRing r f).hn = d.hn ∧ (d.modRing r f).he = d.he ∧
    (d.modRing r f).beats = d.beats ∧ (d.modRing r f).hbSeq = d.hbSeq ∧ (d.modRing r f).stage = d.stage ∧
    (d.modRing r f).reduced = d.reduced ∧ (d.modRing r f).rerun = d.rerun ∧ (d.modRing r f).qs = d.qs ∧
    (d.modRing r f).inForce = d.inForce ∧ (d.modRing r f).i3c = d.i3c ∧ (d.modRing r f).fhSat = d.fhSat ∧
    (d.modRing r f).fhOnce = d.fhOnce ∧ (d.modRing r f).dieOut = d.dieOut ∧ (d.modRing r f).fhPhase = d.fhPhase ∧
    (d.modRing r f).pins = d.pins ∧ (d.modRing r f).banks = d.banks ∧ (d.modRing r f).out = d.out := by
  repeat' first | exact rfl | refine ⟨rfl, ?_⟩

@[simp] theorem setSem_keeps (d : Dev) (i : Nat) (x : Sem) :
    (d.setSem i x).acyc = d.acyc ∧ (d.setSem i x).nt = d.nt ∧ (d.setSem i x).free = d.free ∧ (d.setSem i x).regs = d.regs ∧
    (d.setSem i x).raised = d.raised ∧ (d.setSem i x).dropped = d.dropped ∧ (d.setSem i x).host = d.host ∧
    (d.setSem i x).rings = d.rings ∧ (d.setSem i x).msixTab = d.msixTab ∧ (d.setSem i x).pba = d.pba ∧
    (d.setSem i x).parts = d.parts ∧ (d.setSem i x).cores = d.cores ∧ (d.setSem i x).saves = d.saves ∧
    (d.setSem i x).carriers = d.carriers ∧ (d.setSem i x).coding = d.coding ∧ (d.setSem i x).mem = d.mem ∧
    (d.setSem i x).servo = d.servo ∧ (d.setSem i x).ports = d.ports ∧ (d.setSem i x).teril = d.teril ∧ (d.setSem i x).lgl = d.lgl ∧
    (d.setSem i x).lglPend = d.lglPend ∧ (d.setSem i x).lends = d.lends ∧ (d.setSem i x).shared = d.shared ∧
    (d.setSem i x).sessions = d.sessions ∧ (d.setSem i x).mboxReq = d.mboxReq ∧ (d.setSem i x).mboxRsp = d.mboxRsp ∧
    (d.setSem i x).flash = d.flash ∧ (d.setSem i x).ide = d.ide ∧ (d.setSem i x).watch = d.watch ∧
    (d.setSem i x).ladders = d.ladders ∧ (d.setSem i x).resets = d.resets ∧ (d.setSem i x).oosResets = d.oosResets ∧
    (d.setSem i x).hn = d.hn ∧ (d.setSem i x).he = d.he ∧ (d.setSem i x).beats = d.beats ∧ (d.setSem i x).hbSeq = d.hbSeq ∧
    (d.setSem i x).stage = d.stage ∧ (d.setSem i x).reduced = d.reduced ∧ (d.setSem i x).rerun = d.rerun ∧ (d.setSem i x).qs = d.qs ∧
    (d.setSem i x).inForce = d.inForce ∧ (d.setSem i x).i3c = d.i3c ∧ (d.setSem i x).fhSat = d.fhSat ∧
    (d.setSem i x).fhOnce = d.fhOnce ∧ (d.setSem i x).dieOut = d.dieOut ∧ (d.setSem i x).fhPhase = d.fhPhase ∧
    (d.setSem i x).pins = d.pins ∧ (d.setSem i x).banks = d.banks ∧ (d.setSem i x).out = d.out := by
  repeat' first | exact rfl | refine ⟨rfl, ?_⟩

@[simp] theorem modPart_keeps (d : Dev) (p : Nat) (f : Part → Part) :
    (d.modPart p f).acyc = d.acyc ∧ (d.modPart p f).nt = d.nt ∧ (d.modPart p f).free = d.free ∧ (d.modPart p f).regs = d.regs ∧
    (d.modPart p f).raised = d.raised ∧ (d.modPart p f).dropped = d.dropped ∧ (d.modPart p f).host = d.host ∧
    (d.modPart p f).rings = d.rings ∧ (d.modPart p f).sems = d.sems ∧ (d.modPart p f).msixTab = d.msixTab ∧
    (d.modPart p f).pba = d.pba ∧ (d.modPart p f).cores = d.cores ∧ (d.modPart p f).saves = d.saves ∧
    (d.modPart p f).carriers = d.carriers ∧ (d.modPart p f).coding = d.coding ∧ (d.modPart p f).mem = d.mem ∧
    (d.modPart p f).servo = d.servo ∧ (d.modPart p f).ports = d.ports ∧ (d.modPart p f).teril = d.teril ∧
    (d.modPart p f).lgl = d.lgl ∧ (d.modPart p f).lglPend = d.lglPend ∧ (d.modPart p f).lends = d.lends ∧
    (d.modPart p f).shared = d.shared ∧ (d.modPart p f).sessions = d.sessions ∧ (d.modPart p f).mboxReq = d.mboxReq ∧
    (d.modPart p f).mboxRsp = d.mboxRsp ∧ (d.modPart p f).flash = d.flash ∧ (d.modPart p f).ide = d.ide ∧
    (d.modPart p f).watch = d.watch ∧ (d.modPart p f).ladders = d.ladders ∧ (d.modPart p f).resets = d.resets ∧
    (d.modPart p f).oosResets = d.oosResets ∧ (d.modPart p f).hn = d.hn ∧ (d.modPart p f).he = d.he ∧
    (d.modPart p f).beats = d.beats ∧ (d.modPart p f).hbSeq = d.hbSeq ∧ (d.modPart p f).stage = d.stage ∧
    (d.modPart p f).reduced = d.reduced ∧ (d.modPart p f).rerun = d.rerun ∧ (d.modPart p f).qs = d.qs ∧
    (d.modPart p f).inForce = d.inForce ∧ (d.modPart p f).i3c = d.i3c ∧ (d.modPart p f).fhSat = d.fhSat ∧
    (d.modPart p f).fhOnce = d.fhOnce ∧ (d.modPart p f).dieOut = d.dieOut ∧ (d.modPart p f).fhPhase = d.fhPhase ∧
    (d.modPart p f).pins = d.pins ∧ (d.modPart p f).banks = d.banks ∧ (d.modPart p f).out = d.out := by
  repeat' first | exact rfl | refine ⟨rfl, ?_⟩

@[simp] theorem modSched_keeps (d : Dev) (p : Nat) (f : Sched → Sched) :
    (d.modSched p f).acyc = d.acyc ∧ (d.modSched p f).nt = d.nt ∧ (d.modSched p f).free = d.free ∧ (d.modSched p f).regs = d.regs ∧
    (d.modSched p f).raised = d.raised ∧ (d.modSched p f).dropped = d.dropped ∧ (d.modSched p f).host = d.host ∧
    (d.modSched p f).rings = d.rings ∧ (d.modSched p f).sems = d.sems ∧ (d.modSched p f).msixTab = d.msixTab ∧
    (d.modSched p f).pba = d.pba ∧ (d.modSched p f).cores = d.cores ∧ (d.modSched p f).saves = d.saves ∧
    (d.modSched p f).carriers = d.carriers ∧ (d.modSched p f).coding = d.coding ∧ (d.modSched p f).mem = d.mem ∧
    (d.modSched p f).servo = d.servo ∧ (d.modSched p f).ports = d.ports ∧ (d.modSched p f).teril = d.teril ∧
    (d.modSched p f).lgl = d.lgl ∧ (d.modSched p f).lglPend = d.lglPend ∧ (d.modSched p f).lends = d.lends ∧
    (d.modSched p f).shared = d.shared ∧ (d.modSched p f).sessions = d.sessions ∧ (d.modSched p f).mboxReq = d.mboxReq ∧
    (d.modSched p f).mboxRsp = d.mboxRsp ∧ (d.modSched p f).flash = d.flash ∧ (d.modSched p f).ide = d.ide ∧
    (d.modSched p f).watch = d.watch ∧ (d.modSched p f).ladders = d.ladders ∧ (d.modSched p f).resets = d.resets ∧
    (d.modSched p f).oosResets = d.oosResets ∧ (d.modSched p f).hn = d.hn ∧ (d.modSched p f).he = d.he ∧
    (d.modSched p f).beats = d.beats ∧ (d.modSched p f).hbSeq = d.hbSeq ∧ (d.modSched p f).stage = d.stage ∧
    (d.modSched p f).reduced = d.reduced ∧ (d.modSched p f).rerun = d.rerun ∧ (d.modSched p f).qs = d.qs ∧
    (d.modSched p f).inForce = d.inForce ∧ (d.modSched p f).i3c = d.i3c ∧ (d.modSched p f).fhSat = d.fhSat ∧
    (d.modSched p f).fhOnce = d.fhOnce ∧ (d.modSched p f).dieOut = d.dieOut ∧ (d.modSched p f).fhPhase = d.fhPhase ∧
    (d.modSched p f).pins = d.pins ∧ (d.modSched p f).banks = d.banks ∧ (d.modSched p f).out = d.out := by
  repeat' first | exact rfl | refine ⟨rfl, ?_⟩

@[simp] theorem modCore_keeps (d : Dev) (g : Nat) (f : Core → Core) :
    (d.modCore g f).acyc = d.acyc ∧ (d.modCore g f).nt = d.nt ∧ (d.modCore g f).free = d.free ∧ (d.modCore g f).regs = d.regs ∧
    (d.modCore g f).raised = d.raised ∧ (d.modCore g f).dropped = d.dropped ∧ (d.modCore g f).host = d.host ∧
    (d.modCore g f).rings = d.rings ∧ (d.modCore g f).sems = d.sems ∧ (d.modCore g f).msixTab = d.msixTab ∧
    (d.modCore g f).pba = d.pba ∧ (d.modCore g f).parts = d.parts ∧ (d.modCore g f).saves = d.saves ∧
    (d.modCore g f).carriers = d.carriers ∧ (d.modCore g f).coding = d.coding ∧ (d.modCore g f).mem = d.mem ∧
    (d.modCore g f).servo = d.servo ∧ (d.modCore g f).ports = d.ports ∧ (d.modCore g f).teril = d.teril ∧
    (d.modCore g f).lgl = d.lgl ∧ (d.modCore g f).lglPend = d.lglPend ∧ (d.modCore g f).lends = d.lends ∧
    (d.modCore g f).shared = d.shared ∧ (d.modCore g f).sessions = d.sessions ∧ (d.modCore g f).mboxReq = d.mboxReq ∧
    (d.modCore g f).mboxRsp = d.mboxRsp ∧ (d.modCore g f).flash = d.flash ∧ (d.modCore g f).ide = d.ide ∧
    (d.modCore g f).watch = d.watch ∧ (d.modCore g f).ladders = d.ladders ∧ (d.modCore g f).resets = d.resets ∧
    (d.modCore g f).oosResets = d.oosResets ∧ (d.modCore g f).hn = d.hn ∧ (d.modCore g f).he = d.he ∧
    (d.modCore g f).beats = d.beats ∧ (d.modCore g f).hbSeq = d.hbSeq ∧ (d.modCore g f).stage = d.stage ∧
    (d.modCore g f).reduced = d.reduced ∧ (d.modCore g f).rerun = d.rerun ∧ (d.modCore g f).qs = d.qs ∧
    (d.modCore g f).inForce = d.inForce ∧ (d.modCore g f).i3c = d.i3c ∧ (d.modCore g f).fhSat = d.fhSat ∧
    (d.modCore g f).fhOnce = d.fhOnce ∧ (d.modCore g f).dieOut = d.dieOut ∧ (d.modCore g f).fhPhase = d.fhPhase ∧
    (d.modCore g f).pins = d.pins ∧ (d.modCore g f).banks = d.banks ∧ (d.modCore g f).out = d.out := by
  repeat' first | exact rfl | refine ⟨rfl, ?_⟩

@[simp] theorem modCtx_keeps (d : Dev) (g : Nat) (f : Ctx → Ctx) :
    (d.modCtx g f).acyc = d.acyc ∧ (d.modCtx g f).nt = d.nt ∧ (d.modCtx g f).free = d.free ∧ (d.modCtx g f).regs = d.regs ∧
    (d.modCtx g f).raised = d.raised ∧ (d.modCtx g f).dropped = d.dropped ∧ (d.modCtx g f).host = d.host ∧
    (d.modCtx g f).rings = d.rings ∧ (d.modCtx g f).sems = d.sems ∧ (d.modCtx g f).msixTab = d.msixTab ∧ (d.modCtx g f).pba = d.pba ∧
    (d.modCtx g f).parts = d.parts ∧ (d.modCtx g f).saves = d.saves ∧ (d.modCtx g f).carriers = d.carriers ∧
    (d.modCtx g f).coding = d.coding ∧ (d.modCtx g f).mem = d.mem ∧ (d.modCtx g f).servo = d.servo ∧ (d.modCtx g f).ports = d.ports ∧
    (d.modCtx g f).teril = d.teril ∧ (d.modCtx g f).lgl = d.lgl ∧ (d.modCtx g f).lglPend = d.lglPend ∧
    (d.modCtx g f).lends = d.lends ∧ (d.modCtx g f).shared = d.shared ∧ (d.modCtx g f).sessions = d.sessions ∧
    (d.modCtx g f).mboxReq = d.mboxReq ∧ (d.modCtx g f).mboxRsp = d.mboxRsp ∧ (d.modCtx g f).flash = d.flash ∧
    (d.modCtx g f).ide = d.ide ∧ (d.modCtx g f).watch = d.watch ∧ (d.modCtx g f).ladders = d.ladders ∧
    (d.modCtx g f).resets = d.resets ∧ (d.modCtx g f).oosResets = d.oosResets ∧ (d.modCtx g f).hn = d.hn ∧ (d.modCtx g f).he = d.he ∧
    (d.modCtx g f).beats = d.beats ∧ (d.modCtx g f).hbSeq = d.hbSeq ∧ (d.modCtx g f).stage = d.stage ∧
    (d.modCtx g f).reduced = d.reduced ∧ (d.modCtx g f).rerun = d.rerun ∧ (d.modCtx g f).qs = d.qs ∧
    (d.modCtx g f).inForce = d.inForce ∧ (d.modCtx g f).i3c = d.i3c ∧ (d.modCtx g f).fhSat = d.fhSat ∧
    (d.modCtx g f).fhOnce = d.fhOnce ∧ (d.modCtx g f).dieOut = d.dieOut ∧ (d.modCtx g f).fhPhase = d.fhPhase ∧
    (d.modCtx g f).pins = d.pins ∧ (d.modCtx g f).banks = d.banks ∧ (d.modCtx g f).out = d.out := by
  repeat' first | exact rfl | refine ⟨rfl, ?_⟩

@[simp] theorem modSe_keeps (d : Dev) (g : Nat) (f : SeEngine → SeEngine) :
    (d.modSe g f).acyc = d.acyc ∧ (d.modSe g f).nt = d.nt ∧ (d.modSe g f).free = d.free ∧ (d.modSe g f).regs = d.regs ∧
    (d.modSe g f).raised = d.raised ∧ (d.modSe g f).dropped = d.dropped ∧ (d.modSe g f).host = d.host ∧
    (d.modSe g f).rings = d.rings ∧ (d.modSe g f).sems = d.sems ∧ (d.modSe g f).msixTab = d.msixTab ∧ (d.modSe g f).pba = d.pba ∧
    (d.modSe g f).parts = d.parts ∧ (d.modSe g f).saves = d.saves ∧ (d.modSe g f).carriers = d.carriers ∧
    (d.modSe g f).coding = d.coding ∧ (d.modSe g f).mem = d.mem ∧ (d.modSe g f).servo = d.servo ∧ (d.modSe g f).ports = d.ports ∧
    (d.modSe g f).teril = d.teril ∧ (d.modSe g f).lgl = d.lgl ∧ (d.modSe g f).lglPend = d.lglPend ∧ (d.modSe g f).lends = d.lends ∧
    (d.modSe g f).shared = d.shared ∧ (d.modSe g f).sessions = d.sessions ∧ (d.modSe g f).mboxReq = d.mboxReq ∧
    (d.modSe g f).mboxRsp = d.mboxRsp ∧ (d.modSe g f).flash = d.flash ∧ (d.modSe g f).ide = d.ide ∧ (d.modSe g f).watch = d.watch ∧
    (d.modSe g f).ladders = d.ladders ∧ (d.modSe g f).resets = d.resets ∧ (d.modSe g f).oosResets = d.oosResets ∧
    (d.modSe g f).hn = d.hn ∧ (d.modSe g f).he = d.he ∧ (d.modSe g f).beats = d.beats ∧ (d.modSe g f).hbSeq = d.hbSeq ∧
    (d.modSe g f).stage = d.stage ∧ (d.modSe g f).reduced = d.reduced ∧ (d.modSe g f).rerun = d.rerun ∧ (d.modSe g f).qs = d.qs ∧
    (d.modSe g f).inForce = d.inForce ∧ (d.modSe g f).i3c = d.i3c ∧ (d.modSe g f).fhSat = d.fhSat ∧ (d.modSe g f).fhOnce = d.fhOnce ∧
    (d.modSe g f).dieOut = d.dieOut ∧ (d.modSe g f).fhPhase = d.fhPhase ∧ (d.modSe g f).pins = d.pins ∧
    (d.modSe g f).banks = d.banks ∧ (d.modSe g f).out = d.out := by
  repeat' first | exact rfl | refine ⟨rfl, ?_⟩

@[simp] theorem modHb_keeps (d : Dev) (g e : Nat) (f : HbEngine → HbEngine) :
    (d.modHb g e f).acyc = d.acyc ∧ (d.modHb g e f).nt = d.nt ∧ (d.modHb g e f).free = d.free ∧ (d.modHb g e f).regs = d.regs ∧
    (d.modHb g e f).raised = d.raised ∧ (d.modHb g e f).dropped = d.dropped ∧ (d.modHb g e f).host = d.host ∧
    (d.modHb g e f).rings = d.rings ∧ (d.modHb g e f).sems = d.sems ∧ (d.modHb g e f).msixTab = d.msixTab ∧
    (d.modHb g e f).pba = d.pba ∧ (d.modHb g e f).parts = d.parts ∧ (d.modHb g e f).saves = d.saves ∧
    (d.modHb g e f).carriers = d.carriers ∧ (d.modHb g e f).coding = d.coding ∧ (d.modHb g e f).mem = d.mem ∧
    (d.modHb g e f).servo = d.servo ∧ (d.modHb g e f).ports = d.ports ∧ (d.modHb g e f).teril = d.teril ∧
    (d.modHb g e f).lgl = d.lgl ∧ (d.modHb g e f).lglPend = d.lglPend ∧ (d.modHb g e f).lends = d.lends ∧
    (d.modHb g e f).shared = d.shared ∧ (d.modHb g e f).sessions = d.sessions ∧ (d.modHb g e f).mboxReq = d.mboxReq ∧
    (d.modHb g e f).mboxRsp = d.mboxRsp ∧ (d.modHb g e f).flash = d.flash ∧ (d.modHb g e f).ide = d.ide ∧
    (d.modHb g e f).watch = d.watch ∧ (d.modHb g e f).ladders = d.ladders ∧ (d.modHb g e f).resets = d.resets ∧
    (d.modHb g e f).oosResets = d.oosResets ∧ (d.modHb g e f).hn = d.hn ∧ (d.modHb g e f).he = d.he ∧
    (d.modHb g e f).beats = d.beats ∧ (d.modHb g e f).hbSeq = d.hbSeq ∧ (d.modHb g e f).stage = d.stage ∧
    (d.modHb g e f).reduced = d.reduced ∧ (d.modHb g e f).rerun = d.rerun ∧ (d.modHb g e f).qs = d.qs ∧
    (d.modHb g e f).inForce = d.inForce ∧ (d.modHb g e f).i3c = d.i3c ∧ (d.modHb g e f).fhSat = d.fhSat ∧
    (d.modHb g e f).fhOnce = d.fhOnce ∧ (d.modHb g e f).dieOut = d.dieOut ∧ (d.modHb g e f).fhPhase = d.fhPhase ∧
    (d.modHb g e f).pins = d.pins ∧ (d.modHb g e f).banks = d.banks ∧ (d.modHb g e f).out = d.out := by
  repeat' first | exact rfl | refine ⟨rfl, ?_⟩

@[simp] theorem modCarrier_keeps (d : Dev) (c : Nat) (f : Carrier → Carrier) :
    (d.modCarrier c f).acyc = d.acyc ∧ (d.modCarrier c f).nt = d.nt ∧ (d.modCarrier c f).free = d.free ∧
    (d.modCarrier c f).regs = d.regs ∧ (d.modCarrier c f).raised = d.raised ∧ (d.modCarrier c f).dropped = d.dropped ∧
    (d.modCarrier c f).host = d.host ∧ (d.modCarrier c f).rings = d.rings ∧ (d.modCarrier c f).sems = d.sems ∧
    (d.modCarrier c f).msixTab = d.msixTab ∧ (d.modCarrier c f).pba = d.pba ∧ (d.modCarrier c f).parts = d.parts ∧
    (d.modCarrier c f).cores = d.cores ∧ (d.modCarrier c f).saves = d.saves ∧ (d.modCarrier c f).coding = d.coding ∧
    (d.modCarrier c f).mem = d.mem ∧ (d.modCarrier c f).servo = d.servo ∧ (d.modCarrier c f).ports = d.ports ∧
    (d.modCarrier c f).teril = d.teril ∧ (d.modCarrier c f).lgl = d.lgl ∧ (d.modCarrier c f).lglPend = d.lglPend ∧
    (d.modCarrier c f).lends = d.lends ∧ (d.modCarrier c f).shared = d.shared ∧ (d.modCarrier c f).sessions = d.sessions ∧
    (d.modCarrier c f).mboxReq = d.mboxReq ∧ (d.modCarrier c f).mboxRsp = d.mboxRsp ∧ (d.modCarrier c f).flash = d.flash ∧
    (d.modCarrier c f).ide = d.ide ∧ (d.modCarrier c f).watch = d.watch ∧ (d.modCarrier c f).ladders = d.ladders ∧
    (d.modCarrier c f).resets = d.resets ∧ (d.modCarrier c f).oosResets = d.oosResets ∧ (d.modCarrier c f).hn = d.hn ∧
    (d.modCarrier c f).he = d.he ∧ (d.modCarrier c f).beats = d.beats ∧ (d.modCarrier c f).hbSeq = d.hbSeq ∧
    (d.modCarrier c f).stage = d.stage ∧ (d.modCarrier c f).reduced = d.reduced ∧ (d.modCarrier c f).rerun = d.rerun ∧
    (d.modCarrier c f).qs = d.qs ∧ (d.modCarrier c f).inForce = d.inForce ∧ (d.modCarrier c f).i3c = d.i3c ∧
    (d.modCarrier c f).fhSat = d.fhSat ∧ (d.modCarrier c f).fhOnce = d.fhOnce ∧ (d.modCarrier c f).dieOut = d.dieOut ∧
    (d.modCarrier c f).fhPhase = d.fhPhase ∧ (d.modCarrier c f).pins = d.pins ∧ (d.modCarrier c f).banks = d.banks ∧
    (d.modCarrier c f).out = d.out := by
  repeat' first | exact rfl | refine ⟨rfl, ?_⟩

@[simp] theorem modCod_keeps (d : Dev) (die : Nat) (f : Coding → Coding) :
    (d.modCod die f).acyc = d.acyc ∧ (d.modCod die f).nt = d.nt ∧ (d.modCod die f).free = d.free ∧ (d.modCod die f).regs = d.regs ∧
    (d.modCod die f).raised = d.raised ∧ (d.modCod die f).dropped = d.dropped ∧ (d.modCod die f).host = d.host ∧
    (d.modCod die f).rings = d.rings ∧ (d.modCod die f).sems = d.sems ∧ (d.modCod die f).msixTab = d.msixTab ∧
    (d.modCod die f).pba = d.pba ∧ (d.modCod die f).parts = d.parts ∧ (d.modCod die f).cores = d.cores ∧
    (d.modCod die f).saves = d.saves ∧ (d.modCod die f).carriers = d.carriers ∧ (d.modCod die f).mem = d.mem ∧
    (d.modCod die f).servo = d.servo ∧ (d.modCod die f).ports = d.ports ∧ (d.modCod die f).teril = d.teril ∧
    (d.modCod die f).lgl = d.lgl ∧ (d.modCod die f).lglPend = d.lglPend ∧ (d.modCod die f).lends = d.lends ∧
    (d.modCod die f).shared = d.shared ∧ (d.modCod die f).sessions = d.sessions ∧ (d.modCod die f).mboxReq = d.mboxReq ∧
    (d.modCod die f).mboxRsp = d.mboxRsp ∧ (d.modCod die f).flash = d.flash ∧ (d.modCod die f).ide = d.ide ∧
    (d.modCod die f).watch = d.watch ∧ (d.modCod die f).ladders = d.ladders ∧ (d.modCod die f).resets = d.resets ∧
    (d.modCod die f).oosResets = d.oosResets ∧ (d.modCod die f).hn = d.hn ∧ (d.modCod die f).he = d.he ∧
    (d.modCod die f).beats = d.beats ∧ (d.modCod die f).hbSeq = d.hbSeq ∧ (d.modCod die f).stage = d.stage ∧
    (d.modCod die f).reduced = d.reduced ∧ (d.modCod die f).rerun = d.rerun ∧ (d.modCod die f).qs = d.qs ∧
    (d.modCod die f).inForce = d.inForce ∧ (d.modCod die f).i3c = d.i3c ∧ (d.modCod die f).fhSat = d.fhSat ∧
    (d.modCod die f).fhOnce = d.fhOnce ∧ (d.modCod die f).dieOut = d.dieOut ∧ (d.modCod die f).fhPhase = d.fhPhase ∧
    (d.modCod die f).pins = d.pins ∧ (d.modCod die f).banks = d.banks ∧ (d.modCod die f).out = d.out := by
  repeat' first | exact rfl | refine ⟨rfl, ?_⟩

@[simp] theorem modCq_keeps (d : Dev) (die q : Nat) (f : CodingQueue → CodingQueue) :
    (d.modCq die q f).acyc = d.acyc ∧ (d.modCq die q f).nt = d.nt ∧ (d.modCq die q f).free = d.free ∧
    (d.modCq die q f).regs = d.regs ∧ (d.modCq die q f).raised = d.raised ∧ (d.modCq die q f).dropped = d.dropped ∧
    (d.modCq die q f).host = d.host ∧ (d.modCq die q f).rings = d.rings ∧ (d.modCq die q f).sems = d.sems ∧
    (d.modCq die q f).msixTab = d.msixTab ∧ (d.modCq die q f).pba = d.pba ∧ (d.modCq die q f).parts = d.parts ∧
    (d.modCq die q f).cores = d.cores ∧ (d.modCq die q f).saves = d.saves ∧ (d.modCq die q f).carriers = d.carriers ∧
    (d.modCq die q f).mem = d.mem ∧ (d.modCq die q f).servo = d.servo ∧ (d.modCq die q f).ports = d.ports ∧
    (d.modCq die q f).teril = d.teril ∧ (d.modCq die q f).lgl = d.lgl ∧ (d.modCq die q f).lglPend = d.lglPend ∧
    (d.modCq die q f).lends = d.lends ∧ (d.modCq die q f).shared = d.shared ∧ (d.modCq die q f).sessions = d.sessions ∧
    (d.modCq die q f).mboxReq = d.mboxReq ∧ (d.modCq die q f).mboxRsp = d.mboxRsp ∧ (d.modCq die q f).flash = d.flash ∧
    (d.modCq die q f).ide = d.ide ∧ (d.modCq die q f).watch = d.watch ∧ (d.modCq die q f).ladders = d.ladders ∧
    (d.modCq die q f).resets = d.resets ∧ (d.modCq die q f).oosResets = d.oosResets ∧ (d.modCq die q f).hn = d.hn ∧
    (d.modCq die q f).he = d.he ∧ (d.modCq die q f).beats = d.beats ∧ (d.modCq die q f).hbSeq = d.hbSeq ∧
    (d.modCq die q f).stage = d.stage ∧ (d.modCq die q f).reduced = d.reduced ∧ (d.modCq die q f).rerun = d.rerun ∧
    (d.modCq die q f).qs = d.qs ∧ (d.modCq die q f).inForce = d.inForce ∧ (d.modCq die q f).i3c = d.i3c ∧
    (d.modCq die q f).fhSat = d.fhSat ∧ (d.modCq die q f).fhOnce = d.fhOnce ∧ (d.modCq die q f).dieOut = d.dieOut ∧
    (d.modCq die q f).fhPhase = d.fhPhase ∧ (d.modCq die q f).pins = d.pins ∧ (d.modCq die q f).banks = d.banks ∧
    (d.modCq die q f).out = d.out := by
  repeat' first | exact rfl | refine ⟨rfl, ?_⟩

@[simp] theorem modMem_keeps (d : Dev) (f : MemSys → MemSys) :
    (d.modMem f).acyc = d.acyc ∧ (d.modMem f).nt = d.nt ∧ (d.modMem f).free = d.free ∧ (d.modMem f).regs = d.regs ∧
    (d.modMem f).raised = d.raised ∧ (d.modMem f).dropped = d.dropped ∧ (d.modMem f).host = d.host ∧ (d.modMem f).rings = d.rings ∧
    (d.modMem f).sems = d.sems ∧ (d.modMem f).msixTab = d.msixTab ∧ (d.modMem f).pba = d.pba ∧ (d.modMem f).parts = d.parts ∧
    (d.modMem f).cores = d.cores ∧ (d.modMem f).saves = d.saves ∧ (d.modMem f).carriers = d.carriers ∧
    (d.modMem f).coding = d.coding ∧ (d.modMem f).servo = d.servo ∧ (d.modMem f).ports = d.ports ∧ (d.modMem f).teril = d.teril ∧
    (d.modMem f).lgl = d.lgl ∧ (d.modMem f).lglPend = d.lglPend ∧ (d.modMem f).lends = d.lends ∧ (d.modMem f).shared = d.shared ∧
    (d.modMem f).sessions = d.sessions ∧ (d.modMem f).mboxReq = d.mboxReq ∧ (d.modMem f).mboxRsp = d.mboxRsp ∧
    (d.modMem f).flash = d.flash ∧ (d.modMem f).ide = d.ide ∧ (d.modMem f).watch = d.watch ∧ (d.modMem f).ladders = d.ladders ∧
    (d.modMem f).resets = d.resets ∧ (d.modMem f).oosResets = d.oosResets ∧ (d.modMem f).hn = d.hn ∧ (d.modMem f).he = d.he ∧
    (d.modMem f).beats = d.beats ∧ (d.modMem f).hbSeq = d.hbSeq ∧ (d.modMem f).stage = d.stage ∧ (d.modMem f).reduced = d.reduced ∧
    (d.modMem f).rerun = d.rerun ∧ (d.modMem f).qs = d.qs ∧ (d.modMem f).inForce = d.inForce ∧ (d.modMem f).i3c = d.i3c ∧
    (d.modMem f).fhSat = d.fhSat ∧ (d.modMem f).fhOnce = d.fhOnce ∧ (d.modMem f).dieOut = d.dieOut ∧
    (d.modMem f).fhPhase = d.fhPhase ∧ (d.modMem f).pins = d.pins ∧ (d.modMem f).banks = d.banks ∧ (d.modMem f).out = d.out := by
  repeat' first | exact rfl | refine ⟨rfl, ?_⟩

@[simp] theorem modPort_keeps (d : Dev) (e : Nat) (f : Port → Port) :
    (d.modPort e f).acyc = d.acyc ∧ (d.modPort e f).nt = d.nt ∧ (d.modPort e f).free = d.free ∧ (d.modPort e f).regs = d.regs ∧
    (d.modPort e f).raised = d.raised ∧ (d.modPort e f).dropped = d.dropped ∧ (d.modPort e f).host = d.host ∧
    (d.modPort e f).rings = d.rings ∧ (d.modPort e f).sems = d.sems ∧ (d.modPort e f).msixTab = d.msixTab ∧
    (d.modPort e f).pba = d.pba ∧ (d.modPort e f).parts = d.parts ∧ (d.modPort e f).cores = d.cores ∧
    (d.modPort e f).saves = d.saves ∧ (d.modPort e f).carriers = d.carriers ∧ (d.modPort e f).coding = d.coding ∧
    (d.modPort e f).mem = d.mem ∧ (d.modPort e f).servo = d.servo ∧ (d.modPort e f).teril = d.teril ∧ (d.modPort e f).lgl = d.lgl ∧
    (d.modPort e f).lglPend = d.lglPend ∧ (d.modPort e f).lends = d.lends ∧ (d.modPort e f).shared = d.shared ∧
    (d.modPort e f).sessions = d.sessions ∧ (d.modPort e f).mboxReq = d.mboxReq ∧ (d.modPort e f).mboxRsp = d.mboxRsp ∧
    (d.modPort e f).flash = d.flash ∧ (d.modPort e f).ide = d.ide ∧ (d.modPort e f).watch = d.watch ∧
    (d.modPort e f).ladders = d.ladders ∧ (d.modPort e f).resets = d.resets ∧ (d.modPort e f).oosResets = d.oosResets ∧
    (d.modPort e f).hn = d.hn ∧ (d.modPort e f).he = d.he ∧ (d.modPort e f).beats = d.beats ∧ (d.modPort e f).hbSeq = d.hbSeq ∧
    (d.modPort e f).stage = d.stage ∧ (d.modPort e f).reduced = d.reduced ∧ (d.modPort e f).rerun = d.rerun ∧
    (d.modPort e f).qs = d.qs ∧ (d.modPort e f).inForce = d.inForce ∧ (d.modPort e f).i3c = d.i3c ∧ (d.modPort e f).fhSat = d.fhSat ∧
    (d.modPort e f).fhOnce = d.fhOnce ∧ (d.modPort e f).dieOut = d.dieOut ∧ (d.modPort e f).fhPhase = d.fhPhase ∧
    (d.modPort e f).pins = d.pins ∧ (d.modPort e f).banks = d.banks ∧ (d.modPort e f).out = d.out := by
  repeat' first | exact rfl | refine ⟨rfl, ?_⟩

@[simp] theorem modTeril_keeps (d : Dev) (f : Teril → Teril) :
    (d.modTeril f).acyc = d.acyc ∧ (d.modTeril f).nt = d.nt ∧ (d.modTeril f).free = d.free ∧ (d.modTeril f).regs = d.regs ∧
    (d.modTeril f).raised = d.raised ∧ (d.modTeril f).dropped = d.dropped ∧ (d.modTeril f).host = d.host ∧
    (d.modTeril f).rings = d.rings ∧ (d.modTeril f).sems = d.sems ∧ (d.modTeril f).msixTab = d.msixTab ∧ (d.modTeril f).pba = d.pba ∧
    (d.modTeril f).parts = d.parts ∧ (d.modTeril f).cores = d.cores ∧ (d.modTeril f).saves = d.saves ∧
    (d.modTeril f).carriers = d.carriers ∧ (d.modTeril f).coding = d.coding ∧ (d.modTeril f).mem = d.mem ∧
    (d.modTeril f).servo = d.servo ∧ (d.modTeril f).ports = d.ports ∧ (d.modTeril f).lgl = d.lgl ∧
    (d.modTeril f).lglPend = d.lglPend ∧ (d.modTeril f).lends = d.lends ∧ (d.modTeril f).shared = d.shared ∧
    (d.modTeril f).sessions = d.sessions ∧ (d.modTeril f).mboxReq = d.mboxReq ∧ (d.modTeril f).mboxRsp = d.mboxRsp ∧
    (d.modTeril f).flash = d.flash ∧ (d.modTeril f).ide = d.ide ∧ (d.modTeril f).watch = d.watch ∧
    (d.modTeril f).ladders = d.ladders ∧ (d.modTeril f).resets = d.resets ∧ (d.modTeril f).oosResets = d.oosResets ∧
    (d.modTeril f).hn = d.hn ∧ (d.modTeril f).he = d.he ∧ (d.modTeril f).beats = d.beats ∧ (d.modTeril f).hbSeq = d.hbSeq ∧
    (d.modTeril f).stage = d.stage ∧ (d.modTeril f).reduced = d.reduced ∧ (d.modTeril f).rerun = d.rerun ∧ (d.modTeril f).qs = d.qs ∧
    (d.modTeril f).inForce = d.inForce ∧ (d.modTeril f).i3c = d.i3c ∧ (d.modTeril f).fhSat = d.fhSat ∧
    (d.modTeril f).fhOnce = d.fhOnce ∧ (d.modTeril f).dieOut = d.dieOut ∧ (d.modTeril f).fhPhase = d.fhPhase ∧
    (d.modTeril f).pins = d.pins ∧ (d.modTeril f).banks = d.banks ∧ (d.modTeril f).out = d.out := by
  repeat' first | exact rfl | refine ⟨rfl, ?_⟩

@[simp] theorem modLink_keeps (d : Dev) (l : Nat) (f : Link → Link) :
    (d.modLink l f).acyc = d.acyc ∧ (d.modLink l f).nt = d.nt ∧ (d.modLink l f).free = d.free ∧ (d.modLink l f).regs = d.regs ∧
    (d.modLink l f).raised = d.raised ∧ (d.modLink l f).dropped = d.dropped ∧ (d.modLink l f).host = d.host ∧
    (d.modLink l f).rings = d.rings ∧ (d.modLink l f).sems = d.sems ∧ (d.modLink l f).msixTab = d.msixTab ∧
    (d.modLink l f).pba = d.pba ∧ (d.modLink l f).parts = d.parts ∧ (d.modLink l f).cores = d.cores ∧
    (d.modLink l f).saves = d.saves ∧ (d.modLink l f).carriers = d.carriers ∧ (d.modLink l f).coding = d.coding ∧
    (d.modLink l f).mem = d.mem ∧ (d.modLink l f).servo = d.servo ∧ (d.modLink l f).ports = d.ports ∧ (d.modLink l f).lgl = d.lgl ∧
    (d.modLink l f).lglPend = d.lglPend ∧ (d.modLink l f).lends = d.lends ∧ (d.modLink l f).shared = d.shared ∧
    (d.modLink l f).sessions = d.sessions ∧ (d.modLink l f).mboxReq = d.mboxReq ∧ (d.modLink l f).mboxRsp = d.mboxRsp ∧
    (d.modLink l f).flash = d.flash ∧ (d.modLink l f).ide = d.ide ∧ (d.modLink l f).watch = d.watch ∧
    (d.modLink l f).ladders = d.ladders ∧ (d.modLink l f).resets = d.resets ∧ (d.modLink l f).oosResets = d.oosResets ∧
    (d.modLink l f).hn = d.hn ∧ (d.modLink l f).he = d.he ∧ (d.modLink l f).beats = d.beats ∧ (d.modLink l f).hbSeq = d.hbSeq ∧
    (d.modLink l f).stage = d.stage ∧ (d.modLink l f).reduced = d.reduced ∧ (d.modLink l f).rerun = d.rerun ∧
    (d.modLink l f).qs = d.qs ∧ (d.modLink l f).inForce = d.inForce ∧ (d.modLink l f).i3c = d.i3c ∧ (d.modLink l f).fhSat = d.fhSat ∧
    (d.modLink l f).fhOnce = d.fhOnce ∧ (d.modLink l f).dieOut = d.dieOut ∧ (d.modLink l f).fhPhase = d.fhPhase ∧
    (d.modLink l f).pins = d.pins ∧ (d.modLink l f).banks = d.banks ∧ (d.modLink l f).out = d.out := by
  repeat' first | exact rfl | refine ⟨rfl, ?_⟩

@[simp] theorem modSg_keeps (d : Dev) (i : Nat) (f : SharedGroup → SharedGroup) :
    (d.modSg i f).acyc = d.acyc ∧ (d.modSg i f).nt = d.nt ∧ (d.modSg i f).free = d.free ∧ (d.modSg i f).regs = d.regs ∧
    (d.modSg i f).raised = d.raised ∧ (d.modSg i f).dropped = d.dropped ∧ (d.modSg i f).host = d.host ∧
    (d.modSg i f).rings = d.rings ∧ (d.modSg i f).sems = d.sems ∧ (d.modSg i f).msixTab = d.msixTab ∧ (d.modSg i f).pba = d.pba ∧
    (d.modSg i f).parts = d.parts ∧ (d.modSg i f).cores = d.cores ∧ (d.modSg i f).saves = d.saves ∧
    (d.modSg i f).carriers = d.carriers ∧ (d.modSg i f).coding = d.coding ∧ (d.modSg i f).mem = d.mem ∧
    (d.modSg i f).servo = d.servo ∧ (d.modSg i f).ports = d.ports ∧ (d.modSg i f).teril = d.teril ∧ (d.modSg i f).lgl = d.lgl ∧
    (d.modSg i f).lglPend = d.lglPend ∧ (d.modSg i f).lends = d.lends ∧ (d.modSg i f).sessions = d.sessions ∧
    (d.modSg i f).mboxReq = d.mboxReq ∧ (d.modSg i f).mboxRsp = d.mboxRsp ∧ (d.modSg i f).flash = d.flash ∧
    (d.modSg i f).ide = d.ide ∧ (d.modSg i f).watch = d.watch ∧ (d.modSg i f).ladders = d.ladders ∧ (d.modSg i f).resets = d.resets ∧
    (d.modSg i f).oosResets = d.oosResets ∧ (d.modSg i f).hn = d.hn ∧ (d.modSg i f).he = d.he ∧ (d.modSg i f).beats = d.beats ∧
    (d.modSg i f).hbSeq = d.hbSeq ∧ (d.modSg i f).stage = d.stage ∧ (d.modSg i f).reduced = d.reduced ∧
    (d.modSg i f).rerun = d.rerun ∧ (d.modSg i f).qs = d.qs ∧ (d.modSg i f).inForce = d.inForce ∧ (d.modSg i f).i3c = d.i3c ∧
    (d.modSg i f).fhSat = d.fhSat ∧ (d.modSg i f).fhOnce = d.fhOnce ∧ (d.modSg i f).dieOut = d.dieOut ∧
    (d.modSg i f).fhPhase = d.fhPhase ∧ (d.modSg i f).pins = d.pins ∧ (d.modSg i f).banks = d.banks ∧ (d.modSg i f).out = d.out := by
  repeat' first | exact rfl | refine ⟨rfl, ?_⟩

@[simp] theorem modLend_keeps (d : Dev) (i : Nat) (f : LendRt → LendRt) :
    (d.modLend i f).acyc = d.acyc ∧ (d.modLend i f).nt = d.nt ∧ (d.modLend i f).free = d.free ∧ (d.modLend i f).regs = d.regs ∧
    (d.modLend i f).raised = d.raised ∧ (d.modLend i f).dropped = d.dropped ∧ (d.modLend i f).host = d.host ∧
    (d.modLend i f).rings = d.rings ∧ (d.modLend i f).sems = d.sems ∧ (d.modLend i f).msixTab = d.msixTab ∧
    (d.modLend i f).pba = d.pba ∧ (d.modLend i f).parts = d.parts ∧ (d.modLend i f).cores = d.cores ∧
    (d.modLend i f).saves = d.saves ∧ (d.modLend i f).carriers = d.carriers ∧ (d.modLend i f).coding = d.coding ∧
    (d.modLend i f).mem = d.mem ∧ (d.modLend i f).servo = d.servo ∧ (d.modLend i f).ports = d.ports ∧
    (d.modLend i f).teril = d.teril ∧ (d.modLend i f).lgl = d.lgl ∧ (d.modLend i f).lglPend = d.lglPend ∧
    (d.modLend i f).shared = d.shared ∧ (d.modLend i f).sessions = d.sessions ∧ (d.modLend i f).mboxReq = d.mboxReq ∧
    (d.modLend i f).mboxRsp = d.mboxRsp ∧ (d.modLend i f).flash = d.flash ∧ (d.modLend i f).ide = d.ide ∧
    (d.modLend i f).watch = d.watch ∧ (d.modLend i f).ladders = d.ladders ∧ (d.modLend i f).resets = d.resets ∧
    (d.modLend i f).oosResets = d.oosResets ∧ (d.modLend i f).hn = d.hn ∧ (d.modLend i f).he = d.he ∧
    (d.modLend i f).beats = d.beats ∧ (d.modLend i f).hbSeq = d.hbSeq ∧ (d.modLend i f).stage = d.stage ∧
    (d.modLend i f).reduced = d.reduced ∧ (d.modLend i f).rerun = d.rerun ∧ (d.modLend i f).qs = d.qs ∧
    (d.modLend i f).inForce = d.inForce ∧ (d.modLend i f).i3c = d.i3c ∧ (d.modLend i f).fhSat = d.fhSat ∧
    (d.modLend i f).fhOnce = d.fhOnce ∧ (d.modLend i f).dieOut = d.dieOut ∧ (d.modLend i f).fhPhase = d.fhPhase ∧
    (d.modLend i f).pins = d.pins ∧ (d.modLend i f).banks = d.banks ∧ (d.modLend i f).out = d.out := by
  repeat' first | exact rfl | refine ⟨rfl, ?_⟩

@[simp] theorem setSess_keeps (d : Dev) (i : Nat) (x : Session) :
    (d.setSess i x).acyc = d.acyc ∧ (d.setSess i x).nt = d.nt ∧ (d.setSess i x).free = d.free ∧ (d.setSess i x).regs = d.regs ∧
    (d.setSess i x).raised = d.raised ∧ (d.setSess i x).dropped = d.dropped ∧ (d.setSess i x).host = d.host ∧
    (d.setSess i x).rings = d.rings ∧ (d.setSess i x).sems = d.sems ∧ (d.setSess i x).msixTab = d.msixTab ∧
    (d.setSess i x).pba = d.pba ∧ (d.setSess i x).parts = d.parts ∧ (d.setSess i x).cores = d.cores ∧
    (d.setSess i x).saves = d.saves ∧ (d.setSess i x).carriers = d.carriers ∧ (d.setSess i x).coding = d.coding ∧
    (d.setSess i x).mem = d.mem ∧ (d.setSess i x).servo = d.servo ∧ (d.setSess i x).ports = d.ports ∧
    (d.setSess i x).teril = d.teril ∧ (d.setSess i x).lgl = d.lgl ∧ (d.setSess i x).lglPend = d.lglPend ∧
    (d.setSess i x).lends = d.lends ∧ (d.setSess i x).shared = d.shared ∧ (d.setSess i x).mboxReq = d.mboxReq ∧
    (d.setSess i x).mboxRsp = d.mboxRsp ∧ (d.setSess i x).flash = d.flash ∧ (d.setSess i x).ide = d.ide ∧
    (d.setSess i x).watch = d.watch ∧ (d.setSess i x).ladders = d.ladders ∧ (d.setSess i x).resets = d.resets ∧
    (d.setSess i x).oosResets = d.oosResets ∧ (d.setSess i x).hn = d.hn ∧ (d.setSess i x).he = d.he ∧
    (d.setSess i x).beats = d.beats ∧ (d.setSess i x).hbSeq = d.hbSeq ∧ (d.setSess i x).stage = d.stage ∧
    (d.setSess i x).reduced = d.reduced ∧ (d.setSess i x).rerun = d.rerun ∧ (d.setSess i x).qs = d.qs ∧
    (d.setSess i x).inForce = d.inForce ∧ (d.setSess i x).i3c = d.i3c ∧ (d.setSess i x).fhSat = d.fhSat ∧
    (d.setSess i x).fhOnce = d.fhOnce ∧ (d.setSess i x).dieOut = d.dieOut ∧ (d.setSess i x).fhPhase = d.fhPhase ∧
    (d.setSess i x).pins = d.pins ∧ (d.setSess i x).banks = d.banks ∧ (d.setSess i x).out = d.out := by
  repeat' first | exact rfl | refine ⟨rfl, ?_⟩

@[simp] theorem modServo_keeps (d : Dev) (f : Servo → Servo) :
    (d.modServo f).acyc = d.acyc ∧ (d.modServo f).nt = d.nt ∧ (d.modServo f).free = d.free ∧ (d.modServo f).regs = d.regs ∧
    (d.modServo f).raised = d.raised ∧ (d.modServo f).dropped = d.dropped ∧ (d.modServo f).host = d.host ∧
    (d.modServo f).rings = d.rings ∧ (d.modServo f).sems = d.sems ∧ (d.modServo f).msixTab = d.msixTab ∧ (d.modServo f).pba = d.pba ∧
    (d.modServo f).parts = d.parts ∧ (d.modServo f).cores = d.cores ∧ (d.modServo f).saves = d.saves ∧
    (d.modServo f).carriers = d.carriers ∧ (d.modServo f).coding = d.coding ∧ (d.modServo f).mem = d.mem ∧
    (d.modServo f).ports = d.ports ∧ (d.modServo f).teril = d.teril ∧ (d.modServo f).lgl = d.lgl ∧
    (d.modServo f).lglPend = d.lglPend ∧ (d.modServo f).lends = d.lends ∧ (d.modServo f).shared = d.shared ∧
    (d.modServo f).sessions = d.sessions ∧ (d.modServo f).mboxReq = d.mboxReq ∧ (d.modServo f).mboxRsp = d.mboxRsp ∧
    (d.modServo f).flash = d.flash ∧ (d.modServo f).ide = d.ide ∧ (d.modServo f).watch = d.watch ∧
    (d.modServo f).ladders = d.ladders ∧ (d.modServo f).resets = d.resets ∧ (d.modServo f).oosResets = d.oosResets ∧
    (d.modServo f).hn = d.hn ∧ (d.modServo f).he = d.he ∧ (d.modServo f).beats = d.beats ∧ (d.modServo f).hbSeq = d.hbSeq ∧
    (d.modServo f).stage = d.stage ∧ (d.modServo f).reduced = d.reduced ∧ (d.modServo f).rerun = d.rerun ∧ (d.modServo f).qs = d.qs ∧
    (d.modServo f).inForce = d.inForce ∧ (d.modServo f).i3c = d.i3c ∧ (d.modServo f).fhSat = d.fhSat ∧
    (d.modServo f).fhOnce = d.fhOnce ∧ (d.modServo f).dieOut = d.dieOut ∧ (d.modServo f).fhPhase = d.fhPhase ∧
    (d.modServo f).pins = d.pins ∧ (d.modServo f).banks = d.banks ∧ (d.modServo f).out = d.out := by
  repeat' first | exact rfl | refine ⟨rfl, ?_⟩

@[simp] theorem modPins_keeps (d : Dev) (f : Pins → Pins) :
    (d.modPins f).acyc = d.acyc ∧ (d.modPins f).nt = d.nt ∧ (d.modPins f).free = d.free ∧ (d.modPins f).regs = d.regs ∧
    (d.modPins f).raised = d.raised ∧ (d.modPins f).dropped = d.dropped ∧ (d.modPins f).host = d.host ∧
    (d.modPins f).rings = d.rings ∧ (d.modPins f).sems = d.sems ∧ (d.modPins f).msixTab = d.msixTab ∧ (d.modPins f).pba = d.pba ∧
    (d.modPins f).parts = d.parts ∧ (d.modPins f).cores = d.cores ∧ (d.modPins f).saves = d.saves ∧
    (d.modPins f).carriers = d.carriers ∧ (d.modPins f).coding = d.coding ∧ (d.modPins f).mem = d.mem ∧
    (d.modPins f).servo = d.servo ∧ (d.modPins f).ports = d.ports ∧ (d.modPins f).teril = d.teril ∧ (d.modPins f).lgl = d.lgl ∧
    (d.modPins f).lglPend = d.lglPend ∧ (d.modPins f).lends = d.lends ∧ (d.modPins f).shared = d.shared ∧
    (d.modPins f).sessions = d.sessions ∧ (d.modPins f).mboxReq = d.mboxReq ∧ (d.modPins f).mboxRsp = d.mboxRsp ∧
    (d.modPins f).flash = d.flash ∧ (d.modPins f).ide = d.ide ∧ (d.modPins f).watch = d.watch ∧ (d.modPins f).ladders = d.ladders ∧
    (d.modPins f).resets = d.resets ∧ (d.modPins f).oosResets = d.oosResets ∧ (d.modPins f).hn = d.hn ∧ (d.modPins f).he = d.he ∧
    (d.modPins f).beats = d.beats ∧ (d.modPins f).hbSeq = d.hbSeq ∧ (d.modPins f).stage = d.stage ∧
    (d.modPins f).reduced = d.reduced ∧ (d.modPins f).rerun = d.rerun ∧ (d.modPins f).qs = d.qs ∧ (d.modPins f).inForce = d.inForce ∧
    (d.modPins f).i3c = d.i3c ∧ (d.modPins f).fhSat = d.fhSat ∧ (d.modPins f).fhOnce = d.fhOnce ∧ (d.modPins f).dieOut = d.dieOut ∧
    (d.modPins f).fhPhase = d.fhPhase ∧ (d.modPins f).banks = d.banks ∧ (d.modPins f).out = d.out := by
  repeat' first | exact rfl | refine ⟨rfl, ?_⟩

@[simp] theorem evCore_keeps (d : Dev) (g src sub n : Nat) :
    (evCore g src sub n d).acyc = d.acyc ∧ (evCore g src sub n d).nt = d.nt ∧ (evCore g src sub n d).free = d.free ∧
    (evCore g src sub n d).regs = d.regs ∧ (evCore g src sub n d).raised = d.raised ∧ (evCore g src sub n d).dropped = d.dropped ∧
    (evCore g src sub n d).host = d.host ∧ (evCore g src sub n d).rings = d.rings ∧ (evCore g src sub n d).sems = d.sems ∧
    (evCore g src sub n d).msixTab = d.msixTab ∧ (evCore g src sub n d).pba = d.pba ∧ (evCore g src sub n d).parts = d.parts ∧
    (evCore g src sub n d).saves = d.saves ∧ (evCore g src sub n d).carriers = d.carriers ∧
    (evCore g src sub n d).coding = d.coding ∧ (evCore g src sub n d).mem = d.mem ∧ (evCore g src sub n d).servo = d.servo ∧
    (evCore g src sub n d).ports = d.ports ∧ (evCore g src sub n d).teril = d.teril ∧ (evCore g src sub n d).lgl = d.lgl ∧
    (evCore g src sub n d).lglPend = d.lglPend ∧ (evCore g src sub n d).lends = d.lends ∧ (evCore g src sub n d).shared = d.shared ∧
    (evCore g src sub n d).sessions = d.sessions ∧ (evCore g src sub n d).mboxReq = d.mboxReq ∧
    (evCore g src sub n d).mboxRsp = d.mboxRsp ∧ (evCore g src sub n d).flash = d.flash ∧ (evCore g src sub n d).ide = d.ide ∧
    (evCore g src sub n d).watch = d.watch ∧ (evCore g src sub n d).ladders = d.ladders ∧ (evCore g src sub n d).resets = d.resets ∧
    (evCore g src sub n d).oosResets = d.oosResets ∧ (evCore g src sub n d).hn = d.hn ∧ (evCore g src sub n d).he = d.he ∧
    (evCore g src sub n d).beats = d.beats ∧ (evCore g src sub n d).hbSeq = d.hbSeq ∧ (evCore g src sub n d).stage = d.stage ∧
    (evCore g src sub n d).reduced = d.reduced ∧ (evCore g src sub n d).rerun = d.rerun ∧ (evCore g src sub n d).qs = d.qs ∧
    (evCore g src sub n d).inForce = d.inForce ∧ (evCore g src sub n d).i3c = d.i3c ∧ (evCore g src sub n d).fhSat = d.fhSat ∧
    (evCore g src sub n d).fhOnce = d.fhOnce ∧ (evCore g src sub n d).dieOut = d.dieOut ∧
    (evCore g src sub n d).fhPhase = d.fhPhase ∧ (evCore g src sub n d).pins = d.pins ∧ (evCore g src sub n d).banks = d.banks ∧
    (evCore g src sub n d).out = d.out := by
  repeat' first | exact rfl | refine ⟨rfl, ?_⟩

@[simp] theorem evPart_keeps (d : Dev) (p src sub n : Nat) :
    (evPart p src sub n d).acyc = d.acyc ∧ (evPart p src sub n d).nt = d.nt ∧ (evPart p src sub n d).free = d.free ∧
    (evPart p src sub n d).regs = d.regs ∧ (evPart p src sub n d).raised = d.raised ∧ (evPart p src sub n d).dropped = d.dropped ∧
    (evPart p src sub n d).host = d.host ∧ (evPart p src sub n d).rings = d.rings ∧ (evPart p src sub n d).sems = d.sems ∧
    (evPart p src sub n d).msixTab = d.msixTab ∧ (evPart p src sub n d).pba = d.pba ∧ (evPart p src sub n d).cores = d.cores ∧
    (evPart p src sub n d).saves = d.saves ∧ (evPart p src sub n d).carriers = d.carriers ∧
    (evPart p src sub n d).coding = d.coding ∧ (evPart p src sub n d).mem = d.mem ∧ (evPart p src sub n d).servo = d.servo ∧
    (evPart p src sub n d).ports = d.ports ∧ (evPart p src sub n d).teril = d.teril ∧ (evPart p src sub n d).lgl = d.lgl ∧
    (evPart p src sub n d).lglPend = d.lglPend ∧ (evPart p src sub n d).lends = d.lends ∧ (evPart p src sub n d).shared = d.shared ∧
    (evPart p src sub n d).sessions = d.sessions ∧ (evPart p src sub n d).mboxReq = d.mboxReq ∧
    (evPart p src sub n d).mboxRsp = d.mboxRsp ∧ (evPart p src sub n d).flash = d.flash ∧ (evPart p src sub n d).ide = d.ide ∧
    (evPart p src sub n d).watch = d.watch ∧ (evPart p src sub n d).ladders = d.ladders ∧ (evPart p src sub n d).resets = d.resets ∧
    (evPart p src sub n d).oosResets = d.oosResets ∧ (evPart p src sub n d).hn = d.hn ∧ (evPart p src sub n d).he = d.he ∧
    (evPart p src sub n d).beats = d.beats ∧ (evPart p src sub n d).hbSeq = d.hbSeq ∧ (evPart p src sub n d).stage = d.stage ∧
    (evPart p src sub n d).reduced = d.reduced ∧ (evPart p src sub n d).rerun = d.rerun ∧ (evPart p src sub n d).qs = d.qs ∧
    (evPart p src sub n d).inForce = d.inForce ∧ (evPart p src sub n d).i3c = d.i3c ∧ (evPart p src sub n d).fhSat = d.fhSat ∧
    (evPart p src sub n d).fhOnce = d.fhOnce ∧ (evPart p src sub n d).dieOut = d.dieOut ∧
    (evPart p src sub n d).fhPhase = d.fhPhase ∧ (evPart p src sub n d).pins = d.pins ∧ (evPart p src sub n d).banks = d.banks ∧
    (evPart p src sub n d).out = d.out := by
  repeat' first | exact rfl | refine ⟨rfl, ?_⟩

@[simp] theorem evDie_keeps (d : Dev) (die src sub n : Nat) :
    (evDie die src sub n d).acyc = d.acyc ∧ (evDie die src sub n d).nt = d.nt ∧ (evDie die src sub n d).free = d.free ∧
    (evDie die src sub n d).regs = d.regs ∧ (evDie die src sub n d).raised = d.raised ∧ (evDie die src sub n d).dropped = d.dropped ∧
    (evDie die src sub n d).host = d.host ∧ (evDie die src sub n d).rings = d.rings ∧ (evDie die src sub n d).sems = d.sems ∧
    (evDie die src sub n d).msixTab = d.msixTab ∧ (evDie die src sub n d).pba = d.pba ∧ (evDie die src sub n d).parts = d.parts ∧
    (evDie die src sub n d).cores = d.cores ∧ (evDie die src sub n d).saves = d.saves ∧
    (evDie die src sub n d).carriers = d.carriers ∧ (evDie die src sub n d).coding = d.coding ∧ (evDie die src sub n d).mem = d.mem ∧
    (evDie die src sub n d).servo = d.servo ∧ (evDie die src sub n d).ports = d.ports ∧ (evDie die src sub n d).teril = d.teril ∧
    (evDie die src sub n d).lgl = d.lgl ∧ (evDie die src sub n d).lglPend = d.lglPend ∧ (evDie die src sub n d).lends = d.lends ∧
    (evDie die src sub n d).shared = d.shared ∧ (evDie die src sub n d).sessions = d.sessions ∧
    (evDie die src sub n d).mboxReq = d.mboxReq ∧ (evDie die src sub n d).mboxRsp = d.mboxRsp ∧
    (evDie die src sub n d).flash = d.flash ∧ (evDie die src sub n d).ide = d.ide ∧ (evDie die src sub n d).watch = d.watch ∧
    (evDie die src sub n d).ladders = d.ladders ∧ (evDie die src sub n d).resets = d.resets ∧
    (evDie die src sub n d).oosResets = d.oosResets ∧ (evDie die src sub n d).hn = d.hn ∧ (evDie die src sub n d).he = d.he ∧
    (evDie die src sub n d).beats = d.beats ∧ (evDie die src sub n d).hbSeq = d.hbSeq ∧ (evDie die src sub n d).stage = d.stage ∧
    (evDie die src sub n d).reduced = d.reduced ∧ (evDie die src sub n d).rerun = d.rerun ∧ (evDie die src sub n d).qs = d.qs ∧
    (evDie die src sub n d).inForce = d.inForce ∧ (evDie die src sub n d).i3c = d.i3c ∧ (evDie die src sub n d).fhSat = d.fhSat ∧
    (evDie die src sub n d).fhOnce = d.fhOnce ∧ (evDie die src sub n d).dieOut = d.dieOut ∧
    (evDie die src sub n d).fhPhase = d.fhPhase ∧ (evDie die src sub n d).pins = d.pins ∧ (evDie die src sub n d).out = d.out := by
  repeat' first | exact rfl | refine ⟨rfl, ?_⟩

@[simp] theorem evEdge_keeps (d : Dev) (src sub n : Nat) :
    (evEdge src sub n d).acyc = d.acyc ∧ (evEdge src sub n d).nt = d.nt ∧ (evEdge src sub n d).free = d.free ∧
    (evEdge src sub n d).regs = d.regs ∧ (evEdge src sub n d).raised = d.raised ∧ (evEdge src sub n d).dropped = d.dropped ∧
    (evEdge src sub n d).host = d.host ∧ (evEdge src sub n d).rings = d.rings ∧ (evEdge src sub n d).sems = d.sems ∧
    (evEdge src sub n d).msixTab = d.msixTab ∧ (evEdge src sub n d).pba = d.pba ∧ (evEdge src sub n d).parts = d.parts ∧
    (evEdge src sub n d).cores = d.cores ∧ (evEdge src sub n d).saves = d.saves ∧ (evEdge src sub n d).carriers = d.carriers ∧
    (evEdge src sub n d).coding = d.coding ∧ (evEdge src sub n d).mem = d.mem ∧ (evEdge src sub n d).servo = d.servo ∧
    (evEdge src sub n d).ports = d.ports ∧ (evEdge src sub n d).teril = d.teril ∧ (evEdge src sub n d).lgl = d.lgl ∧
    (evEdge src sub n d).lglPend = d.lglPend ∧ (evEdge src sub n d).lends = d.lends ∧ (evEdge src sub n d).shared = d.shared ∧
    (evEdge src sub n d).sessions = d.sessions ∧ (evEdge src sub n d).mboxReq = d.mboxReq ∧
    (evEdge src sub n d).mboxRsp = d.mboxRsp ∧ (evEdge src sub n d).flash = d.flash ∧ (evEdge src sub n d).ide = d.ide ∧
    (evEdge src sub n d).watch = d.watch ∧ (evEdge src sub n d).ladders = d.ladders ∧ (evEdge src sub n d).resets = d.resets ∧
    (evEdge src sub n d).oosResets = d.oosResets ∧ (evEdge src sub n d).hn = d.hn ∧ (evEdge src sub n d).he = d.he ∧
    (evEdge src sub n d).beats = d.beats ∧ (evEdge src sub n d).hbSeq = d.hbSeq ∧ (evEdge src sub n d).stage = d.stage ∧
    (evEdge src sub n d).reduced = d.reduced ∧ (evEdge src sub n d).rerun = d.rerun ∧ (evEdge src sub n d).qs = d.qs ∧
    (evEdge src sub n d).inForce = d.inForce ∧ (evEdge src sub n d).i3c = d.i3c ∧ (evEdge src sub n d).fhSat = d.fhSat ∧
    (evEdge src sub n d).fhOnce = d.fhOnce ∧ (evEdge src sub n d).dieOut = d.dieOut ∧ (evEdge src sub n d).fhPhase = d.fhPhase ∧
    (evEdge src sub n d).pins = d.pins ∧ (evEdge src sub n d).out = d.out := by
  repeat' first | exact rfl | refine ⟨rfl, ?_⟩

@[simp] theorem edgeProg_keeps (d : Dev) (k n : Nat) :
    (edgeProg k n d).acyc = d.acyc ∧ (edgeProg k n d).nt = d.nt ∧ (edgeProg k n d).free = d.free ∧ (edgeProg k n d).regs = d.regs ∧
    (edgeProg k n d).raised = d.raised ∧ (edgeProg k n d).dropped = d.dropped ∧ (edgeProg k n d).host = d.host ∧
    (edgeProg k n d).rings = d.rings ∧ (edgeProg k n d).sems = d.sems ∧ (edgeProg k n d).msixTab = d.msixTab ∧
    (edgeProg k n d).pba = d.pba ∧ (edgeProg k n d).parts = d.parts ∧ (edgeProg k n d).cores = d.cores ∧
    (edgeProg k n d).saves = d.saves ∧ (edgeProg k n d).carriers = d.carriers ∧ (edgeProg k n d).coding = d.coding ∧
    (edgeProg k n d).mem = d.mem ∧ (edgeProg k n d).servo = d.servo ∧ (edgeProg k n d).ports = d.ports ∧
    (edgeProg k n d).teril = d.teril ∧ (edgeProg k n d).lgl = d.lgl ∧ (edgeProg k n d).lglPend = d.lglPend ∧
    (edgeProg k n d).lends = d.lends ∧ (edgeProg k n d).shared = d.shared ∧ (edgeProg k n d).sessions = d.sessions ∧
    (edgeProg k n d).mboxReq = d.mboxReq ∧ (edgeProg k n d).mboxRsp = d.mboxRsp ∧ (edgeProg k n d).flash = d.flash ∧
    (edgeProg k n d).ide = d.ide ∧ (edgeProg k n d).ladders = d.ladders ∧ (edgeProg k n d).resets = d.resets ∧
    (edgeProg k n d).oosResets = d.oosResets ∧ (edgeProg k n d).hn = d.hn ∧ (edgeProg k n d).he = d.he ∧
    (edgeProg k n d).beats = d.beats ∧ (edgeProg k n d).hbSeq = d.hbSeq ∧ (edgeProg k n d).stage = d.stage ∧
    (edgeProg k n d).reduced = d.reduced ∧ (edgeProg k n d).rerun = d.rerun ∧ (edgeProg k n d).qs = d.qs ∧
    (edgeProg k n d).inForce = d.inForce ∧ (edgeProg k n d).i3c = d.i3c ∧ (edgeProg k n d).fhSat = d.fhSat ∧
    (edgeProg k n d).fhOnce = d.fhOnce ∧ (edgeProg k n d).dieOut = d.dieOut ∧ (edgeProg k n d).fhPhase = d.fhPhase ∧
    (edgeProg k n d).pins = d.pins ∧ (edgeProg k n d).banks = d.banks ∧ (edgeProg k n d).out = d.out := by
  repeat' first | exact rfl | refine ⟨rfl, ?_⟩

@[simp] theorem raise_keeps (d : Dev) (f : Field) (i : Nat) :
    (d.raise f i).acyc = d.acyc ∧ (d.raise f i).nt = d.nt ∧ (d.raise f i).free = d.free ∧ (d.raise f i).dropped = d.dropped ∧
    (d.raise f i).host = d.host ∧ (d.raise f i).rings = d.rings ∧ (d.raise f i).sems = d.sems ∧ (d.raise f i).msixTab = d.msixTab ∧
    (d.raise f i).pba = d.pba ∧ (d.raise f i).parts = d.parts ∧ (d.raise f i).cores = d.cores ∧ (d.raise f i).saves = d.saves ∧
    (d.raise f i).carriers = d.carriers ∧ (d.raise f i).coding = d.coding ∧ (d.raise f i).mem = d.mem ∧
    (d.raise f i).servo = d.servo ∧ (d.raise f i).ports = d.ports ∧ (d.raise f i).teril = d.teril ∧ (d.raise f i).lgl = d.lgl ∧
    (d.raise f i).lglPend = d.lglPend ∧ (d.raise f i).lends = d.lends ∧ (d.raise f i).shared = d.shared ∧
    (d.raise f i).sessions = d.sessions ∧ (d.raise f i).mboxReq = d.mboxReq ∧ (d.raise f i).mboxRsp = d.mboxRsp ∧
    (d.raise f i).flash = d.flash ∧ (d.raise f i).ide = d.ide ∧ (d.raise f i).watch = d.watch ∧ (d.raise f i).ladders = d.ladders ∧
    (d.raise f i).resets = d.resets ∧ (d.raise f i).oosResets = d.oosResets ∧ (d.raise f i).hn = d.hn ∧ (d.raise f i).he = d.he ∧
    (d.raise f i).beats = d.beats ∧ (d.raise f i).hbSeq = d.hbSeq ∧ (d.raise f i).stage = d.stage ∧
    (d.raise f i).reduced = d.reduced ∧ (d.raise f i).rerun = d.rerun ∧ (d.raise f i).qs = d.qs ∧ (d.raise f i).inForce = d.inForce ∧
    (d.raise f i).i3c = d.i3c ∧ (d.raise f i).fhSat = d.fhSat ∧ (d.raise f i).fhOnce = d.fhOnce ∧ (d.raise f i).dieOut = d.dieOut ∧
    (d.raise f i).fhPhase = d.fhPhase ∧ (d.raise f i).pins = d.pins ∧ (d.raise f i).banks = d.banks ∧ (d.raise f i).out = d.out := by
  simp only [Dev.raise]
  split <;> split_ifs <;> simp

@[simp] theorem raiseIf_keeps (d : Dev) (c : Bool) (f : Field) (i : Nat) :
    (d.raiseIf c f i).acyc = d.acyc ∧ (d.raiseIf c f i).nt = d.nt ∧ (d.raiseIf c f i).free = d.free ∧
    (d.raiseIf c f i).dropped = d.dropped ∧ (d.raiseIf c f i).host = d.host ∧ (d.raiseIf c f i).rings = d.rings ∧
    (d.raiseIf c f i).sems = d.sems ∧ (d.raiseIf c f i).msixTab = d.msixTab ∧ (d.raiseIf c f i).pba = d.pba ∧
    (d.raiseIf c f i).parts = d.parts ∧ (d.raiseIf c f i).cores = d.cores ∧ (d.raiseIf c f i).saves = d.saves ∧
    (d.raiseIf c f i).carriers = d.carriers ∧ (d.raiseIf c f i).coding = d.coding ∧ (d.raiseIf c f i).mem = d.mem ∧
    (d.raiseIf c f i).servo = d.servo ∧ (d.raiseIf c f i).ports = d.ports ∧ (d.raiseIf c f i).teril = d.teril ∧
    (d.raiseIf c f i).lgl = d.lgl ∧ (d.raiseIf c f i).lglPend = d.lglPend ∧ (d.raiseIf c f i).lends = d.lends ∧
    (d.raiseIf c f i).shared = d.shared ∧ (d.raiseIf c f i).sessions = d.sessions ∧ (d.raiseIf c f i).mboxReq = d.mboxReq ∧
    (d.raiseIf c f i).mboxRsp = d.mboxRsp ∧ (d.raiseIf c f i).flash = d.flash ∧ (d.raiseIf c f i).ide = d.ide ∧
    (d.raiseIf c f i).watch = d.watch ∧ (d.raiseIf c f i).ladders = d.ladders ∧ (d.raiseIf c f i).resets = d.resets ∧
    (d.raiseIf c f i).oosResets = d.oosResets ∧ (d.raiseIf c f i).hn = d.hn ∧ (d.raiseIf c f i).he = d.he ∧
    (d.raiseIf c f i).beats = d.beats ∧ (d.raiseIf c f i).hbSeq = d.hbSeq ∧ (d.raiseIf c f i).stage = d.stage ∧
    (d.raiseIf c f i).reduced = d.reduced ∧ (d.raiseIf c f i).rerun = d.rerun ∧ (d.raiseIf c f i).qs = d.qs ∧
    (d.raiseIf c f i).inForce = d.inForce ∧ (d.raiseIf c f i).i3c = d.i3c ∧ (d.raiseIf c f i).fhSat = d.fhSat ∧
    (d.raiseIf c f i).fhOnce = d.fhOnce ∧ (d.raiseIf c f i).dieOut = d.dieOut ∧ (d.raiseIf c f i).fhPhase = d.fhPhase ∧
    (d.raiseIf c f i).pins = d.pins ∧ (d.raiseIf c f i).banks = d.banks ∧ (d.raiseIf c f i).out = d.out := by
  unfold Dev.raiseIf
  split <;> simp

@[simp] theorem raiseVector_keeps (d : Dev) (v : Nat) :
    (raiseVector v d).acyc = d.acyc ∧ (raiseVector v d).nt = d.nt ∧ (raiseVector v d).free = d.free ∧
    (raiseVector v d).regs = d.regs ∧ (raiseVector v d).raised = d.raised ∧ (raiseVector v d).dropped = d.dropped ∧
    (raiseVector v d).host = d.host ∧ (raiseVector v d).rings = d.rings ∧ (raiseVector v d).sems = d.sems ∧
    (raiseVector v d).msixTab = d.msixTab ∧ (raiseVector v d).parts = d.parts ∧ (raiseVector v d).cores = d.cores ∧
    (raiseVector v d).saves = d.saves ∧ (raiseVector v d).carriers = d.carriers ∧ (raiseVector v d).coding = d.coding ∧
    (raiseVector v d).mem = d.mem ∧ (raiseVector v d).servo = d.servo ∧ (raiseVector v d).ports = d.ports ∧
    (raiseVector v d).teril = d.teril ∧ (raiseVector v d).lgl = d.lgl ∧ (raiseVector v d).lglPend = d.lglPend ∧
    (raiseVector v d).lends = d.lends ∧ (raiseVector v d).shared = d.shared ∧ (raiseVector v d).sessions = d.sessions ∧
    (raiseVector v d).mboxReq = d.mboxReq ∧ (raiseVector v d).mboxRsp = d.mboxRsp ∧ (raiseVector v d).flash = d.flash ∧
    (raiseVector v d).ide = d.ide ∧ (raiseVector v d).watch = d.watch ∧ (raiseVector v d).ladders = d.ladders ∧
    (raiseVector v d).resets = d.resets ∧ (raiseVector v d).oosResets = d.oosResets ∧ (raiseVector v d).hn = d.hn ∧
    (raiseVector v d).he = d.he ∧ (raiseVector v d).beats = d.beats ∧ (raiseVector v d).hbSeq = d.hbSeq ∧
    (raiseVector v d).stage = d.stage ∧ (raiseVector v d).reduced = d.reduced ∧ (raiseVector v d).rerun = d.rerun ∧
    (raiseVector v d).qs = d.qs ∧ (raiseVector v d).inForce = d.inForce ∧ (raiseVector v d).i3c = d.i3c ∧
    (raiseVector v d).fhSat = d.fhSat ∧ (raiseVector v d).fhOnce = d.fhOnce ∧ (raiseVector v d).dieOut = d.dieOut ∧
    (raiseVector v d).fhPhase = d.fhPhase ∧ (raiseVector v d).pins = d.pins ∧ (raiseVector v d).banks = d.banks := by
  unfold raiseVector
  split <;> simp

@[simp] theorem raiseFlt_keeps (d : Dev) (f : Field) :
    (raiseFlt f d).acyc = d.acyc ∧ (raiseFlt f d).nt = d.nt ∧ (raiseFlt f d).free = d.free ∧ (raiseFlt f d).dropped = d.dropped ∧
    (raiseFlt f d).host = d.host ∧ (raiseFlt f d).rings = d.rings ∧ (raiseFlt f d).sems = d.sems ∧
    (raiseFlt f d).msixTab = d.msixTab ∧ (raiseFlt f d).parts = d.parts ∧ (raiseFlt f d).cores = d.cores ∧
    (raiseFlt f d).saves = d.saves ∧ (raiseFlt f d).carriers = d.carriers ∧ (raiseFlt f d).coding = d.coding ∧
    (raiseFlt f d).mem = d.mem ∧ (raiseFlt f d).servo = d.servo ∧ (raiseFlt f d).ports = d.ports ∧ (raiseFlt f d).teril = d.teril ∧
    (raiseFlt f d).lgl = d.lgl ∧ (raiseFlt f d).lglPend = d.lglPend ∧ (raiseFlt f d).lends = d.lends ∧
    (raiseFlt f d).shared = d.shared ∧ (raiseFlt f d).sessions = d.sessions ∧ (raiseFlt f d).mboxReq = d.mboxReq ∧
    (raiseFlt f d).mboxRsp = d.mboxRsp ∧ (raiseFlt f d).flash = d.flash ∧ (raiseFlt f d).ide = d.ide ∧
    (raiseFlt f d).watch = d.watch ∧ (raiseFlt f d).ladders = d.ladders ∧ (raiseFlt f d).resets = d.resets ∧
    (raiseFlt f d).oosResets = d.oosResets ∧ (raiseFlt f d).hn = d.hn ∧ (raiseFlt f d).he = d.he ∧ (raiseFlt f d).beats = d.beats ∧
    (raiseFlt f d).hbSeq = d.hbSeq ∧ (raiseFlt f d).stage = d.stage ∧ (raiseFlt f d).reduced = d.reduced ∧
    (raiseFlt f d).rerun = d.rerun ∧ (raiseFlt f d).qs = d.qs ∧ (raiseFlt f d).inForce = d.inForce ∧ (raiseFlt f d).i3c = d.i3c ∧
    (raiseFlt f d).fhSat = d.fhSat ∧ (raiseFlt f d).fhOnce = d.fhOnce ∧ (raiseFlt f d).dieOut = d.dieOut ∧
    (raiseFlt f d).fhPhase = d.fhPhase ∧ (raiseFlt f d).pins = d.pins ∧ (raiseFlt f d).banks = d.banks := by
  simp only [raiseFlt]
  split_ifs <;> simp

@[simp] theorem raiseRing_keeps (d : Dev) (r : Nat) :
    (raiseRing r d).acyc = d.acyc ∧ (raiseRing r d).nt = d.nt ∧ (raiseRing r d).free = d.free ∧ (raiseRing r d).regs = d.regs ∧
    (raiseRing r d).raised = d.raised ∧ (raiseRing r d).dropped = d.dropped ∧ (raiseRing r d).host = d.host ∧
    (raiseRing r d).sems = d.sems ∧ (raiseRing r d).msixTab = d.msixTab ∧ (raiseRing r d).parts = d.parts ∧
    (raiseRing r d).cores = d.cores ∧ (raiseRing r d).saves = d.saves ∧ (raiseRing r d).carriers = d.carriers ∧
    (raiseRing r d).coding = d.coding ∧ (raiseRing r d).mem = d.mem ∧ (raiseRing r d).servo = d.servo ∧
    (raiseRing r d).ports = d.ports ∧ (raiseRing r d).teril = d.teril ∧ (raiseRing r d).lgl = d.lgl ∧
    (raiseRing r d).lglPend = d.lglPend ∧ (raiseRing r d).lends = d.lends ∧ (raiseRing r d).shared = d.shared ∧
    (raiseRing r d).sessions = d.sessions ∧ (raiseRing r d).mboxReq = d.mboxReq ∧ (raiseRing r d).mboxRsp = d.mboxRsp ∧
    (raiseRing r d).flash = d.flash ∧ (raiseRing r d).ide = d.ide ∧ (raiseRing r d).watch = d.watch ∧
    (raiseRing r d).ladders = d.ladders ∧ (raiseRing r d).resets = d.resets ∧ (raiseRing r d).oosResets = d.oosResets ∧
    (raiseRing r d).hn = d.hn ∧ (raiseRing r d).he = d.he ∧ (raiseRing r d).beats = d.beats ∧ (raiseRing r d).hbSeq = d.hbSeq ∧
    (raiseRing r d).stage = d.stage ∧ (raiseRing r d).reduced = d.reduced ∧ (raiseRing r d).rerun = d.rerun ∧
    (raiseRing r d).qs = d.qs ∧ (raiseRing r d).inForce = d.inForce ∧ (raiseRing r d).i3c = d.i3c ∧ (raiseRing r d).fhSat = d.fhSat ∧
    (raiseRing r d).fhOnce = d.fhOnce ∧ (raiseRing r d).dieOut = d.dieOut ∧ (raiseRing r d).fhPhase = d.fhPhase ∧
    (raiseRing r d).pins = d.pins ∧ (raiseRing r d).banks = d.banks := by
  unfold raiseRing
  split_ifs <;> simp

@[simp] theorem semAddTo_keeps (d : Dev) (i : Nat) (a : BitVec 64) :
    (semAddTo i a d).acyc = d.acyc ∧ (semAddTo i a d).nt = d.nt ∧ (semAddTo i a d).free = d.free ∧
    (semAddTo i a d).dropped = d.dropped ∧ (semAddTo i a d).host = d.host ∧ (semAddTo i a d).rings = d.rings ∧
    (semAddTo i a d).msixTab = d.msixTab ∧ (semAddTo i a d).parts = d.parts ∧ (semAddTo i a d).cores = d.cores ∧
    (semAddTo i a d).saves = d.saves ∧ (semAddTo i a d).carriers = d.carriers ∧ (semAddTo i a d).coding = d.coding ∧
    (semAddTo i a d).mem = d.mem ∧ (semAddTo i a d).servo = d.servo ∧ (semAddTo i a d).ports = d.ports ∧
    (semAddTo i a d).teril = d.teril ∧ (semAddTo i a d).lgl = d.lgl ∧ (semAddTo i a d).lglPend = d.lglPend ∧
    (semAddTo i a d).lends = d.lends ∧ (semAddTo i a d).shared = d.shared ∧ (semAddTo i a d).sessions = d.sessions ∧
    (semAddTo i a d).mboxReq = d.mboxReq ∧ (semAddTo i a d).mboxRsp = d.mboxRsp ∧ (semAddTo i a d).flash = d.flash ∧
    (semAddTo i a d).ide = d.ide ∧ (semAddTo i a d).watch = d.watch ∧ (semAddTo i a d).ladders = d.ladders ∧
    (semAddTo i a d).resets = d.resets ∧ (semAddTo i a d).oosResets = d.oosResets ∧ (semAddTo i a d).hn = d.hn ∧
    (semAddTo i a d).he = d.he ∧ (semAddTo i a d).beats = d.beats ∧ (semAddTo i a d).hbSeq = d.hbSeq ∧
    (semAddTo i a d).stage = d.stage ∧ (semAddTo i a d).reduced = d.reduced ∧ (semAddTo i a d).rerun = d.rerun ∧
    (semAddTo i a d).qs = d.qs ∧ (semAddTo i a d).inForce = d.inForce ∧ (semAddTo i a d).i3c = d.i3c ∧
    (semAddTo i a d).fhSat = d.fhSat ∧ (semAddTo i a d).fhOnce = d.fhOnce ∧ (semAddTo i a d).dieOut = d.dieOut ∧
    (semAddTo i a d).fhPhase = d.fhPhase ∧ (semAddTo i a d).pins = d.pins ∧ (semAddTo i a d).banks = d.banks := by
  simp only [semAddTo]
  rcases (d.sem i).armed with _ | ⟨w, vec⟩
  · simp
  · by_cases h : w ≤ BitVec.ofNat 64 (min ((d.sem i).value.toNat + a.toNat) (2 ^ 64 - 1))
    · simp only [h, if_true]; simp
    · simp only [h, if_false]; simp

@[simp] theorem writeComp_keeps (d : Dev) (c : Src) (st : Nat) (r0 r1 : BitVec 64) :
    (writeComp c st r0 r1 d).acyc = d.acyc ∧ (writeComp c st r0 r1 d).nt = d.nt ∧ (writeComp c st r0 r1 d).free = d.free ∧
    (writeComp c st r0 r1 d).regs = d.regs ∧ (writeComp c st r0 r1 d).raised = d.raised ∧
    (writeComp c st r0 r1 d).dropped = d.dropped ∧ (writeComp c st r0 r1 d).sems = d.sems ∧
    (writeComp c st r0 r1 d).msixTab = d.msixTab ∧ (writeComp c st r0 r1 d).parts = d.parts ∧
    (writeComp c st r0 r1 d).cores = d.cores ∧ (writeComp c st r0 r1 d).saves = d.saves ∧
    (writeComp c st r0 r1 d).carriers = d.carriers ∧ (writeComp c st r0 r1 d).coding = d.coding ∧
    (writeComp c st r0 r1 d).mem = d.mem ∧ (writeComp c st r0 r1 d).servo = d.servo ∧ (writeComp c st r0 r1 d).ports = d.ports ∧
    (writeComp c st r0 r1 d).teril = d.teril ∧ (writeComp c st r0 r1 d).lgl = d.lgl ∧ (writeComp c st r0 r1 d).lglPend = d.lglPend ∧
    (writeComp c st r0 r1 d).lends = d.lends ∧ (writeComp c st r0 r1 d).shared = d.shared ∧
    (writeComp c st r0 r1 d).sessions = d.sessions ∧ (writeComp c st r0 r1 d).mboxReq = d.mboxReq ∧
    (writeComp c st r0 r1 d).mboxRsp = d.mboxRsp ∧ (writeComp c st r0 r1 d).flash = d.flash ∧ (writeComp c st r0 r1 d).ide = d.ide ∧
    (writeComp c st r0 r1 d).watch = d.watch ∧ (writeComp c st r0 r1 d).ladders = d.ladders ∧
    (writeComp c st r0 r1 d).resets = d.resets ∧ (writeComp c st r0 r1 d).oosResets = d.oosResets ∧
    (writeComp c st r0 r1 d).hn = d.hn ∧ (writeComp c st r0 r1 d).he = d.he ∧ (writeComp c st r0 r1 d).beats = d.beats ∧
    (writeComp c st r0 r1 d).hbSeq = d.hbSeq ∧ (writeComp c st r0 r1 d).stage = d.stage ∧
    (writeComp c st r0 r1 d).reduced = d.reduced ∧ (writeComp c st r0 r1 d).rerun = d.rerun ∧ (writeComp c st r0 r1 d).qs = d.qs ∧
    (writeComp c st r0 r1 d).inForce = d.inForce ∧ (writeComp c st r0 r1 d).i3c = d.i3c ∧ (writeComp c st r0 r1 d).fhSat = d.fhSat ∧
    (writeComp c st r0 r1 d).fhOnce = d.fhOnce ∧ (writeComp c st r0 r1 d).dieOut = d.dieOut ∧
    (writeComp c st r0 r1 d).fhPhase = d.fhPhase ∧ (writeComp c st r0 r1 d).pins = d.pins ∧
    (writeComp c st r0 r1 d).banks = d.banks := by
  simp only [writeComp]
  split_ifs <;> simp

/-! ### Reading after writing -/

@[simp] theorem modMem_mem (d : Dev) (f : MemSys → MemSys) : (d.modMem f).mem = f d.mem := rfl
@[simp] theorem modPins_pins (d : Dev) (f : Pins → Pins) : (d.modPins f).pins = f d.pins := rfl
@[simp] theorem modServo_servo (d : Dev) (f : Servo → Servo) : (d.modServo f).servo = f d.servo := rfl
@[simp] theorem modTeril_teril (d : Dev) (f : Teril → Teril) : (d.modTeril f).teril = f d.teril := rfl
@[simp] theorem emit_out (d : Dev) (o : Out) : (emit o d).out = o :: d.out := rfl
@[simp] theorem hostWrite_host (d : Dev) (a : Nat) (b : Bytes) : (hostWrite a b d).host = memWrite d.host a b := rfl
@[simp] theorem takeFree_free (d : Dev) (w : Nat) : (takeFree w d).2.free = d.free + 1 := rfl

theorem core_setCore_ne (d : Dev) (g h : Nat) (x : Core) (hne : h ≠ g) : (d.setCore g x).core h = d.core h :=
  tabGet_tabSet_ne ({} : Core) d.cores g h x hne

theorem core_setCore (d : Dev) (g : Nat) (x : Core) (hw : tabWf {} d.cores = true) : (d.setCore g x).core g = x :=
  tabGet_tabSet ({} : Core) d.cores g x hw

theorem ring_setRing_ne (d : Dev) (r q : Nat) (x : Ring) (hne : q ≠ r) : (d.setRing r x).ring q = d.ring q :=
  tabGet_tabSet_ne ({} : Ring) d.rings r q x hne

theorem ring_setRing (d : Dev) (r : Nat) (x : Ring) (hw : tabWf {} d.rings = true) : (d.setRing r x).ring r = x :=
  tabGet_tabSet ({} : Ring) d.rings r x hw

theorem part_setPart_ne (d : Dev) (p q : Nat) (x : Part) (hne : q ≠ p) : (d.setPart p x).part q = d.part q :=
  tabGet_tabSet_ne ({} : Part) d.parts p q x hne

theorem sem_setSem_ne (d : Dev) (i j : Nat) (x : Sem) (hne : j ≠ i) : (d.setSem i x).sem j = d.sem j :=
  tabGet_tabSet_ne ({} : Sem) d.sems i j x hne

theorem sem_setSem (d : Dev) (i : Nat) (x : Sem) (hw : tabWf {} d.sems = true) : (d.setSem i x).sem i = x :=
  tabGet_tabSet ({} : Sem) d.sems i x hw

/-- A register write leaves what every other offset holds. -/
theorem regs_wr_ne (d : Dev) (r : RegName) (i x : Nat) (v w : BitVec 64) (h : x ≠ r.off i) :
    tabGet w (d.wr r i v).regs x = tabGet w d.regs x :=
  tabGet_tabSet_any (r.resetVal i) w d.regs (r.off i) x v h

/-- Reading another register after a write. -/
theorem rd_wr_ne (d : Dev) (r q : RegName) (i j : Nat) (v : BitVec 64) (h : q.off j ≠ r.off i) : (d.wr r i v).rd q j = d.rd q j :=
  regs_wr_ne d r i (q.off j) v (q.resetVal j) h

/-! ### What a meaning answers -/

/-- A meaning that answers a next state had its operands. -/
theorem need_next {c : Bool} {e : Fault} {k : Res} {t : State} (h : need c e k = .next t) : c = true ∧ k = .next t := by
  cases c <;> simp_all [need]

theorem need_true {c : Bool} {e : Fault} {k : Res} (h : c = true) : need c e k = k := by simp [need, h]

theorem need_false {c : Bool} {e : Fault} {k : Res} (h : c = false) : need c e k = .fault e := by simp [need, h]

theorem there_true {c : Bool} {s : State} {k : Res} (h : c = true) : there c s k = k := by simp [there, h]

theorem there_false {c : Bool} {s : State} {k : Res} (h : c = false) : there c s k = .next s := by simp [there, h]

/-- Everything `there` can answer. -/
theorem there_result {c : Bool} {s : State} {k : Res} : (c = true ∧ there c s k = k) ∨ (c = false ∧ there c s k = .next s) := by
  cases c <;> simp [there]

/-- Everything `upd` can answer. -/
theorem upd_next {s t : State} {f : Dev → Dev} (h : upd s f = .next t) :
    t.pending = s.pending ∧ t.dev = if s.dev.pins.stopped then s.dev else f s.dev := by
  cases h; exact ⟨rfl, rfl⟩

/-- Everything `updS` can answer. -/
theorem updS_next {s t : State} {f : Dev → Dev} (h : updS s f = .next t) : t.pending = s.pending ∧ t.dev = f s.dev := by
  cases h; exact ⟨rfl, rfl⟩

theorem upd_running {s : State} {f : Dev → Dev} (h : s.dev.pins.stopped = false) : upd s f = .next { s with dev := f s.dev } := by
  simp [upd, h]

theorem upd_stopped {s : State} {f : Dev → Dev} (h : s.dev.pins.stopped = true) : upd s f = .next s := by
  simp [upd, h]

end Sys2Proof.Laws
end

