-- ==== Sys2Proof/Laws/Memory.lean ====
section
/-! SUPPORT. Laws of the memories: each operation on a scratchpad, HBM, a stream buffer, host memory and the memory of a peer keeps the
canonical form and leaves every other byte, and the rest of the device, as it was. -/

namespace Sys2Proof.Laws

open Sys2Proof Sys2Proof.Machine

/-- After power-up every memory has its canonical form. -/
theorem reset_memories_wf : Memory.wf State.reset.dev.mem.spad = true ∧ Memory.wf State.reset.dev.mem.hbm = true ∧
    Memory.wf State.reset.dev.mem.sb = true ∧ Memory.wf State.reset.dev.mem.peer = true ∧ Memory.wf State.reset.dev.host = true := by
  decide

/-- A list of cells whose keys and values a filter keeps stays canonical. -/
theorem filter_wf (m : Mem) (q : Nat × Byte → Bool) (h : Memory.wf m = true) : Memory.wf (m.filter q) = true :=
  tabWfFrom_filter 0 none q m h

/-! ### Host memory -/

theorem hostWrite_wf (d : Dev) (a : Nat) (b : Bytes) (h : Memory.wf d.host = true) : Memory.wf (hostWrite a b d).host = true :=
  memWrite_wf d.host a b h

theorem hostWrite_outside (d : Dev) (a x : Nat) (b : Bytes) (h : x < a ∨ a + b.length ≤ x) :
    memByte (hostWrite a b d).host x = memByte d.host x := memByte_memWrite_outside d.host a b x h

/-! ### Scratchpads -/

/-- One byte of a scratchpad: what it leaves. -/
theorem spadPut_keeps (p g o : Nat) (b : Byte) (d : Dev) :
    (spadPut p g o b d).regs = d.regs ∧ (spadPut p g o b d).cores = d.cores ∧ (spadPut p g o b d).parts = d.parts ∧
    (spadPut p g o b d).host = d.host ∧ (spadPut p g o b d).mem.hbm = d.mem.hbm ∧ (spadPut p g o b d).mem.sb = d.mem.sb ∧
    (spadPut p g o b d).mem.peer = d.mem.peer ∧ (spadPut p g o b d).pins = d.pins ∧ (spadPut p g o b d).acyc = d.acyc ∧
    (spadPut p g o b d).nt = d.nt ∧ (spadPut p g o b d).free = d.free ∧ (spadPut p g o b d).shared = d.shared := by
  unfold spadPut
  split_ifs <;> simp

theorem spadPut_wf (p g o : Nat) (b : Byte) (d : Dev) (h : Memory.wf d.mem.spad = true) :
    Memory.wf (spadPut p g o b d).mem.spad = true := by
  unfold spadPut
  split_ifs
  · exact memSet_wf d.mem.spad _ b h
  · exact h
  · exact h

theorem spadPut_outside (p g o : Nat) (b : Byte) (d : Dev) (x : Nat) (h : x ≠ g * spadSize + o) :
    memByte (spadPut p g o b d).mem.spad x = memByte d.mem.spad x := by
  unfold spadPut
  split_ifs
  · exact tabGet_tabSet_ne 0 d.mem.spad _ x b h
  · rfl
  · rfl

/-- Bytes of a group's logical scratchpad: what they leave. -/
theorem spadWrite_keeps (p : Nat) (cores : List Nat) (l : Nat) (bs : Bytes) (d : Dev) :
    (spadWrite p cores l bs d).regs = d.regs ∧ (spadWrite p cores l bs d).cores = d.cores ∧
    (spadWrite p cores l bs d).parts = d.parts ∧ (spadWrite p cores l bs d).host = d.host ∧
    (spadWrite p cores l bs d).mem.hbm = d.mem.hbm ∧ (spadWrite p cores l bs d).mem.sb = d.mem.sb ∧
    (spadWrite p cores l bs d).mem.peer = d.mem.peer ∧ (spadWrite p cores l bs d).pins = d.pins ∧
    (spadWrite p cores l bs d).acyc = d.acyc ∧ (spadWrite p cores l bs d).nt = d.nt ∧ (spadWrite p cores l bs d).free = d.free ∧
    (spadWrite p cores l bs d).shared = d.shared := by
  induction bs generalizing l d with
  | nil => simp [spadWrite]
  | cons b bs ih =>
    have h := ih (l + 1) (spadPut p (spadAt cores l).1 (spadAt cores l).2 b d)
    have k := spadPut_keeps p (spadAt cores l).1 (spadAt cores l).2 b d
    simp only [spadWrite]
    exact ⟨h.1.trans k.1, h.2.1.trans k.2.1, h.2.2.1.trans k.2.2.1, h.2.2.2.1.trans k.2.2.2.1, h.2.2.2.2.1.trans k.2.2.2.2.1,
      h.2.2.2.2.2.1.trans k.2.2.2.2.2.1, h.2.2.2.2.2.2.1.trans k.2.2.2.2.2.2.1, h.2.2.2.2.2.2.2.1.trans k.2.2.2.2.2.2.2.1,
      h.2.2.2.2.2.2.2.2.1.trans k.2.2.2.2.2.2.2.2.1, h.2.2.2.2.2.2.2.2.2.1.trans k.2.2.2.2.2.2.2.2.2.1,
      h.2.2.2.2.2.2.2.2.2.2.1.trans k.2.2.2.2.2.2.2.2.2.2.1, h.2.2.2.2.2.2.2.2.2.2.2.trans k.2.2.2.2.2.2.2.2.2.2.2⟩

theorem spadWrite_wf (p : Nat) (cores : List Nat) (l : Nat) (bs : Bytes) (d : Dev) (h : Memory.wf d.mem.spad = true) :
    Memory.wf (spadWrite p cores l bs d).mem.spad = true := by
  induction bs generalizing l d with
  | nil => exact h
  | cons b bs ih => exact ih (l + 1) _ (spadPut_wf p _ _ b d h)

/-- A byte whose place no written address names reads as before. -/
theorem spadWrite_outside (p : Nat) (cores : List Nat) (l : Nat) (bs : Bytes) (d : Dev) (x : Nat)
    (h : ∀ j < bs.length, x ≠ (spadAt cores (l + j)).1 * spadSize + (spadAt cores (l + j)).2) :
    memByte (spadWrite p cores l bs d).mem.spad x = memByte d.mem.spad x := by
  induction bs generalizing l d with
  | nil => rfl
  | cons b bs ih =>
    have h0 := h 0 (by simp)
    rw [Nat.add_zero] at h0
    have hs : ∀ j < bs.length, x ≠ (spadAt cores (l + 1 + j)).1 * spadSize + (spadAt cores (l + 1 + j)).2 := by
      intro j hj
      have := h (j + 1) (by simpa using hj)
      rwa [show l + (j + 1) = l + 1 + j by omega] at this
    have h1 := ih (l + 1) (spadPut p (spadAt cores l).1 (spadAt cores l).2 b d) hs
    have h2 := spadPut_outside p (spadAt cores l).1 (spadAt cores l).2 b d x h0
    exact h1.trans h2

/-- The whole scratchpad of a core replaced. -/
theorem putSpad_wf (g : Nat) (m : Mem) (d : Dev) (h : Memory.wf d.mem.spad = true) : Memory.wf (putSpad g m d).mem.spad = true := by
  show Memory.wf (m.foldl (fun s e => memSet s (g * spadSize + e.1) e.2) (memZero d.mem.spad (g * spadSize) spadSize)) = true
  generalize hz : memZero d.mem.spad (g * spadSize) spadSize = z
  have hw : Memory.wf z = true := hz ▸ memZero_wf d.mem.spad (g * spadSize) spadSize h
  clear hz h
  induction m generalizing z with
  | nil => exact hw
  | cons e m ih => exact ih _ (memSet_wf z _ e.2 hw)

/-! ### Tier 2 and stream buffers -/

/-- A data unit written keeps the canonical form of whichever memory holds it. -/
theorem putUnit_wf (a : PAddr) (b : Bytes) (t : UnitTag) (d : Dev) (h : Memory.wf d.mem.hbm = true) (h' : Memory.wf d.mem.peer = true)
    (h'' : Memory.wf d.host = true) :
    Memory.wf (putUnit a b t d).mem.hbm = true ∧ Memory.wf (putUnit a b t d).mem.peer = true ∧
      Memory.wf (putUnit a b t d).host = true := by
  cases a with
  | hbm x => exact ⟨memWrite_wf d.mem.hbm x b h, h', h''⟩
  | host x => exact ⟨h, h', memWrite_wf d.host x (cipherUnit t b) h''⟩
  | peer x => exact ⟨h, memWrite_wf d.mem.peer x (cipherUnit t b) h', h''⟩

/-- A store of a stream unit in tier 1 keeps the canonical form of the stream buffers. -/
theorem tierStore_sb_wf (x : SuPort) (a : Nat) (b : Bytes) (d : Dev) (h : Memory.wf d.mem.sb = true) :
    Memory.wf (tierStore x 1 a b d).mem.sb = true := memWrite_wf d.mem.sb _ b h

/-! ### Ports of a scratchpad (R79, R109) -/

/-- A read that meets no other port's writing and no wrong bit gives the bytes, and changes nothing. -/
theorem portRead_clear (who : Who) (since : Nat) (taint : List (Nat × Nat)) (p : Nat) (cores : List Nat) (l n : Nat) (d : Dev)
    (h : d.portClear who since taint p cores l n = true) :
    portRead who since taint p cores l n d = ((d.spadRead p cores l n, 0), d) := by
  simp [portRead, h]

/-- Everything a read can do to the device: nothing, or use free values. -/
theorem portRead_result (who : Who) (since : Nat) (taint : List (Nat × Nat)) (p : Nat) (cores : List Nat) (l n : Nat) (d : Dev) :
    (portRead who since taint p cores l n d).2 = d ∨ (portRead who since taint p cores l n d).2 = { d with free := d.free + n } := by
  unfold portRead
  dsimp only
  split
  · exact Or.inl rfl
  · exact Or.inr rfl

/-- What is kept of overwritten words leaves the memories as they were. -/
theorem noteOld_mems (who : Who) (p : Nat) (cores : List Nat) (l n : Nat) (d : Dev) :
    (noteOld who p cores l n d).mem.spad = d.mem.spad ∧ (noteOld who p cores l n d).mem.hbm = d.mem.hbm ∧
      (noteOld who p cores l n d).mem.sb = d.mem.sb ∧ (noteOld who p cores l n d).host = d.host := by
  unfold noteOld
  dsimp only
  split <;> simp

/-- A write of one operation keeps the canonical form, whichever of two racing values stays. -/
theorem portWrite_wf (who : Who) (since p : Nat) (cores : List Nat) (l : Nat) (b : Bytes) (d : Dev) (h : Memory.wf d.mem.spad = true) :
    Memory.wf (portWrite who since p cores l b d).mem.spad = true := by
  have h' : Memory.wf (noteOld who p cores l b.length d).mem.spad = true := by rw [(noteOld_mems who p cores l b.length d).1]; exact h
  unfold portWrite
  dsimp only
  split
  · exact spadWrite_wf p cores l b _ h'
  · generalize b.zipIdx = xs
    have h'' : Memory.wf ({ noteOld who p cores l b.length d with free := (noteOld who p cores l b.length d).free + b.length } : Dev).mem.spad
        = true := h'
    revert h''
    generalize ({ noteOld who p cores l b.length d with free := (noteOld who p cores l b.length d).free + b.length } : Dev) = e
    intro h''
    induction xs generalizing e with
    | nil => exact h''
    | cons x xs ih =>
      refine ih _ ?_
      beta_reduce
      split
      · exact h''
      · exact spadWrite_wf p cores (l + x.2) [x.1] e h''

end Sys2Proof.Laws
end

