-- ==== Sys2Proof/Laws/Engine.lean ====
section
/-! SUPPORT. Laws of the operations the engines share: everything a slot instruction and a word of a transfer list can do, and what
results in flight, events and landing leave as it was. -/

namespace Sys2Proof.Laws

open Sys2Proof Sys2Proof.Machine

/-- Everything a slot instruction can do: let due results land and nothing else, abort the unit with cause 1, 2 or 9, or act. -/
theorem seGo_result (g : Nat) (sl : SeSlot) (w : Slot64) (opc : Nat) (slots : List SeSlot) (types : List Nat)
    (body : SlotOp → Dev → Dev) (d : Dev) :
    seGo g sl w opc slots types body d = landDue g d ∨ (∃ c ∈ [1, 2, 9], seGo g sl w opc slots types body d = seAbort g c (landDue g d)) ∨
      seGo g sl w opc slots types body d = body (slotOp w) (seCounted g (landDue g d)) := by
  simp only [seGo]
  split_ifs
  · exact Or.inl rfl
  · exact Or.inr (Or.inl ⟨1, by simp, rfl⟩)
  · exact Or.inr (Or.inl ⟨2, by simp, rfl⟩)
  · exact Or.inr (Or.inl ⟨9, by simp, rfl⟩)
  · exact Or.inr (Or.inr rfl)

/-- Everything a word of a transfer list can do: nothing, stop the list with its cause, or act. -/
theorem suWord_result (g cause : Nat) (eff : Dev → Dev) (d : Dev) :
    suWord g cause eff d = d ∨ (cause ≠ 0 ∧ suWord g cause eff d = suIllegal g cause d) ∨
      (cause = 0 ∧ suWord g cause eff d = eff (suStep g d)) := by
  unfold suWord
  split_ifs with h h' <;> simp_all

/-- Landing changes the core of the engine and nothing else. -/
theorem landDue_keeps (g : Nat) (d : Dev) :
    (landDue g d).regs = d.regs ∧ (landDue g d).mem = d.mem ∧ (landDue g d).parts = d.parts ∧ (landDue g d).saves = d.saves ∧
    (landDue g d).host = d.host ∧ (landDue g d).pins = d.pins ∧ (landDue g d).acyc = d.acyc ∧ (landDue g d).nt = d.nt ∧
    (landDue g d).free = d.free ∧ (landDue g d).shared = d.shared ∧ ∀ h ≠ g, (landDue g d).core h = d.core h := by
  simp only [landDue]
  split_ifs
  · simp
  · simp only [modCore_keeps, true_and]
    exact fun h hne => core_setCore_ne d g h _ hne

theorem seCounted_keeps (g : Nat) (d : Dev) :
    (seCounted g d).regs = d.regs ∧ (seCounted g d).mem = d.mem ∧ (seCounted g d).parts = d.parts ∧ (seCounted g d).saves = d.saves ∧
    (seCounted g d).host = d.host ∧ (seCounted g d).pins = d.pins ∧ (seCounted g d).acyc = d.acyc ∧ (seCounted g d).nt = d.nt ∧
    (seCounted g d).free = d.free ∧ (seCounted g d).shared = d.shared ∧ ∀ h ≠ g, (seCounted g d).core h = d.core h := by
  simp only [seCounted, modSe_keeps, true_and]
  exact fun h hne => core_setCore_ne d g h _ hne

theorem seOut_keeps (g : Nat) (sl : SeSlot) (lat : Nat) (rs : List (SeDest × BitVec 32 × BitVec 1024)) (d : Dev) :
    (seOut g sl lat rs d).regs = d.regs ∧ (seOut g sl lat rs d).mem = d.mem ∧ (seOut g sl lat rs d).parts = d.parts ∧
    (seOut g sl lat rs d).saves = d.saves ∧ (seOut g sl lat rs d).host = d.host ∧ (seOut g sl lat rs d).pins = d.pins ∧
    (seOut g sl lat rs d).acyc = d.acyc ∧ (seOut g sl lat rs d).nt = d.nt ∧ (seOut g sl lat rs d).free = d.free ∧
    (seOut g sl lat rs d).shared = d.shared ∧ ∀ h ≠ g, (seOut g sl lat rs d).core h = d.core h := by
  simp only [seOut, modSe_keeps, true_and]
  exact fun h hne => core_setCore_ne d g h _ hne

theorem evCore_core_ne (g h src sub n : Nat) (d : Dev) (hne : h ≠ g) : (evCore g src sub n d).core h = d.core h :=
  core_setCore_ne d g h _ hne

/-- The events of R51 change the core and nothing else. -/
theorem evNum_keeps (g e : Nat) (n : NumEv) (d : Dev) :
    (evNum g e n d).regs = d.regs ∧ (evNum g e n d).mem = d.mem ∧ (evNum g e n d).parts = d.parts ∧ (evNum g e n d).saves = d.saves ∧
    (evNum g e n d).host = d.host ∧ (evNum g e n d).pins = d.pins ∧ (evNum g e n d).acyc = d.acyc ∧ (evNum g e n d).nt = d.nt ∧
    (evNum g e n d).free = d.free ∧ (evNum g e n d).shared = d.shared := by
  simp [evNum]

end Sys2Proof.Laws
end

