-- ==== Sys2Proof/Tests/Slice0.lean ====
section
/-! SUPPORT. Tests: the smoke test of WellFormed, worked values of the spec, and for every statement with hypotheses a state and operands
that meet them, clause by clause, at boundary values of their ranges. A hypothesis about one of Config's opaque functions alone (a
digest, a signature, a decoded block), which nothing evaluates, is left out of its witness. -/

set_option maxRecDepth 100000
set_option exponentiation.threshold 1024

namespace Sys2Proof.Tests

open Sys2Proof Sys2Proof.Machine

/-- The reset state with its device changed. -/
def on (f : Dev → Dev) : State := { State.reset with dev := f State.reset.dev }

/-- Register fields set. -/
def setR (l : List (Field × Nat × Nat)) (d : Dev) : Dev := l.foldl (fun d x => d.setF x.1 x.2.1 x.2.2) d

/-- A device that has finished bring-up. -/
def ready : State := on (setR [(F.qsStateReady, 0, 1)])

/-- A command of ring 16383. -/
def src : Src := { ring := 16383, op := 1, ctag := 7, notify := false, ssig := none, counter := 0 }

/-- Ring 16383 with a kind and a state. -/
def ringOn (kind st : Nat) (x : Ring) : State :=
  on (fun d => (setR [(F.qsStateReady, 0, 1), (F.ringCtlKind, 16383, kind), (F.ringStateState, 16383, st)] { d with nt := 8000000 }).setRing 16383 x)

/-- A small image: one core, one template. -/
def image : Image :=
  { digest := [], epochLen := 5000, slack := 10, linkClass := 0, role := 0, rolesM1 := 0, coresM1 := 0, repeats := 0, nondet := false
    radio := false, lglDigest := [], jobDigest := [], groups := [0], code := []
    templates := [{ ccClear := 0, restart := true, dispFirst := 0, xchFirst := 0, dispCount := 0, xchCount := 0 }]
    dispatch := [], exchange := [], slots := [], seq := [0], restart := [], binding := [79], devSlots := 0 }

/-- Partition 31, allocated, with a schedule state. -/
def part (es : Nat) (x : Part) (f : Dev → Dev := id) : State :=
  on (fun d => f ((setR [(F.ptPartStateState, 31, 1), (F.esStateState, 31, es), (F.ringCtlPart, 16383, 31), (F.coreStateOwned, 79, 1),
    (F.coreStatePart, 79, 31), (F.coreStateState, 79, 1)] d).modPart 31 (fun _ => x)))

/-- n bytes that hold a value of at most 8 bytes at each offset, the higher offsets first; the rest 0. -/
def bytesAt (n : Nat) (l : List (Nat × Nat)) : Bytes :=
  (List.range n).map (fun i => match l.find? (fun x => decide (x.1 ≤ i ∧ i < x.1 + 8)) with
    | some x => BitVec.ofNat 8 (x.2 / 256 ^ (i - x.1))
    | none => 0)

/-- A descriptor of carrier 255, port 0: one block, one stream, no windows, the pattern given. -/
def carrierDesc (pattern : Nat) : Bytes :=
  bytesAt 84 [(80, pattern), (0x38, 1), (0x2C, 1), (0x26, 20), (0x24, 20), (0, 255 + 2 ^ 16)]

/-- Carrier 255 in place at a network time. -/
def carrier (pattern : Nat) (nt : BitVec 64) (x : Carrier) (f : Dev → Dev := id) : State :=
  on (fun d => f (({ setR [(F.fhPortStatusUp, 0, 1)] d with nt := nt } : Dev).setCarrier 255 { x with desc := carrierDesc pattern }))

/-- Page 0 of p0 mapped to frame 0, its first units holding bytes. -/
def p0Page (b : Bytes) (d : Dev) : Dev :=
  (d.modPart 0 (fun x => { x with pt := [(0, { far := false, gen := false, mig := false, hint := 0, die := 0, frame := 0, grant := 0, gpage := 0 })] })).modMem
    (fun m => { m with hbm := memWrite [] 0 b, tags := (List.range (b.length / 64)).map (fun i => (i, { key := some 0, tweak := i })) })

/-- A unit on core 79 with a dependency list. -/
def unit (deps : List (BitVec 32)) (issued : Option Nat) : UnitRt :=
  { entry := { release := 2, group := 0, unit := 0, estEnd := 0, deps := deps }, cores := [79], issued := issued }

/-- An exchange entry of 64 bytes to role 0. -/
def send : SendRt :=
  { entry := { offset := 0, window := 0, edelta := 0, len64 := 1, src := 0, peer := 0, stier0 := true, dst := 0, slot := 0, dtier0 := true
               dep := 0, altoff := 0 } }

/-- A route to instance 0 of device 1 over link 15. -/
def route : Route :=
  { faddr0 := 1, igen0 := 0, v0 := true, faddr1 := 0, igen1 := 0, v1 := false, links := 0x8000, scode0 := 5, scode1 := 0 }

/-- Coding queue 15 of die 3. -/
def queue (x : CodingQueue) (f : Coding → Coding := id) : State :=
  on (fun d => ({ d with acyc := 3000, nt := 8000 } : Dev).modCod 3 (fun c => { f c with queues := [(15, x)] }))

/-- A page of the near memory: generation, hint, die, frame. -/
def near (gen : Bool) (hint die frame : Nat) : Pte :=
  { far := false, gen := gen, mig := false, hint := hint, die := die, frame := frame, grant := 0, gpage := 0 }

/-- A migration of page 0 of partition 31. -/
def mig (target : Option Pte) : Mig := { p := 31, vpn := 0, cmd := none, rate := 0, target := target }

/-- Teril link 15 in service, the device a confirmed member of a tray with member 1. -/
def teril (hdr : Nat) (l : List (Field × Nat × Nat)) (f : Teril → Teril := id) : State × BitVec 96 :=
  (on (fun d => (setR ([(F.tlLinkStatusUp, 15, 1), (F.tbPortCfgPortMbps, 31, 800000)] ++ l) { d with nt := 80000 }).modTeril
    (fun t => f { t with members := some [0, 1] })), BitVec.ofNat 96 hdr)

/-- A frame on a link. -/
def frame : Frame := { len := 256, at_ := 0, bytes := [] }

/-- A get of core 79 to device 1. -/
def request (bulk : Bool) : Req := { g := 79, op := 0, p := 31, dst := 1, role := 0, itime := 0, last := 0, body := zeros 64, bulk := bulk }

/-- Lend group 63: core 79. -/
def lendOn (x : LendRt) (f : Dev → Dev := id) : State := on (fun d => f { d with lends := [(63, { x with handle := 79 })] })

/-- Shared group 31: core 79, two grants. -/
def shared (x : SharedGroup) (l : List (Field × Nat × Nat) := []) : State :=
  on (fun d => (setR l { d with acyc := 300000000 }).modSg 31 (fun _ =>
    { x with handle := 79, grants := [⟨30, 1, true, 0, 0, 0, some 0, 0⟩, ⟨31, 1, true, 0, 0, 0, some 0, 0⟩] }))

/-- A mailbox request of 4096 bytes at most. -/
def mailbox (b : Bytes) (f : Dev → Dev := id) : State :=
  on (fun d => f { setR [(F.lgMboxCtlBusy, 0, 1), (F.lgMboxCtlLen, 0, b.length), (F.lgStateIdentityOk, 0, 1), (F.lgStateConfigOk, 0, 1)] d with
    mboxReq := memWrite [] 0 b })


/-- A move of empty descriptors, its word a number. -/
def moveOf (w : Nat) : Move := { w := BitVec.ofNat 256 w, sds := 0, sdd := 0, issued := 0 }

/-- That descriptor with one PRACH stream. -/
def prachDesc : Bytes := bytesAt 84 [(80, 1), (0x38, 1), (0x2C, 1), (0x26, 20), (0x24, 20), (4, 2 ^ 12), (0, 255 + 2 ^ 16)]

/-- That image with a unit that depends on receive slot 0. -/
def consuming : Image :=
  { image with
    templates := [{ ccClear := 0, restart := true, dispFirst := 0, xchFirst := 0, dispCount := 1, xchCount := 0 }], slots := [(0, 0, 0)]
    dispatch := [{ release := 2, group := 0, unit := 0, estEnd := 0, deps := [1] }] }
theorem slotArea_zero (k : Nat) (b : Bytes) : slotArea k b 0 = at_ b 0x48 8 := by simp [slotArea]

/-- A pair whose first part is known. -/
theorem pairOf {α β : Type} {x : α × β} {a : α} (h : x.1 = a) : x = (a, x.2) := by cases x; cases h; rfl

theorem test_witness_RegisterWriteFollowsAccessCodes :
  ∃ (s : State) (off width : Nat) (r : RegName) (i : Nat),
    s.dev.pins.stopped = false ∧ off < 0x4000000 ∧ s.dev.barOpen off = 2 ∧ barTarget off width = .inl (.reg r i) ∧
    r ∉ [.ringSq, .ringCq, .ringDb, .ringAux, .ringCtl, .semPart, .fhQuadCfg, .qsTlPlan, .tbHistCtl, .lgMboxCtl, .setupLock] ∧
    s.dev.flag F.setupLockLock = false :=
  ⟨ready, 0xe00018, 4, .fltWdog, 0, by decide⟩

theorem test_witness_RejectedAccessIsRecorded :
  (∃ (s : State) (off width : Nat) (mis : Bool),
    s.dev.pins.stopped = false ∧ off < 0x4000000 ∧ s.dev.barOpen off = 2 ∧ barTarget off width = .inr mis) ∧
  (∃ (s : State) (off : Nat),
    s.dev.pins.stopped = false ∧ off < 0x4000000 ∧ s.dev.barOpen off = 1) ∧
  (∃ (s : State) (write : Bool) (off width : Nat),
    s.dev.pins.stopped = false ∧ off < 0x4000000 ∧ (write = false ∨ width ≠ 4 ∨ off % 4096 ≠ 0)) ∧
  (∃ (s : State) (off width : Nat) (t : BarTarget),
    s.dev.pins.stopped = false ∧ (s.dev.barOpen off = 0 ∨ (s.dev.barOpen off = 2 ∧ barTarget off width = .inl t))) ∧
  (∃ (s : State) (off : Nat),
    s.dev.pins.stopped = false ∧ off % 4096 = 0) :=
  ⟨⟨ready, 0x3FFFFFC, 4, false, by decide⟩,
   ⟨on (setR [(F.qsStateFailed, 0, 1), (F.qsStateFailStage, 0, 2)]), 0, by decide⟩,
   ⟨ready, true, 0x3FFFFFF, 8, by decide⟩,
   ⟨ready, 0xe00018, 4, .reg .fltWdog 0, by decide⟩,
   ⟨ready, 4096, by decide⟩⟩

theorem test_witness_SingleRegisterRowsAct :
  (∃ (s : State) (off width : Nat) (r : RegName) (i : Nat),
    s.dev.pins.stopped = false ∧ off < 0x4000000 ∧ s.dev.barOpen off = 2 ∧ barTarget off width = .inl (.reg r i) ∧
    r ∉ [.ringSq, .ringCq, .ringDb, .ringAux, .ringCtl, .semPart, .fhQuadCfg, .qsTlPlan, .tbHistCtl, .lgMboxCtl, .setupLock] ∧
    s.dev.flag F.setupLockLock = true ∧ r.spec.fields.any (fun f => decide (f.acc = .rwl)) = true ∧ setcntOf r = none) ∧
  (∃ (s : State),
    s.dev.pins.stopped = false) ∧
  (∃ (s : State) (off i : Nat),
    s.dev.pins.stopped = false ∧ off < 0x4000000 ∧ s.dev.barOpen off = 2 ∧ findReg off = some (.dlStatus, i)) ∧
  (∃ (s : State) (off i : Nat),
    s.dev.pins.stopped = false ∧ off < 0x4000000 ∧ s.dev.barOpen off = 2 ∧ findReg off = some (.tlLinkStatus, i)) ∧
  (∃ (s : State) (off k : Nat) (v : BitVec 32) (b : EvBank),
    s.dev.pins.stopped = false ∧ s.dev.barOpen off = 2 ∧ bankAt off = some (k, 0) ∧ s.dev.barBank k = some b ∧
    b.evcAt ≠ some s.dev.acyc ∧ v.toNat.testBit 3 = true) ∧
  (∃ (s : State) (v : BitVec 32),
    s.dev.pins.stopped = false ∧ v.getLsbD 1 = true) ∧
  (∃ (s : State) (v : BitVec 32),
    s.dev.pins.stopped = false ∧ v.getLsbD 1 = false) :=
  ⟨⟨on (setR [(F.qsStateReady, 0, 1), (F.setupLockLock, 0, 1)]), 0xe00020, 4, .fltLadder, 0, by decide⟩,
   ⟨ready, by decide⟩,
   ⟨ready, 0x3B00080, 11, by decide⟩,
   ⟨ready, 0xc013c0, 15, by decide⟩,
   ⟨ready, 0x1100000, 0, 8, {}, by decide⟩,
   ⟨ready, 2, by decide⟩,
   ⟨ready, 0xFFFFFFFD, by decide⟩⟩

theorem test_witness_RingsEnableAndDrain :
  (∃ (s : State) (r : Nat) (ctl : BitVec 64),
    s.dev.pins.stopped = false ∧ r < 16384 ∧ s.dev.flag F.qsStateReady = true ∧
    (s.dev.getF F.ringCtlKind r < 2 → s.dev.tdiLocked (s.dev.getF F.ringCtlPart r) = false) ∧ s.dev.ringSt r ≠ 4 ∧
    s.dev.flag F.ringCtlEnable r = false ∧ enableErr (ringCtlFields r (ctl ||| 1) s.dev) r = 0) ∧
  (∃ (s : State) (r : Nat),
    s.dev.pins.stopped = false ∧ r < 16384 ∧
    (s.dev.getF F.ringCtlKind r < 2 → s.dev.tdiLocked (s.dev.getF F.ringCtlPart r) = false) ∧ s.dev.ringSt r ≠ 4 ∧
    s.dev.flag F.ringCtlEnable r = true ∧ (s.dev.ring r).waiting = []) ∧
  (∃ (s : State) (r : Nat),
    s.dev.pins.stopped = false ∧ r < 16384 ∧ s.dev.ringSt r = 4 ∧ (s.dev.ring r).started = []) :=
  ⟨⟨ready, 16383, 32, by decide⟩,
   ⟨on (setR [(F.ringCtlEnable, 16383, 1), (F.ringStateState, 16383, 2)]), 16383, by decide⟩,
   ⟨on (setR [(F.ringStateState, 0, 4)]), 0, by decide⟩⟩

theorem test_witness_SubmissionsAreFetchedAndAccepted :
  (∃ (s : State) (r : Nat) (v : BitVec 32),
    s.dev.pins.stopped = false ∧ r < 16384 ∧ s.dev.ringSt r = 1 ∧ v.toNat = s.dev.getF F.ringAuxEpoch r) ∧
  (∃ (s : State) (r : Nat),
    s.dev.pins.stopped = false ∧ r < 16384 ∧ s.dev.ringSt r = 2 ∧ s.dev.isCmdRing r = true ∧
    reached s.dev (later (s.dev.ring r).polled (s.dev.eff F.ringCtlPoll 1 1000 r * 800)) = true) ∧
  (∃ (s : State) (r : Nat),
    s.dev.pins.stopped = false ∧ r < 16384 ∧ s.dev.ringSt r = 2 ∧ s.dev.isCmdRing r = true ∧
    (if s.dev.getF F.hiDbCfgIdlePolls = 0 then 64 else s.dev.getF F.hiDbCfgIdlePolls) ≤ (s.dev.ring r).idlePolls ∧
    (s.dev.ring r).waiting = [] ∧ (readDoorbell r (hostWrite (s.dev.dbAddr r + 0x20) [1, 0, 0, 0] s.dev)).ringSt r = 2 ∧
    ((readDoorbell r (hostWrite (s.dev.dbAddr r + 0x20) [1, 0, 0, 0] s.dev)).ring r).prod = (s.dev.ring r).prod) ∧
  (∃ (s : State) (r : Nat),
    s.dev.pins.stopped = false ∧ r < 16384 ∧ s.dev.ringSt r = 2 ∧ s.dev.isCmdRing r = false ∧
    (readDoorbell r s.dev).ringSt r = 2) ∧
  (∃ (s : State) (r : Nat) (b : Bytes) (l : List Bytes) (i : Instr),
    s.dev.pins.stopped = false ∧ r < 16384 ∧ s.dev.ringSt r = 2 ∧ s.dev.getF F.ringCtlKind r = 0 ∧
    (s.dev.ring r).subs = b :: l ∧ checkC s.dev r b = .inr i ∧ bit b 0 18 = false ∧ bit b 0 17 = false) ∧
  (∃ (s : State) (r : Nat) (b : Bytes) (l : List Bytes) (st : Nat),
    s.dev.pins.stopped = false ∧ r < 16384 ∧ s.dev.ringSt r = 2 ∧ s.dev.getF F.ringCtlKind r = 0 ∧
    (s.dev.ring r).subs = b :: l ∧ checkC s.dev r b = .inl st) ∧
  (∃ (s : State) (r : Nat),
    s.dev.pins.stopped = false ∧ r < 16384 ∧ (s.dev.ring r).imodUntil ≤ s.dev.acyc ∧ (s.dev.ring r).merged = true) :=
  ⟨⟨ringOn 0 1 {}, 16383, 0, by decide⟩,
   ⟨ringOn 2 2 {}, 16383, by decide⟩,
   ⟨ringOn 0 2 { idlePolls := 64 }, 16383, by decide⟩,
   ⟨ringOn 1 2 {}, 16383, by decide⟩,
   ⟨ringOn 0 2 { subs := [leBytes 64 0x0101] }, 16383, leBytes 64 0x0101, [], .nop (subSrc 16383 (leBytes 64 0x0101)), by decide⟩,
   ⟨ringOn 0 2 { subs := [leBytes 64 0xFFFF] }, 16383, leBytes 64 0xFFFF, [], 1, by decide⟩,
   ⟨ringOn 0 2 { merged := true }, 16383, by decide⟩⟩

theorem test_witness_HostInterfaceActs :
  (∃ (s : State) (r : Nat),
    s.dev.pins.stopped = false ∧ r < 16384) ∧
  (∃ (s : State) (c : Src),
    s.dev.pins.stopped = false ∧ c.ring < 16384) ∧
  (∃ (s : State) (p g : Nat),
    s.dev.pins.stopped = false ∧ p < 32 ∧ g < 80 ∧
    (let d := (s.dev.raise F.hiStatusHostFault).raise F.suStatusDataLost g
    (d.core g).moves = [])) ∧
  (∃ (s : State) (p g : Nat) (m : Move) (l : List Move),
    s.dev.pins.stopped = false ∧ p < 32 ∧ g < 80 ∧
    (let d := (s.dev.raise F.hiStatusHostFault).raise F.suStatusDataLost g
    (d.core g).moves = m :: l)) ∧
  (∃ (s : State) (stream : Nat),
    s.dev.pins.stopped = false ∧ 1 ≤ stream ∧ stream < 32) ∧
  (∃ (s : State),
    s.dev.pins.stopped = false) ∧
  (∃ (s : State),
    s.dev.pins.stopped = false) ∧
  (∃ (s : State) (i kset dir : Nat) (key : BitVec 256),
    s.dev.pins.stopped = false ∧ 1 ≤ i ∧ i < 65 ∧ s.dev.flag F.lgSessValid i = true ∧ (s.dev.sess i).role = 1 ∧
    s.dev.ideKey i kset dir = key) ∧
  (∃ (s : State) (p i kset dir : Nat) (key : BitVec 256),
    s.dev.pins.stopped = false ∧ 1 ≤ i ∧ i < 65 ∧ 1 ≤ p ∧ p < 32 ∧ s.dev.flag F.lgSessValid i = true ∧
    (s.dev.sess i).role = 3 ∧ (s.dev.sess i).part = p ∧ s.dev.ideKey i kset dir = key) ∧
  (∃ (s : State) (p : Nat),
    s.dev.pins.stopped = false ∧ p < 32) ∧
  (∃ (s : State) (p : Nat),
    s.dev.pins.stopped = false ∧ 1 ≤ p ∧ p < 32) ∧
  (∃ (s : State) (p : Nat),
    s.dev.pins.stopped = false ∧ 1 ≤ p ∧ p < 32) ∧
  (∃ (s : State) (p : Nat),
    s.dev.pins.stopped = false ∧ 1 ≤ p ∧ p < 32) ∧
  (∃ (s : State) (p : Nat),
    s.dev.pins.stopped = false ∧ 1 ≤ p ∧ p < 32) :=
  ⟨⟨ready, 16383, by decide⟩,
   ⟨ready, src, by decide⟩,
   ⟨ready, 31, 79, by decide⟩,
   ⟨on (fun d => d.modCore 79 (fun k => { k with moves := [moveOf 1] })), 31, 79, moveOf 1, [], by decide⟩,
   ⟨State.reset, 31, by decide⟩,
   ⟨State.reset, by decide⟩,
   ⟨State.reset, by decide⟩,
   ⟨on (fun d => ((setR [(F.lgSessValid, 64, 1)] d).setSess 64 { role := 1, part := 0 })), 64, 1, 0, (on (fun d => ((setR [(F.lgSessValid, 64, 1)] d).setSess 64 { role := 1, part := 0 }))).dev.ideKey 64 1 0, ⟨by decide, by decide, by decide, by decide, by decide, rfl⟩⟩,
   ⟨on (fun d => ((setR [(F.lgSessValid, 64, 1)] d).setSess 64 { role := 3, part := 31 })), 31, 64, 1, 0, (on (fun d => ((setR [(F.lgSessValid, 64, 1)] d).setSess 64 { role := 3, part := 31 }))).dev.ideKey 64 1 0, ⟨by decide, by decide, by decide, by decide, by decide, by decide, by decide, by decide, rfl⟩⟩,
   ⟨State.reset, 31, ⟨by decide, by decide⟩⟩,
   ⟨State.reset, 31, by decide⟩,
   ⟨State.reset, 31, by decide⟩,
   ⟨State.reset, 1, by decide⟩,
   ⟨State.reset, 31, by decide⟩⟩

theorem test_witness_SemaphoresAct :
  (∃ (s : State) (i : Nat),
    s.dev.pins.stopped = false ∧ i < 8192 ∧
    (s.dev.flag F.semPartValid i = false ∨ (s.dev.tdiLocked (s.dev.getF F.semPartPart i) = false ∧
    s.dev.pstate (s.dev.getF F.semPartPart i) = 0))) ∧
  (∃ (s : State) (i : Nat),
    s.dev.pins.stopped = false ∧ i < 8192 ∧ s.dev.flag F.semPartValid i = true ∧
    s.dev.tdiLocked (s.dev.getF F.semPartPart i) = false ∧ s.dev.pstate (s.dev.getF F.semPartPart i) ≠ 0) ∧
  (∃ (s : State) (c : Src),
    s.dev.pins.stopped = false ∧ c.ring < 16384) ∧
  (∃ (s : State) (c : Src) (i : Nat),
    s.dev.pins.stopped = false ∧ c.ring < 16384 ∧ s.dev.semOf i (s.dev.cpart c) = true) ∧
  (∃ (s : State) (c : Src) (i : Nat),
    s.dev.pins.stopped = false ∧ c.ring < 16384 ∧ s.dev.semOf i (s.dev.cpart c) = true) ∧
  (∃ (s : State) (c : Src) (i : Nat),
    s.dev.pins.stopped = false ∧ c.ring < 16384 ∧ s.dev.semOf i (s.dev.cpart c) = true) ∧
  (∃ (d : Dev) (i : Nat),
    (d.sem i).armed = none) :=
  ⟨⟨on (setR [(F.semPartValid, 8191, 1), (F.semPartPart, 8191, 31)]), 8191, by decide⟩,
   ⟨on (setR [(F.semPartValid, 8191, 1), (F.ptPartStateState, 0, 1)]), 8191, by decide⟩,
   ⟨State.reset, src, by decide⟩,
   ⟨on (setR [(F.semPartValid, 8191, 1)]), src, 8191, by decide⟩,
   ⟨on (setR [(F.semPartValid, 0, 1)]), src, 0, by decide⟩,
   ⟨on (setR [(F.semPartValid, 0, 1)]), src, 0, by decide⟩,
   ⟨State.reset.dev, 0, by decide⟩⟩

theorem test_witness_ImagesAndSchedulesAct :
  (∃ (s : State) (c : Src),
    s.dev.pins.stopped = false ∧
    (let p := s.dev.cpart c
    s.dev.schedOpen p = true ∧ (s.dev.sched p).standby = none ∧ (s.dev.sched p).loading = none)) ∧
  (∃ (s : State) (p : Nat) (c : Src) (prev st : Nat) (im : Image),
    s.dev.pins.stopped = false ∧ p < 32 ∧ (s.dev.sched p).loading = some (c, prev, st, some im) ∧
    (s.dev.sched p).active = none) ∧
  (∃ (s : State) (p : Nat) (c : Src) (prev st : Nat) (im : Image),
    s.dev.pins.stopped = false ∧ p < 32 ∧ (s.dev.sched p).loading = some (c, prev, st, some im) ∧
    (s.dev.sched p).active.isSome = true) ∧
  (∃ (s : State) (p : Nat) (c : Src) (prev st : Nat),
    s.dev.pins.stopped = false ∧ p < 32 ∧ (s.dev.sched p).loading = some (c, prev, st, none)) ∧
  (∃ (s : State) (c : Src),
    s.dev.pins.stopped = false ∧
    (let p := s.dev.cpart c
    s.dev.schedOpen p = true ∧ s.dev.running p = false ∧ (s.dev.sched p).standby.isSome = true)) ∧
  (∃ (s : State) (c : Src),
    s.dev.pins.stopped = false ∧
    (let p := s.dev.cpart c
    s.dev.schedOpen p = true ∧ s.dev.running p = false ∧ (s.dev.sched p).active.isSome = true)) ∧
  (∃ (s : State) (p : Nat) (r : List Byte),
    s.dev.pins.stopped = false ∧ p < 32 ∧ s.dev.schedOpen p = true ∧
    (match (s.dev.sched p).active with | some im => r.length = 16 * (im.rolesM1 + 1) | none => r.length % 16 = 0 ∧
    0 < r.length ∧ r.length ≤ 8192) ∧ (routeTable r).all routeOk = true) ∧
  (∃ (s : State) (c : Src) (t0 : BitVec 64) (eS hold : Nat),
    s.dev.pins.stopped = false ∧
    (let p := s.dev.cpart c
    armStatus s.dev p t0 eS hold = 0)) ∧
  (∃ (s : State) (c : Src) (t0 : BitVec 64) (eS hold : Nat),
    s.dev.pins.stopped = false ∧
    (let p := s.dev.cpart c
    armStatus s.dev p t0 eS hold ≠ 0)) ∧
  (∃ (s : State) (c : Src),
    s.dev.pins.stopped = false ∧
    (let p := s.dev.cpart c
    s.dev.running p = true)) ∧
  (∃ (st : Nat),
    (st = 7 ∨ st = 8)) ∧
  (∃ (s : State) (c : Src) (a b : Image),
    s.dev.pins.stopped = false ∧
    (let p := s.dev.cpart c
    (s.dev.sched p).active = some a ∧ (s.dev.sched p).standby = some b ∧ s.dev.running p = true ∧ (s.dev.sched p).swap = none ∧
    a.jobDigest = b.jobDigest ∧ a.epochLen = b.epochLen ∧ a.slack = b.slack ∧ a.role = b.role ∧ a.slots = b.slots)) ∧
  (∃ (s : State) (c : Src),
    s.dev.pins.stopped = false ∧
    (let p := s.dev.cpart c
    s.dev.esState p = 3)) ∧
  (∃ (s : State) (c : Src),
    s.dev.pins.stopped = false ∧
    (let p := s.dev.cpart c
    s.dev.running p = true)) :=
  ⟨⟨part 0 {}, src, by decide⟩,
   ⟨part 1 { sched := { loading := some (src, 0, 0, some image) } }, 31, src, 0, 0, image, by decide⟩,
   ⟨part 1 { sched := { active := some image, loading := some (src, 0, 0, some image) } }, 31, src, 0, 0, image, by decide⟩,
   ⟨part 0 { sched := { loading := some (src, 0, 0x21, none) } }, 31, src, 0, 0x21, by decide⟩,
   ⟨part 2 { sched := { standby := some image } }, src, by decide⟩,
   ⟨part 1 { sched := { active := some image } }, src, by decide⟩,
   ⟨part 0 {}, 31, leBytes 16 0, ⟨by decide, by decide, by decide, (by decide : (leBytes 16 0).length % 16 = 0 ∧ 0 < (leBytes 16 0).length ∧ (leBytes 16 0).length ≤ 8192), by decide⟩⟩,
   ⟨part 2 { sched := { active := some image, bound := true, route := [routeOf (leBytes 16 0)] } }, src, 800000, 0, 100000, by decide⟩,
   ⟨part 0 {}, src, 0, 0, 0, by decide⟩,
   ⟨part 4 {}, src, by decide⟩,
   ⟨7, by decide⟩,
   ⟨part 4 { sched := { active := some image, standby := some image } }, src, image, image, by decide⟩,
   ⟨part 3 {}, src, by decide⟩,
   ⟨part 5 {}, src, by decide⟩⟩

theorem test_witness_EpochsUnitsAndExchangeRun :
  (∃ (s : State) (p : Nat),
    s.dev.pins.stopped = false ∧ p < 32 ∧ s.dev.esState p = 3 ∧ s.dev.nominalTick p (s.dev.sched p).eS ≤ s.dev.acyc) ∧
  (∃ (s : State) (p t : Nat),
    s.dev.pins.stopped = false ∧ p < 32 ∧ s.dev.running p = true ∧ (s.dev.sched p).endAt = some t ∧ t + 4 ≤ s.dev.acyc ∧
    s.dev.nominalTick p ((s.dev.epoch p + 1) % 2 ^ 48) ≤ s.dev.acyc) ∧
  (∃ (s : State) (p t : Nat),
    s.dev.pins.stopped = false ∧ p < 32 ∧ s.dev.running p = true ∧ (s.dev.sched p).endAt = some t ∧ s.dev.acyc < t + 4) ∧
  (∃ (s : State) (p : Nat),
    s.dev.pins.stopped = false ∧ p < 32 ∧ s.dev.inEpoch p = true ∧ s.dev.epochOver p = true) ∧
  (∃ (s : State) (g e p i t : Nat),
    s.dev.pins.stopped = false ∧ g < 80 ∧ e < 3 ∧ s.dev.coreOwner g = some p ∧ s.dev.inEpoch p = true ∧ s.dev.coreSt g ≠ 5 ∧
    s.dev.nextFetch p g e = some (i, t) ∧ t ≤ s.dev.acyc) ∧
  (∃ (s : State) (p i t : Nat) (im : Image) (u : UnitRt),
    s.dev.pins.stopped = false ∧ p < 32 ∧ (s.dev.sched p).active = some im ∧ s.dev.unitRt p i = some u ∧
    s.dev.dueAt p i = some t ∧ t ≤ s.dev.acyc ∧ s.dev.inEpoch p = true ∧ u.cores.all (fun g => s.dev.mayRelease p g) = true) ∧
  (∃ (s : State) (p i : Nat) (im : Image) (u : UnitRt),
    s.dev.pins.stopped = false ∧ p < 32 ∧ (s.dev.sched p).active = some im ∧ s.dev.unitRt p i = some u ∧
    s.dev.inEpoch p = true ∧ u.issued = none ∧ u.holding = false ∧ s.dev.depsAt p im u = none ∧
    (s.dev.sched p).tick + u.entry.release + (s.dev.sched p).hold < s.dev.acyc ∧ s.dev.esState p = 5) ∧
  (∃ (s : State) (p i : Nat) (im : Image) (u : UnitRt),
    s.dev.pins.stopped = false ∧ p < 32 ∧ (s.dev.sched p).active = some im ∧ s.dev.unitRt p i = some u ∧
    s.dev.inEpoch p = true ∧ u.issued = none ∧ u.holding = false ∧ s.dev.depsAt p im u = none ∧
    (s.dev.sched p).tick + u.entry.release + (s.dev.sched p).hold < s.dev.acyc ∧ s.dev.esState p = 4) ∧
  (∃ (s : State) (p i : Nat) (u : UnitRt),
    s.dev.pins.stopped = false ∧ p < 32 ∧ s.dev.unitRt p i = some u ∧ u.issued.isSome = true ∧ u.ended = none ∧
    s.dev.streamsEnded u = true) ∧
  (∃ (s : State) (p i t : Nat) (u : UnitRt),
    s.dev.pins.stopped = false ∧ p < 32 ∧ s.dev.unitRt p i = some u ∧ u.issued = some t ∧ t + 24001 ≤ s.dev.acyc ∧
    u.ended = none ∧ u.aborted = none) ∧
  (∃ (s : State) (p i : Nat) (im : Image) (x : SendRt),
    s.dev.pins.stopped = false ∧ p < 32 ∧ (s.dev.sched p).active = some im ∧ (s.dev.sched p).sends[i]? = some x ∧
    s.dev.inEpoch p = true ∧ x.done = false ∧ x.sent = 0 ∧
    ((s.dev.sched p).sends.take i).any (fun y => decide (y.entry.window = x.entry.window) && decide (y.sent = 0)) = false ∧
    (s.dev.sched p).tick + x.entry.offset ≤ s.dev.acyc ∧ s.dev.xchReady p im x.entry.dep = true ∧ s.dev.fenced = false ∧
    s.dev.mayIssue 8 p = true ∧
    (let key := creditKey x.entry.peer x.entry.slot ((s.dev.epoch p + x.entry.edelta) % 2)
    let links := s.dev.dataLinks (((s.dev.sched p).route[x.entry.peer]?).map (·.links) |>.getD 0)
    let insts := s.dev.instances p x.entry.peer
    tabGet false (s.dev.sched p).spent key = false ∧ links.any (s.dev.windowOpen p x.entry.window) = true ∧ insts ≠ [])) ∧
  (∃ (s : State) (p i : Nat) (im : Image) (x : SendRt),
    s.dev.pins.stopped = false ∧ p < 32 ∧ (s.dev.sched p).active = some im ∧ (s.dev.sched p).sends[i]? = some x ∧
    s.dev.inEpoch p = true ∧ x.done = false ∧ x.sent = 0 ∧
    ((s.dev.sched p).sends.take i).any (fun y => decide (y.entry.window = x.entry.window) && decide (y.sent = 0)) = false ∧
    (s.dev.sched p).tick + x.entry.offset ≤ s.dev.acyc ∧ s.dev.xchReady p im x.entry.dep = true ∧ s.dev.fenced = false ∧
    s.dev.mayIssue 8 p = true ∧
    tabGet false (s.dev.sched p).spent (creditKey x.entry.peer x.entry.slot ((s.dev.epoch p + x.entry.edelta) % 2)) = true) :=
  ⟨⟨part 3 {} (fun d => { d with nt := 800, acyc := 300 }), 31, by decide⟩,
   ⟨part 4 { sched := { endAt := some 296 } } (fun d => { d with nt := 800, acyc := 300 }), 31, 296, by decide⟩,
   ⟨part 6 { sched := { endAt := some 297 } } (fun d => { d with nt := 800, acyc := 300 }), 31, 297, by decide⟩,
   ⟨part 5 { sched := { active := some image } }, 31, by decide⟩,
   ⟨part 4 { sched := { active := some { image with code := [⟨0, 0, 0, [], [], [0]⟩] }, units := [unit [] none] } } (fun d => { d with acyc := 62 }), 79, 2, 31, 0, 62, by decide⟩,
   ⟨part 4 { sched := { active := some image, units := [unit [] none] } } (fun d => { d with acyc := 2 }), 31, 0, 2, image, unit [] none, by decide⟩,
   ⟨part 5 { sched := { active := some image, units := [unit [1] none] } } (fun d => { d with acyc := 3 }), 31, 0, image, unit [1] none, by decide⟩,
   ⟨part 4 { sched := { active := some image, units := [unit [1] none] } } (fun d => { d with acyc := 3 }), 31, 0, image, unit [1] none, by decide⟩,
   ⟨part 4 { sched := { active := some image, units := [unit [] (some 2)] } }, 31, 0, unit [] (some 2), by decide⟩,
   ⟨part 4 { sched := { active := some image, units := [unit [] (some 2)] } } (fun d => { d with acyc := 24003 }), 31, 0, 2, unit [] (some 2), by decide⟩,
   ⟨part 4 { sched := { active := some image, sends := [{ send with entry := { send.entry with window := 2 } }], route := [route] } } (fun d => (setR [(F.tlLinkStatusUp, 15, 1)] d).modPort 31 (fun x => { x with active := { owner := [(2, 32)], ents := [{ dur := 1000000, gates := 255, wclass := 2, wvalid := true }] } })), 31, 0, image, { send with entry := { send.entry with window := 2 } }, by decide⟩,
   ⟨part 4 { sched := { active := some image, sends := [send], route := [route], spent := [(creditKey 0 0 0, true)] } }, 31, 0, image, send, by decide⟩⟩

theorem test_witness_CarriersAndLeasesAct :
  (∃ (s : State) (addr len : Nat),
    s.dev.pins.stopped = false ∧
    (let b := s.dev.hostRead addr len
    addr % 64 = 0 ∧ 80 ≤ len ∧ len = 80 + patBytes b ∧ s.dev.oos = false ∧ carrierStatus s.dev b = 0)) ∧
  (∃ (s : State) (k : Nat),
    s.dev.pins.stopped = false ∧ k < 256 ∧ (s.dev.carrier k).desc ≠ []) ∧
  (∃ (s : State) (k : Nat),
    s.dev.pins.stopped = false ∧ k < 256 ∧ (s.dev.carrier k).desc = [] ∧ s.dev.carrierExists k = true) ∧
  (∃ (s : State) (k e : Nat),
    s.dev.pins.stopped = false ∧ k < 256 ∧ s.dev.oos = false ∧ s.dev.carrierExists k = true ∧ s.dev.getF F.fhMemberMepoch ≤ e) ∧
  (∃ (s : State) (k : Nat),
    s.dev.pins.stopped = false ∧ k < 256 ∧ s.dev.carrierExists k = true) ∧
  (∃ (s : State),
    s.dev.pins.stopped = false ∧ s.dev.teril.ld ≠ 0 ∧ ntLe s.dev.teril.ld s.dev.nt = true) ∧
  (∃ (s : State),
    ntLe s.dev.teril.ld s.dev.nt = false) :=
  ⟨⟨on (fun d => { setR [(F.fhQuadCfgMode, 0, 1)] d with host := memWrite [] 64 (carrierDesc (4 ^ 14 - 1)) }), 64, 84, by decide⟩,
   ⟨carrier 0 0 {}, 255, by decide⟩,
   ⟨on (fun d => d.setCarrier 255 { pend := some (carrierDesc 0) }), 255, by decide⟩,
   ⟨carrier 0 0 {}, 255, 1, by decide⟩,
   ⟨carrier 0 0 {}, 255, by decide⟩,
   ⟨on (fun d => { d with nt := 800, teril := { d.teril with ld := 800 } }), by decide⟩,
   ⟨on (fun d => { d with nt := 800, teril := { d.teril with ld := 801 } }), by decide⟩⟩

theorem test_witness_RadioTrafficMoves :
  (∃ (s : State) (k n i : Nat) (b h r : Bytes) (d : Dev),
    s.dev.pins.stopped = false ∧ k < 256 ∧ (s.dev.carrier k).desc = b ∧ b ≠ [] ∧ s.dev.sentOf k n i = 0 ∧
    ntLe (s.dev.air (dMu b) n 0 - BitVec.ofNat 64 (dT1aMax b + dTcpAdv b)) s.dev.nt = true ∧
    readSection k b n i s.dev = (some (h, r), d) ∧ recordOk b r = true ∧ sectionDown b r n = true ∧ bit h 8 (rSym r) = true ∧
    ntLe (d.air (dMu b) n (rSym r) - BitVec.ofNat 64 (dT1aMax b + dTcpAdv b)) d.nt = true ∧
    ntLe d.nt (d.air (dMu b) n (rSym r) - BitVec.ofNat 64 (dT1aMin b + dTcpAdv b)) = true ∧
    (let x := if at_ r 0x10 4 = 0 then ([], d) else fhRead (dPort b) (at_ b 0x48 8 + at_ r 0x10 4) (at_ r 0x14 2) d
    extOk b x.1 = true)) ∧
  (∃ (s : State) (k n i v : Nat) (b h r : Bytes) (d : Dev),
    s.dev.pins.stopped = false ∧ k < 256 ∧ (s.dev.carrier k).desc = b ∧ b ≠ [] ∧ s.dev.sentOf k n i = v + 1 ∧ v ≠ 62 ∧
    readSection k b n i s.dev = (some (h, r), d) ∧ recordOk b r = true ∧ sectionDown b r n = true ∧ hasUplane r = true ∧
    v < rNsym r ∧ (List.range (rNsym r)).all (fun x => bit h 8 (rSym r + x)) = true ∧
    ntLe (d.air (dMu b) n (rSym r + v) - BitVec.ofNat 64 (dT1aMax b)) d.nt = true ∧
    ntLe d.nt (d.air (dMu b) n (rSym r + v) - BitVec.ofNat 64 (dT1aMin b)) = true) ∧
  (∃ (s : State) (k n i : Nat) (b h r : Bytes) (d : Dev),
    s.dev.pins.stopped = false ∧ k < 256 ∧ (s.dev.carrier k).desc = b ∧ b ≠ [] ∧ s.dev.sentOf k n i = 0 ∧
    readSection k b n i s.dev = (some (h, r), d) ∧
    ntLe d.nt (d.air (dMu b) n (rSym r) - BitVec.ofNat 64 (dT1aMin b + dTcpAdv b)) = false ∧ recordOk b r = true ∧
    sectionDown b r n = true) ∧
  (∃ (s : State) (k n i v : Nat) (b h r : Bytes) (d : Dev),
    s.dev.pins.stopped = false ∧ k < 256 ∧ (s.dev.carrier k).desc = b ∧ b ≠ [] ∧ s.dev.sentOf k n i = v + 1 ∧ v ≠ 62 ∧
    readSection k b n i s.dev = (some (h, r), d) ∧ hasUplane r = true ∧ v < rNsym r ∧
    ntLe d.nt (d.air (dMu b) n (rSym r + v) - BitVec.ofNat 64 (dT1aMin b)) = false ∧ recordOk b r = true ∧
    sectionDown b r n = true) ∧
  (∃ (s : State) (u : UlSection) (k r n : Nat) (b : Bytes),
    s.dev.pins.stopped = false ∧ u.port < 16 ∧ s.dev.flag F.fhPortStatusUp u.port = true ∧
    s.dev.carrierOf u.port u.eaxc = some (k, r) ∧ (s.dev.carrier k).desc = b ∧
    n = (s.dev.nearFrame u.frameId * 10 + u.subframe) * 2 ^ dMu b + u.slotId ∧ u.subframe ≤ 9 ∧ u.slotId < 2 ^ dMu b ∧
    u.symbol ≤ 13 ∧ u.prb0 + u.blocks.length ≤ (if dTd b then ceilDiv (fftSize b + prefixLen b n u.symbol) 12 else dNprb b) ∧
    ntLe (s.dev.air (dMu b) n u.symbol + BitVec.ofNat 64 (dTa4Min b)) s.dev.nt = true ∧
    ntLe (s.dev.air (dMu b) n u.symbol - 8000000) s.dev.nt = true ∧
    ntLe s.dev.nt (s.dev.air (dMu b) n u.symbol + BitVec.ofNat 64 (dTa4Max b)) = true ∧ symCode b n u.symbol ≠ 0 ∧
    symCode b n u.symbol ≠ 2) ∧
  (∃ (s : State) (k n l r : Nat) (b : Bytes),
    s.dev.pins.stopped = false ∧ k < 256 ∧ (s.dev.carrier k).desc = b ∧ b ≠ [] ∧ l ≤ 13 ∧ r < dUl b ∧
    (tabGet {} (s.dev.carrier k).lines (lineKey n l r)).closed = false ∧
    ntLe (s.dev.air (dMu b) n l + BitVec.ofNat 64 (dTa4Max b)) s.dev.nt = true) ∧
  (∃ (s : State) (k n e : Nat) (b : Bytes) (im : Image),
    s.dev.pins.stopped = false ∧ k < 256 ∧ (s.dev.carrier k).desc = b ∧ b ≠ [] ∧ (s.dev.sched 0).active = some im ∧
    3 ≤ s.dev.esState 0 ∧ s.dev.esState 0 ≤ 6 ∧ im.epochLen ≠ 0 ∧
    (let slot := fld b 0x28 12 0 + n % max 1 (im.epochLen * 2 ^ dMu b / 10000)
    let t := s.dev.air (dMu b) n 13 + BitVec.ofNat 64 (dTa4Max b + 16000)
    im.slots.any (fun x => x.1 = slot) = true ∧ (s.dev.sched 0).eS ≤ e ∧
    ((s.dev.sched 0).eS : Int) + (t - (s.dev.sched 0).t0).toInt.fdiv (im.epochLen * 800 : Nat) + 1 = e ∧
    ntLe t s.dev.nt = true)) ∧
  (∃ (s : State) (k n : Nat) (b : Bytes),
    s.dev.pins.stopped = false ∧ k < 256 ∧ (s.dev.carrier k).desc = b ∧
    (ntLe (s.dev.air (dMu b) n 13 + BitVec.ofNat 64 (dTa4Max b + 16000)) s.dev.nt = false ∨ (s.dev.sched 0).active = none)) ∧
  (∃ (s : State) (k n r f : Nat) (l : List Nat) (b : Bytes),
    s.dev.pins.stopped = false ∧ k < 256 ∧ (s.dev.carrier k).desc = b ∧ b ≠ [] ∧ r < dRx b ∧ ulSyms b n = f :: l ∧
    ntLe (s.dev.air (dMu b) n f) s.dev.nt = true ∧ tabFind (s.dev.carrier k).win (lineKey n f r) = none) ∧
  (∃ (s : State) (k n r f e : Nat) (b : Bytes),
    s.dev.pins.stopped = false ∧ k < 256 ∧ (s.dev.carrier k).desc = b ∧ b ≠ [] ∧ dRx b ≤ r ∧ r < dUl b ∧
    (s.dev.carrier k).prachSyms n r = [(f, e)] ∧ ntLe (s.dev.air (dMu b) n f) s.dev.nt = true ∧
    tabFind (s.dev.carrier k).win (lineKey n f r) = none) ∧
  (∃ (s : State) (port : Nat) (f : FhFrame),
    s.dev.pins.stopped = false ∧ port < 16 ∧ s.dev.flag F.fhPortStatusUp port = true ∧ f.fcsOk = false) ∧
  (∃ (s : State) (port : Nat) (f : FhFrame),
    s.dev.pins.stopped = false ∧ port < 16 ∧ s.dev.flag F.fhPortStatusUp port = true ∧ f.fcsOk = true ∧
    f.len ≤ s.dev.mtu port ∧ f.tags ≤ 1 ∧
    (f.pause = true ∨ f.etherType = 0x88F7 ∨ f.etherType = 0x8809 ∨ (f.etherType = 0xAEFE ∧ f.hdrOk = true ∧
    (f.ecpri = 0 ∨ f.ecpri = 5)))) ∧
  (∃ (s : State) (port : Nat) (f : FhFrame),
    s.dev.pins.stopped = false ∧ port < 16 ∧ s.dev.flag F.fhPortStatusUp port = true ∧ f.fcsOk = true ∧
    f.len ≤ s.dev.mtu port ∧ f.tags ≤ 1 ∧ f.pause = false ∧ f.etherType ≠ 0x88F7 ∧ f.etherType ≠ 0x8809 ∧
    f.etherType ≠ 0xAEFE) ∧
  (∃ (s : State) (port : Nat),
    s.dev.pins.stopped = false ∧ port < 16 ∧ s.dev.flag F.fhPortStatusUp port = true) ∧
  (∃ (s : State) (port : Nat),
    s.dev.pins.stopped = false ∧ port < 16 ∧ s.dev.flag F.fhPortStatusUp port = true) ∧
  (∃ (s : State) (t : BitVec 64),
    s.dev.pins.stopped = false ∧ s.dev.beat 3 80000000 s.dev.gridOfs = some t) :=
  ⟨⟨carrier 0 0 {} (p0Page (bytesAt 128 [(64, 2 ^ 14), (8, 1), (4, 1)])), 255, 0, 0, carrierDesc 0, (bytesAt 128 [(64, 2 ^ 14), (8, 1), (4, 1)]).take 64, ((bytesAt 128 [(64, 2 ^ 14), (8, 1), (4, 1)]).drop 64).take 32, (readSection 255 (carrierDesc 0) 0 0 (carrier 0 0 {} (p0Page (bytesAt 128 [(64, 2 ^ 14), (8, 1), (4, 1)]))).dev).2, ⟨by decide, by decide, by decide, by decide, by decide, by decide, pairOf (by simp only [readSection, slotArea_zero]; decide +kernel), by simp only [readSection, slotArea_zero]; decide +kernel⟩⟩,
   ⟨carrier 0 0 { sent := [(0, 1)] } (p0Page (bytesAt 128 [(64, 2 ^ 14), (8, 1), (4, 1)])), 255, 0, 0, 0, carrierDesc 0, (bytesAt 128 [(64, 2 ^ 14), (8, 1), (4, 1)]).take 64, ((bytesAt 128 [(64, 2 ^ 14), (8, 1), (4, 1)]).drop 64).take 32, (readSection 255 (carrierDesc 0) 0 0 (carrier 0 0 { sent := [(0, 1)] } (p0Page (bytesAt 128 [(64, 2 ^ 14), (8, 1), (4, 1)]))).dev).2, ⟨by decide, by decide, by decide, by decide, by decide, by decide, pairOf (by simp only [readSection, slotArea_zero]; decide +kernel), by simp only [readSection, slotArea_zero]; decide +kernel⟩⟩,
   ⟨carrier 0 800 {} (p0Page (bytesAt 128 [(64, 2 ^ 14), (8, 1), (4, 1)])), 255, 0, 0, carrierDesc 0, (bytesAt 128 [(64, 2 ^ 14), (8, 1), (4, 1)]).take 64, ((bytesAt 128 [(64, 2 ^ 14), (8, 1), (4, 1)]).drop 64).take 32, (readSection 255 (carrierDesc 0) 0 0 (carrier 0 800 {} (p0Page (bytesAt 128 [(64, 2 ^ 14), (8, 1), (4, 1)]))).dev).2, ⟨by decide, by decide, by decide, by decide, by decide, pairOf (by simp only [readSection, slotArea_zero]; decide +kernel), by simp only [readSection, slotArea_zero]; decide +kernel⟩⟩,
   ⟨carrier 0 80000000 { sent := [(0, 1)] } (p0Page (bytesAt 128 [(64, 2 ^ 14), (8, 1), (4, 1)])), 255, 0, 0, 0, carrierDesc 0, (bytesAt 128 [(64, 2 ^ 14), (8, 1), (4, 1)]).take 64, ((bytesAt 128 [(64, 2 ^ 14), (8, 1), (4, 1)]).drop 64).take 32, (readSection 255 (carrierDesc 0) 0 0 (carrier 0 80000000 { sent := [(0, 1)] } (p0Page (bytesAt 128 [(64, 2 ^ 14), (8, 1), (4, 1)]))).dev).2, ⟨by decide, by decide, by decide, by decide, by decide, by decide, pairOf (by simp only [readSection, slotArea_zero]; decide +kernel), by simp only [readSection, slotArea_zero]; decide +kernel⟩⟩,
   ⟨carrier ((4 ^ 14 - 1) / 3) 0 {}, { port := 0, eaxc := 0, frameId := 0, subframe := 0, slotId := 0, symbol := 0, prb0 := 0, blocks := [([], 0)] }, 255, 0, 0, carrierDesc ((4 ^ 14 - 1) / 3), by decide⟩,
   ⟨carrier ((4 ^ 14 - 1) / 3) 80000000 {}, 255, 0, 13, 0, carrierDesc ((4 ^ 14 - 1) / 3), by decide⟩,
   ⟨carrier 0 80000000 {} (fun d => setR [(F.esStateState, 0, 4)] (d.modSched 0 (fun x => { x with active := some { image with slots := [(0, 0, 0)] } }))), 255, 0, 2, carrierDesc 0, { image with slots := [(0, 0, 0)] }, by decide⟩,
   ⟨carrier 0 80000000 {}, 255, 0, carrierDesc 0, by decide⟩,
   ⟨carrier 1 0 {}, 255, 0, 0, 0, [], carrierDesc 1, by decide⟩,
   ⟨on (fun d => (({ setR [(F.fhPortStatusUp, 0, 1)] d with nt := 0 } : Dev).setCarrier 255 { desc := prachDesc, prach := [(0, 1, 0, 1)] })), 255, 0, 1, 0, 1, prachDesc, by decide⟩,
   ⟨carrier 0 0 {}, 0, ⟨false, 64, 0, 0, false, true, 0⟩, by decide⟩,
   ⟨carrier 0 0 {}, 0, { len := 9216, fcsOk := true, tags := 1, pause := false, etherType := 0xAEFE, ecpri := 5, hdrOk := true }, by decide⟩,
   ⟨carrier 0 0 {}, 0, { len := 9216, fcsOk := true, tags := 1, pause := false, etherType := 0x88F6, ecpri := 5, hdrOk := true }, by decide⟩,
   ⟨carrier 0 0 {}, 0, by decide⟩,
   ⟨carrier 0 0 {}, 0, by decide⟩,
   ⟨carrier 0 80000000 {}, 80000000, by decide⟩⟩

theorem test_witness_SlotsAndReportsAct :
  (∃ (s : State) (addr len : Nat) (x : Bytes),
    s.dev.pins.stopped = false ∧
    (let b := s.dev.hostRead addr len
    addr % 64 = 0 ∧ len = 64 ∧ s.dev.latestDesc (fld b 0 7 0) = some x ∧ minLead (dMu x) ≤ at_ b 4 2 ∧ slotprocOk b = true)) ∧
  (∃ (s : State) (k dir n : Nat) (b sp : Bytes),
    s.dev.pins.stopped = false ∧ k < 256 ∧ dir ≤ 1 ∧ s.dev.latestDesc k = some b ∧ s.dev.carrierExists k = true ∧
    (s.dev.carrier k).slotp = some sp ∧ ntLe (s.dev.deadline b sp dir n) s.dev.nt = false ∧
    (16 ≤ n → ntLe (s.dev.deadline b sp dir (n - 16)) s.dev.nt = true)) ∧
  (∃ (s : State) (k dir n table : Nat) (b sp h : Bytes) (d : Dev),
    s.dev.pins.stopped = false ∧ k < 256 ∧ dir ≤ 1 ∧ s.dev.latestDesc k = some b ∧ s.dev.carrierExists k = true ∧
    (s.dev.carrier k).slotp = some sp ∧ table ≠ 0 ∧ ntLe (s.dev.deadline b sp dir n) s.dev.nt = false ∧
    (16 ≤ n → ntLe (s.dev.deadline b sp dir (n - 16)) s.dev.nt = true) ∧ tierRead 3 0 0 table 64 s.dev = (h, d) ∧
    tableOk h k dir n = true) ∧
  (∃ (s : State) (k dir n : Nat) (b sp : Bytes),
    s.dev.pins.stopped = false ∧ k < 256 ∧ dir ≤ 1 ∧ s.dev.latestDesc k = some b ∧ s.dev.carrierExists k = true ∧
    (s.dev.carrier k).slotp = some sp ∧ ntLe (s.dev.deadline b sp dir n) s.dev.nt = true) ∧
  (∃ (s : State) (k dir n : Nat) (b sp : Bytes),
    s.dev.pins.stopped = false ∧ k < 256 ∧ dir < 2 ∧ s.dev.latestDesc k = some b ∧ b ≠ [] ∧ (s.dev.carrier k).slotp = some sp ∧
    (let t := s.dev.deadline b sp dir n
    ntLe t s.dev.nt = true ∧ (s.dev.nt - t).toInt < 80000000 ∧
    tabGet false (s.dev.carrier k).dirDone (allocKey dir n) = false)) ∧
  (∃ (s : State) (k n : Nat) (b sp o : Bytes) (r : Dev),
    s.dev.pins.stopped = false ∧ k < 256 ∧ s.dev.latestDesc k = some b ∧ b ≠ [] ∧ (s.dev.carrier k).slotp = some sp ∧
    tierRead 3 0 0 (spOfs sp) 16 s.dev = (o, r) ∧
    (let x := s.dev.carrier k
    ntLe (s.dev.reportAt b sp n) s.dev.nt = true ∧ (s.dev.nt - s.dev.reportAt b sp n).toInt < 80000000 ∧
    (tabGet {} x.cnt n).reported = false)) :=
  ⟨⟨carrier (4 ^ 14 - 1) 0 {} (fun d => { d with host := memWrite [] 64 (bytesAt 64 [(4, 10000), (0, 255)]) }), 64, 64, carrierDesc (4 ^ 14 - 1), by decide⟩,
   ⟨carrier 0 0 { slotp := some (zeros 64) }, 255, 1, 1, carrierDesc 0, zeros 64, by decide⟩,
   ⟨carrier 0 0 { slotp := some (zeros 64) } (p0Page (bytesAt 128 [(72, 64), (68, 255 + 256), (64, 1)])), 255, 1, 1, 64, carrierDesc 0, zeros 64, (bytesAt 128 [(72, 64), (68, 255 + 256), (64, 1)]).drop 64, _, ⟨by decide, by decide, by decide, by decide, by decide, by decide, by decide, by decide, by decide, pairOf (by decide +kernel), by decide +kernel⟩⟩,
   ⟨carrier 0 8000000 { slotp := some (zeros 64) }, 255, 1, 1, carrierDesc 0, zeros 64, by decide⟩,
   ⟨carrier 0 8000000 { slotp := some (zeros 64) }, 255, 1, 1, carrierDesc 0, zeros 64, by decide⟩,
   ⟨carrier (4 ^ 14 - 1) 8000000 { slotp := some (zeros 64) }, 255, 0, carrierDesc (4 ^ 14 - 1), zeros 64, zeros 16, _, ⟨by decide, by decide, by decide, by decide, by decide, pairOf (by decide), by decide⟩⟩⟩

theorem test_witness_CodingJobsRun :
  (∃ (s : State) (die q log2depth qbase : Nat),
    s.dev.pins.stopped = false ∧ die < 4 ∧ q < 16 ∧ 4 ≤ log2depth ∧ log2depth ≤ 12 ∧ qbase % 64 = 0 ∧
    (s.dev.cq die q).enabled = false) ∧
  (∃ (s : State) (die q enable log2depth qbase : Nat),
    s.dev.pins.stopped = false ∧ die < 4 ∧ q < 16 ∧ (enable = 0 ∨ (enable = 1 ∧ 4 ≤ log2depth ∧ log2depth ≤ 12 ∧
    qbase % 64 = 0)) ∧ (s.dev.cq die q).enabled = true) ∧
  (∃ (s : State) (die q : Nat) (b : Bytes) (d : Dev),
    s.dev.pins.stopped = false ∧ die < 4 ∧ q < 16 ∧ (s.dev.cq die q).enabled = true ∧ (s.dev.cq die q).waiting = [] ∧
    cdRead die (s.dev.cq die q).qbase 64 s.dev = (b, d)) ∧
  (∃ (s : State) (die q j : Nat) (x y : Job) (d : Dev),
    s.dev.pins.stopped = false ∧ die < 4 ∧ q < 16 ∧ s.dev.nextJob die = some (q, x) ∧ x.j = j ∧ jKind x.bytes = 1 ∧
    dlSch die x s.dev = (y, d)) ∧
  (∃ (s : State) (die q j : Nat) (x y : Job) (d : Dev),
    s.dev.pins.stopped = false ∧ die < 4 ∧ q < 16 ∧ s.dev.nextJob die = some (q, x) ∧ x.j = j ∧ jKind x.bytes = 2 ∧
    ulSch die x s.dev = (y, d)) ∧
  (∃ (s : State) (die q j : Nat) (x y : Job) (d : Dev),
    s.dev.pins.stopped = false ∧ die < 4 ∧ q < 16 ∧ s.dev.nextJob die = some (q, x) ∧ x.j = j ∧ jKind x.bytes = 3 ∧
    polarJob die false x s.dev = (y, d)) ∧
  (∃ (s : State) (die q j : Nat) (x y : Job) (d : Dev),
    s.dev.pins.stopped = false ∧ die < 4 ∧ q < 16 ∧ s.dev.nextJob die = some (q, x) ∧ x.j = j ∧ jKind x.bytes = 4 ∧
    polarJob die true x s.dev = (y, d)) ∧
  (∃ (s : State) (die q j : Nat) (x y : Job) (d : Dev),
    s.dev.pins.stopped = false ∧ die < 4 ∧ q < 16 ∧ s.dev.nextJob die = some (q, x) ∧ x.j = j ∧ jKind x.bytes = 5 ∧
    polarUci die x s.dev = (y, d)) ∧
  (∃ (s : State) (die q j : Nat) (x y : Job) (d : Dev),
    s.dev.pins.stopped = false ∧ die < 4 ∧ q < 16 ∧ s.dev.nextJob die = some (q, x) ∧ x.j = j ∧ jKind x.bytes = 6 ∧
    smallUci die x s.dev = (y, d)) ∧
  (∃ (s : State) (die kind i : Nat) (x : CbRt) (y : Job),
    s.dev.pins.stopped = false ∧ die < 4 ∧ 4 ≤ kind ∧ kind < 8 ∧ i < engineCount kind ∧
    tabFind (s.dev.cod die).busy (kind * 16 + i) = some x ∧ x.until_ ≤ s.dev.acyc ∧
    (let d := s.dev.modCod die (fun c => { c with busy := tabDel c.busy (kind * 16 + i) })
    (d.cq die x.q).jobs.find? (fun z => z.j = x.j) = some y)) ∧
  (∃ (s : State) (die q j : Nat) (x : Job),
    s.dev.pins.stopped = false ∧ die < 4 ∧ q < 16 ∧ (s.dev.cq die q).jobs.find? (fun y => y.j = j) = some x ∧ x.done = false ∧
    x.started = true ∧ jKind x.bytes ≠ 7 ∧ x.cbs ≤ x.ended.length ∧ x.lastAt + jobTail x.bytes ≤ s.dev.acyc) ∧
  (∃ (s : State) (die q j : Nat) (x : Job),
    s.dev.pins.stopped = false ∧ die < 4 ∧ q < 16 ∧ (s.dev.cq die q).jobs.find? (fun y => y.j = j) = some x ∧ x.done = false ∧
    jKind x.bytes = 7 ∧ (s.dev.cq die q).before j = [] ∧ x.lastAt ≤ s.dev.acyc) ∧
  (∃ (s : State) (die q j : Nat) (x : Job),
    s.dev.pins.stopped = false ∧ die < 4 ∧ q < 16 ∧ (s.dev.cq die q).jobs.find? (fun y => y.j = j) = some x ∧ x.done = false ∧
    jKind x.bytes = 7 ∧ ntLe (BitVec.ofNat 64 (at_ x.bytes 0x18 8)) s.dev.nt = true) :=
  ⟨⟨State.reset, 3, 15, 12, 64, by decide⟩,
   ⟨queue { enabled := true }, 3, 15, 1, 4, 0, by decide⟩,
   ⟨queue { enabled := true }, 3, 15, zeros 64, _, ⟨by decide, by decide, by decide, by decide, by decide, pairOf (by decide)⟩⟩,
   ⟨queue { enabled := true, jobs := [{ j := 9, bytes := leBytes 64 1 }] }, 3, 15, 9, { j := 9, bytes := leBytes 64 1 }, (dlSch 3 { j := 9, bytes := leBytes 64 1 } (queue { enabled := true, jobs := [{ j := 9, bytes := leBytes 64 1 }] }).dev).1, (dlSch 3 { j := 9, bytes := leBytes 64 1 } (queue { enabled := true, jobs := [{ j := 9, bytes := leBytes 64 1 }] }).dev).2, ⟨by decide, by decide, by decide, by decide, by decide, by decide, (Prod.eta _).symm⟩⟩,
   ⟨queue { enabled := true, jobs := [{ j := 9, bytes := leBytes 64 2 }] }, 3, 15, 9, { j := 9, bytes := leBytes 64 2 }, (ulSch 3 { j := 9, bytes := leBytes 64 2 } (queue { enabled := true, jobs := [{ j := 9, bytes := leBytes 64 2 }] }).dev).1, (ulSch 3 { j := 9, bytes := leBytes 64 2 } (queue { enabled := true, jobs := [{ j := 9, bytes := leBytes 64 2 }] }).dev).2, ⟨by decide, by decide, by decide, by decide, by decide, by decide, (Prod.eta _).symm⟩⟩,
   ⟨queue { enabled := true, jobs := [{ j := 9, bytes := leBytes 64 3 }] }, 3, 15, 9, { j := 9, bytes := leBytes 64 3 }, (polarJob 3 false { j := 9, bytes := leBytes 64 3 } (queue { enabled := true, jobs := [{ j := 9, bytes := leBytes 64 3 }] }).dev).1, (polarJob 3 false { j := 9, bytes := leBytes 64 3 } (queue { enabled := true, jobs := [{ j := 9, bytes := leBytes 64 3 }] }).dev).2, ⟨by decide, by decide, by decide, by decide, by decide, by decide, (Prod.eta _).symm⟩⟩,
   ⟨queue { enabled := true, jobs := [{ j := 9, bytes := leBytes 64 4 }] }, 3, 15, 9, { j := 9, bytes := leBytes 64 4 }, (polarJob 3 true { j := 9, bytes := leBytes 64 4 } (queue { enabled := true, jobs := [{ j := 9, bytes := leBytes 64 4 }] }).dev).1, (polarJob 3 true { j := 9, bytes := leBytes 64 4 } (queue { enabled := true, jobs := [{ j := 9, bytes := leBytes 64 4 }] }).dev).2, ⟨by decide, by decide, by decide, by decide, by decide, by decide, (Prod.eta _).symm⟩⟩,
   ⟨queue { enabled := true, jobs := [{ j := 9, bytes := leBytes 64 5 }] }, 3, 15, 9, { j := 9, bytes := leBytes 64 5 }, (polarUci 3 { j := 9, bytes := leBytes 64 5 } (queue { enabled := true, jobs := [{ j := 9, bytes := leBytes 64 5 }] }).dev).1, (polarUci 3 { j := 9, bytes := leBytes 64 5 } (queue { enabled := true, jobs := [{ j := 9, bytes := leBytes 64 5 }] }).dev).2, ⟨by decide, by decide, by decide, by decide, by decide, by decide, (Prod.eta _).symm⟩⟩,
   ⟨queue { enabled := true, jobs := [{ j := 9, bytes := leBytes 64 6 }] }, 3, 15, 9, { j := 9, bytes := leBytes 64 6 }, (smallUci 3 { j := 9, bytes := leBytes 64 6 } (queue { enabled := true, jobs := [{ j := 9, bytes := leBytes 64 6 }] }).dev).1, (smallUci 3 { j := 9, bytes := leBytes 64 6 } (queue { enabled := true, jobs := [{ j := 9, bytes := leBytes 64 6 }] }).dev).2, ⟨by decide, by decide, by decide, by decide, by decide, by decide, (Prod.eta _).symm⟩⟩,
   ⟨queue { enabled := true, jobs := [{ j := 9, bytes := leBytes 64 3 }] } (fun c => { c with busy := [(112, { q := 15, j := 9, r := 0, until_ := 3000 })] }), 3, 7, 0, { q := 15, j := 9, r := 0, until_ := 3000 }, { j := 9, bytes := leBytes 64 3 }, by decide⟩,
   ⟨queue { enabled := true, jobs := [{ j := 9, bytes := leBytes 64 3, started := true, ended := [0], lastAt := 0, out := some [] }] }, 3, 15, 9, { j := 9, bytes := leBytes 64 3, started := true, ended := [0], lastAt := 0, out := some [] }, by decide⟩,
   ⟨queue { enabled := true, jobs := [{ j := 9, bytes := leBytes 64 7 }] }, 3, 15, 9, { j := 9, bytes := leBytes 64 7 }, by decide⟩,
   ⟨queue { enabled := true, jobs := [{ j := 9, bytes := leBytes 64 7 }] }, 3, 15, 9, { j := 9, bytes := leBytes 64 7 }, by decide⟩⟩

theorem test_witness_TimebaseAndPortsAct :
  (∃ (s : State) (b : Bytes),
    s.dev.pins.stopped = false ∧ b.length = gateLen b ∧ gateOk s.dev b = true ∧
    (let apply := BitVec.ofNat 64 (at_ b 0x08 8)
    800000 ≤ (apply - s.dev.nt).toInt)) ∧
  (∃ (s : State) (e : Nat) (l : GateList) (t : BitVec 64) (c : Src),
    s.dev.pins.stopped = false ∧ e < portCount ∧ (s.dev.port e).pend = some (l, t, c) ∧ reached s.dev t = true) ∧
  (∃ (s : State) (b : BitVec 64),
    s.dev.pins.stopped = false ∧ s.dev.beat 2 8000 0 = some b ∧ (s.dev.nt - b).toNat < 8 ∧
    s.dev.flag F.tbHistCtlFreeze = false) ∧
  (∃ (s : State) (seq : Nat),
    s.dev.pins.stopped = false ∧ s.dev.flag F.tbStepReqPending = true ∧ s.dev.getF F.tbStepReqSeq = seq) ∧
  (∃ (s : State) (e : Nat) (t2 : BitVec 64) (d : Dev),
    s.dev.pins.stopped = false ∧ e < 16 ∧ s.dev.flag F.tbPortCfgPtpEn e = true ∧ s.dev.isSlave e = true ∧
    stampIn e s.dev = (t2, d)) ∧
  (∃ (s : State) (e : Nat) (t4 : BitVec 64) (d : Dev),
    s.dev.pins.stopped = false ∧ e < 16 ∧ s.dev.flag F.tbPortCfgPtpEn e = true ∧ s.dev.isSlave e = false ∧
    stampIn e s.dev = (t4, d)) ∧
  (∃ (s : State) (e : Nat),
    s.dev.pins.stopped = false ∧ e < 16 ∧ s.dev.flag F.tbPortCfgPtpEn e = true ∧ s.dev.isSlave e = true) ∧
  (∃ (s : State) (e : Nat),
    s.dev.pins.stopped = false ∧ e < 16 ∧ s.dev.flag F.tbPortCfgPtpEn e = true) ∧
  (∃ (s : State),
    s.dev.pins.stopped = false ∧ s.dev.flag F.tbStatusSlaveValid = true ∧
    (3000000000 ≤ (s.dev.nt - s.dev.servo.announce).toInt ∨ 3000000000 ≤ (s.dev.nt - s.dev.servo.lastSync).toInt) ∧
    s.dev.servo.everLocked = true) ∧
  (∃ (s : State),
    s.dev.pins.stopped = false ∧ s.dev.flag F.tbStatusSlaveValid = true ∧
    (3000000000 ≤ (s.dev.nt - s.dev.servo.announce).toInt ∨ 3000000000 ≤ (s.dev.nt - s.dev.servo.lastSync).toInt) ∧
    s.dev.servo.everLocked = false) ∧
  (∃ (s : State) (e : Nat),
    s.dev.pins.stopped = false ∧ s.dev.servo.src = some e) ∧
  (∃ (s : State) (e : Nat),
    s.dev.pins.stopped = false ∧ e < 16) ∧
  (∃ (s : State) (e : Nat),
    s.dev.pins.stopped = false ∧ e < portCount) ∧
  (∃ (s : State) (b : BitVec 64),
    s.dev.pins.stopped = false ∧ s.dev.beat 8 500000000 0 = some b ∧ (beatDone 8 b s.dev).flag F.tbStatusSlaveValid = true) ∧
  (∃ (s : State) (b : BitVec 64),
    s.dev.beat 5 8000000000 0 = some b ∧ (s.dev.nt - b).toNat < 8 ∧ s.dev.flag F.ppsCtlOutEn = true) ∧
  (∃ (s : State) (e i j : Nat) (f : Frame),
    s.dev.pins.stopped = false ∧ e < portCount ∧
    (let r := revokesDone s.dev
    let d := guardDrop e r
    r.txFree e = true ∧ r.mbps e ≠ 0 ∧ r.pins.pwrcycReq = false ∧ (isTeril e = true → (r.link (e - 16)).replay.length < 1024) ∧
    d.nextItem e = some (i, j) ∧ ((d.port e).q i)[j]? = some f ∧ frameDrop e f d = none)) :=
  ⟨⟨on (setR [(F.tbPortCfgPortMbps, 31, 800000)]), bytesAt 392 ([(0x180, 64)] ++ (List.range 8).map (fun q => (0x40 + 8 * q, 0x10100)) ++ [(0x18, 64), (8, 800000), (4, 1), (0, 31)]), by decide⟩,
   ⟨on (fun d => d.modPort 31 (fun p => { p with pend := some ({}, 0, src) })), 31, {}, 0, src, by decide⟩,
   ⟨on (fun d => { d with nt := 8000 }), 8000, by decide⟩,
   ⟨on (setR [(F.tbStepReqPending, 0, 1), (F.tbStepReqSeq, 0, 3)]), 3, by decide⟩,
   ⟨on (setR [(F.tbPortCfgPtpEn, 15, 1), (F.tbStatusSlaveValid, 0, 1), (F.tbStatusSlave, 0, 15)]), 15, (stampIn 15 (on (setR [(F.tbPortCfgPtpEn, 15, 1), (F.tbStatusSlaveValid, 0, 1), (F.tbStatusSlave, 0, 15)])).dev).1, (stampIn 15 (on (setR [(F.tbPortCfgPtpEn, 15, 1), (F.tbStatusSlaveValid, 0, 1), (F.tbStatusSlave, 0, 15)])).dev).2, ⟨by decide, by decide, by decide, by decide, rfl⟩⟩,
   ⟨on (setR [(F.tbPortCfgPtpEn, 15, 1)]), 15, (stampIn 15 (on (setR [(F.tbPortCfgPtpEn, 15, 1)])).dev).1, _, ⟨by decide, by decide, by decide, by decide, rfl⟩⟩,
   ⟨on (setR [(F.tbPortCfgPtpEn, 15, 1), (F.tbStatusSlaveValid, 0, 1), (F.tbStatusSlave, 0, 15)]), 15, by decide⟩,
   ⟨on (setR [(F.tbPortCfgPtpEn, 0, 1)]), 0, by decide⟩,
   ⟨on (fun d => { setR [(F.tbStatusSlaveValid, 0, 1)] d with nt := 24000000000, servo := { everLocked := true } }), by decide⟩,
   ⟨on (fun d => { setR [(F.tbStatusSlaveValid, 0, 1)] d with nt := 24000000000 }), by decide⟩,
   ⟨on (fun d => { d with servo := { src := some 15 } }), 15, by decide⟩,
   ⟨State.reset, 15, by decide⟩,
   ⟨State.reset, 31, by decide⟩,
   ⟨on (fun d => { setR [(F.tbStatusSlaveValid, 0, 1)] d with nt := 500000000 }), 500000000, by decide⟩,
   ⟨on (fun d => { setR [(F.ppsCtlOutEn, 0, 1)] d with nt := 8000000007 }), 8000000000, by decide⟩,
   ⟨on (fun d => (setR [(F.tbPortCfgPortMbps, 0, 800000)] d).modPort 0 (fun p => { p with queues := [(2, [{ len := 64, at_ := 0, bytes := [] }])] })), 0, 2, 0, { len := 64, at_ := 0, bytes := [] }, by decide⟩⟩

theorem test_witness_MemoryCommandsAct :
  (∃ (s : State) (p first frames : Nat),
    s.dev.pins.stopped = false ∧ p < 32 ∧ (s.dev.part p).memBusy = none ∧ s.dev.pstate p ≠ 0 ∧ s.dev.pstate p ≠ 4 ∧
    frames ≠ 0 ∧ first + frames ≤ frameCount ∧ (List.range frames).any (fun i => s.dev.frameAbsent (first + i)) = false ∧
    (s.dev.part p).ranges.length < 8 ∧ (List.range frames).any (fun i => tabGet 0 s.dev.mem.owner (first + i) ≠ 0) = false) ∧
  (∃ (s : State) (p grant base pages tgt : Nat),
    s.dev.pins.stopped = false ∧ p < 32 ∧ (s.dev.part p).memBusy = none ∧ s.dev.pstate p ≠ 0 ∧ s.dev.pstate p ≠ 4 ∧
    grant ≤ 15 ∧ pages ≠ 0 ∧ base % pageSize = 0 ∧ tabFind (s.dev.part p).grants grant = none ∧
    (s.dev.part p).grants.length < 16 ∧ tgt ∈ (s.dev.part p).pasids ∧ base + pages * pageSize ≤ 2 ^ 48) ∧
  (∃ (s : State) (p grant base pages tgt : Nat),
    s.dev.pins.stopped = false ∧ p < 32 ∧ (s.dev.part p).memBusy = none ∧ s.dev.pstate p ≠ 0 ∧ s.dev.pstate p ≠ 4 ∧
    grant ≤ 15 ∧ pages ≠ 0 ∧ base % pageSize = 0 ∧ tabFind (s.dev.part p).grants grant = none ∧
    (s.dev.part p).grants.length < 16 ∧ base + pages * pageSize ≤ 2 ^ 48 ∧ tgt < 4096 ∧
    tgt / 8 = s.dev.getF F.tlSelfFaddr / 8 ∧ tgt ≠ s.dev.getF F.tlSelfFaddr) ∧
  (∃ (s : State) (c : Src) (a pages hint die zr : Nat) (places : List (Bool × Nat × Nat)) (tf : List Nat) (q : Pool),
    s.dev.pins.stopped = false ∧
    (let p := s.dev.cpart c
    let l := vPages a pages
    (s.dev.part p).memBusy = none ∧ vRange a pages 1048576 = true ∧ hint ≤ 3 ∧ die ≤ 3 ∧ zr ≤ 1 ∧
    l.any (fun v => (s.dev.pte p v).isSome) = false ∧
    (s.dev.pool p).takeTables (tableCount (s.dev.part p) (newTables (s.dev.part p) l).length) = some (tf, q) ∧
    q.placeAll ((List.range pages).map (fun i => (hint, die, i))) = some places ∧ s.dev.noKey p = false)) ∧
  (∃ (s : State) (c : Src) (a pages : Nat),
    s.dev.pins.stopped = false ∧
    (let p := s.dev.cpart c
    let l := vPages a pages
    (s.dev.part p).memBusy = none ∧ vRange a pages 1048576 = true ∧ l.any (fun v => (s.dev.pte p v).isNone) = false)) ∧
  (∃ (s : State) (c : Src) (a pages hint die : Nat) (places : List (Bool × Nat × Nat)),
    s.dev.pins.stopped = false ∧
    (let p := s.dev.cpart c
    let l := vPages a pages
    let moved := l.zipIdx.filter (fun v => s.dev.hintUnmet p hint die v.1)
    (s.dev.part p).memBusy = none ∧ vRange a pages 1048576 = true ∧ hint ≤ 3 ∧ die ≤ 3 ∧
    l.any (fun v => (s.dev.pte p v).isNone) = false ∧
    (s.dev.pool p).placeAll (moved.map (fun v => (hint, die, v.2))) = some places)) ∧
  (∃ (s : State) (a pages : Nat),
    s.dev.pins.stopped = false ∧ vRange a pages 64 = true) ∧
  (∃ (s : State) (c b : Src),
    s.dev.pins.stopped = false ∧
    (let p := s.dev.cpart c
    (s.dev.part p).memBusy = some b)) ∧
  (∃ (s : State) (b : Src) (p : Nat),
    s.dev.pins.stopped = false ∧ p < 32 ∧ (s.dev.part p).memBusy = some b) ∧
  (∃ (s : State) (p first frames : Nat),
    s.dev.pins.stopped = false ∧ p < 32 ∧ (s.dev.part p).memBusy = none ∧ s.dev.pstate p ≠ 0 ∧ s.dev.pstate p ≠ 4 ∧
    frames ≠ 0 ∧ (first, frames) ∈ (s.dev.part p).ranges ∧ tabWf {} s.dev.parts = true ∧
    s.dev.pagesInside p first frames = [] ∧ (s.dev.part p).tableFrames = [] ∧ s.dev.mem.mig = [] ∧
    (s.dev.part p).retiring = []) ∧
  (∃ (s : State) (p grant : Nat),
    s.dev.pins.stopped = false ∧ p < 32 ∧ (s.dev.part p).memBusy = none ∧ s.dev.pstate p ≠ 0 ∧ s.dev.pstate p ≠ 4 ∧
    grant ≤ 15 ∧ (tabFind (s.dev.part p).grants grant).isSome = true ∧ tabWf {} s.dev.parts = true ∧
    s.dev.pagesInside p (grant + 1) 0 = [] ∧ s.dev.mem.mig = [] ∧ (s.dev.part p).retiring = []) ∧
  (∃ (s : State) (p first frames : Nat) (l : List (Bool × Nat × Nat)),
    s.dev.pins.stopped = false ∧ p < 32 ∧ (s.dev.part p).memBusy = none ∧ tabWf {} s.dev.parts = true ∧ s.dev.pstate p ≠ 0 ∧
    s.dev.pstate p ≠ 4 ∧ frames ≠ 0 ∧ (first, frames) ∈ (s.dev.part p).ranges ∧ (s.dev.part p).tableFrames = [] ∧
    s.dev.pagesInside p first frames ≠ [] ∧
    ((s.dev.modPart p (fun x => { x with memGone := some (first, frames) })).pool p).placeAll ((s.dev.pagesInside p first
      frames).map (fun x => match s.dev.pte p x.1 with | some e => (e.hint, e.die, x.2) | none => (0, 0, 0))) = some l) :=
  ⟨⟨part 0 {}, 31, frameCount - 1, 1, by decide⟩,
   ⟨part 0 { pasids := [5] }, 31, 15, 0, 1, 5, by decide⟩,
   ⟨part 0 {}, 31, 15, 0, 1, 7, by decide⟩,
   ⟨part 0 { ranges := [(0, 8)], slot0 := some 1 }, src, 0, 1, 3, 3, 1, [(false, 2, 0)], [0, 1], { ranges := [(0, 8)], grants := [], frames := [1, 0], far := [] }, by decide⟩,
   ⟨part 0 { pt := [(0, near false 0 0 0)] }, src, 0, 1, by decide⟩,
   ⟨part 0 { pt := [(0, near false 0 0 0)] }, src, 0, 1, 3, 0, [], by decide⟩,
   ⟨part 0 {}, 2 ^ 48 - 64 * 2097152, 64, by decide⟩,
   ⟨part 0 { memBusy := some src }, src, src, by decide⟩,
   ⟨part 0 { memBusy := some src }, src, 31, by decide⟩,
   ⟨part 0 { ranges := [(0, 8)] }, 31, 0, 8, by decide⟩,
   ⟨part 0 { grants := [(15, ⟨0, 0, 1, 5⟩)] }, 31, 15, by decide⟩,
   ⟨part 0 { ranges := [(0, 8)], pt := [(0, near false 2 0 0)], grants := [(0, { kind := 0, base := 0, pages := 1, tgt := 5 })] }, 31, 0, 8, [(true, 0, 0)], by decide⟩⟩

theorem test_witness_MemoryEnginesAct :
  (∃ (s : State) (m : Mig) (rest : List Mig) (e : Pte) (t : Bool × Nat × Nat) (q : Pool),
    s.dev.pins.stopped = false ∧ s.dev.migOrder = m :: rest ∧ m.target = none ∧ s.dev.migReady m = true ∧
    s.dev.pte m.p m.vpn = some e ∧
    (s.dev.pool m.p).place (if (s.dev.part m.p).memGone.any (fun g => g.2 = 0) then 2 else e.hint) e.die m.i = some (t, q)) ∧
  (∃ (s : State) (m : Mig) (rest : List Mig) (e t : Pte),
    s.dev.pins.stopped = false ∧ s.dev.mem.mig = m :: rest ∧ m.target = some t ∧ s.dev.pte m.p m.vpn = some e ∧
    m.started + s.dev.copyTime m.p e t ≤ s.dev.acyc ∧ s.dev.migAsking = false) ∧
  (∃ (s : State) (p : Nat),
    s.dev.pins.stopped = false ∧ p < 32) ∧
  (∃ (s : State) (p v : Nat) (r : Rotation) (e : Pte),
    s.dev.pins.stopped = false ∧ p < 32 ∧ (s.dev.part p).rot = some r ∧
    (let r' := if r.interval = s.dev.interval then r else { r with used := 0, interval := s.dev.interval }
    (r'.rate = 0 ∨ r'.used < r'.rate) ∧
    (let d := s.dev.modPart p (fun x => { x with rot := some r' })
    d.walkNext p = some (v, e)))) ∧
  (∃ (s : State) (unit : Nat),
    s.dev.pins.stopped = false ∧ unit < 4 * dieUnits ∧
    (let die := unit / dieUnits
    s.dev.flag F.memPatrolEnable die = true ∧ unit % dieUnits = tabGet 0 s.dev.mem.patrol die ∧
    s.dev.patrolDue die ≤ s.dev.acyc)) ∧
  (∃ (s : State) (die stack pc : Nat),
    s.dev.pins.stopped = false ∧ die < 4 ∧ stack < 8 ∧ pc < 64) :=
  ⟨⟨part 0 { reg := [(0, 1)], ranges := [(0, 8)], pt := [(0, near false 0 0 0)] } (fun d => d.modMem (fun m => { m with mig := [mig none] })), mig none, [], near false 0 0 0, (false, 1, 0), { ranges := [(0, 8)], grants := [], frames := [1, 0], far := [] }, by decide +kernel⟩,
   ⟨part 0 { pt := [(0, near false 0 0 0)] } (fun d => ({ d with acyc := 60000 } : Dev).modMem (fun m => { m with mig := [mig (some (near false 0 0 1))] })), mig (some (near false 0 0 1)), [], near false 0 0 0, near false 0 0 1, by decide⟩,
   ⟨part 0 { retiring := [(0, 1, 0, 0)] }, 31, by decide⟩,
   ⟨part 0 { reg := [(0, 1)], pt := [(0, near true 0 0 0)], rot := some ⟨src, 0, 0, 0, 0⟩ }, 31, 0, ⟨src, 0, 0, 0, 0⟩, near true 0 0 0, by decide⟩,
   ⟨on (setR [(F.memPatrolEnable, 3, 1)]), 3 * dieUnits, by decide⟩,
   ⟨State.reset, 3, 7, 63, by decide⟩⟩

theorem test_witness_LendsAndCheckpointsAct :
  (∃ (s : State) (i first frames borrower : Nat),
    s.dev.pins.stopped = false ∧ i ≤ 15 ∧ frames ≠ 0 ∧ first + frames ≤ frameCount ∧
    (∀ k, k < frames → s.dev.frameAbsent (first + k) = false ∧ tabGet 0 s.dev.mem.owner (first + k) = 0) ∧
    tabFind s.dev.mem.lends i = none ∧ borrower / 8 = s.dev.getF F.tlSelfFaddr / 8) ∧
  (∃ (s : State) (i : Nat) (x : Lend),
    s.dev.pins.stopped = false ∧ tabFind s.dev.mem.lends i = some x ∧ x.withdrawn = none) ∧
  (∃ (s : State) (i first frames borrower : Nat),
    s.dev.pins.stopped = false ∧ (15 < i ∨ frames = 0 ∨ frameCount < first + frames ∨ (∃ k, k < frames ∧
    (s.dev.frameAbsent (first + k) = true ∨ tabGet 0 s.dev.mem.owner (first + k) ≠ 0)) ∨ (tabFind s.dev.mem.lends i).isSome =
      true ∨ borrower / 8 ≠ s.dev.getF F.tlSelfFaddr / 8)) ∧
  (∃ (s : State) (i : Nat),
    s.dev.pins.stopped = false ∧ (∀ x, tabFind s.dev.mem.lends i = some x → x.withdrawn.isSome = true)) ∧
  (∃ (s : State) (i : Nat),
    s.dev.pins.stopped = false ∧
    (∀ x c t, tabFind s.dev.mem.lends i = some x → x.withdrawn = some (c, t) → s.dev.acyc < t + 6000000)) ∧
  (∃ (s : State) (c : Src) (i t : Nat) (x : Lend),
    s.dev.pins.stopped = false ∧ tabFind s.dev.mem.lends i = some x ∧ x.withdrawn = some (c, t) ∧ t + 6000000 ≤ s.dev.acyc) ∧
  (∃ (s : State) (p pasid len : Nat),
    s.dev.pins.stopped = false ∧ p < 32 ∧
    (let pages := (s.dev.part p).pt.filter (fun e => e.2.hint = 3)
    let cars := if p = 0 then s.dev.carrierList else []
    (s.dev.pasidOk p pasid = true ∧ 64 + pages.length * (64 + pageSize) + 256 * cars.length ≤ len))) ∧
  (∃ (s : State) (p pasid len : Nat),
    s.dev.pins.stopped = false ∧ p < 32 ∧
    (let pages := (s.dev.part p).pt.filter (fun e => e.2.hint = 3)
    let cars := if p = 0 then s.dev.carrierList else []
    (¬ (s.dev.pasidOk p pasid = true ∧ 64 + pages.length * (64 + pageSize) + 256 * cars.length ≤ len)))) ∧
  (∃ (s : State) (p : Nat),
    s.dev.pins.stopped = false ∧ p < 32 ∧ ((3 ≤ s.dev.esState p ∧ s.dev.esState p ≤ 6) ∨ (s.dev.part p).rot.isSome = true)) ∧
  (∃ (s : State) (p pasid : Nat),
    s.dev.pins.stopped = false ∧ p < 32 ∧ (¬ ((3 ≤ s.dev.esState p ∧
    s.dev.esState p ≤ 6) ∨ (s.dev.part p).rot.isSome = true)) ∧ s.dev.pasidOk p pasid = false) ∧
  (∃ (s : State) (p host pasid len : Nat),
    s.dev.pins.stopped = false ∧ p < 32 ∧ (¬ ((3 ≤ s.dev.esState p ∧
    s.dev.esState p ≤ 6) ∨ (s.dev.part p).rot.isSome = true)) ∧ s.dev.pasidOk p pasid = true ∧
    ckptOk s.dev p host len = false) ∧
  (∃ (s : State) (p host pasid len : Nat),
    s.dev.pins.stopped = false ∧ p < 32 ∧ (¬ ((3 ≤ s.dev.esState p ∧
    s.dev.esState p ≤ 6) ∨ (s.dev.part p).rot.isSome = true)) ∧ s.dev.pasidOk p pasid = true ∧ ckptOk s.dev p host len = true) :=
  ⟨⟨State.reset, 15, frameCount - 1, 1, 7, by decide⟩,
   ⟨on (fun d => d.modMem (fun m => { m with lends := [(15, ⟨0, 1, 1, none⟩)] })), 15, ⟨0, 1, 1, none⟩, by decide⟩,
   ⟨State.reset, 15, 0, 0, 0, ⟨by decide, .inr (.inl rfl)⟩⟩,
   ⟨State.reset, 15, ⟨by decide, fun x h => by cases h⟩⟩,
   ⟨State.reset, 15, ⟨by decide, fun x c t h => by cases h⟩⟩,
   ⟨on (fun d => ({ d with acyc := 6000000 } : Dev).modMem (fun m => { m with lends := [(15, ⟨0, 1, 1, some (src, 0)⟩)] })), src, 15, 0, ⟨0, 1, 1, some (src, 0)⟩, by decide⟩,
   ⟨part 0 { pasids := [5] }, 31, 5, 64, by decide⟩,
   ⟨part 0 { pasids := [5] }, 31, 5, 63, by decide⟩,
   ⟨part 3 {}, 31, by decide⟩,
   ⟨part 2 {}, 31, 5, by decide⟩,
   ⟨on (fun d => { d with host := memWrite [] 64 (bytesAt 64 [(4, 3), (0, 0x54504B43)]) }), 0, 64, 5, 63, by decide⟩,
   ⟨on (fun d => { d with host := memWrite [] 64 (bytesAt 64 [(4, 3), (0, 0x54504B43)]) }), 0, 64, 5, 64, by decide⟩⟩

theorem test_witness_MirrorPairActs :
  (∃ (s : State) (partner links cap : Nat),
    s.dev.pins.stopped = false ∧ (4095 < partner ∨ (partner ≠ 0 ∧
    (partner = s.dev.getF F.tlSelfFaddr ∨ cap = 0 ∨ 200 < cap ∨ 65535 < links ∨ s.dev.terilGbs < cap + sumL ((List.range
      32).map (fun p => regRate (s.dev.regWord p 8))))))) ∧
  (∃ (s : State) (partner links cap : Nat),
    s.dev.pins.stopped = false ∧ (¬ (4095 < partner ∨ (partner ≠ 0 ∧
    (partner = s.dev.getF F.tlSelfFaddr ∨ cap = 0 ∨ 200 < cap ∨ 65535 < links ∨ s.dev.terilGbs < cap + sumL ((List.range
      32).map (fun p => regRate (s.dev.regWord p 8))))))) ∧ partner ≠ 0) ∧
  (∃ (s : State) (partner : Nat),
    s.dev.pins.stopped = false ∧ partner = 0) ∧
  (∃ (s : State) (p q : Nat),
    s.dev.pins.stopped = false ∧ (31 < p ∨ 31 < q ∨ (p = 0 ∧ q ≠ 0) ∨ (p ≠ 0 ∧ q = 0) ∨ (p ≠ 0 ∧ s.dev.pstate p = 0))) ∧
  (∃ (s : State) (p q : Nat),
    s.dev.pins.stopped = false ∧ (¬ (31 < p ∨ 31 < q ∨ (p = 0 ∧ q ≠ 0) ∨ (p ≠ 0 ∧ q = 0) ∨ (p ≠ 0 ∧ s.dev.pstate p = 0))) ∧
    s.dev.mirSt = 0) ∧
  (∃ (s : State) (p q : Nat),
    s.dev.pins.stopped = false ∧ (¬ (31 < p ∨ 31 < q ∨ (p = 0 ∧ q ≠ 0) ∨ (p ≠ 0 ∧ q = 0) ∨ (p ≠ 0 ∧ s.dev.pstate p = 0))) ∧
    s.dev.mirSt ≠ 0) ∧
  (∃ (s : State) (mask : BitVec 32),
    s.dev.pins.stopped = false ∧
    (let ps := (List.range 32).filter (fun p => mask.getLsbD p)
    (∃ p ∈ ps, p ≠ 0 ∧ s.dev.pstate p = 0))) ∧
  (∃ (s : State) (mask : BitVec 32),
    s.dev.pins.stopped = false ∧
    (let ps := (List.range 32).filter (fun p => mask.getLsbD p)
    (¬ (∃ p ∈ ps, p ≠ 0 ∧ s.dev.pstate p = 0)) ∧ s.dev.mirSt = 0)) ∧
  (∃ (s : State) (mask : BitVec 32),
    s.dev.pins.stopped = false ∧
    (let ps := (List.range 32).filter (fun p => mask.getLsbD p)
    (¬ (∃ p ∈ ps, p ≠ 0 ∧ s.dev.pstate p = 0)) ∧ s.dev.mirSt ≠ 0)) ∧
  (∃ (s : State),
    s.dev.pins.stopped = false ∧ s.dev.mirSt = 1) ∧
  (∃ (s : State),
    s.dev.pins.stopped = false ∧ s.dev.mirSt ≠ 1) ∧
  (∃ (s : State),
    s.dev.pins.stopped = false ∧ s.dev.mirSt = 2) ∧
  (∃ (s : State),
    s.dev.pins.stopped = false ∧ s.dev.mirSt ≠ 2) ∧
  (∃ (s : State) (m : _),
    s.dev.pins.stopped = false ∧ s.dev.mirSt = 3 ∧ s.dev.teril.members = some m ∧ s.dev.getF F.tlMirStatusPartner ∈ m ∧
    s.dev.fenced = false) ∧
  (∃ (s : State),
    s.dev.pins.stopped = false ∧
    (s.dev.mirSt ≠ 3 ∨ s.dev.fenced = true ∨ ∀ m, s.dev.teril.members = some m → s.dev.getF F.tlMirStatusPartner ∉ m)) ∧
  (∃ (s : State) (p vpn chunk q l : Nat) (t : BitVec 64) (rest : List (Nat × Nat × Nat × BitVec 64)) (ls : List Nat) (e : Pte),
    s.dev.pins.stopped = false ∧ s.dev.copyOrder = (p, vpn, chunk, t) :: rest ∧
    s.dev.dataLinks s.dev.teril.mirLinks = l :: ls ∧ s.dev.mirSt = 2 ∧ s.dev.fenced = false ∧
    reached s.dev s.dev.teril.mirAt = true ∧ s.dev.mayIssue 9 p = true ∧
    (let d := s.dev.modTeril (fun x => { x with dirty := x.dirty.erase (p, vpn, chunk, t) })
    d.mirrorOf p = some q ∧ d.pte p vpn = some e ∧ e.hint = 3)) ∧
  (∃ (s : State),
    s.dev.pins.stopped = false ∧
    (s.dev.copyOrder = [] ∨ s.dev.dataLinks s.dev.teril.mirLinks = [] ∨ s.dev.mirSt ≠ 2 ∨ s.dev.fenced = true ∨ reached s.dev
      s.dev.teril.mirAt = false)) ∧
  (∃ (s : State),
    s.dev.pins.stopped = false) ∧
  (∃ (s : State) (b : BitVec 64),
    s.dev.pins.stopped = false ∧ s.dev.beat 6 80000 0 = some b ∧ s.dev.mirSt = 2) ∧
  (∃ (s : State),
    s.dev.pins.stopped = false ∧ s.dev.beat 6 80000 0 = none) ∧
  (∃ (s : State) (l : Nat) (hdr : BitVec 96),
    s.dev.pins.stopped = false ∧ l < 16 ∧ s.dev.flag F.tlLinkStatusUp l = true ∧ hf hdr 15 4 = s.dev.getF F.tlSelfFaddr ∧
    (let d := flitIn l s.dev
    d.fromPartner hdr = true ∧ hf hdr 3 0 = 8 ∧ hSub hdr = 6)) ∧
  (∃ (s : State) (l : Nat) (hdr : BitVec 96),
    s.dev.pins.stopped = false ∧ l < 16 ∧ s.dev.flag F.tlLinkStatusUp l = true ∧ hf hdr 15 4 = s.dev.getF F.tlSelfFaddr ∧
    (let d := flitIn l s.dev
    d.fromPartner hdr = true ∧ hf hdr 3 0 = 8 ∧ hSub hdr = 5)) ∧
  (∃ (s : State) (l : Nat) (hdr : BitVec 96),
    s.dev.pins.stopped = false ∧ l < 16 ∧ s.dev.flag F.tlLinkStatusUp l = true ∧ hf hdr 15 4 = s.dev.getF F.tlSelfFaddr ∧
    (let d := flitIn l s.dev
    d.fromPartner hdr = true ∧ hf hdr 3 0 = 6 ∧ hf hdr 95 78 = 0 ∧ d.refuses (some (hf hdr 27 16)) = false ∧
    d.teril.taken.contains (hf hdr 32 28) = false)) ∧
  (∃ (s : State) (l : Nat) (hdr : BitVec 96),
    s.dev.pins.stopped = false ∧ l < 16 ∧ s.dev.flag F.tlLinkStatusUp l = true ∧ hf hdr 15 4 = s.dev.getF F.tlSelfFaddr ∧
    (let d := flitIn l s.dev
    d.fromPartner hdr = true ∧ hf hdr 3 0 = 6 ∧ hf hdr 95 78 = 0 ∧ d.refuses (some (hf hdr 27 16)) = false ∧
    d.teril.taken.contains (hf hdr 32 28) = false)) :=
  ⟨⟨(teril 0 []).1, 4095, 65535, 201, by decide⟩,
   ⟨(teril 0 []).1, 4095, 65535, 100, by decide⟩,
   ⟨(teril 0 []).1, 0, by decide⟩,
   ⟨part 0 {} (setR [(F.tlMirStatusState, 0, 1)]), 31, 0, by decide⟩,
   ⟨part 0 {}, 31, 31, by decide⟩,
   ⟨part 0 {} (setR [(F.tlMirStatusState, 0, 1)]), 31, 31, by decide⟩,
   ⟨part 0 {} (setR [(F.tlMirStatusState, 0, 1)]), 0x40000000, by decide⟩,
   ⟨part 0 {}, 0x80000000, by decide⟩,
   ⟨part 0 {} (setR [(F.tlMirStatusState, 0, 1)]), 0x80000000, by decide⟩,
   ⟨(teril 0 [(F.tlMirStatusState, 0, 1), (F.tlMirStatusPartner, 0, 1)]).1, by decide⟩,
   ⟨State.reset, by decide⟩,
   ⟨(teril 0 [(F.tlMirStatusState, 0, 2), (F.tlMirStatusPartner, 0, 1)]).1, by decide⟩,
   ⟨on (setR [(F.tlMirStatusState, 0, 3)]), by decide⟩,
   ⟨(teril 0 [(F.tlMirStatusState, 0, 3), (F.tlMirStatusPartner, 0, 1)]).1, [0, 1], by decide⟩,
   ⟨on (setR [(F.tlMirStatusState, 0, 2)]), ⟨by decide, .inl (by decide)⟩⟩,
   ⟨part 4 { mirror := some 1, pt := [(0, near false 3 0 0)] } (fun d => (setR [(F.tlLinkStatusUp, 15, 1), (F.tlMirStatusState, 0, 2)] d).modTeril (fun t => { t with dirty := [(31, 0, 31, 0)], mirLinks := 0x8000 })), 31, 0, 31, 1, 15, 0, [], [], near false 3 0 0, by decide⟩,
   ⟨State.reset, by decide⟩,
   ⟨State.reset, by decide⟩,
   ⟨on (fun d => setR [(F.tlMirStatusState, 0, 2)] { d with nt := 80000 }), 80000, by decide⟩,
   ⟨State.reset, by decide⟩,
   ⟨(teril 0 [(F.tlMirStatusState, 0, 2), (F.tlMirStatusPartner, 0, 1)]).1, 15, (teril (8 + 2 ^ 16 + 6 * 2 ^ 28) []).2, by decide⟩,
   ⟨(teril 0 [(F.tlMirStatusState, 0, 2), (F.tlMirStatusPartner, 0, 1)]).1, 15, (teril (8 + 2 ^ 16 + 5 * 2 ^ 28) []).2, by decide⟩,
   ⟨(teril 0 [(F.tlMirStatusState, 0, 2), (F.tlMirStatusPartner, 0, 1)]).1, 15, (teril (6 + 2 ^ 16) []).2, by decide⟩,
   ⟨(teril 0 [(F.tlMirStatusState, 0, 2), (F.tlMirStatusPartner, 0, 1)]).1, 15, (teril (6 + 2 ^ 16) []).2, by decide⟩⟩

theorem test_witness_FabricFlitsAreTaken :
  (∃ (s : State) (l : Nat) (hdr : BitVec 96) (p role inst a im e total c : _),
    s.dev.pins.stopped = false ∧ l < 16 ∧ s.dev.flag F.tlLinkStatusUp l = true ∧ hf hdr 15 4 = s.dev.getF F.tlSelfFaddr ∧
    (let d := flitIn l s.dev
    hf hdr 3 0 = 1 ∧ hf hdr 47 47 = 0 ∧ hf hdr 95 92 = 0 ∧ d.refuses (s.dev.codeSrc (hf hdr 31 16)) = false ∧
    d.codeOf (hf hdr 31 16) = some (p, role, inst, a) ∧ (d.sched p).active = some im ∧
    (let slot := hf hdr 44 32
    let cep := hf hdr 46 45
    let key := slot * 2 + cep % 2
    let x := tabGet {} (d.sched p).presence key
    let other := tabGet 0 x.inst role
    let units := hf hdr 91 90 + 1
    im.slots.find? (fun s => s.1 = slot) = some (slot, e, total) ∧ d.nextConsuming p slot (cep % 2) = some c ∧
    3 ≤ d.esState p ∧ d.esState p ≤ 6 ∧ c % 4 = cep ∧ (other = 0 ∨ other = inst) ∧
    (Config.xdataTier0 hdr = true ∨ d.vMigrating p (hf hdr 89 48 * 64) (64 * units) = false)))) ∧
  (∃ (s : State) (l : Nat) (hdr : BitVec 96) (p role inst a im e total c : _),
    s.dev.pins.stopped = false ∧ l < 16 ∧ s.dev.flag F.tlLinkStatusUp l = true ∧ hf hdr 15 4 = s.dev.getF F.tlSelfFaddr ∧
    (let d := flitIn l s.dev
    hf hdr 3 0 = 1 ∧ hf hdr 47 47 = 0 ∧ hf hdr 95 92 = 0 ∧ d.refuses (s.dev.codeSrc (hf hdr 31 16)) = false ∧
    d.codeOf (hf hdr 31 16) = some (p, role, inst, a) ∧ (d.sched p).active = some im ∧
    (let slot := hf hdr 44 32
    let cep := hf hdr 46 45
    let key := slot * 2 + cep % 2
    let x := tabGet {} (d.sched p).presence key
    let other := tabGet 0 x.inst role
    im.slots.find? (fun s => s.1 = slot) = some (slot, e, total) ∧ d.nextConsuming p slot (cep % 2) = some c ∧
    (d.esState p < 3 ∨ 6 < d.esState p ∨ c % 4 ≠ cep ∨ (other ≠ 0 ∧ other ≠ inst))))) ∧
  (∃ (s : State) (l : Nat) (hdr : BitVec 96),
    s.dev.pins.stopped = false ∧ l < 16 ∧ s.dev.flag F.tlLinkStatusUp l = true ∧ hf hdr 15 4 = s.dev.getF F.tlSelfFaddr ∧
    (let d := flitIn l s.dev
    hf hdr 3 0 = 1 ∧ hf hdr 47 47 = 0 ∧ hf hdr 95 92 = 0 ∧ d.refuses (s.dev.codeSrc (hf hdr 31 16)) = false)) ∧
  (∃ (s : State) (l : Nat) (hdr : BitVec 96),
    s.dev.pins.stopped = false ∧ l < 16 ∧ s.dev.flag F.tlLinkStatusUp l = true ∧ hf hdr 15 4 = s.dev.getF F.tlSelfFaddr ∧
    (let d := flitIn l s.dev
    hf hdr 3 0 = 2 ∧ 1 ≤ hf hdr 39 32 ∧ hf hdr 39 32 ≤ 64 ∧ hf hdr 47 40 = 0 ∧ hf hdr 95 48 = 0 ∧
    d.refuses (s.dev.codeSrc (hf hdr 31 16)) = false)) ∧
  (∃ (s : State) (l : Nat) (hdr : BitVec 96) (b : Bytes),
    s.dev.pins.stopped = false ∧ l < 16 ∧ s.dev.flag F.tlLinkStatusUp l = true ∧ hf hdr 15 4 = s.dev.getF F.tlSelfFaddr ∧
    (let d := flitIn l s.dev
    let src := hf hdr 27 16
    hf hdr 3 0 = 3 ∧ hf hdr 95 62 = 0 ∧ bodyOk b = true ∧ d.refuses (some src) = false)) ∧
  (∃ (s : State) (l : Nat) (hdr : BitVec 96) (r : _),
    s.dev.pins.stopped = false ∧ l < 16 ∧ s.dev.flag F.tlLinkStatusUp l = true ∧ hf hdr 15 4 = s.dev.getF F.tlSelfFaddr ∧
    (let d := flitIn l s.dev
    let src := hf hdr 27 16
    let tag := hTag hdr
    hf hdr 3 0 = 4 ∧ hf hdr 95 52 = 0 ∧ d.refuses (some src) = false ∧ tabFind d.teril.reqs tag = some r ∧ r.dst = src)) ∧
  (∃ (s : State) (l : Nat) (hdr : BitVec 96),
    s.dev.pins.stopped = false ∧ l < 16 ∧ s.dev.flag F.tlLinkStatusUp l = true ∧ hf hdr 15 4 = s.dev.getF F.tlSelfFaddr ∧
    (let d := flitIn l s.dev
    let src := hf hdr 27 16
    let tag := hTag hdr
    hf hdr 3 0 = 4 ∧ hf hdr 95 52 = 0 ∧ d.refuses (some src) = false ∧
    (∀ r, tabFind d.teril.reqs tag = some r → r.dst ≠ src))) ∧
  (∃ (s : State) (l : Nat) (hdr : BitVec 96) (r : _),
    s.dev.pins.stopped = false ∧ l < 16 ∧ s.dev.flag F.tlLinkStatusUp l = true ∧ hf hdr 15 4 = s.dev.getF F.tlSelfFaddr ∧
    (let d := flitIn l s.dev
    let src := hf hdr 27 16
    let tag := hTag hdr
    hf hdr 3 0 = 5 ∧ hf hdr 95 79 = 0 ∧ d.refuses (some src) = false ∧ tabFind d.teril.reqs tag = some r ∧ r.dst = src ∧
    r.bulk = true ∧ r.isGet = true)) ∧
  (∃ (s : State) (l : Nat) (hdr : BitVec 96),
    s.dev.pins.stopped = false ∧ l < 16 ∧ s.dev.flag F.tlLinkStatusUp l = true ∧ hf hdr 15 4 = s.dev.getF F.tlSelfFaddr ∧
    (let d := flitIn l s.dev
    let src := hf hdr 27 16
    let tag := hTag hdr
    hf hdr 3 0 = 5 ∧ hf hdr 95 79 = 0 ∧ d.refuses (some src) = false ∧
    (∀ r, tabFind d.teril.reqs tag = some r → r.dst ≠ src ∨ r.bulk = false ∨ r.isGet = false))) ∧
  (∃ (s : State) (l : Nat) (hdr : BitVec 96) (b : Bytes) (r : _),
    s.dev.pins.stopped = false ∧ l < 16 ∧ s.dev.flag F.tlLinkStatusUp l = true ∧ hf hdr 15 4 = s.dev.getF F.tlSelfFaddr ∧
    (let d := flitIn l s.dev
    let src := hf hdr 27 16
    hf hdr 3 0 = 8 ∧ hSub hdr = 7 ∧ tabFind d.teril.reqs (at_ b 0 2) = some r ∧ r.dst = src ∧ r.bulk = true ∧
    r.isGet = false)) ∧
  (∃ (s : State) (l : Nat) (hdr : BitVec 96) (b : Bytes),
    s.dev.pins.stopped = false ∧ l < 16 ∧ s.dev.flag F.tlLinkStatusUp l = true ∧ hf hdr 15 4 = s.dev.getF F.tlSelfFaddr ∧
    (let d := flitIn l s.dev
    let src := hf hdr 27 16
    hf hdr 3 0 = 8 ∧ hSub hdr = 7 ∧
    (∀ r, tabFind d.teril.reqs (at_ b 0 2) = some r → r.dst ≠ src ∨ r.bulk = false ∨ r.isGet = true))) ∧
  (∃ (s : State) (l : Nat) (hdr : BitVec 96),
    s.dev.pins.stopped = false ∧ l < 16 ∧ s.dev.flag F.tlLinkStatusUp l = true ∧ hf hdr 15 4 ≠ s.dev.getF F.tlSelfFaddr) ∧
  (∃ (s : State) (l : Nat),
    s.dev.pins.stopped = false ∧ l < 16 ∧ s.dev.flag F.tlLinkStatusUp l = true ∧
    (s.dev.fenced = true ∨ s.dev.teril.members = none)) ∧
  (∃ (s : State) (l : Nat) (hdr : BitVec 96) (m : List Nat),
    s.dev.pins.stopped = false ∧ l < 16 ∧ s.dev.flag F.tlLinkStatusUp l = true ∧ hf hdr 15 4 = s.dev.getF F.tlSelfFaddr ∧
    s.dev.fenced = false ∧ s.dev.teril.members = some m ∧ hf hdr 27 16 ∉ m ∧ 3 ≤ hf hdr 3 0 ∧ hf hdr 3 0 ≤ 6) ∧
  (∃ (s : State) (l : Nat) (hdr : BitVec 96) (b : Bytes) (m : List Nat),
    s.dev.pins.stopped = false ∧ l < 16 ∧ s.dev.flag F.tlLinkStatusUp l = true ∧ hf hdr 15 4 = s.dev.getF F.tlSelfFaddr ∧
    s.dev.fenced = false ∧ s.dev.teril.members = some m ∧ hf hdr 27 16 ∉ m ∧ hf hdr 3 0 = 3 ∧ hf hdr 95 62 = 0 ∧
    bodyOk b = true) ∧
  (∃ (s : State) (l : Nat) (hdr : BitVec 96) (m : List Nat),
    s.dev.pins.stopped = false ∧ l < 16 ∧ s.dev.flag F.tlLinkStatusUp l = true ∧ hf hdr 15 4 = s.dev.getF F.tlSelfFaddr ∧
    s.dev.fenced = false ∧ s.dev.teril.members = some m ∧ hf hdr 27 16 ∉ m ∧ hf hdr 3 0 = 4 ∧ hf hdr 95 52 = 0) ∧
  (∃ (s : State) (l : Nat) (hdr : BitVec 96) (m : List Nat),
    s.dev.pins.stopped = false ∧ l < 16 ∧ s.dev.flag F.tlLinkStatusUp l = true ∧ hf hdr 15 4 = s.dev.getF F.tlSelfFaddr ∧
    s.dev.fenced = false ∧ s.dev.teril.members = some m ∧ hf hdr 27 16 ∉ m ∧ hf hdr 3 0 = 5 ∧ hf hdr 95 79 = 0) ∧
  (∃ (s : State) (l : Nat) (hdr : BitVec 96) (m : List Nat),
    s.dev.pins.stopped = false ∧ l < 16 ∧ s.dev.flag F.tlLinkStatusUp l = true ∧ hf hdr 15 4 = s.dev.getF F.tlSelfFaddr ∧
    s.dev.fenced = false ∧ s.dev.teril.members = some m ∧ hf hdr 27 16 ∉ m ∧ hf hdr 3 0 = 6 ∧ hf hdr 95 78 = 0) ∧
  (∃ (s : State) (l : Nat),
    s.dev.pins.stopped = false ∧ s.dev.flag F.tlLinkStatusUp l = false) :=
  ⟨⟨part 4 { sched := { active := some consuming, route := [route] } } (fun d => (setR [(F.tlLinkStatusUp, 15, 1)] d).modTeril (fun t => { t with members := some [0, 1] })), 15, (teril (1 + 5 * 2 ^ 16) []).2, 31, 0, 1, 1, consuming, 0, 0, 0, ⟨by decide, by decide, by decide, by decide, by decide, by decide, by decide, by decide, by decide, by decide, by decide, by decide, by decide, by decide, by decide, by decide, .inr (by decide)⟩⟩,
   ⟨part 2 { sched := { active := some consuming, route := [route] } } (fun d => (setR [(F.tlLinkStatusUp, 15, 1)] d).modTeril (fun t => { t with members := some [0, 1] })), 15, (teril (1 + 5 * 2 ^ 16) []).2, 31, 0, 1, 1, consuming, 0, 0, 0, by decide⟩,
   ⟨(teril 0 []).1, 15, (teril (1 + 9 * 2 ^ 16) []).2, by decide⟩,
   ⟨(teril 0 []).1, 15, (teril (2 + 9 * 2 ^ 16 + 64 * 2 ^ 32) []).2, by decide⟩,
   ⟨(teril 0 []).1, 15, (teril (3 + 2 ^ 16) []).2, zeros 256, by decide⟩,
   ⟨(teril 0 [] (fun t => { t with reqs := [(0, request false)] })).1, 15, (teril (4 + 2 ^ 16) []).2, request false, by decide⟩,
   ⟨(teril 0 []).1, 15, (teril (4 + 2 ^ 16) []).2, ⟨by decide, by decide, by decide, by decide, by decide, by decide, by decide, fun r h => by cases h⟩⟩,
   ⟨(teril 0 [] (fun t => { t with reqs := [(0, request true)] })).1, 15, (teril (5 + 2 ^ 16) []).2, request true, by decide⟩,
   ⟨(teril 0 []).1, 15, (teril (5 + 2 ^ 16) []).2, ⟨by decide, by decide, by decide, by decide, by decide, by decide, by decide, fun r h => by cases h⟩⟩,
   ⟨(teril 0 [] (fun t => { t with reqs := [(0, { request true with body := bytesAt 64 [(0, 1)] })] })).1, 15, (teril (8 + 2 ^ 16 + 7 * 2 ^ 28) []).2, zeros 256, { request true with body := bytesAt 64 [(0, 1)] }, by decide⟩,
   ⟨(teril 0 []).1, 15, (teril (8 + 2 ^ 16 + 7 * 2 ^ 28) []).2, zeros 256, ⟨by decide, by decide, by decide, by decide, by decide, by decide, fun r h => by cases h⟩⟩,
   ⟨(teril 0 []).1, 15, (teril (1 + 4095 * 16) []).2, by decide⟩,
   ⟨on (setR [(F.tlLinkStatusUp, 15, 1)]), 15, by decide⟩,
   ⟨(teril 0 []).1, 15, (teril (6 + 2 ^ 17) []).2, [0, 1], by decide⟩,
   ⟨(teril 0 []).1, 15, (teril (3 + 2 ^ 17) []).2, zeros 256, [0, 1], by decide⟩,
   ⟨(teril 0 []).1, 15, (teril (4 + 2 ^ 17) []).2, [0, 1], by decide⟩,
   ⟨(teril 0 []).1, 15, (teril (5 + 2 ^ 17) []).2, [0, 1], by decide⟩,
   ⟨(teril 0 []).1, 15, (teril (6 + 2 ^ 17) []).2, [0, 1], by decide⟩,
   ⟨State.reset, 15, by decide⟩⟩

theorem test_witness_LinkProtocolActs :
  (∃ (s : State) (l : Nat),
    s.dev.pins.stopped = false ∧ l < 16 ∧ s.dev.flag F.tlLinkStatusUp l = true) ∧
  (∃ (s : State) (l count : Nat),
    s.dev.pins.stopped = false ∧ l < 16 ∧
    (let gone := (s.dev.link l).replay.filter (fun x => countLe x.1 count)
    gone ≠ [])) ∧
  (∃ (s : State) (l count : Nat),
    s.dev.pins.stopped = false ∧ l < 16 ∧
    (let gone := (s.dev.link l).replay.filter (fun x => countLe x.1 count)
    gone = [])) ∧
  (∃ (s : State) (l count : Nat) (f r : _),
    s.dev.pins.stopped = false ∧ l < 16 ∧ count < 65536 ∧
    (let d := ackTo l (count + 65535) s.dev
    let t := d.modLink l (fun x => { x with tries := x.tries + 1 })
    (d.link l).replay = (count, f) :: r ∧ (t.link l).tries ≤ 8)) ∧
  (∃ (s : State) (l count : Nat) (f r : _),
    s.dev.pins.stopped = false ∧ l < 16 ∧ count < 65536 ∧
    (let d := ackTo l (count + 65535) s.dev
    let t := d.modLink l (fun x => { x with tries := x.tries + 1 })
    (d.link l).replay = (count, f) :: r ∧ 8 < (t.link l).tries)) ∧
  (∃ (s : State) (l count : Nat),
    s.dev.pins.stopped = false ∧ l < 16 ∧ count < 65536 ∧
    (let d := ackTo l (count + 65535) s.dev
    (∀ f r, (d.link l).replay ≠ (count, f) :: r))) ∧
  (∃ (s : State) (l dead : Nat),
    s.dev.pins.stopped = false ∧ l < 16 ∧ dead < 16 ∧ s.dev.flag F.tlLinkStatusUp l = true) ∧
  (∃ (s : State) (l dead : Nat),
    s.dev.pins.stopped = false ∧ l < 16 ∧ dead < 16 ∧ s.dev.flag F.tlLinkStatusUp l = true ∧
    s.dev.flag F.tlLinkStatusUp dead = false ∧
    (let d := flitIn l s.dev
    d.mates dead ≠ [])) ∧
  (∃ (s : State) (l dead : Nat),
    s.dev.pins.stopped = false ∧ l < 16 ∧ dead < 16 ∧ s.dev.flag F.tlLinkStatusUp l = true ∧
    s.dev.flag F.tlLinkStatusUp dead = false ∧
    (let d := flitIn l s.dev
    d.mates dead = [])) ∧
  (∃ (s : State) (l : Nat),
    s.dev.pins.stopped = false ∧ l < 16 ∧ s.dev.flag F.tlLinkStatusUp l = true) :=
  ⟨⟨on (setR [(F.tlLinkStatusUp, 15, 1)]), 15, by decide⟩,
   ⟨on (fun d => d.modLink 15 (fun x => { x with replay := [(5, frame)], tries := 0 })), 15, 5, by decide⟩,
   ⟨on (fun d => d.modLink 15 (fun x => { x with replay := [(5, frame)], tries := 0 })), 15, 4, by decide⟩,
   ⟨on (fun d => d.modLink 15 (fun x => { x with replay := [(0, frame)], tries := 7 })), 15, 0, frame, [], by decide⟩,
   ⟨on (fun d => d.modLink 15 (fun x => { x with replay := [(5, frame)], tries := 8 })), 15, 5, frame, [], by decide⟩,
   ⟨State.reset, 15, 65535, ⟨by decide, by decide, by decide, fun f r h => by cases h⟩⟩,
   ⟨on (setR [(F.tlLinkStatusUp, 15, 1)]), 15, 0, by decide⟩,
   ⟨on (fun d => (setR [(F.tlLinkStatusUp, 15, 1), (F.tlDestValid, 7, 1), (F.tlDestLinks, 7, 0x8001)] d).modLink 0 (fun x => { x with replay := [(5, frame)] })), 15, 0, by decide⟩,
   ⟨on (setR [(F.tlLinkStatusUp, 15, 1)]), 15, 0, by decide⟩,
   ⟨on (setR [(F.tlLinkStatusUp, 15, 1)]), 15, by decide⟩⟩

theorem test_witness_LinksAndPortsTrain :
  (∃ (s : State) (l : Nat),
    s.dev.pins.stopped = false ∧ l < 16 ∧ s.dev.flag F.tlLinkStatusUp l = true ∧ s.dev.linkLost l = true) ∧
  (∃ (s : State) (l : Nat),
    s.dev.pins.stopped = false ∧ l < 16 ∧ (s.dev.flag F.tlLinkStatusUp l = false ∨ s.dev.linkLost l = false)) ∧
  (∃ (s : State) (l : Nat),
    s.dev.pins.stopped = false ∧ l < 16 ∧
    (let st := s.dev.getF F.qsLinkState (16 + l)
    let ph := (s.dev.link l).phase
    ph = 0 ∧ st = 1)) ∧
  (∃ (s : State) (l : Nat),
    s.dev.pins.stopped = false ∧ l < 16 ∧
    (let ph := (s.dev.link l).phase
    let up := s.dev.flag F.tlLinkStatusUp l
    ph = 1 ∧ ((s.dev.link l).again = true → up = true))) ∧
  (∃ (s : State) (l : Nat),
    s.dev.pins.stopped = false ∧ l < 16 ∧
    (let ph := (s.dev.link l).phase
    let up := s.dev.flag F.tlLinkStatusUp l
    ph = 1 ∧ (s.dev.link l).again = true ∧ up = false)) ∧
  (∃ (s : State) (l : Nat),
    s.dev.pins.stopped = false ∧ l < 16 ∧
    (let ph := (s.dev.link l).phase
    ph = 2)) ∧
  (∃ (s : State) (l : Nat),
    s.dev.pins.stopped = false ∧ l < 16 ∧
    (let st := s.dev.getF F.qsLinkState (16 + l)
    let ph := (s.dev.link l).phase
    st ≠ 0 ∧ st ≠ 6 ∧ ph = 0)) ∧
  (∃ (s : State) (l pre post : Nat) (r : _),
    s.dev.pins.stopped = false ∧ l < 16 ∧
    (let ph := (s.dev.link l).phase
    r = noteFec l pre post s.dev ∧ r.getF F.qsLinkState (16 + l) ≠ 0 ∧ r.getF F.qsLinkState (16 + l) ≠ 6 ∧ ph ≠ 0)) ∧
  (∃ (s : State) (l : Nat),
    s.dev.pins.stopped = false ∧ l < 16 ∧
    (let st := s.dev.getF F.qsLinkState (16 + l)
    let ph := (s.dev.link l).phase
    st = 1 ∧ ph = 0)) ∧
  (∃ (s : State) (l : Nat),
    s.dev.pins.stopped = false ∧ l < 16 ∧
    (let st := s.dev.getF F.qsLinkState (16 + l)
    st ≠ 1)) ∧
  (∃ (s : State) (p : Nat),
    s.dev.pins.stopped = false ∧ p < 16 ∧ s.dev.fhMbps p ≠ 0 ∧
    (let st := s.dev.getF F.qsLinkState p
    let ph := tabGet 0 s.dev.fhPhase p
    (st = 1 ∨ st = 2) ∧ s.dev.flag F.fhPortStatusUp p = false ∧ ph = 0)) ∧
  (∃ (s : State) (p : Nat),
    s.dev.pins.stopped = false ∧ p < 16 ∧ s.dev.fhMbps p ≠ 0 ∧
    (let st := s.dev.getF F.qsLinkState p
    let ph := tabGet 0 s.dev.fhPhase p
    (st = 1 ∨ st = 2) ∧ s.dev.flag F.fhPortStatusUp p = false ∧ ph = 0)) ∧
  (∃ (s : State) (p : Nat),
    s.dev.pins.stopped = false ∧ p < 16 ∧ s.dev.fhMbps p ≠ 0 ∧
    (let st := s.dev.getF F.qsLinkState p
    let ph := tabGet 0 s.dev.fhPhase p
    (st = 1 ∨ st = 2) ∧ s.dev.flag F.fhPortStatusUp p = false ∧ ph ≠ 0)) ∧
  (∃ (s : State) (p : Nat),
    s.dev.pins.stopped = false ∧ p < 16 ∧ s.dev.fhMbps p ≠ 0 ∧
    (let st := s.dev.getF F.qsLinkState p
    let ph := tabGet 0 s.dev.fhPhase p
    (st = 1 ∨ st = 2) ∧ s.dev.flag F.fhPortStatusUp p = false ∧ ph = 1)) ∧
  (∃ (s : State) (p : Nat),
    s.dev.pins.stopped = false ∧ p < 16 ∧ s.dev.fhMbps p ≠ 0 ∧
    (let st := s.dev.getF F.qsLinkState p
    let ph := tabGet 0 s.dev.fhPhase p
    (st = 1 ∨ st = 2) ∧ s.dev.flag F.fhPortStatusUp p = false ∧ ph = 2)) ∧
  (∃ (s : State) (p : Nat),
    s.dev.pins.stopped = false ∧ p < 16 ∧ s.dev.fhMbps p ≠ 0 ∧
    (let st := s.dev.getF F.qsLinkState p
    let ph := tabGet 0 s.dev.fhPhase p
    st = 1 ∧ ph = 0 ∧ s.dev.flag F.fhPortStatusUp p = false)) ∧
  (∃ (s : State),
    s.dev.pins.stopped = false) ∧
  (∃ (s : State) (l : Nat),
    s.dev.pins.stopped = false ∧ l < 16) ∧
  (∃ (s : State) (p : Nat),
    s.dev.pins.stopped = false ∧ p < 16) ∧
  (∃ (s : State) (p : Nat),
    s.dev.pins.stopped = false ∧ p < 16) ∧
  (∃ (s : State) (q : Nat),
    s.dev.pins.stopped = false ∧ q < 4 ∧ s.dev.locked = true) ∧
  (∃ (s : State) (q : Nat),
    s.dev.pins.stopped = false ∧ q < 4 ∧ s.dev.locked = false) ∧
  (∃ (s : State),
    s.dev.pins.stopped = false) :=
  ⟨⟨on (fun d => (setR [(F.tlLinkStatusUp, 15, 1)] d).modLink 15 (fun x => { x with tries := 9 })), 15, by decide⟩,
   ⟨State.reset, 15, by decide⟩,
   ⟨on (fun d => (setR [(F.qsLinkState, 31, 1)] d).modLink 15 (fun x => x)), 15, by decide⟩,
   ⟨on (fun d => (setR [(F.qsLinkState, 31, 1)] d).modLink 15 (fun x => { x with phase := 1 })), 15, by decide⟩,
   ⟨on (fun d => (setR [(F.qsLinkState, 31, 1)] d).modLink 15 (fun x => { x with phase := 1, again := true })), 15, by decide⟩,
   ⟨on (fun d => (setR [(F.qsLinkState, 31, 1)] d).modLink 15 (fun x => { x with phase := 2 })), 15, by decide⟩,
   ⟨on (fun d => (setR [(F.qsLinkState, 31, 1)] d).modLink 15 (fun x => x)), 15, by decide⟩,
   ⟨on (fun d => (setR [(F.qsLinkState, 31, 1)] d).modLink 15 (fun x => { x with phase := 2 })), 15, 0, 0, noteFec 15 0 0 (on (fun d => (setR [(F.qsLinkState, 31, 1)] d).modLink 15 (fun x => { x with phase := 2 }))).dev, ⟨by decide, by decide, rfl, by decide, by decide, by decide⟩⟩,
   ⟨on (fun d => (setR [(F.qsLinkState, 31, 1)] d).modLink 15 (fun x => x)), 15, by decide⟩,
   ⟨on (fun d => (setR [(F.qsLinkState, 31, 2)] d).modLink 15 (fun x => x)), 15, by decide⟩,
   ⟨on (setR [(F.fhQuadCfgMode, 3, 1), (F.qsLinkState, 12, 1)]), 12, by decide⟩,
   ⟨on (setR [(F.fhQuadCfgMode, 3, 1), (F.qsLinkState, 12, 1)]), 12, by decide⟩,
   ⟨on (fun d => setR [(F.fhQuadCfgMode, 3, 1), (F.qsLinkState, 12, 2)] { d with fhPhase := [(12, 1)] }), 12, by decide⟩,
   ⟨on (fun d => setR [(F.fhQuadCfgMode, 3, 1), (F.qsLinkState, 12, 2)] { d with fhPhase := [(12, 1)] }), 12, by decide⟩,
   ⟨on (fun d => setR [(F.fhQuadCfgMode, 3, 1), (F.qsLinkState, 12, 2)] { d with fhPhase := [(12, 2)] }), 12, by decide⟩,
   ⟨on (setR [(F.fhQuadCfgMode, 3, 1), (F.qsLinkState, 12, 1)]), 12, by decide⟩,
   ⟨State.reset, by decide⟩,
   ⟨State.reset, 15, by decide⟩,
   ⟨on (setR [(F.fhPortStatusUp, 15, 1)]), 15, by decide⟩,
   ⟨on (setR [(F.qsLinkState, 15, 6)]), 15, by decide⟩,
   ⟨on (setR [(F.setupLockLock, 0, 1)]), 3, by decide⟩,
   ⟨State.reset, 3, by decide⟩,
   ⟨State.reset, by decide⟩⟩

theorem test_witness_RequestsRetryAndExpire :
  (∃ (s : State) (tag : Nat) (r : Req),
    s.dev.pins.stopped = false ∧ tabFind s.dev.teril.reqs tag = some r ∧ (r.bulk = false ∧ s.dev.fenced = false ∧
    s.dev.reqOver r = false ∧ reached s.dev (later r.last s.dev.rto) = true)) ∧
  (∃ (s : State) (tag : Nat) (r : Req),
    s.dev.pins.stopped = false ∧ tabFind s.dev.teril.reqs tag = some r ∧ (¬ (r.bulk = false ∧ s.dev.fenced = false ∧
    s.dev.reqOver r = false ∧ reached s.dev (later r.last s.dev.rto) = true))) ∧
  (∃ (s : State) (tag : Nat) (r : Req),
    s.dev.pins.stopped = false ∧ tabFind s.dev.teril.reqs tag = some r ∧ r.bulk = false ∧ s.dev.reqOver r = true) ∧
  (∃ (s : State) (tag : Nat) (r : Req),
    s.dev.pins.stopped = false ∧ tabFind s.dev.teril.reqs tag = some r ∧ (r.bulk = true ∨ s.dev.reqOver r = false)) ∧
  (∃ (s : State) (tag : Nat) (r : Req),
    s.dev.pins.stopped = false ∧ tabFind s.dev.teril.reqs tag = some r ∧ r.bulk = true ∧
    reached s.dev (later r.last s.dev.gwRto) = true) ∧
  (∃ (s : State) (tag : Nat) (r : Req),
    s.dev.pins.stopped = false ∧ tabFind s.dev.teril.reqs tag = some r ∧
    (r.bulk = false ∨ reached s.dev (later r.last s.dev.gwRto) = false)) ∧
  (∃ (s : State) (tag : Nat),
    s.dev.pins.stopped = false ∧ tabFind s.dev.teril.reqs tag = none) ∧
  (∃ (s : State),
    s.dev.pins.stopped = false) :=
  ⟨⟨on (fun d => ({ d with nt := 800000 } : Dev).modTeril (fun t => { t with reqs := [(65535, request false)] })), 65535, request false, by decide⟩,
   ⟨on (fun d => ({ d with nt := 0 } : Dev).modTeril (fun t => { t with reqs := [(65535, request false)] })), 65535, request false, by decide⟩,
   ⟨on (fun d => ({ d with nt := 2 ^ 60 } : Dev).modTeril (fun t => { t with reqs := [(65535, request false)] })), 65535, request false, by decide⟩,
   ⟨on (fun d => ({ d with nt := 0 } : Dev).modTeril (fun t => { t with reqs := [(65535, request false)] })), 65535, request false, by decide⟩,
   ⟨on (fun d => ({ d with nt := 2 ^ 60 } : Dev).modTeril (fun t => { t with reqs := [(65535, request true)] })), 65535, request true, by decide⟩,
   ⟨on (fun d => ({ d with nt := 0 } : Dev).modTeril (fun t => { t with reqs := [(65535, request true)] })), 65535, request true, by decide⟩,
   ⟨State.reset, 65535, by decide⟩,
   ⟨State.reset, by decide⟩⟩

theorem test_witness_PartitionCommandsAct :
  (∃ (s : State) (b : Bytes),
    s.dev.pins.stopped = false ∧ createStatus s.dev b = 0) ∧
  (∃ (s : State) (b : Bytes),
    s.dev.pins.stopped = false ∧ createStatus s.dev b ≠ 0) ∧
  (∃ (s : State) (b : Bytes),
    s.dev.pins.stopped = false ∧
    (let p := fld b 0 4 0
    b.length = 128 ∧ (rsv b 0 31 6 = true ∧ (List.range 9).all (fun r => regOk (pdReg b r)) = true ∧
    (b.drop 0x74).all (· = 0) = true) ∧ (p = 0 ∨ s.dev.pstate p ≠ 0) ∧
    (s.dev.admits p (pdReg b) (s.dev.lendHandles ++ s.dev.sgHandles) = true))) ∧
  (∃ (s : State) (b : Bytes),
    s.dev.pins.stopped = false ∧ b.length ≠ 128) ∧
  (∃ (s : State) (b : Bytes),
    s.dev.pins.stopped = false ∧ b.length = 128 ∧ (¬ (rsv b 0 31 6 = true ∧
    (List.range 9).all (fun r => regOk (pdReg b r)) = true ∧ (b.drop 0x74).all (· = 0) = true))) ∧
  (∃ (s : State) (b : Bytes),
    s.dev.pins.stopped = false ∧
    (let p := fld b 0 4 0
    b.length = 128 ∧ (rsv b 0 31 6 = true ∧ (List.range 9).all (fun r => regOk (pdReg b r)) = true ∧
    (b.drop 0x74).all (· = 0) = true) ∧ (¬ (p = 0 ∨ s.dev.pstate p ≠ 0)))) ∧
  (∃ (s : State) (b : Bytes),
    s.dev.pins.stopped = false ∧
    (let p := fld b 0 4 0
    b.length = 128 ∧ (rsv b 0 31 6 = true ∧ (List.range 9).all (fun r => regOk (pdReg b r)) = true ∧
    (b.drop 0x74).all (· = 0) = true) ∧ (p = 0 ∨ s.dev.pstate p ≠ 0) ∧
    ¬ (s.dev.admits p (pdReg b) (s.dev.lendHandles ++ s.dev.sgHandles) = true))) ∧
  (∃ (s : State) (p : Nat),
    s.dev.pins.stopped = false ∧ p < 32 ∧ p = 0) ∧
  (∃ (s : State) (p : Nat),
    s.dev.pins.stopped = false ∧ p < 32 ∧ p ≠ 0 ∧ s.dev.pstate p = 0) ∧
  (∃ (s : State) (p : Nat),
    s.dev.pins.stopped = false ∧ p < 32 ∧ p ≠ 0 ∧ s.dev.pstate p = 4) ∧
  (∃ (s : State) (p : Nat),
    s.dev.pins.stopped = false ∧ p < 32 ∧ p ≠ 0 ∧ s.dev.pstate p ≠ 0 ∧ s.dev.pstate p ≠ 4) ∧
  (∃ (s : State) (p : Nat),
    s.dev.pins.stopped = false ∧ p < 32 ∧ (s.dev.part p).barrier = none) ∧
  (∃ (s : State) (p : Nat),
    s.dev.pins.stopped = false ∧ p < 32 ∧
    (let d := s.dev.modPart p (fun x => { x with barrier := none })
    (s.dev.part p).barrier.isSome = true ∧ d.pstate p = 4)) ∧
  (∃ (s : State) (p : Nat),
    s.dev.pins.stopped = false ∧ p < 32 ∧
    (let d := s.dev.modPart p (fun x => { x with barrier := none })
    (s.dev.part p).barrier.isSome = true ∧ d.pstate p = 2)) ∧
  (∃ (s : State) (p : Nat),
    s.dev.pins.stopped = false ∧ p < 32 ∧
    (let d := s.dev.modPart p (fun x => { x with barrier := none })
    (s.dev.part p).barrier.isSome = true ∧ d.pstate p ≠ 2 ∧ d.pstate p ≠ 4)) ∧
  (∃ (s : State) (p h op : Nat),
    s.dev.pins.stopped = false ∧ p < 32 ∧ resizeStatus s.dev p h op = 0) ∧
  (∃ (s : State) (p h op : Nat),
    s.dev.pins.stopped = false ∧ p < 32 ∧ resizeStatus s.dev p h op ≠ 0) :=
  ⟨⟨on (setR [(F.setupLockLock, 0, 1)]), bytesAt 128 [(0, 31)], by decide⟩,
   ⟨State.reset, [], by decide⟩,
   ⟨part 0 {}, bytesAt 128 [(0, 31)], by decide⟩,
   ⟨part 0 {}, [], by decide⟩,
   ⟨part 0 {}, bytesAt 128 [(0, 31 + 64)], by decide⟩,
   ⟨part 0 {}, bytesAt 128 [(0, 30)], by decide⟩,
   ⟨part 0 {}, bytesAt 128 [(0x5C, 16385), (0, 31)], by decide⟩,
   ⟨State.reset, 0, by decide⟩,
   ⟨State.reset, 31, by decide⟩,
   ⟨part 0 {} (setR [(F.ptPartStateState, 31, 4)]), 31, by decide⟩,
   ⟨part 0 {}, 31, by decide⟩,
   ⟨part 0 {}, 31, by decide⟩,
   ⟨part 0 { barrier := some 0 } (setR [(F.ptPartStateState, 31, 4)]), 31, by decide⟩,
   ⟨part 0 { barrier := some 0 } (setR [(F.ptPartStateState, 31, 2)]), 31, by decide⟩,
   ⟨part 0 { barrier := some 0 }, 31, by decide⟩,
   ⟨part 0 { groups := [79] } (fun d => { d with inForce := plainMap }), 31, 79, 1, by decide⟩,
   ⟨State.reset, 31, 79, 0, by decide⟩⟩

theorem test_witness_SlicesMove :
  (∃ (s : State) (p x : Nat),
    s.dev.pins.stopped = false ∧ p < 32 ∧
    (let held := sumL ((List.range 32).map (fun q => (s.dev.part q).pasids.length))
    (p = 0 ∨ s.dev.pstate p ≠ 0) ∧ x < 2 ^ 20 ∧ s.dev.pasidOwner x = none ∧ held < 256)) ∧
  (∃ (s : State) (p x : Nat) (q : _),
    s.dev.pins.stopped = false ∧ p < 32 ∧ (p = 0 ∨ s.dev.pstate p ≠ 0) ∧ x < 2 ^ 20 ∧ s.dev.pasidOwner x = some q) ∧
  (∃ (s : State) (p : Nat),
    s.dev.pins.stopped = false ∧ p < 32 ∧ (¬ (p = 0 ∨ s.dev.pstate p ≠ 0))) ∧
  (∃ (s : State) (p x : Nat),
    s.dev.pins.stopped = false ∧ p < 32 ∧
    (let held := sumL ((List.range 32).map (fun q => (s.dev.part q).pasids.length))
    (p = 0 ∨ s.dev.pstate p ≠ 0) ∧ (2 ^ 20 ≤ x ∨ (s.dev.pasidOwner x = none ∧ 256 ≤ held)))) ∧
  (∃ (s : State) (p x : Nat),
    s.dev.pins.stopped = false ∧ p < 32 ∧ (p = 0 ∨ s.dev.pstate p ≠ 0) ∧ x ∈ (s.dev.part p).pasids ∧
    s.dev.pasidUsed p x = false) ∧
  (∃ (s : State) (p : Nat),
    s.dev.pins.stopped = false ∧ p < 32 ∧ (¬ (p = 0 ∨ s.dev.pstate p ≠ 0))) ∧
  (∃ (s : State) (p x : Nat),
    s.dev.pins.stopped = false ∧ p < 32 ∧ (p = 0 ∨ s.dev.pstate p ≠ 0) ∧ x ∉ (s.dev.part p).pasids) ∧
  (∃ (s : State) (p x : Nat),
    s.dev.pins.stopped = false ∧ p < 32 ∧ (p = 0 ∨ s.dev.pstate p ≠ 0) ∧ x ∈ (s.dev.part p).pasids ∧
    s.dev.pasidUsed p x = true) ∧
  (∃ (s : State) (c : Src) (p eX : Nat),
    s.dev.pins.stopped = false ∧ p < 32 ∧
    (let d := ((s.dev.setF F.ptPartStateState p 2).modPart p (fun x => { x with frozenAt := eX })).modSched p (fun x => { x
      with freezeBy := some c })
    p ≠ 0 ∧ ((s.dev.part p).pasids.length ≤ 1) ∧ (s.dev.pstate p = 1 ∧ (s.dev.part p).rot = none) ∧
    (s.dev.manyRoles p = false ∨ s.dev.restartAt p (eX + 1) = true) ∧ 4 ≤ d.esState p ∧ d.esState p ≤ 6)) ∧
  (∃ (s : State) (c : Src) (p eX : Nat),
    s.dev.pins.stopped = false ∧ p < 32 ∧
    (let d := ((s.dev.setF F.ptPartStateState p 2).modPart p (fun x => { x with frozenAt := eX })).modSched p (fun x => { x
      with freezeBy := some c })
    p ≠ 0 ∧ ((s.dev.part p).pasids.length ≤ 1) ∧ (s.dev.pstate p = 1 ∧ (s.dev.part p).rot = none) ∧
    (s.dev.manyRoles p = false ∨ s.dev.restartAt p (eX + 1) = true) ∧ d.esState p = 3)) ∧
  (∃ (s : State) (c : Src) (p eX : Nat),
    s.dev.pins.stopped = false ∧ p < 32 ∧
    (let d := ((s.dev.setF F.ptPartStateState p 2).modPart p (fun x => { x with frozenAt := eX })).modSched p (fun x => { x
      with freezeBy := some c })
    p ≠ 0 ∧ ((s.dev.part p).pasids.length ≤ 1) ∧ (s.dev.pstate p = 1 ∧ (s.dev.part p).rot = none) ∧
    (s.dev.manyRoles p = false ∨ s.dev.restartAt p (eX + 1) = true) ∧ (d.esState p < 3 ∨ 6 < d.esState p))) ∧
  (∃ (s : State) (p : Nat),
    s.dev.pins.stopped = false ∧ p < 32 ∧ p = 0) ∧
  (∃ (s : State) (p : Nat),
    s.dev.pins.stopped = false ∧ p < 32 ∧ p ≠ 0 ∧ ¬ ((s.dev.part p).pasids.length ≤ 1)) ∧
  (∃ (s : State) (p : Nat),
    s.dev.pins.stopped = false ∧ p < 32 ∧ p ≠ 0 ∧ ((s.dev.part p).pasids.length ≤ 1) ∧ (¬ (s.dev.pstate p = 1 ∧
    (s.dev.part p).rot = none))) ∧
  (∃ (s : State) (p eX : Nat),
    s.dev.pins.stopped = false ∧ p < 32 ∧ p ≠ 0 ∧ ((s.dev.part p).pasids.length ≤ 1) ∧ (s.dev.pstate p = 1 ∧
    (s.dev.part p).rot = none) ∧ (¬ (s.dev.manyRoles p = false ∨ s.dev.restartAt p (eX + 1) = true))) ∧
  (∃ (s : State) (p pasid : Nat) (k : _),
    s.dev.pins.stopped = false ∧ p < 32 ∧ p ≠ 0 ∧ s.dev.pstate p = 3 ∧ (s.dev.part p).migKey = some k ∧
    s.dev.flag F.ptPartStateSaved p = false ∧ s.dev.pasidOk p pasid = true) ∧
  (∃ (s : State) (p pasid : Nat) (k : _),
    s.dev.pins.stopped = false ∧ p < 32 ∧ p ≠ 0 ∧ s.dev.pstate p = 3 ∧ (s.dev.part p).migKey = some k ∧
    s.dev.flag F.ptPartStateSaved p = false ∧ s.dev.pasidOk p pasid = false) ∧
  (∃ (s : State) (p pasid : Nat) (k : _),
    s.dev.pins.stopped = false ∧ p < 32 ∧ p ≠ 0 ∧ s.dev.pstate p = 3 ∧ (s.dev.part p).migKey = some k ∧
    s.dev.flag F.ptPartStateSaved p = false ∧ s.dev.pasidOk p pasid = true) ∧
  (∃ (s : State) (p : Nat),
    s.dev.pins.stopped = false ∧ p < 32 ∧ p = 0) ∧
  (∃ (s : State) (p : Nat),
    s.dev.pins.stopped = false ∧ p < 32 ∧ p ≠ 0 ∧
    (s.dev.pstate p ≠ 3 ∨ (s.dev.part p).migKey = none ∨ s.dev.flag F.ptPartStateSaved p = true)) ∧
  (∃ (s : State) (p : Nat),
    s.dev.pins.stopped = false ∧ p < 32 ∧ p = 0) ∧
  (∃ (s : State) (p : Nat),
    s.dev.pins.stopped = false ∧ p < 32 ∧ p ≠ 0 ∧ (¬ (s.dev.pstate p = 1 ∧ s.dev.esState p = 0 ∧ (s.dev.part p).pt = []))) ∧
  (∃ (s : State) (p pasid : Nat),
    s.dev.pins.stopped = false ∧ p < 32 ∧ p ≠ 0 ∧ (s.dev.pstate p = 1 ∧ s.dev.esState p = 0 ∧ (s.dev.part p).pt = []) ∧
    s.dev.pasidOk p pasid = false) ∧
  (∃ (s : State) (p pasid : Nat),
    s.dev.pins.stopped = false ∧ p < 32 ∧ p ≠ 0 ∧ (s.dev.pstate p = 1 ∧ s.dev.esState p = 0 ∧ (s.dev.part p).pt = []) ∧
    s.dev.pasidOk p pasid = true ∧ (s.dev.part p).migKey = none) ∧
  (∃ (s : State) (p pasid : Nat) (k : _),
    s.dev.pins.stopped = false ∧ p < 32 ∧ p ≠ 0 ∧ (s.dev.pstate p = 1 ∧ s.dev.esState p = 0 ∧ (s.dev.part p).pt = []) ∧
    s.dev.pasidOk p pasid = true ∧ (s.dev.part p).migKey = some k) ∧
  (∃ (s : State) (p pasid : Nat) (k : BitVec 256) (x : Slice),
    s.dev.pins.stopped = false ∧ p < 32 ∧ p ≠ 0 ∧ (s.dev.pstate p = 1 ∧ s.dev.esState p = 0 ∧ (s.dev.part p).pt = []) ∧
    s.dev.pasidOk p pasid = true ∧ (s.dev.part p).migKey = some k ∧ (¬ (x.sizes = (s.dev.part p).groups.map handleSize ∧
    x.grants = ((s.dev.heldGroups p).drop (s.dev.part p).groups.length).map handleSize))) ∧
  (∃ (s : State) (p pasid : Nat) (k : BitVec 256) (x : Slice),
    s.dev.pins.stopped = false ∧ p < 32 ∧ p ≠ 0 ∧ (s.dev.pstate p = 1 ∧ s.dev.esState p = 0 ∧ (s.dev.part p).pt = []) ∧
    s.dev.pasidOk p pasid = true ∧ (s.dev.part p).migKey = some k ∧
    (let tables := (s.dev.pool p).takeTables (tableCount (s.dev.part p) (newTables (s.dev.part p) (x.pages.map (·.1))).length)
    let placed := fun (q : Pool) => q.placeAll (x.pages.zipIdx.map (fun z => (z.1.2.2.1, z.1.2.2.2.1, z.2)))
    (x.sizes = (s.dev.part p).groups.map handleSize ∧
    x.grants = ((s.dev.heldGroups p).drop (s.dev.part p).groups.length).map handleSize) ∧
    (tables = none ∨ ∃ tf q, tables = some (tf, q) ∧ placed q = none))) ∧
  (∃ (s : State) (p pasid : Nat) (k : BitVec 256) (x : Slice) (tf q places : _),
    s.dev.pins.stopped = false ∧ p < 32 ∧ p ≠ 0 ∧ (s.dev.pstate p = 1 ∧ s.dev.esState p = 0 ∧ (s.dev.part p).pt = []) ∧
    s.dev.pasidOk p pasid = true ∧ (s.dev.part p).migKey = some k ∧
    (let tables := (s.dev.pool p).takeTables (tableCount (s.dev.part p) (newTables (s.dev.part p) (x.pages.map (·.1))).length)
    let placed := fun (q : Pool) => q.placeAll (x.pages.zipIdx.map (fun z => (z.1.2.2.1, z.1.2.2.2.1, z.2)))
    (x.sizes = (s.dev.part p).groups.map handleSize ∧
    x.grants = ((s.dev.heldGroups p).drop (s.dev.part p).groups.length).map handleSize) ∧ tables = some (tf, q) ∧
    placed q = some places)) ∧
  (∃ (s : State) (p abandon : Nat) (t0 : BitVec 64),
    s.dev.pins.stopped = false ∧ p < 32 ∧
    (let saved := s.dev.flag F.ptPartStateSaved p
    p ≠ 0 ∧ (s.dev.pstate p = 3 ∧ (saved = true → abandon = 1)) ∧ (t0.toNat % 800 = 0 ∧ 800000 ≤ (t0 - s.dev.nt).toInt ∧
    abandon ≤ 1))) ∧
  (∃ (s : State) (p : Nat),
    s.dev.pins.stopped = false ∧ p < 32 ∧ p = 0) ∧
  (∃ (s : State) (p abandon : Nat),
    s.dev.pins.stopped = false ∧ p < 32 ∧
    (let saved := s.dev.flag F.ptPartStateSaved p
    p ≠ 0 ∧ (¬ (s.dev.pstate p = 3 ∧ (saved = true → abandon = 1))))) ∧
  (∃ (s : State) (p abandon : Nat) (t0 : BitVec 64),
    s.dev.pins.stopped = false ∧ p < 32 ∧
    (let saved := s.dev.flag F.ptPartStateSaved p
    p ≠ 0 ∧ (s.dev.pstate p = 3 ∧ (saved = true → abandon = 1)) ∧ (¬ (t0.toNat % 800 = 0 ∧ 800000 ≤ (t0 - s.dev.nt).toInt ∧
    abandon ≤ 1)))) :=
  ⟨⟨part 0 {}, 31, 2 ^ 20 - 1, by decide⟩,
   ⟨part 0 { pasids := [7] }, 31, 7, 31, by decide⟩,
   ⟨State.reset, 31, by decide⟩,
   ⟨part 0 {}, 31, 2 ^ 20, by decide⟩,
   ⟨part 0 { pasids := [7] }, 31, 7, by decide⟩,
   ⟨State.reset, 31, by decide⟩,
   ⟨part 0 { pasids := [7] }, 31, 8, by decide⟩,
   ⟨part 0 { pasids := [7] } (setR [(F.ringCtlEnable, 16383, 1), (F.ringCtlPasidEn, 16383, 1), (F.ringCtlPasid, 16383, 7)]), 31, 7, by decide⟩,
   ⟨part 4 {}, src, 31, 0, by decide⟩,
   ⟨part 3 {}, src, 31, 0, by decide⟩,
   ⟨part 0 {}, src, 31, 0, by decide⟩,
   ⟨State.reset, 0, by decide⟩,
   ⟨part 0 { pasids := [7, 8] }, 31, by decide⟩,
   ⟨part 0 {} (setR [(F.ptPartStateState, 31, 2)]), 31, by decide⟩,
   ⟨part 4 { sched := { active := some { image with rolesM1 := 1, templates := [{ ccClear := 0, restart := false, dispFirst := 0, xchFirst := 0, dispCount := 0, xchCount := 0 }] } } }, 31, 0, by decide⟩,
   ⟨part 0 { pasids := [7], migKey := some 5 } (setR [(F.ptPartStateState, 31, 3)]), 31, 7, 5, by decide⟩,
   ⟨part 0 { pasids := [7], migKey := some 5 } (setR [(F.ptPartStateState, 31, 3)]), 31, 8, 5, by decide⟩,
   ⟨part 0 { pasids := [7], migKey := some 5 } (setR [(F.ptPartStateState, 31, 3)]), 31, 7, 5, by decide⟩,
   ⟨State.reset, 0, by decide⟩,
   ⟨State.reset, 31, by decide⟩,
   ⟨State.reset, 0, by decide⟩,
   ⟨part 1 {}, 31, by decide⟩,
   ⟨part 0 {}, 31, 7, by decide⟩,
   ⟨part 0 { pasids := [7] }, 31, 7, by decide⟩,
   ⟨part 0 { pasids := [7], migKey := some 5 }, 31, 7, 5, by decide⟩,
   ⟨part 0 { pasids := [7], migKey := some 5 }, 31, 7, 5, { cls := 0, sizes := [1], grants := [], reg := [], eX := 0, sched := {}, state := 2, epoch := 0, slot0 := none, slot1 := none, wgen := false, pages := [], areas := [] }, by decide⟩,
   ⟨part 0 { pasids := [7], migKey := some 5 }, 31, 7, 5, { cls := 0, sizes := [], grants := [], reg := [], eX := 0, sched := {}, state := 2, epoch := 0, slot0 := none, slot1 := none, wgen := false, pages := [(0, false, 0, 0, [])], areas := [] }, ⟨by decide, by decide, by decide, by decide, by decide, by decide, by decide, .inl (by decide)⟩⟩,
   ⟨part 0 { pasids := [7], migKey := some 5, ranges := [(0, 8)] }, 31, 7, 5, { cls := 0, sizes := [], grants := [], reg := [], eX := 0, sched := {}, state := 2, epoch := 0, slot0 := none, slot1 := none, wgen := false, pages := [], areas := [] }, [0], { ranges := [(0, 8)], grants := [], frames := [0], far := [] }, [], by decide⟩,
   ⟨part 7 {} (setR [(F.ptPartStateState, 31, 3)]), 31, 1, 800000, by decide⟩,
   ⟨State.reset, 0, by decide⟩,
   ⟨part 7 {} (setR [(F.ptPartStateState, 31, 3), (F.ptPartStateSaved, 31, 1)]), 31, 0, by decide⟩,
   ⟨part 7 {} (setR [(F.ptPartStateState, 31, 3)]), 31, 1, 799999, by decide⟩⟩

theorem test_witness_LendGroupsAct :
  (∃ (s : State) (b : Bytes),
    s.dev.pins.stopped = false ∧
    (let apply := BitVec.ofNat 64 (at_ b 0x08 8)
    (b.length = 0x80 + 8 * fld b 0 8 0) ∧ lglOk s.dev b = true ∧ ¬ ((apply - s.dev.nt).toInt < 1600000) ∧
    (s.dev.admitsLend (s.dev.lgl.groups ++ (lglDesc b).groups ++ s.dev.sgHandles) = true) ∧ s.dev.lglPend = none)) ∧
  (∃ (s : State) (b : Bytes) (l ts old : _),
    s.dev.pins.stopped = false ∧
    (let apply := BitVec.ofNat 64 (at_ b 0x08 8)
    (b.length = 0x80 + 8 * fld b 0 8 0) ∧ lglOk s.dev b = true ∧ ¬ ((apply - s.dev.nt).toInt < 1600000) ∧
    (s.dev.admitsLend (s.dev.lgl.groups ++ (lglDesc b).groups ++ s.dev.sgHandles) = true) ∧
    s.dev.lglPend = some (l, ts, old))) ∧
  (∃ (s : State) (b : Bytes),
    s.dev.pins.stopped = false ∧ ¬ (b.length = 0x80 + 8 * fld b 0 8 0)) ∧
  (∃ (s : State) (b : Bytes),
    s.dev.pins.stopped = false ∧ (b.length = 0x80 + 8 * fld b 0 8 0) ∧ lglOk s.dev b = false) ∧
  (∃ (s : State) (b : Bytes),
    s.dev.pins.stopped = false ∧
    (let apply := BitVec.ofNat 64 (at_ b 0x08 8)
    (b.length = 0x80 + 8 * fld b 0 8 0) ∧ lglOk s.dev b = true ∧ ((apply - s.dev.nt).toInt < 1600000))) ∧
  (∃ (s : State) (b : Bytes),
    s.dev.pins.stopped = false ∧
    (let apply := BitVec.ofNat 64 (at_ b 0x08 8)
    (b.length = 0x80 + 8 * fld b 0 8 0) ∧ lglOk s.dev b = true ∧ ¬ ((apply - s.dev.nt).toInt < 1600000) ∧
    ¬ (s.dev.admitsLend (s.dev.lgl.groups ++ (lglDesc b).groups ++ s.dev.sgHandles) = true))) ∧
  (∃ (s : State) (l t c : _),
    s.dev.pins.stopped = false ∧ s.dev.lglPend = some (l, t, c) ∧ reached s.dev t = true) ∧
  (∃ (s : State),
    s.dev.pins.stopped = false ∧ (∀ l t c, s.dev.lglPend = some (l, t, c) → reached s.dev t = false)) ∧
  (∃ (s : State) (i : Nat) (w : _),
    s.dev.pins.stopped = false ∧ i < 64 ∧ (s.dev.lend i).next = some w ∧ (s.dev.lend i).noticed = false ∧
    reached s.dev (w - 276000 - 800000) = true) ∧
  (∃ (s : State) (i : Nat),
    s.dev.pins.stopped = false ∧ i < 64 ∧
    (∀ w, (s.dev.lend i).next = some w → (s.dev.lend i).noticed = true ∨ reached s.dev (w - 276000 - 800000) = false)) ∧
  (∃ (s : State) (i : Nat) (w : _),
    s.dev.pins.stopped = false ∧ i < 64 ∧
    (let x := s.dev.lend i
    x.next = some w ∧ (¬ (x.phase = 2 ∨ x.phase = 3 ∨ (x.phase = 4 ∧
    ∃ g ∈ s.dev.lendCores i, s.dev.flag F.coreStateLent g = true))) ∧ reached s.dev (w - 276000) = true)) ∧
  (∃ (s : State) (i : Nat),
    s.dev.pins.stopped = false ∧ i < 64 ∧
    (let x := s.dev.lend i
    ((x.phase = 2 ∨ x.phase = 3 ∨ (x.phase = 4 ∧
    ∃ g ∈ s.dev.lendCores i, s.dev.flag F.coreStateLent g = true)) ∨ ∀ w, x.next = some w → reached s.dev (w - 276000) =
      false))) ∧
  (∃ (s : State) (i : Nat),
    s.dev.pins.stopped = false ∧ i < 64 ∧
    (let x := s.dev.lend i
    x.phase = 2 ∧ reached s.dev x.won = true ∧ s.dev.lendClear i = true)) ∧
  (∃ (s : State) (i : Nat),
    s.dev.pins.stopped = false ∧ i < 64 ∧
    (let x := s.dev.lend i
    x.phase = 2 ∧ reached s.dev x.won = true ∧ s.dev.lendClear i = false ∧ x.late = false)) ∧
  (∃ (s : State) (i : Nat),
    s.dev.pins.stopped = false ∧ i < 64 ∧
    (let x := s.dev.lend i
    (x.phase ≠ 2 ∨ reached s.dev x.won = false ∨ (s.dev.lendClear i = false ∧ x.late = true)))) ∧
  (∃ (s : State) (i : Nat),
    s.dev.pins.stopped = false ∧ i < 64 ∧
    (let x := s.dev.lend i
    (x.phase = 2 ∨ x.phase = 3) ∧ reached s.dev x.woff = true)) ∧
  (∃ (s : State) (i : Nat),
    s.dev.pins.stopped = false ∧ i < 64 ∧
    (let x := s.dev.lend i
    ((x.phase ≠ 2 ∧ x.phase ≠ 3) ∨ reached s.dev x.woff = false))) :=
  ⟨⟨State.reset, bytesAt 136 [(0x80, 500000), (0x40, 0), (0x18, 500000), (8, 1600000), (0, 1)], by decide⟩,
   ⟨on (fun d => { d with lglPend := some ({}, 0, src) }), bytesAt 136 [(0x80, 500000), (0x40, 0), (0x18, 500000), (8, 1600000), (0, 1)], {}, 0, src, by decide⟩,
   ⟨State.reset, [], by decide⟩,
   ⟨State.reset, bytesAt 136 [(0x80, 500000), (0x40, 0), (0x18, 500000), (8, 1600000), (0, 513)], by decide⟩,
   ⟨State.reset, bytesAt 136 [(0x80, 500000), (0x40, 0), (0x18, 500000), (8, 1599999), (0, 1)], by decide⟩,
   ⟨part 0 { reg := [(3, 16384 + 2 ^ 28)] } (fun d => { d with inForce := plainMap }), bytesAt 136 [(0x80, 500000), (0x40, 79), (0x18, 500000), (8, 1600000), (0, 65537)], by decide⟩,
   ⟨on (fun d => { d with lglPend := some ({}, 0, src) }), {}, 0, src, by decide⟩,
   ⟨State.reset, ⟨by decide, fun l t c h => by cases h⟩⟩,
   ⟨lendOn { next := some 1076000 }, 63, 1076000, by decide⟩,
   ⟨State.reset, 63, ⟨by decide, by decide, fun w h => by cases h⟩⟩,
   ⟨lendOn { next := some 276000 }, 63, 276000, by decide⟩,
   ⟨lendOn { phase := 3 }, 63, ⟨by decide, by decide, .inl (by decide)⟩⟩,
   ⟨lendOn { phase := 2 } (setR [(F.coreStateLent, 79, 1)]), 63, by decide⟩,
   ⟨lendOn { phase := 2 } (setR [(F.coreStateState, 79, 3)]), 63, by decide⟩,
   ⟨lendOn { phase := 2, late := true } (setR [(F.coreStateState, 79, 3)]), 63, by decide⟩,
   ⟨lendOn { phase := 3 }, 63, by decide⟩,
   ⟨State.reset, 63, by decide⟩⟩

theorem test_witness_ContextsAndSharedGroupsMove :
  (∃ (s : State) (g : Nat) (ue : Bool),
    s.dev.pins.stopped = false ∧ g < 80 ∧ s.dev.coreSt g = 3 ∧ ue = true) ∧
  (∃ (s : State) (g : Nat) (ue : Bool),
    s.dev.pins.stopped = false ∧ g < 80 ∧ s.dev.coreSt g = 3 ∧ ue = false) ∧
  (∃ (s : State) (g : Nat),
    s.dev.pins.stopped = false ∧ g < 80 ∧ s.dev.coreSt g ≠ 3) ∧
  (∃ (s : State) (g : Nat),
    s.dev.pins.stopped = false ∧ g < 80 ∧ s.dev.coreSt g = 4) ∧
  (∃ (s : State) (g : Nat),
    s.dev.pins.stopped = false ∧ g < 80 ∧ s.dev.coreSt g ≠ 4) ∧
  (∃ (s : State) (g : Nat),
    s.dev.pins.stopped = false ∧ g < 80 ∧
    (let d := sliceBegins g (restoreDone g s.dev)
    let p := d.workOf g
    s.dev.coreSt g = 5 ∧ (¬ (d.lendPhase g = 2 ∨ ((d.part p).barrier = none ∧ d.pstate p = 2))) ∧
    (¬ ((d.part p).barrier = none ∧ d.pstate p = 4)))) ∧
  (∃ (s : State) (g : Nat),
    s.dev.pins.stopped = false ∧ g < 80 ∧
    (let d := sliceBegins g (restoreDone g s.dev)
    let p := d.workOf g
    s.dev.coreSt g = 5 ∧ (d.lendPhase g = 2 ∨ ((d.part p).barrier = none ∧ d.pstate p = 2)))) ∧
  (∃ (s : State) (g : Nat),
    s.dev.pins.stopped = false ∧ g < 80 ∧
    (let d := sliceBegins g (restoreDone g s.dev)
    let p := d.workOf g
    s.dev.coreSt g = 5 ∧ (¬ (d.lendPhase g = 2 ∨ ((d.part p).barrier = none ∧ d.pstate p = 2))) ∧ ((d.part p).barrier = none ∧
    d.pstate p = 4))) ∧
  (∃ (s : State) (g : Nat),
    s.dev.pins.stopped = false ∧ g < 80 ∧ s.dev.coreSt g ≠ 5) ∧
  (∃ (s : State) (b : Bytes),
    s.dev.pins.stopped = false ∧ sgStatus s.dev b = 0 ∧ ((s.dev.sg (fld b 0 4 0)).grants = [] ∧
    (s.dev.sg (fld b 0 4 0)).ending = [])) ∧
  (∃ (s : State) (b : Bytes),
    s.dev.pins.stopped = false ∧ sgStatus s.dev b = 0 ∧ (¬ ((s.dev.sg (fld b 0 4 0)).grants = [] ∧
    (s.dev.sg (fld b 0 4 0)).ending = []))) ∧
  (∃ (s : State) (b : Bytes),
    s.dev.pins.stopped = false ∧ sgStatus s.dev b ≠ 0) ∧
  (∃ (s : State) (i : Nat),
    s.dev.pins.stopped = false ∧ i < 32 ∧ (s.dev.sg i).grants ≠ [] ∧
    (∀ k g, (s.dev.sg i).run = some k → (s.dev.sg i).grants[k]? = some g → g.resident = false)) ∧
  (∃ (s : State) (i : Nat),
    s.dev.pins.stopped = false ∧ i < 32 ∧
    (let d := if (s.dev.sg i).fixed then s.dev else sgPending i s.dev
    (s.dev.sg i).grants ≠ [] ∧
    (∀ k ∈ d.grantIx i, ∀ g, (d.sg i).grants[k]? = some g → g.resident = true → d.sgRunnable i k = false))) ∧
  (∃ (s : State) (i : Nat),
    s.dev.pins.stopped = false ∧ i < 32 ∧ (s.dev.sg i).grants = []) ∧
  (∃ (s : State) (i : Nat) (t : _),
    s.dev.pins.stopped = false ∧ i < 32 ∧
    (let since := ((s.dev.sg i).run.bind (fun k => (s.dev.sg i).grants[k]?)).bind (·.blocked)
    since = some t ∧ t + (s.dev.sg i).yield * 3000 ≤ s.dev.acyc ∧ (s.dev.sg i).fixed = false)) ∧
  (∃ (s : State) (i : Nat),
    s.dev.pins.stopped = false ∧ i < 32 ∧
    (let since := ((s.dev.sg i).run.bind (fun k => (s.dev.sg i).grants[k]?)).bind (·.blocked)
    ((s.dev.sg i).fixed = true ∨ ∀ t, since = some t → s.dev.acyc < t + (s.dev.sg i).yield * 3000))) ∧
  (∃ (s : State) (i : Nat) (k g : _),
    s.dev.pins.stopped = false ∧ i < 32 ∧
    (let x := s.dev.sg i
    let due := if x.run = none then x.sliceAt else x.sliceAt + x.slice * 300000
    x.fixed = true ∧ x.suspended = none ∧ due ≤ s.dev.acyc ∧ x.pend = [] ∧
    k = (match x.run with | some k => (k + 1) % x.grants.length | none => 0) ∧ x.grants[k]? = some g ∧
    (let d := sgView i (s.dev.modSg i (fun z => { z with run := some k, sliceAt := due }))
    d.degraded = false ∧ d.pstate g.part = 1))) ∧
  (∃ (s : State) (i : Nat) (k g : _),
    s.dev.pins.stopped = false ∧ i < 32 ∧
    (let x := s.dev.sg i
    let due := if x.run = none then x.sliceAt else x.sliceAt + x.slice * 300000
    x.fixed = true ∧ x.suspended = none ∧ due ≤ s.dev.acyc ∧ x.pend = [] ∧
    k = (match x.run with | some k => (k + 1) % x.grants.length | none => 0) ∧ x.grants[k]? = some g ∧
    (let d := sgView i (s.dev.modSg i (fun z => { z with run := some k, sliceAt := due }))
    (d.degraded = true ∨ d.pstate g.part ≠ 1)))) ∧
  (∃ (s : State) (i : Nat),
    s.dev.pins.stopped = false ∧ i < 32 ∧
    (let x := s.dev.sg i
    let due := if x.run = none then x.sliceAt else x.sliceAt + x.slice * 300000
    (x.fixed = false ∨ x.grants = [] ∨ x.suspended.isSome = true ∨ s.dev.acyc < due))) :=
  ⟨⟨on (setR [(F.coreStateState, 79, 3)]), 79, true, by decide⟩,
   ⟨on (setR [(F.coreStateState, 79, 3)]), 79, false, by decide⟩,
   ⟨State.reset, 79, by decide⟩,
   ⟨on (setR [(F.coreStateState, 79, 4)]), 79, by decide⟩,
   ⟨State.reset, 79, by decide⟩,
   ⟨part 0 { groups := [79] } (setR [(F.coreStateState, 79, 5)]), 79, by decide⟩,
   ⟨part 0 { groups := [79] } (setR [(F.coreStateState, 79, 5), (F.ptPartStateState, 31, 2)]), 79, by decide⟩,
   ⟨part 0 { groups := [79] } (setR [(F.coreStateState, 79, 5), (F.ptPartStateState, 31, 4)]), 79, by decide⟩,
   ⟨part 0 { groups := [79] } (setR [(F.coreStateState, 79, 1)]), 79, by decide⟩,
   ⟨part 0 { saveCount := [(3, 6)] } (fun d => { setR [(F.setupLockLock, 0, 1), (F.coreStateOwned, 79, 0)] d with inForce := plainMap }), bytesAt 80 [(16, 31 + 256), (8, 1), (4, 79 + 2 ^ 16), (0, 31)], by decide⟩,
   ⟨(fun s : State => { s with dev := sgApply (bytesAt 80 [(16, 31 + 256), (8, 1), (4, 79 + 2 ^ 16), (0, 31)]) src s.dev }) (part 0 { saveCount := [(3, 6)] } (fun d => { setR [(F.setupLockLock, 0, 1), (F.coreStateOwned, 79, 0)] d with inForce := plainMap })), bytesAt 80 [(16, 31 + 256), (8, 1), (4, 79 + 2 ^ 16), (0, 31)], by decide +kernel⟩,
   ⟨State.reset, [], by decide⟩,
   ⟨shared { run := none, fixed := true }, 31, ⟨by decide, by decide, by decide, fun k g h => by cases h⟩⟩,
   ⟨on (fun d => d.modSg 31 (fun _ => { handle := 79, grants := [⟨31, 1, false, 0, 0, 0, some 0, 0⟩], run := none, fixed := true })), 31, ⟨by decide, by decide, by decide, by
     intro k hk g hg h
     have hk : k < 1 := List.mem_range.mp hk
     obtain rfl : k = 0 := by omega
     cases hg; cases h⟩⟩,
   ⟨State.reset, 31, by decide⟩,
   ⟨shared { run := some 0, fixed := false }, 31, 0, by decide⟩,
   ⟨shared { run := some 0, fixed := true }, 31, ⟨by decide, by decide, .inl (by decide)⟩⟩,
   ⟨shared { run := none, fixed := true } [(F.ptPartStateState, 30, 1)], 31, 0, ⟨30, 1, true, 0, 0, 0, some 0, 0⟩, by decide⟩,
   ⟨shared { run := none, fixed := true } [(F.ptPartStateState, 30, 1), (F.fltStateService, 0, 1)], 31, 0, ⟨30, 1, true, 0, 0, 0, some 0, 0⟩, by decide⟩,
   ⟨State.reset, 31, by decide⟩⟩

theorem test_witness_KeysAndMailboxAct :
  (∃ (s : State) (p : Nat),
    s.dev.pins.stopped = false ∧ p < 32 ∧
    (let x := s.dev.part p
    (p = 0 ∨ s.dev.pstate p = 1) ∧ x.slot0 = none ∧ x.slot1 = none)) ∧
  (∃ (s : State) (p : Nat),
    s.dev.pins.stopped = false ∧ p < 32 ∧ (¬ (p = 0 ∨ s.dev.pstate p = 1))) ∧
  (∃ (s : State) (p : Nat),
    s.dev.pins.stopped = false ∧ p < 32 ∧
    (let x := s.dev.part p
    (p = 0 ∨ s.dev.pstate p = 1) ∧ (x.slot0.isSome = true ∨ x.slot1.isSome = true))) ∧
  (∃ (s : State) (p : Nat),
    s.dev.pins.stopped = false ∧ p < 32 ∧
    (let x := s.dev.part p
    (p = 0 ∨ s.dev.pstate p = 1) ∧ x.slot0 = none ∧ x.slot1 = none)) ∧
  (∃ (s : State) (p : Nat) (rate : _),
    s.dev.pins.stopped = false ∧ p < 32 ∧
    (let x := s.dev.part p
    rate ≤ 255 ∧ (p = 0 ∨ s.dev.pstate p = 1) ∧ x.rot = none ∧ s.dev.wgen p = false ∧ x.slot0.isSome = true)) ∧
  (∃ (s : State) (p : Nat) (rate : _),
    s.dev.pins.stopped = false ∧ p < 32 ∧
    (let x := s.dev.part p
    rate ≤ 255 ∧ (p = 0 ∨ s.dev.pstate p = 1) ∧ x.rot = none ∧ s.dev.wgen p = true ∧ x.slot1.isSome = true)) ∧
  (∃ (s : State) (p : Nat),
    s.dev.pins.stopped = false ∧ p < 32 ∧ (¬ (p = 0 ∨ s.dev.pstate p = 1))) ∧
  (∃ (s : State) (p : Nat),
    s.dev.pins.stopped = false ∧ p < 32 ∧
    (let x := s.dev.part p
    (p = 0 ∨ s.dev.pstate p = 1) ∧ x.rot.isSome = true)) ∧
  (∃ (s : State) (p : Nat),
    s.dev.pins.stopped = false ∧ p < 32 ∧
    (let x := s.dev.part p
    (p = 0 ∨ s.dev.pstate p = 1) ∧ x.rot = none ∧ (if s.dev.wgen p then x.slot1 else x.slot0) = none)) ∧
  (∃ (s : State) (p : Nat) (rate : _),
    s.dev.pins.stopped = false ∧ p < 32 ∧
    (let x := s.dev.part p
    (p = 0 ∨ s.dev.pstate p = 1) ∧ x.rot = none ∧ (if s.dev.wgen p then x.slot1 else x.slot0).isSome = true ∧ rate ≤ 255)) ∧
  (∃ (s : State) (p : Nat),
    s.dev.pins.stopped = false ∧ p < 32 ∧ linkState (s.dev.esState p) = false) ∧
  (∃ (s : State) (p : Nat),
    s.dev.pins.stopped = false ∧ p < 32 ∧ linkState (s.dev.esState p) = true) ∧
  (∃ (s : State) (p : Nat),
    s.dev.pins.stopped = false ∧ p < 32 ∧ linkState (s.dev.esState p) = false) ∧
  (∃ (s : State) (p : Nat) (k : Bytes),
    s.dev.pins.stopped = false ∧ p < 32 ∧ k.length = 32) ∧
  (∃ (s : State) (p : Nat),
    s.dev.pins.stopped = false ∧ p < 32) ∧
  (∃ (s : State) (p : Nat) (b : Bytes),
    s.dev.pins.stopped = false ∧ p < 32 ∧
    (let l := (s.dev.part p).allowed
    leNat b ≠ 0 ∧ b ∉ l ∧ l.length < 8)) ∧
  (∃ (s : State) (p : Nat) (b : Bytes),
    s.dev.pins.stopped = false ∧ p < 32 ∧
    (let l := (s.dev.part p).allowed
    leNat b ≠ 0 ∧ b ∈ l)) ∧
  (∃ (s : State) (p : Nat) (b : Bytes),
    s.dev.pins.stopped = false ∧ p < 32 ∧
    (let l := (s.dev.part p).allowed
    leNat b ≠ 0 ∧ b ∉ l ∧ 8 ≤ l.length)) ∧
  (∃ (s : State) (p : Nat) (b : Bytes),
    s.dev.pins.stopped = false ∧ p < 32 ∧ leNat b = 0) ∧
  (∃ (s : State),
    s.dev.pins.stopped = false ∧ s.dev.mboxIs 1 = true ∧ (s.dev.mbox.length = 4 ∧ at_ s.dev.mbox 1 3 = 0) ∧
    s.dev.flag F.lgStateIdentityOk = true) ∧
  (∃ (s : State),
    s.dev.pins.stopped = false ∧ s.dev.mboxIs 1 = true ∧ (¬ (s.dev.mbox.length = 4 ∧ at_ s.dev.mbox 1 3 = 0))) ∧
  (∃ (s : State),
    s.dev.pins.stopped = false ∧ s.dev.mboxIs 1 = true ∧ (s.dev.mbox.length = 4 ∧ at_ s.dev.mbox 1 3 = 0) ∧
    s.dev.flag F.lgStateIdentityOk = false) ∧
  (∃ (s : State),
    s.dev.pins.stopped = false ∧ s.dev.mboxIs 1 = false) ∧
  (∃ (s : State) (b nl : Bytes) (e : BitVec 384) (i : Nat) (d1 d : Dev),
    s.dev.pins.stopped = false ∧ s.dev.mboxIs 2 = true ∧ s.dev.mbox = b ∧ s.dev.freeSession = some i ∧
    takeBytes 32 s.dev = (nl, d1) ∧ takeFree 384 d1 = (e, d)) ∧
  (∃ (s : State),
    s.dev.pins.stopped = false ∧ s.dev.mboxIs 2 = true ∧ openStatus s.dev s.dev.mbox ≠ 0) ∧
  (∃ (s : State),
    s.dev.pins.stopped = false ∧ s.dev.mboxIs 2 = false) ∧
  (∃ (s : State),
    s.dev.pins.stopped = false ∧
    (let b := s.dev.mbox
    let i := at_ b 1 1
    let x := s.dev.sess i
    s.dev.mboxIs 3 = true ∧ (b.length = 100 ∧ at_ b 2 2 = 0) ∧ (1 ≤ i ∧ i ≤ 64 ∧ x.opening.isSome = true) ∧
    roleStatus s.dev x = 0)) ∧
  (∃ (s : State),
    s.dev.pins.stopped = false ∧
    (let b := s.dev.mbox
    s.dev.mboxIs 3 = true ∧ (¬ (b.length = 100 ∧ at_ b 2 2 = 0)))) ∧
  (∃ (s : State),
    s.dev.pins.stopped = false ∧
    (let b := s.dev.mbox
    let i := at_ b 1 1
    let x := s.dev.sess i
    s.dev.mboxIs 3 = true ∧ (b.length = 100 ∧ at_ b 2 2 = 0) ∧ (¬ (1 ≤ i ∧ i ≤ 64 ∧ x.opening.isSome = true)))) ∧
  (∃ (s : State),
    s.dev.pins.stopped = false ∧
    (let b := s.dev.mbox
    let i := at_ b 1 1
    let x := s.dev.sess i
    s.dev.mboxIs 3 = true ∧ (b.length = 100 ∧ at_ b 2 2 = 0) ∧ (1 ≤ i ∧ i ≤ 64 ∧ x.opening.isSome = true))) ∧
  (∃ (s : State),
    s.dev.pins.stopped = false ∧
    (let b := s.dev.mbox
    let i := at_ b 1 1
    let x := s.dev.sess i
    s.dev.mboxIs 3 = true ∧ (b.length = 100 ∧ at_ b 2 2 = 0) ∧ (1 ≤ i ∧ i ≤ 64 ∧ x.opening.isSome = true) ∧
    roleStatus s.dev x ≠ 0)) ∧
  (∃ (s : State),
    s.dev.pins.stopped = false ∧ s.dev.mboxIs 3 = false) ∧
  (∃ (s : State) (i : Nat) (t : _),
    s.dev.pins.stopped = false ∧ i < 65 ∧ (s.dev.sess i).opening = some t ∧ reached s.dev (later t 8000000000) = true) ∧
  (∃ (s : State) (i : Nat),
    s.dev.pins.stopped = false ∧ i < 65 ∧ (∀ t, (s.dev.sess i).opening = some t → reached s.dev (later t 8000000000) = false)) :=
  ⟨⟨part 0 {}, 31, by decide⟩,
   ⟨State.reset, 31, by decide⟩,
   ⟨part 0 { slot1 := some 1 }, 31, by decide⟩,
   ⟨part 0 {}, 31, by decide⟩,
   ⟨part 0 { slot0 := some 1 }, 31, 255, by decide⟩,
   ⟨part 0 { slot1 := some 1 } (setR [(F.lgKeysWgen, 31, 1)]), 31, 255, by decide⟩,
   ⟨State.reset, 31, by decide⟩,
   ⟨part 0 { rot := some ⟨src, 0, 0, 0, 0⟩ }, 31, by decide⟩,
   ⟨part 0 {}, 31, by decide⟩,
   ⟨part 0 { slot0 := some 1 }, 31, 255, by decide⟩,
   ⟨part 0 {}, 31, by decide⟩,
   ⟨part 4 {}, 31, by decide⟩,
   ⟨part 0 {}, 31, by decide⟩,
   ⟨part 0 {}, 31, zeros 32, by decide⟩,
   ⟨part 0 {}, 31, by decide⟩,
   ⟨part 0 {}, 31, [1], by decide⟩,
   ⟨part 0 { allowed := [[1]] }, 31, [1], by decide⟩,
   ⟨part 0 { allowed := [[2], [3], [4], [5], [6], [7], [8], [9]] }, 31, [1], by decide⟩,
   ⟨part 0 {}, 31, [0], by decide⟩,
   ⟨mailbox ([1, 0, 0, 0]), by decide⟩,
   ⟨mailbox ([1, 0, 0, 1]), by decide⟩,
   ⟨mailbox ([1, 0, 0, 0]) (setR [(F.lgStateIdentityOk, 0, 0)]), by decide⟩,
   ⟨State.reset, by decide⟩,
   ⟨mailbox (bytesAt 0xE6 [(0, 0x0102)]), bytesAt 0xE6 [(0, 0x0102)], (takeBytes 32 (mailbox (bytesAt 0xE6 [(0, 0x0102)])).dev).1, (takeFree 384 (takeBytes 32 (mailbox (bytesAt 0xE6 [(0, 0x0102)])).dev).2).1, 1, (takeBytes 32 (mailbox (bytesAt 0xE6 [(0, 0x0102)])).dev).2, (takeFree 384 (takeBytes 32 (mailbox (bytesAt 0xE6 [(0, 0x0102)])).dev).2).2, ⟨by decide, by decide, by decide, by decide, (Prod.eta _).symm, (Prod.eta _).symm⟩⟩,
   ⟨mailbox ([2]), by decide⟩,
   ⟨State.reset, by decide⟩,
   ⟨mailbox (bytesAt 100 [(0, 0x4003)]) (fun d => d.setSess 64 { role := 1, part := 0, opening := some 0, qs := d.flash.operKey }), by decide⟩,
   ⟨mailbox (bytesAt 99 [(0, 0x4003)]), by decide⟩,
   ⟨mailbox (bytesAt 100 [(0, 0x4103)]), by decide⟩,
   ⟨mailbox (bytesAt 100 [(0, 0x4003)]) (fun d => d.setSess 64 { role := 1, part := 0, opening := some 0, qs := d.flash.operKey }), by decide⟩,
   ⟨mailbox (bytesAt 100 [(0, 0x4003)]) (fun d => d.setSess 64 { role := 3, part := 0, opening := some 0 }), by decide⟩,
   ⟨State.reset, by decide⟩,
   ⟨on (fun d => ({ d with nt := 8000000000 } : Dev).setSess 64 { role := 1, part := 0, opening := some 0 }), 64, 0, by decide⟩,
   ⟨State.reset, 64, ⟨by decide, by decide, fun t h => by cases h⟩⟩⟩

theorem test_witness_LorgilCommandsAct :
  (∃ (s : State),
    s.dev.pins.stopped = false) ∧
  (∃ (s : State) (p : Nat) (b : Bytes) (d : Dev),
    s.dev.pins.stopped = false ∧ p < 32 ∧ reportPart p s.dev = (b, d)) ∧
  (∃ (s : State) (kind : Nat),
    s.dev.pins.stopped = false ∧ 1 < kind) ∧
  (∃ (s : State) (p : Nat) (b : Bytes) (d : Dev),
    s.dev.pins.stopped = false ∧ 1 ≤ p ∧ p < 32 ∧ reportPart p s.dev = (b, d)) ∧
  (∃ (s : State) (c : Src),
    s.dev.pins.stopped = false ∧ c.ring < 16384) ∧
  (∃ (s : State) (x : Nat × Nat × Nat),
    s.dev.pins.stopped = false ∧ s.dev.flash.svnFloor ≤ x.2.2) ∧
  (∃ (s : State),
    s.dev.pins.stopped = false) :=
  ⟨⟨State.reset, by decide⟩,
   ⟨State.reset, 31, (reportPart 31 State.reset.dev).1, (reportPart 31 State.reset.dev).2, ⟨by decide, by decide, (Prod.eta _).symm⟩⟩,
   ⟨State.reset, 2, by decide⟩,
   ⟨part 0 {}, 31, (reportPart 31 (part 0 {}).dev).1, _, ⟨by decide, by decide, by decide, rfl⟩⟩,
   ⟨State.reset, src, by decide⟩,
   ⟨State.reset, (0, 0, 0), by decide⟩,
   ⟨State.reset, by decide⟩⟩

theorem test_witness_ResetsAct :
  (∃ (s : State) (h : Nat) (cores : List Nat),
    s.dev.pins.stopped = false ∧ s.dev.legalCores h = some cores) ∧
  (∃ (s : State) (p : Nat),
    s.dev.pins.stopped = false ∧ p < 32 ∧ s.dev.pstate p ≠ 0) ∧
  (∃ (s : State) (t : Nat),
    s.dev.pins.stopped = false ∧ t < 4) ∧
  (∃ (s : State),
    s.dev.pins.stopped = false) ∧
  (∃ (s : State) (scope p t : Nat),
    s.dev.pins.stopped = false ∧ ((scope = 1 ∧ s.dev.legalCores t = none) ∨ (scope = 2 ∧
    (32 ≤ p ∨ s.dev.pstate p = 0)) ∨ (scope = 3 ∧ 4 ≤ t % 256) ∨ (scope ≠ 1 ∧ scope ≠ 2 ∧ scope ≠ 3 ∧ scope ≠ 5))) ∧
  (∃ (s : State) (x : ResetRt),
    s.dev.pins.stopped = false ∧ s.dev.resets.find? (fun y => s.dev.resetOver y) = some x) ∧
  (∃ (s : State),
    s.dev.pins.stopped = false ∧ (∀ y ∈ s.dev.resets, s.dev.resetOver y = false)) ∧
  (∃ (s : State) (x : ResetRt) (site : SiteId),
    s.dev.pins.stopped = false ∧ (∀ e, site = .engine e → engOk e = true) ∧
    (s.dev.resets.find? (fun y => decide (y.site = site ∧ y.due ≤ s.dev.acyc) && ! s.dev.resetOver y) = some x)) ∧
  (∃ (s : State) (site : SiteId),
    s.dev.pins.stopped = false ∧ (∀ y ∈ s.dev.resets, y.site = site → y.due ≤ s.dev.acyc → s.dev.resetOver y = true)) :=
  ⟨⟨on (fun d => { d with inForce := plainMap }), 79, [79], by decide⟩,
   ⟨part 0 {}, 31, by decide⟩,
   ⟨State.reset, 3, by decide⟩,
   ⟨State.reset, by decide⟩,
   ⟨State.reset, 3, 0, 4, by decide⟩,
   ⟨on (fun d => { d with resets := [⟨.device, 1, 79, 0, some src⟩] }), ⟨.device, 1, 79, 0, some src⟩, by decide⟩,
   ⟨State.reset, ⟨by decide, fun y h => by cases h⟩⟩,
   ⟨on (fun d => { setR [(F.coreStateState, 79, 4)] d with resets := [⟨.device, 1, 79, 0, some src⟩] }), ⟨.device, 1, 79, 0, some src⟩, .device, ⟨by decide, fun e h => (by cases h), by decide⟩⟩,
   ⟨State.reset, .host, ⟨by decide, fun y h => by cases h⟩⟩⟩

theorem test_witness_MembershipAndHealthAct :
  (∃ (s : State) (e : EngineId) (die k i : _),
    s.dev.pins.stopped = false ∧ engOk e = true ∧ (s.dev.engBusy e = true ∧ s.dev.stuckSince e + s.dev.wdogTime ≤ s.dev.acyc) ∧
    e = .coding die k i) ∧
  (∃ (s : State) (e : EngineId) (q rest : _),
    s.dev.pins.stopped = false ∧ engOk e = true ∧
    (let d := faultRecord 1 0 0 (engPlace e).1 (engPlace e).2.1 (engPlace e).2.2 (health 4 1 (raiseFlt F.fltStatusHang
      (s.dev.addSat F.fltStateHangs 0 1)))
    (s.dev.engBusy e = true ∧ s.dev.stuckSince e + s.dev.wdogTime ≤ s.dev.acyc) ∧ (∀ die k i, e ≠ .coding die k i) ∧
    (d.watchOf e).suspects = q :: rest)) ∧
  (∃ (s : State) (e : EngineId),
    s.dev.pins.stopped = false ∧ engOk e = true ∧
    (let d := faultRecord 1 0 0 (engPlace e).1 (engPlace e).2.1 (engPlace e).2.2 (health 4 1 (raiseFlt F.fltStatusHang
      (s.dev.addSat F.fltStateHangs 0 1)))
    (s.dev.engBusy e = true ∧ s.dev.stuckSince e + s.dev.wdogTime ≤ s.dev.acyc) ∧ (∀ die k i, e ≠ .coding die k i) ∧
    (d.watchOf e).suspects = [] ∧ d.workers e = [])) ∧
  (∃ (s : State) (e : EngineId),
    s.dev.pins.stopped = false ∧ engOk e = true ∧
    (let d := faultRecord 1 0 0 (engPlace e).1 (engPlace e).2.1 (engPlace e).2.2 (health 4 1 (raiseFlt F.fltStatusHang
      (s.dev.addSat F.fltStateHangs 0 1)))
    (s.dev.engBusy e = true ∧ s.dev.stuckSince e + s.dev.wdogTime ≤ s.dev.acyc) ∧ (∀ die k i, e ≠ .coding die k i) ∧
    (d.watchOf e).suspects = [] ∧ d.workers e ≠ [])) ∧
  (∃ (s : State) (e : EngineId),
    s.dev.pins.stopped = false ∧ engOk e = true ∧ (¬ (s.dev.engBusy e = true ∧
    s.dev.stuckSince e + s.dev.wdogTime ≤ s.dev.acyc))) ∧
  (∃ (s : State) (e : EngineId) (q rest : _),
    s.dev.pins.stopped = false ∧ engOk e = true ∧ (s.dev.watchOf e).suspects = q :: rest ∧ s.dev.probed e q = true) ∧
  (∃ (s : State) (e : EngineId),
    s.dev.pins.stopped = false ∧ engOk e = true ∧
    (∀ q rest, (s.dev.watchOf e).suspects = q :: rest → s.dev.probed e q = false)) ∧
  (∃ (s : State) (flags k : Nat) (b : Bytes),
    s.dev.pins.stopped = false ∧ (flags ≤ 1 ∧ b.length = 512) ∧ s.dev.getF F.fhMemberMepoch ≤ k ∧
    s.dev.getF F.tlSelfFaddr ∈ bitmapList b) ∧
  (∃ (s : State) (flags k : Nat) (b : Bytes),
    s.dev.pins.stopped = false ∧ (flags ≤ 1 ∧ b.length = 512) ∧ s.dev.getF F.fhMemberMepoch ≤ k ∧
    s.dev.getF F.tlSelfFaddr ∉ bitmapList b) ∧
  (∃ (s : State) (flags k : Nat) (b : Bytes),
    s.dev.pins.stopped = false ∧ (flags ≤ 1 ∧ b.length = 512) ∧ k < s.dev.getF F.fhMemberMepoch) ∧
  (∃ (s : State) (flags : Nat) (b : Bytes),
    s.dev.pins.stopped = false ∧ (¬ (flags ≤ 1 ∧ b.length = 512))) ∧
  (∃ (s : State) (mode : Nat),
    s.dev.pins.stopped = false ∧ mode ≤ 1 ∧ s.dev.oos = false) ∧
  (∃ (s : State) (mode : Nat),
    s.dev.pins.stopped = false ∧ mode ≤ 1 ∧ s.dev.oos = true) ∧
  (∃ (s : State) (mode : Nat),
    s.dev.pins.stopped = false ∧ 1 < mode) ∧
  (∃ (s : State),
    s.dev.pins.stopped = false ∧ s.dev.oos = true) ∧
  (∃ (s : State),
    s.dev.pins.stopped = false ∧ s.dev.oos = false) ∧
  (∃ (s : State) (t : _),
    s.dev.pins.stopped = false ∧ s.dev.beat 0 800000 0 = some t) ∧
  (∃ (s : State),
    s.dev.pins.stopped = false ∧ s.dev.beat 0 800000 0 = none) ∧
  (∃ (s : State) (t : _),
    s.dev.pins.stopped = false ∧ s.dev.beat 1 80000000 0 = some t) ∧
  (∃ (s : State),
    s.dev.pins.stopped = false ∧ s.dev.beat 1 80000000 0 = none) ∧
  (∃ (s : State) (die link : Nat),
    s.dev.pins.stopped = false ∧ die < 4 ∧ link < 3) :=
  ⟨⟨on (fun d => ({ d with acyc := 6000000 } : Dev).modCod 3 (fun c => { c with busy := [(112, { q := 15, j := 9, r := 0, until_ := 0 })] })), .coding 3 7 0, 3, 7, 0, by decide⟩,
   ⟨on (fun d => ({ d with acyc := 6000000, watch := [(318, { suspects := [1, 2] })] } : Dev).modCore 79 (fun c => { c with se := { running := true } })), .core 79 2, 1, [2], ⟨by decide, by decide, by decide, (fun _ _ _ h => by cases h), by decide⟩⟩,
   ⟨on (fun d => ({ d with acyc := 6000000 } : Dev).modCore 79 (fun c => { c with se := { running := true } })), .core 79 2, ⟨by decide, by decide, by decide, (fun _ _ _ h => by cases h), by decide, by decide⟩⟩,
   ⟨part 0 {} (fun d => ({ d with acyc := 6000000 } : Dev).modCore 79 (fun c => { c with se := { running := true } })), .core 79 2, ⟨by decide, by decide, by decide, (fun _ _ _ h => by cases h), by decide, by decide⟩⟩,
   ⟨State.reset, .core 79 3, by decide⟩,
   ⟨on (fun d => { d with acyc := 300000, watch := [(611, { suspects := [1, 2], base := 0 })] }), .edge 11, 1, [2], by decide⟩,
   ⟨State.reset, .edge 11, ⟨by decide, by decide, fun q rest h => by cases h⟩⟩,
   ⟨State.reset, 1, 7, 1 :: zeros 511, ⟨by decide, by decide, by decide, by simp only [bitmapList, List.mem_filter, List.mem_range]; decide⟩⟩,
   ⟨State.reset, 0, 0, zeros 512, ⟨by decide, by decide, by decide, by simp only [bitmapList, List.mem_filter, List.mem_range]; decide⟩⟩,
   ⟨on (setR [(F.fhMemberMepoch, 0, 1)]), 0, 0, zeros 512, by decide⟩,
   ⟨State.reset, 2, zeros 512, by decide⟩,
   ⟨State.reset, 1, by decide⟩,
   ⟨on (setR [(F.fltStateService, 0, 2)]), 1, by decide⟩,
   ⟨State.reset, 2, by decide⟩,
   ⟨on (setR [(F.fltStateService, 0, 2)]), by decide⟩,
   ⟨State.reset, by decide⟩,
   ⟨on (fun d => { setR [(F.fltHbAddrBase, 0, 1)] d with nt := 800000 }), 800000, by decide⟩,
   ⟨State.reset, by decide⟩,
   ⟨on (fun d => { d with nt := 80000000 }), 80000000, by decide⟩,
   ⟨State.reset, by decide⟩,
   ⟨State.reset, 3, 2, by decide⟩⟩


/-! ### Slots of the signal engine -/

/-- A slot word by its fields (R83). -/
def slot (opc t : Nat) (imm vd va vb vc km stg : Nat := 0) : Slot64 :=
  BitVec.ofNat 64 (opc + stg * 2 ^ 8 + vd * 2 ^ 12 + va * 2 ^ 18 + vb * 2 ^ 24 + vc * 2 ^ 30 + km * 2 ^ 36 + t * 2 ^ 40 + imm * 2 ^ 44)

/-- Core 79 of p0 with its signal engine running on registers. -/
def engine (r : SeRegs := {}) (x : SeEngine := {}) : State :=
  on (fun d => (setR [(F.coreStateOwned, 79, 1), (F.coreStateState, 79, 1)] d).modCore 79
    (fun c => { c with ctx := { c.ctx with se := r }, se := { x with running := true } }))

/-- The engine issues the word: clocks run, it is ready, the stage is on, and the fields say what is asked of them. -/
def issues (s : State) (w : Slot64) (f : Dev → SeRegs → SlotOp → Bool) : Bool :=
  let l := landDue 79 s.dev
  ! s.dev.pins.stopped && l.seReady 79 && (l.se 79).stageOn (slotOp w).stg && f (seCounted 79 l) ((seCounted 79 l).se 79) (slotOp w)

/-- Opcode, type and a register mask below k8. -/
def typed (opc : Nat) (types : List Nat) (o : SlotOp) : Bool := decide (o.opc = opc) && types.contains o.t && decide (o.km < 8)

/-- The two-source instructions issue with every type they have, k7 as their mask. -/
theorem test_witness_VectorArithmeticIssues :
    (∀ opc ∈ [0x10, 0x11, 0x12, 0x13, 0x14, 0x15], ∀ t ∈ arithTypes,
      issues (engine) (slot opc t 0 63 63 63 0 7) (fun _ _ o => typed opc arithTypes o) = true) ∧
    (∀ opc ∈ [0x16, 0x17, 0x18], ∀ t ∈ laneTypes, issues (engine) (slot opc t) (fun _ _ o => typed opc laneTypes o) = true) ∧
    (∀ opc ∈ [0x19, 0x1A, 0x1B], ∀ t ∈ intTypes, issues (engine) (slot opc t 15) (fun _ _ o => typed opc intTypes o) = true) ∧
    (∀ opc ∈ [0x38, 0x39], issues (engine) (slot opc 8) (fun _ _ o => typed opc [8] o) = true) := by decide

theorem test_witness_VectorMovesIssue :
    (∀ opc ∈ [0x1C, 0x1E, 0x24], ∀ t ∈ laneTypes, issues (engine) (slot opc t) (fun _ _ o => typed opc laneTypes o) = true) ∧
    (∀ t ∈ arithTypes, issues (engine) (slot 0x1D t 7) (fun _ _ o => typed 0x1D arithTypes o) = true) ∧
    (∀ opc ∈ [0x20, 0x21], ∀ t ∈ floatTypes, issues (engine) (slot opc t) (fun _ _ o => typed opc floatTypes o) = true) ∧
    (∀ x ∈ convPairs, issues (engine) (slot 0x22 x.2 x.1) (fun _ _ o => typed 0x22 arithTypes o && convPairs.contains (o.imm % 16, o.t)) = true) ∧
    issues (engine) (slot 0x22 8 0) (fun _ _ o => typed 0x22 arithTypes o && ! convPairs.contains (o.imm % 16, o.t)) = true ∧
    ((6, 7) ∈ convPairs ∧ laneW 6 = laneW 7 ∧ (6, 8) ∈ convPairs ∧ laneW 6 ≠ laneW 8) ∧
    (∀ t ∈ [5, 6, 7], issues (engine) (slot 0x23 t) (fun _ _ o => typed 0x23 [5, 6, 7] o) = true) ∧
    (∀ t ∈ [5, 7, 9], issues (engine) (slot 0x25 t) (fun _ _ o => typed 0x25 [5, 7, 9] o) = true) := by decide

/-- The last group of registers that ends at v63, and the first that does not. -/
theorem test_witness_VectorUnitInstructionsIssue :
    (∀ opc ∈ [0x30, 0x31, 0x32], ∀ t ∈ [8, 9], issues (engine) (slot opc t) (fun _ _ o => typed opc [8, 9] o) = true) ∧
    (∀ t ∈ [5, 7, 8, 9], issues (engine) (slot 0x33 t) (fun _ _ o => typed 0x33 [5, 7, 8, 9] o) = true) ∧
    issues (engine) (slot 0x34 5 7) (fun _ _ o => typed 0x34 [5] o) = true ∧
    issues (engine) (slot 0x35 10 0 0 62 62) (fun _ _ o => typed 0x35 [10] o && decide (o.va + 1 < 64 ∧ o.vb + 1 < 64)) = true ∧
    issues (engine) (slot 0x35 10 0 0 63 62) (fun _ _ o => typed 0x35 [10] o && decide (64 ≤ o.va + 1)) = true ∧
    (∀ k ∈ [0, 1, 2, 3], issues (engine) (slot 0x36 5 k 60 60 61)
      (fun _ _ o => typed 0x36 [5] o && decide (o.va + 3 < 64 ∧ o.vb + 2 < 64 ∧ o.vd + 3 < 64 ∧ o.imm % 4 = k)) = true) ∧
    issues (engine) (slot 0x36 5 0 60 60 62) (fun _ _ o => typed 0x36 [5] o && decide (64 ≤ o.vb + 2)) = true ∧
    (∀ m ∈ [1, 2, 3, 4, 5], issues (engine) (slot 0x37 5 m 61)
      (fun _ _ o => typed 0x37 [5] o && decide (o.imm % 8 = m ∧ o.vd + demapRegs (2 * m) 8 - 1 < 64)) = true) ∧
    issues (engine) (slot 0x37 5 5 62)
      (fun _ _ o => typed 0x37 [5] o && ! o.imm.testBit 3 && decide (o.imm % 8 = 5 ∧ 64 ≤ o.vd + demapRegs (2 * 5) 8 - 1)) = true ∧
    (∀ m ∈ [0, 6, 7], issues (engine) (slot 0x37 5 m 63) (fun _ _ o => typed 0x37 [5] o && decide (o.imm % 8 = m ∧ o.vd < 64)) = true) := by
  decide

/-- The last n bytes of the scratchpad in a0; a1 the address of a scale. -/
def atEnd (n v : Nat) : SeRegs := { a := [(0, BitVec.ofNat 32 (spadSize - n)), (1, BitVec.ofNat 32 v)] }

/-- The accesses succeed at the last aligned address of the scratchpad; each way to abort is met. -/
theorem test_witness_LoadsAndStoresIssue :
    (let d := seCounted 79 (landDue 79 (engine).dev)
     d.portClear (79, 2, 0) (d.acyc + 1) [] (d.workOf 79) [79] 0 8 = true) ∧
    (∀ opc ∈ [0x01, 0x02], ∀ t ∈ laneTypes,
      issues (engine (atEnd 128 0)) (slot opc t)
        (fun _ r o => typed opc laneTypes o && modsOk r o false && decide (accessCause (effAddr r o) 128 4 = 0)) = true ∧
      issues (engine (atEnd 124 0)) (slot opc t)
        (fun _ r o => typed opc laneTypes o && modsOk r o false && decide (accessCause (effAddr r o) 128 4 = 7)) = true ∧
      issues (engine (atEnd 130 0)) (slot opc t)
        (fun _ r o => typed opc laneTypes o && modsOk r o false && decide (accessCause (effAddr r o) 128 4 = 6)) = true ∧
      issues (engine { atEnd 128 0 with m := [(0, BitVec.ofNat 64 (2 ^ 64 - 1))] }) (slot opc t 0 0 0 32)
        (fun _ r o => typed opc laneTypes o && ! modsOk r o false) = true) ∧
    (∀ opc ∈ [0x03, 0x04], ∀ t ∈ [8, 9], issues (engine (atEnd 8 0)) (slot opc t)
      (fun _ r o => typed opc [8, 9] o && modsOk r o false && decide (accessCause (effAddr r o) 8 8 = 0)) = true) ∧
    (∀ opc ∈ [0x05, 0x06, 0x07], ∀ t ∈ [0, 1, 2, 3, 4],
      issues (engine (atEnd (bsPayload t + bsPayload t % 8) (spadSize - 1))) (slot opc t 0 63 0 0 1)
        (fun _ r o => typed opc [0, 1, 2, 3, 4] o && decide (o.vd < 64) && modsOk r o true && decide (blockCause r o = 0)) = true ∧
      issues (engine (atEnd (bsPayload t + bsPayload t % 8) spadSize)) (slot opc t 0 63 0 0 1)
        (fun _ r o => typed opc [0, 1, 2, 3, 4] o && modsOk r o true && decide (blockCause r o ≠ 0)) = true) ∧
    (∀ opc ∈ [0x05, 0x06, 0x07],
      issues (engine (atEnd 96 (2 * spadSize - 2))) (slot opc 5 0 62 0 0 1)
        (fun _ r o => typed opc [5] o && decide (o.vd + 1 < 64) && modsOk r o true && decide (blockCause r o = 0)) = true ∧
      issues (engine (atEnd 96 (2 * spadSize - 2))) (slot opc 5 0 63 0 0 1) (fun _ _ o => typed opc [5] o && decide (64 ≤ o.vd + o.t / 5)) = true) := by
  decide

/-- The reserved fields of a scalar slot are 0. -/
def scalar (opc : Nat) (o : SlotOp) : Bool := decide (o.opc = opc ∧ o.vc = 0 ∧ o.km = 0 ∧ o.t = 0)

/-- A loop of one pass. -/
def aLoop : LoopRt := { first := 0, last := 9, n := 1, stages := 1, rot := false, iter := 0 }

theorem test_witness_ScalarSlotIssues :
    (∀ opc ∈ [0x50, 0x51, 0x52, 0x53, 0x54, 0x55, 0x56, 0x57, 0x58, 0x59, 0x5A, 0x5B, 0x62, 0x63, 0x64, 0x65, 0x66],
      issues (engine) (slot opc 0 0xFFFFF 63) (fun _ _ o => scalar opc o) = true) ∧
    (∀ n : Nat, n = 0 ∨ n = 1 → issues (engine { s := [(0, BitVec.ofNat 64 n)], loops := [aLoop, aLoop, aLoop] }) (slot 0x60 0 0)
      (fun _ r o => scalar 0x60 o && decide (r.loops.length < 4 ∧ (r.sr o.va).toNat % 2 ^ 32 = n)) = true) ∧
    issues (engine { loops := [aLoop, aLoop, aLoop, aLoop] }) (slot 0x60 0) (fun _ r o => scalar 0x60 o && decide (4 ≤ r.loops.length)) = true ∧
    (∀ i ∈ [64 * 64, 60 + 4 * 64], issues (engine) (slot 0x61 0 i) (fun _ _ o => scalar 0x61 o && decide (o.imm % 64 % 4 = 0 ∧ o.imm % 64 ≤ 60 ∧
      o.imm / 64 % 128 % 4 = 0 ∧ o.imm / 64 % 128 ≤ 64 ∧ o.imm % 64 + o.imm / 64 % 128 ≤ 64)) = true) ∧
    (∀ i ∈ [1, 4 + 64 * 64], issues (engine) (slot 0x61 0 i)
      (fun _ _ o => scalar 0x61 o && decide (o.imm % 64 % 4 ≠ 0 ∨ 64 < o.imm % 64 + o.imm / 64 % 128)) = true) ∧
    issues (engine) (slot 0x67 0) (fun _ r o => scalar 0x67 o && decide (r.loops = [])) = true ∧
    issues (engine { loops := [aLoop] }) (slot 0x67 0) (fun _ r o => scalar 0x67 o && decide (r.loops ≠ [])) = true ∧
    (∃ s : State, s.dev.pins.stopped = false ∧ (s.dev.core 79).se.wait = some (15, 0) ∧ 0 ≤ s.dev.cc 79 15) := by
  refine ⟨by decide, ?_, by decide, by decide, by decide, by decide, by decide, engine {} { wait := some (15, 0) }, by decide⟩
  rintro n (rfl | rfl) <;> decide

/-- The forms of a slot command named by their opcodes: VADD in V0, SADD in S. -/
theorem test_witness_IllegalSlotsAbort :
    (let s : State := engine {} { wait := some (0, 1) }
     s.dev.pins.stopped = false ∧ (landDue 79 s.dev).seReady 79 = false) ∧
    (let l := landDue 79 (engine).dev
     l.seReady 79 = true ∧ (l.se 79).stageOn (slotOp (slot 0x10 6 0 0 0 0 0 0 15)).stg = false) ∧
    (0x10, SeSlot.v0, [SeSlot.v0, .v1], arithTypes, Instr.vadd 79 .v0 (slot 0x11 6)) ∈ Stated.slotForms 79 .v0 (slot 0x11 6) ∧
    (0x10, SeSlot.s, [SeSlot.v0, .v1], arithTypes, Instr.vadd 79 .s (slot 0x10 6)) ∈ Stated.slotForms 79 .s (slot 0x10 6) ∧
    issues (engine) (slot 0x11 6) (fun _ _ o => decide (o.opc ≠ 0x10)) = true ∧
    issues (engine) (slot 0x10 5) (fun _ _ o => decide (o.opc = 0x10 ∧ o.t ∉ arithTypes)) = true ∧
    issues (engine) (slot 0x10 6 0 0 0 0 0 8) (fun _ _ o => decide (o.opc = 0x10 ∧ o.t ∈ arithTypes ∧ 8 ≤ o.km)) = true ∧
    issues (engine) (slot 0x50 0 0 0 0 0 1) (fun _ _ o => decide (o.opc = 0x50 ∧ o.vc ≠ 0)) = true := by decide

/-- R91: stage 15 outside every loop, and stage 1 in the first pass of a loop, are disabled. -/
theorem test_witness_DisabledStagesDoNothing :
    (((landDue 79 (engine).dev).se 79).loops = [] ∧ (slotOp (slot 0x10 6 0 0 0 0 0 0 15)).stg ≠ 0) ∧
    ∃ (s : State) (l : LoopRt) (ls : List LoopRt), s.dev.pins.stopped = false ∧ ((landDue 79 s.dev).se 79).loops = l :: ls ∧
      ¬ ((slotOp (slot 0x10 6 0 0 0 0 0 0 1)).stg ≤ l.iter ∧ l.iter < l.n + (slotOp (slot 0x10 6 0 0 0 0 0 0 1)).stg) :=
  ⟨by decide, engine { loops := [aLoop] }, aLoop, [], by decide⟩

/-- R86: two results for v63, the later one of slot V1, which need not have the same lanes. -/
theorem test_witness_LaterResultIsKept : ∃ (s : State) (x y : SeRes),
    s.dev.pins.stopped = false ∧ tabWf {} s.dev.cores = true ∧ tabWf 0 (s.dev.se 79).v = true ∧ tabWf 0 (s.dev.se 79).s = true ∧
    tabWf 0 (s.dev.se 79).a = true ∧ tabWf 0 (s.dev.se 79).m = true ∧ tabWf 0 (s.dev.se 79).k = true ∧
    (s.dev.core 79).se.inflight = [y, x] ∧ x.dest = y.dest ∧ x.due = y.due ∧ y.due ≤ (s.dev.core 79).se.cyc ∧
    x.issued = y.issued ∧ x.slot < y.slot :=
  ⟨engine { v := [(63, 5)] } { inflight := [⟨0, 0, 2, .v 63, 1, 9⟩, ⟨0, 0, 1, .v 63, 3, 8⟩] }, ⟨0, 0, 1, .v 63, 3, 8⟩, ⟨0, 0, 2, .v 63, 1, 9⟩, by decide⟩

/-- The stores and the loads of StoresWriteTheirBytes answer a next state at the last aligned address, with no other port at work. -/
theorem test_witness_StoresWriteTheirBytes :
    (∃ w t, issues (engine (atEnd 8 0)) w (fun _ r o => typed 0x04 [8, 9] o && modsOk r o false && decide (accessCause (effAddr r o) 8 8 = 0)) = true ∧
      exec (.sst 79 w) (engine (atEnd 8 0)) = .next t ∧
      (let d := seCounted 79 (landDue 79 (engine (atEnd 8 0)).dev)
       d.racing (79, 2, 0) (d.acyc + 1) = [] ∧ d.inCore (d.workOf 79) 79 = true) ∧ Memory.wf (engine (atEnd 8 0)).dev.mem.spad = true) ∧
    (∃ w t, issues (engine (atEnd 128 0)) w (fun _ r o => typed 0x02 laneTypes o && modsOk r o false && decide (accessCause (effAddr r o) 128 4 = 0) &&
      ! (o.mask r).getLsbD 31) = true ∧ exec (.vst 79 w) (engine (atEnd 128 0)) = .next t) ∧
    (∃ w, issues (engine (atEnd 128 0)) w (fun _ r o => typed 0x02 laneTypes o && (o.mask r).getLsbD 31) = true) ∧
    (∃ w t, issues (engine (atEnd 128 0)) w (fun _ r o => typed 0x01 laneTypes o && modsOk r o false && decide (accessCause (effAddr r o) 128 4 = 0)) = true ∧
      exec (.vld 79 w) (engine (atEnd 128 0)) = .next t) ∧
    ∃ w t, issues (engine (atEnd 8 0)) w (fun _ r o => typed 0x03 [8, 9] o && modsOk r o false && decide (accessCause (effAddr r o) 8 8 = 0)) = true ∧
      exec (.sld 79 w) (engine (atEnd 8 0)) = .next t :=
  ⟨⟨slot 0x04 8, _, by decide, rfl, by decide, by decide⟩, ⟨slot 0x02 5 0 0 0 0 0 1, _, by decide, rfl⟩, ⟨slot 0x02 5, by decide⟩,
    ⟨slot 0x01 5, _, by decide, rfl⟩, ⟨slot 0x03 8, _, by decide, rfl⟩⟩

/-! ### Hornbeam streams, transfer lists, moves, remote operations -/

/-- Core 79 of partition 31, whose group it is. -/
def coreOn (c : Core) (f : Dev → Dev := id) : State :=
  part 4 { groups := [79], sched := { active := some image } } (fun d => f ((d.setCore 79 c).modTeril (fun t => { t with nextOp := 3 })))

/-- A 256-bit word by its parts. -/
def word (l : List (Nat × Nat)) : Word256 := BitVec.ofNat 256 (leNat (bytesAt 32 l))

/-- hb1 runs, od31 a line of 64 bytes. -/
def hbCore (x : HbEngine := {}) : Core :=
  { ctx := { od1 := [(31, BitVec.ofNat 128 (64 * 2 ^ 64 + 64 * 2 ^ 96))] }, hb1 := { x with running := true } }

/-- A transfer list runs, sd15 a line of 64 bytes. -/
def suCore (x : SuList := {}) (mv : List Move := []) (r : List RemoteOp := []) : Core :=
  { ctx := { list := { x with active := true }, sd := [(15, BitVec.ofNat 192 (64 * 2 ^ 128 + 2 ^ 160))] }, moves := mv, remote := r }

/-- A multiplication of K products of bf16 by od31. -/
def mm (k : Nat) : Word256 := word [(16, 0x1F1F1F1F), (8, k), (0, 0x666641)]

/-- The multiplication in the engine. -/
def mmRt (k : Nat) (t : Option Nat) : MmRt := { w := mm k, oda := 0, odb := 0, odc := 0, odd := 0, issued := 0, t0 := t }

/-- K = 0 and K = 1 issue, enter and complete; words of another opcode, with a reserved bit or an illegal field do not. -/
theorem test_witness_MatrixStreamsRun :
    (let s := coreOn hbCore
     s.dev.pins.stopped = false ∧ s.dev.hbReady 79 1 = true ∧ (coreOn suCore).dev.hbReady 79 1 = false ∧
     (let w := word [(0, 0x1F40)]
      wfld w 0 7 0 = 0x40 ∧ wrsv w 0 31 13 = true ∧ wrsv w 4 95 0 = true ∧ wrsv w 0x1C 31 24 = true) ∧
     (wfld (word [(0, 0x2040)]) 0 7 0 = 0x40 ∧ wrsv (word [(0, 0x2040)]) 0 31 13 = false) ∧
     (∀ k ∈ [0, 1], wfld (mm k) 0 7 0 = 0x41 ∧ mmCause (hbStep 79 1 s.dev) 79 1 (mm k) = 0 ∧ (mmOp (mm k)).gsize = 0) ∧
     (wfld (word [(0, 0x4F)]) 0 7 0 = 0x4F ∧ wrsv (word [(0, 0x4F)]) 0 255 8 = true) ∧
     (wfld (word [(0, 0x14F)]) 0 7 0 = 0x4F ∧ wrsv (word [(0, 0x14F)]) 0 255 8 = false) ∧
     wfld (mm 1) 0 7 0 ≠ 0x40 ∧ wfld (word [(0, 0xB41)]) 0 7 0 = 0x41 ∧ mmCause (hbStep 79 1 s.dev) 79 1 (word [(0, 0xB41)]) ≠ 0) ∧
    (∀ k ∈ [0, 1], let s := coreOn (hbCore { mms := [mmRt k none] }) (fun d => { d with acyc := 128 })
     (s.dev.hb 79 1).mms.find? (fun x => x.t0.isNone) = some (mmRt k none) ∧ mmEarliest s.dev 79 1 (mmRt k none) = some (128 * k) ∧
     mmUntiled s.dev 79 1 (mmRt k none) = some 0 ∧ 128 * k + 0 ≤ s.dev.acyc ∧ s.dev.mmBlocked 79 1 (mmRt k none) = false) ∧
    ((coreOn (hbCore { mms := [mmRt 1 none] })).dev.acyc < 128 + 0 ∧ ((coreOn hbCore).dev.hb 79 1).mms.find? (fun x => x.t0.isNone) = none) ∧
    (let s := coreOn (hbCore { mms := [mmRt 1 (some 0)] }) (fun d => { d with acyc := mmLatency (mmOp (mm 1)) 1 + 7 })
     (s.dev.hb 79 1).mms.find? (fun x => (mmDue 79 1 x).any (fun t => decide (t + 7 ≤ s.dev.acyc))) = some (mmRt 1 (some 0)) ∧
     mmDue 79 1 (mmRt 1 (some 0)) = some (mmLatency (mmOp (mm 1)) 1) ∧
     (s.dev.hb 79 1).mms.find? (fun x => (mmDue 79 1 x).any (fun t => decide (t + 8 ≤ s.dev.acyc))) = none) := by decide

/-- A move of one byte from sd15 to sd15. -/
def mvWord (fmt : Nat := 0) : Word256 := word [(8, 1), (0, 0xFF080 + fmt * 256)]

/-- The move, started at 0, its two descriptors. -/
def moved (sds sdd : Nat) : Move := { w := mvWord 9, sds := BitVec.ofNat 192 sds, sdd := BitVec.ofNat 192 sdd, issued := 0, started := some 0 }

/-- A descriptor of a tier with a base. -/
def sd (tier base : Nat) : Nat := base + tier * 2 ^ 48 + 64 * 2 ^ 128 + 2 ^ 160

theorem test_witness_StreamWordsAct :
    (let s := coreOn suCore
     s.dev.pins.stopped = false ∧ s.dev.suReady 79 = true ∧
     sdCause (word [(0, 0xF81)]) = 0 ∧ sdCause (word [(0, 0xF80)]) ≠ 0 ∧
     (∀ f ∈ [0, 1, 2, 3, 4, 5, 6, 7, 8, 9, 10], mvCause s.dev 79 (mvWord f) = 0) ∧ mvCause s.dev 79 (mvWord 11) ≠ 0 ∧
     (let w := word [(4, 0x3FFFFF), (0, 0x82)]
      wfld w 0 7 0 = 0x82 ∧ wrsv w 0 31 8 = true ∧ wrsv w 4 31 22 = true ∧ (w >>> 64).toNat = 0) ∧
     (wfld (word [(0, 0x182)]) 0 7 0 = 0x82 ∧ wrsv (word [(0, 0x182)]) 0 31 8 = false) ∧
     (wfld (word [(0, 0x8F)]) 0 7 0 = 0x8F ∧ (word [(0, 0x8F)] >>> 8).toNat = 0) ∧
     (wfld (word [(0, 0x18F)]) 0 7 0 = 0x8F ∧ (word [(0, 0x18F)] >>> 8).toNat ≠ 0) ∧
     (evcCause (word [(0, 0x86)]) = 0 ∧ s.dev.waitMet 79 (word [(0, 0x86)]) = true ∧
      evcCause (word [(24, 0x10 + 2 ^ 32), (0, 0x86)]) = 0 ∧ s.dev.waitMet 79 (word [(24, 0x10 + 2 ^ 32), (0, 0x86)]) = false ∧
      evcCause (word [(0, 0x200086)]) ≠ 0) ∧
     (evrCause s.dev 79 (word [(0, 0x87)]) = 0 ∧ s.dev.waitMet 79 (word [(0, 0x87)]) = true ∧
      evrCause s.dev 79 (word [(24, 0x10 + 2 ^ 32), (0, 0x87)]) = 0 ∧ s.dev.waitMet 79 (word [(24, 0x10 + 2 ^ 32), (0, 0x87)]) = false ∧
      evrCause s.dev 79 (word [(4, 8), (0, 0x87)]) ≠ 0)) ∧
    (let s := coreOn suCore
     remCause s.dev 79 (word [(16, 8), (0, 0x83 + 0xF000)]) 0x83 true true false [] true ≠ 0 ∧
     remCause s.dev 79 (word [(0, 0x83)]) 0x84 true true true [] true ≠ 0 ∧ remOpc (word [(0, 0x83)]) ≠ 0x85 ∧
     (remOpc (word [(0, 0x285)]) = 0x85 ∧ wrsv (word [(0, 0x285)]) 0 15 9 = false) ∧
     (let w := word [(0, 0x85 + 0x10000)]
      remOpc w = 0x85 ∧ wrsv w 0 15 9 = true ∧ wrsv w 0 31 25 = true ∧ (w >>> 32).toNat % 2 ^ 160 = 0 ∧ (suWait w).rsvOk = true ∧
        wbit w 0 8 = false ∧ s.dev.roles (s.dev.workOf 79) ≤ remRole w)) ∧
    (let s := coreOn (suCore {} (List.replicate 8 (moved 0 0)))
     s.dev.suReady 79 = true ∧ wfld (mvWord) 0 7 0 = 0x80 ∧ 8 ≤ (s.dev.core 79).moves.length) ∧
    (coreOn (suCore { paused := true })).dev.suReady 79 = false ∧
    (((coreOn (suCore { held := some 9 })).dev.core 79).ctx.list.held = some 9 ∧ ((coreOn suCore).dev.core 79).ctx.list.held = none) := by decide

/-- The conditions under which a started move is carried out. -/
def moveDue (s : State) (m : Move) : Bool :=
  let p := s.dev.workOf 79
  ! s.dev.pins.stopped && decide ((s.dev.core 79).moves = [m]) && m.started.isSome &&
    decide (s.dev.mvFrom 79 m + ceilDiv (ceilDiv (mvBytes (mvOp m.w)) (if (mvOp m.w).xpose then 256 else 512) * 3) 2 + 1 ≤ s.dev.acyc) &&
    decide (s.dev.mvToAsk 79 p m = []) && ! s.dev.farAsking (79, m.issued) &&
    ((s.dev.mvTier2 p 79 m).2).all (fun x => ! s.dev.vMigrating p x.1 x.2) && decide (s.dev.moveWaits 79 p m = none)

/-- The state in which that move is due. -/
def moving (m : Move) (f : Dev → Dev := id) : State := coreOn (suCore {} [m]) (fun d => f { d with acyc := mvEarliest (mvOp m.w) 0 })

/-- A clean line, a damaged one and one of an unmapped page with a regulator of 1 GB/s are carried out; one a cycle early is not; one that was written leaves. -/
theorem test_witness_MovesStartAndComplete :
    (∀ x ∈ [(moved (sd 0 0) (sd 0 64), false), (moved (sd 0 0) (sd 0 64), true), (moved (sd 2 0) (sd 0 64), false)],
      let s := moving x.1 (fun d => (d.modPart 31 (fun y => { y with reg := [(7, 1)] })).modMem (fun y =>
        if x.2 then { y with spadUe := [(79 * spadSize / 4, true)] } else y))
      x.1.wrote = false ∧ moveDue s x.1 = true ∧
        (mvWriteData 79 (s.dev.workOf 79) x.1 .clean s.dev).2.mvStoring 79 (s.dev.workOf 79) x.1 = false) ∧
    (let s := coreOn (suCore {} [moved 0 0])
     (s.dev.core 79).moves = [moved 0 0] ∧ moveDue s (moved 0 0) = false) ∧
    (let m := { moved (sd 0 0) (sd 0 64) with wrote := true }
     ((moving m).dev.core 79).moves = [m] ∧ (moving m).dev.mvStoring 79 ((moving m).dev.workOf 79) m = false) ∧
    ((coreOn suCore).dev.core 79).moves = [] := by decide

theorem test_witness_MovesCopyBitForBit :
    let m := moved (sd 0 0) (sd 0 (spadSize - 64))
    let s := moving m
    let o := mvOp m.w
    let a := sdDesc m.sds
    let b := sdDesc m.sdd
    moveDue s m = true ∧ m.wrote = false ∧ mvEarliest o (s.dev.mvFrom 79 m) ≤ s.dev.acyc ∧ o.xpose = false ∧ o.decomp = false ∧
    o.gsize ≤ 1 ∧ a.tier = 0 ∧ b.tier = 0 ∧
    mvInRange a o.fmt (mvShape o).1 spadSize = true ∧ mvInRange b o.fmt (mvShape o).2 spadSize = true ∧
    mvStrides b o.fmt (mvShape o).2 = true ∧
    (s.dev.openDest (s.dev.workOf 79) 79 m = [] ∧ s.dev.openSource (s.dev.workOf 79) 79 m = [] ∧ s.dev.opsWriting (79, 3, m.issued) = [] ∧
      s.dev.mem.overwritten = [] ∧ s.dev.mem.spadCe = []) ∧
    (∀ i < o.lines, ∀ j < o.lines, b.ebase + i * b.estride + linePayload o.fmt o.len ≤ b.sbase + j * b.sstride ∨
      b.sbase + j * b.sstride + lineScales o.fmt o.len ≤ b.ebase + i * b.estride) ∧
    s.dev.inCore (s.dev.workOf 79) 79 = true ∧ s.dev.mem.spadUe = [] ∧ Memory.wf s.dev.mem.spad = true := by decide

/-- A remote operation that has sent everything. -/
def remote (w : Word256) (fails : List Nat) (fence : Bool) : RemoteOp :=
  { id := 1, p := 31, w := w, sd := 0, issued := 0, tags := [], left := 0, fails := fails, fence := fence }

theorem test_witness_RemoteOperationsAct :
    (let s := coreOn suCore
     s.dev.pins.stopped = false ∧ s.dev.suReady 79 = true ∧
     (let w := word [(16, spadSize - 16), (0, 0x83 + 0xF000)]
      let sd := sdDesc (s.dev.sdReg 79 (rmaSd w))
      remCause s.dev 79 w 0x83 (wrsv w 0 11 9 && wrsv w 0 31 29 && wrsv w 4 31 24 && wrsv w 12 31 16 && wrsv w 20 31 0) true
        (decide (remRes w % 16 = 0)) [remRes w] (decide (sd.tier ≠ 3) &&
          decide (sd.ebase + rmaLen w ≤ s.dev.tierEnd 79 (s.dev.workOf 79) ((gsizeCores 79 (remGsize w)).getD [79]) sd.tier) &&
          (decide (sd.tier = 2) || sd.hiZero)) = 0) ∧
     (let w := word [(0, 0x84 + 0x400)]
      remCause s.dev 79 w 0x84 (wrsv w 0 15 12 && wrsv w 0 31 29 && wrsv w 4 31 0 && wrsv w 12 31 16)
        (decide (amoType w < 2 ∨ (amoType w = 2 ∧ amoOp w = 0)))
        (decide (remRes w % 16 = 0 ∧ amoOpnd w % 16 = 0 ∧ remAddr w % amoSize w = 0)) [remRes w, amoOpnd w] true = 0) ∧
     (let w := word [(0, 0x85)]
      remOpc w = 0x85 ∧ wrsv w 0 15 9 = true ∧ wrsv w 0 31 25 = true ∧ (w >>> 32).toNat % 2 ^ 160 = 0 ∧ (suWait w).rsvOk = true ∧
        remRole w < s.dev.roles (s.dev.workOf 79))) ∧
    (∀ o ∈ [remote (word [(0, 0x84)]) [] false, remote (word [(0, 0x84)]) [0x91] false, remote (word [(0, 0x83)]) [] false,
        remote (word [(0, 0x85)]) [] true],
      firstEnded ((coreOn (suCore {} [] [o])).dev.waitMet 79) [] ((coreOn (suCore {} [] [o])).dev.core 79).remote = some o) ∧
    opStatus (remote (word [(0, 0x84)]) [] false) = 0 ∧ opStatus (remote (word [(0, 0x84)]) [0x91] false) ≠ 0 ∧
    firstEnded ((coreOn suCore).dev.waitMet 79) [] ((coreOn suCore).dev.core 79).remote = none := by decide

/-! ### Bring-up, the package, the queue, frames -/

/-- Bring-up in a stage, with stages left. -/
def inStage (k : Nat) (rest : List Nat) : State := on (fun d => { d with stage := some k, rerun := rest })

/-- A finding with a code and a first detail word. -/
def finding (code d0 : Nat) : QsFinding :=
  { code := code, duration := 0, detail0 := d0, detail1 := 0, detail2 := 0, detail3 := 0, octets := [], lanes := [], cores := [], rows := [] }

/-- What BringUpRuns calls code and d, the stages left then. -/
def stageRun (k : Nat) (f : QsFinding) (s : State) : Nat × List Nat :=
  let x := stageWork k f s.dev
  let code := x.2.1
  let result := if code ≠ 0 then 3 else if x.2.2.2 then 2 else 1
  let d := { x.1 with qs := memWrite x.1.qs (32 * k) (qsRecord k result code f.duration x.1.nt x.2.2.1)
                      reduced := x.1.reduced || decide (result = 2) }
  let d := d.setF F.qsStateReduced 0 (if (List.range 10).any (fun i => decide (d.qsResult i = 2)) then 1 else 0)
  (code, (stagePassed k (emit (.i3cInt k) d)).rerun)

theorem test_witness_BringUpRuns :
    ((ready).dev.pins.stopped = false ∧ (ready).dev.stage = none) ∧
    (inStage 0 [1]).dev.stage = some 0 ∧ (stageRun 0 (finding 1 0) (inStage 0 [1])).1 = 1 ∧
    stageRun 0 (finding 0 4095) (inStage 0 [1]) = (0, [1]) ∧
    (inStage 9 []).dev.stage = some 9 ∧ stageRun 9 (finding 0 0) (inStage 9 []) = (0, []) := by decide

/-- Q0 passed, every rail good. -/
def powered : State := on (fun d => { d.modPins (fun x => { x with pwrOk := 4095 }) with qs := [(1, 1)], nt := 8000000 })

theorem test_witness_PowerAndPackageAct :
    ((powered).dev.q0Done = true ∧ (State.reset).dev.q0Done = false ∧ (powered).dev.qsResult 0 = 1 ∧
     (powered).dev.pins.pwrOk.getLsbD 11 = true ∧ (powered).dev.pins.pwrOk.getLsbD 0 = true ∧ (State.reset).dev.pins.pwrOk.getLsbD 11 = false) ∧
    ((powered).dev.pins.stopped = false ∧ (State.reset).dev.beat 4 8000000 0 = none ∧ (powered).dev.beat 4 8000000 0 = some 8000000) ∧
    ((∃ t ∈ dieTemps (powered).dev.pins.dieTemp [115], 115 ≤ t) ∧ (∃ t ∈ ([105] : List Int).take 32, 105 ≤ t)) ∧
    (∀ die < 4, takeSpare (laneByte (dieLinkIndex die 2) (1 * 4 + 3)) 32
      (({ (powered).dev with inForce := [] } : Dev).raise F.dlStatusLane (die * 3 + 2)) = none) ∧
    (¬ (3 < 4 ∧ 2 < 3 ∧ 1 < 2 ∧ 4 < (if 2 = 2 then 4 else 8) ∧ 32 < 33)) ∧
    ∃ d, takeSpare (laneByte (dieLinkIndex 3 1) (1 * 8 + 7)) 0
      (({ (powered).dev with inForce := plainMap } : Dev).raise F.dlStatusLane (3 * 3 + 1)) = some d :=
  ⟨by decide, by decide, by decide, by decide, by decide, Option.isSome_iff_exists.mp (by decide)⟩

theorem test_witness_StepRunsFrontCommand :
    (∃ (c : Instr) (l : List Instr) (s : State), s.pending = c :: l) ∧ ∃ s : State, s.pending = [] :=
  ⟨⟨.throttleInterval, [.powerCycle], { State.reset with pending := [.throttleInterval, .powerCycle] }, rfl⟩, State.reset, rfl⟩

/-- Idling in a third a-cycle and in another. -/
theorem test_witness_IdlingMovesTime :
    (on (fun d => { d with acyc := 2 })).pending = [] ∧ ((on (fun d => { d with acyc := 2 })).dev.acyc + 1) % 3 = 0 ∧
    State.reset.pending = [] ∧ ¬ (State.reset.dev.acyc + 1) % 3 = 0 := by decide

theorem test_witness_StoppedClocksStayStopped : ∃ s t t' u : State, s.dev.pins.stopped = true ∧ s.pending = [] ∧
    exec .perstAssert s = .next t ∧ exec (.i3cRead 1) s = .next t' ∧ exec .powerCycle s = .next u :=
  ⟨on stopClocks, _, _, _, by decide, rfl, rfl, rfl, rfl⟩

theorem test_witness_WellFormedQueueRuns :
    Safe.queue { State.reset with pending := [.vadd 79 .v1 0, .registerWrite 0x3FFFFFC 4 0, .powerCycle] } := by
  intro c h
  simp only [List.mem_cons, List.not_mem_nil, or_false] at h
  obtain rfl | rfl | rfl := h <;> decide

/-- The first core, Hornbeam engine, ring and partition that the package does not have. -/
theorem test_witness_ForeignUnitsFault :
    (Instr.moveStart 80 ∈ [Instr.moveStart 80] ∧ exec (.moveStart 80) State.reset = .fault .noSuchCore) ∧
    exec (.hbEnd 0 2 0) State.reset = .fault .noSuchCore ∧ exec (.kick 16384 0) State.reset = .fault .noSuchRing ∧
    exec (.semPartWrite 8192 0) State.reset = .fault .noSuchRing ∧ exec (.epochTick 32) State.reset = .next State.reset :=
  ⟨⟨by decide, rfl⟩, rfl, rfl, rfl, rfl⟩

/-- A bank with counter 7 one below its limit; that counter selects source 2. -/
def bank (f z : Bool) (x : EvBank := {}) : EvBank := { x with freeze := z, frzOvf := f, sel := [(7, 2)], cnt := [(7, 2 ^ 48 - 1)] }

theorem test_witness_EventBanksCount :
    (∀ f z, tabWf 0 (bank f z).cnt = true) ∧ (bank false true).freeze = true ∧
    ((bank false false { seen := 9 }).seen ≠ 8 ∧ (bank false false { seen := 9 }).seen = 9) ∧
    ((bank false false).freeze = false ∧ (bank false false).frzOvf = false ∧ (bank false false).setcnt ≤ 255 ∧
      tabGet 0 (bank false false).sel 7 = 2 + 256 * 0 ∧ 2 ^ 48 ≤ tabGet 0 ((bank false false).mark 0).cnt 7 + 1) ∧
    ((bank true false).frzOvf = true ∧ (∀ i < 8, ¬ (tabGet 0 (bank true false).sel i = 3 + 256 * 0 ∧ 2 ^ 48 ≤ tabGet 0 ((bank true false).mark 0).cnt i + 1)) ∧
      ∃ i < 8, tabGet 0 (bank true false).sel i = 2 + 256 * 0 ∧ 2 ^ 48 ≤ tabGet 0 ((bank true false).mark 0).cnt i + 1) ∧
    ((bank false false { sample := true }).sample = true ∧ (bank false false).sample = false) := by decide

/-- Rows of the frame statements that answer a next state: a store, and an END of a Hornbeam engine. -/
theorem test_witness_EngineCommandsFrame :
    (∃ t, Instr.sst 79 (slot 4 8) ∈ Stated.slotRows 79 .m (slot 4 8) ++ Stated.matrixRows 79 1 0 .clean 0 ∧
      exec (.sst 79 (slot 4 8)) (engine (atEnd 8 0)) = .next t) ∧
    ∃ t, Instr.hbEnd 79 1 (word [(0, 0x4F)]) ∈ Stated.slotRows 79 .m 0 ++ Stated.matrixRows 79 1 0 .clean (word [(0, 0x4F)]) ∧
      exec (.hbEnd 79 1 (word [(0, 0x4F)])) (coreOn hbCore) = .next t :=
  ⟨⟨_, by decide, rfl⟩, _, by decide, rfl⟩

theorem test_witness_ScratchpadsStayCanonical :
    Memory.wf (engine (atEnd 8 0)).dev.mem.spad = true ∧
    Instr.sst 79 (slot 4 8) ∈ Stated.slotRows 79 .m (slot 4 8) ++ Stated.matrixRows 79 1 0 .clean 0 ∧
    ∃ t, exec (.sst 79 (slot 4 8)) (engine (atEnd 8 0)) = .next t := ⟨by decide, by decide, _, rfl⟩

theorem test_witness_CompletionsFrame : tabWf {} (ready).dev.sems = true ∧ tabWf {} (ringOn 1 2 {}).dev.rings = true := by decide

theorem test_witness_RegisterWritesFrame : ∃ (s : State) (off width : Nat) (r : RegName) (i : Nat),
    s.dev.pins.stopped = false ∧ off < 0x4000000 ∧ s.dev.barOpen off = 2 ∧ barTarget off width = .inl (.reg r i) ∧
    r ∉ [.ringSq, .ringCq, .ringDb, .ringAux, .ringCtl, .semPart, .fhQuadCfg, .qsTlPlan, .tbHistCtl, .lgMboxCtl, .setupLock] ∧
    s.dev.flag F.setupLockLock = false := ⟨ready, 0xE00018, 4, .fltWdog, 0, by decide⟩

/-! ### The remaining statements -/

theorem test_witness_ExecLeavesTheQueue : ∃ t, exec .throttleInterval { State.reset with pending := [.powerCycle] } = .next t := ⟨_, rfl⟩

theorem test_witness_ResultsStayInTheCore : ∃ g g' : Nat, g' ≠ g := ⟨79, 78, by decide⟩

/-! ### WellFormed: one ill-formed command for each check, and the last place that passes it -/

theorem test_wf_refuses : ∀ i ∈ ([.registerWrite 0x4000000 4 0, .kick 16384 0, .ideIntegrityFail 32, .lockInterface 0, .lockInterface 32,
      .semPartWrite 8192 0, .nop { src with ring := 16384 }, .nop { src with ssig := some (8192, 1) }, .carrierDel src 256,
      .gateListSwitch 32, .partDestroy src 32, .attest src 1 32 0 [], .sessOpenLapse 65, .hbEnd 80 0 0, .hbEnd 79 2 0, .epochTick 32,
      .codeFetch 79 4, .nakReceive 16 0, .handoverRequest 15 16, .linkPhaseEnd 33 true 4 0, .portRetry 16, .quadModeSet 4 0,
      .allocDeadline 255 2 0, .queuePoll 4 0, .queuePoll 3 16, .codeBlockDone 3 7 1, .patrolRead 25769803776 .clean,
      .bankRefresh 3 8 0 0, .bankRefresh 3 7 64 0, .lendNotice 64, .sgDecision 32, .watchdogExpiry (.core 79 4), .watchdogExpiry (.edge 12),
      .resetBoundMiss (.engine (.edge 7)), .hostAccessTimeout (.farPage 31 80), .dieLinkReplay 3 ⟨3, none⟩, .dieLinkLaneFail 3 2 1 4 32,
      .dieLinkLaneFail 3 1 1 7 33, .pwrOkFall 12, .moveComplete 79 (.mesh 4), .moveComplete 79 (.link 3 3), .moveComplete 79 (.memory 25769803776 .uncorrectable),
      .moveComplete 79 (.scratchpad 79 2621440 .corrected), .seResultLand ⟨79, .lost 64 0⟩, .seResultLand ⟨79, .scratchpad 2621440 .corrected⟩] : List Instr), i.wf = false := by decide

theorem test_wf_accepts : ∀ i ∈ ([.registerWrite 0x3FFFFFC 4 0, .kick 16383 0, .ideIntegrityFail 31, .lockInterface 1, .lockInterface 31,
      .semPartWrite 8191 0, .nop { src with ssig := some (8191, 1) }, .carrierDel src 255, .gateListSwitch 31, .partDestroy src 31,
      .attest src 0 32 0 [], .sessOpenLapse 64, .hbEnd 79 1 0, .epochTick 31, .codeFetch 79 3, .nakReceive 15 0, .handoverRequest 15 15,
      .linkPhaseEnd 32 true 4 0, .portRetry 15, .quadModeSet 3 0, .allocDeadline 255 1 0, .queuePoll 3 15, .codeBlockDone 3 4 11,
      .patrolRead 25769803775 .corrected, .bankRefresh 3 7 63 0, .lendNotice 63, .sgDecision 31, .watchdogExpiry (.core 79 3),
      .watchdogExpiry (.edge 11), .resetBoundMiss (.engine (.edge 8)), .hostAccessTimeout (.farPage 31 79), .dieLinkReplay 3 ⟨2, none⟩,
      .dieLinkLaneFail 3 2 1 3 32, .dieLinkLaneFail 3 1 1 7 32, .pwrOkFall 11, .moveComplete 79 (.mesh 3), .moveComplete 79 (.link 3 2), .moveComplete 79 (.memory 25769803775 .corrected),
      .moveComplete 79 (.scratchpad 79 2621439 .uncorrectable), .seResultLand ⟨79, .lost 63 0⟩, .seResultLand ⟨79, .scratchpad 2621439 .uncorrectable⟩] : List Instr), i.wf = true := by decide

/-! ### Worked values of the spec -/

/-- *Quantisation of six values into bs8e4, X = 127*: 300, 304, 470, 500, -0.01, 2^-10. -/
theorem test_quantise_bs8e4 :
    let q := quantiseBs 0 none ([0x43960000, 0x43980000, 0x43EB0000, 0x43FA0000, 0xBC23D70A, 0x3A800000].map ofF32)
    q.1 = 127 ∧ q.2.1 = [0x79, 0x7A, 0x7F, 0x7F, 0x85, 0x00] ∧ q.2.2.sat = 1 := by decide

/-- The example after R43: 1,000 takes E = 10 and is stored as 32,000. -/
theorem test_quantise_cq16 : (quantiseCq none [ofF32 0x447A0000]).1 = 10 ∧ (quantiseCq none [ofF32 0x447A0000]).2.1 = [32000] := by decide

/-- *Ingress and egress of cq16 samples at w = 9*. -/
theorem test_bfp_port :
    ingress [-143, 77] 5 9 1 = (13, [-18304, 9856], false) ∧ egress [-18304] 13 9 1 = (5, [-143], 0) ∧
    egress [1000, 768, 256, -768] 6 9 1 = (0, [2, 2, 0, -2], 0) := by decide

/-- The worked chain on one array, completion t0 + 275, and the worked gang projection, arrays at t0 + 23,311 and G = 72. -/
theorem test_hornbeam_latency :
    mmLatency (mmOp (word [(12, 127), (8, 128), (4, 3), (0, 0x41)])) 1 = 275 ∧ groupLat 8 = 72 ∧
    mmLatency (mmOp (word [(12, 34559 + 8 * 65536), (8, 11520), (4, 127), (0, 0x41 + 0x3000)])) 160 = 23311 + 72 := by decide

/-- The worked group g32:c2.00: handle, and the logical address 0x0A5A_1000. -/
theorem test_group_address :
    handleCores 0x528 = groupAt 40 5 ∧ (groupAt 40 5).map (fun cs => spadAt cs 0xA5A1000) = some (60, 0x5A1000) := by decide

/-- The window of c2.17 of the example after R18: a register at offset o of a core window lies at 0x0351_0000 + o there. -/
theorem test_core_window : RegName.coreState.off (2 * 20 + 17) - RegName.coreState.off 0 = 0x3510140 - (0x2000000 + 0x400000 + 0x140) ∧
    findReg (RegName.coreState.off (2 * 20 + 17)) = some (.coreState, 2 * 20 + 17) := by decide

/-- The example after R179: FC_KHZ = 3,550,000 and 41.2 Hz give -11,606. -/
theorem test_frequency_correction : (corrOf 412 3550000 State.reset.dev).1 = -11606 := by decide

/-- *Derivation of the switch entries around slot S*: DDDSU at 30 kHz, RAMP_UP 50, RAMP_DN 80. -/
theorem test_tdd_list :
    tddList (bytesAt 100 [(92, (2 * 4 ^ 52 + 2 * 4 ^ 53 + ((List.range 16).map (fun i => 4 ^ (54 + i))).sum) / 2 ^ 96),
      (0x28, 4 * 2 ^ 16), (0x24, 50 + 80 * 2 ^ 16), (0, 256)]) =
      [(2495000 * 8, 1), (0, 2), (14858333, 3), (14922333, 4)] := by decide

/-- The example after R249, in eighths of a ns: 370 ns and 93 ns, and a flit of 256 bytes 21 eighths. -/
theorem test_frame_time :
    let d := fun mbps : Nat => setR [(F.tbPortCfgPortMbps, 31, mbps)] State.reset.dev
    let t := fun (mbps ovh len : Nat) => ({ d mbps with ports := [(31, { ((d mbps).port 31) with active := { ((d mbps).port 31).active with ovh := ovh } })] } : Dev).frameTime
      31 { len := len, at_ := 0, bytes := [] }
    (t 200000 20 9216 + 7) / 8 = 370 ∧ (t 800000 20 9216 + 7) / 8 = 93 ∧ t 800000 0 256 = 21 := by decide

/-- *Settling of the throttle level*: the level rises while over, and stays at 6 when neither over nor under. -/
theorem test_throttle_level : (List.range 6).foldl (fun l _ => nextLevel true false l 48) 0 = 6 ∧ nextLevel false false 6 48 = 6 := by decide

/-- R104: SSUB wraps, in one step from the queue's front. -/
theorem test_ssub_wraps : ∃ t, step { engine { s := [(1, 1)] } with pending := [.ssub 79 (slot 0x51 0 0 2 0 1)] } = .next t ∧ t.pending = [] ∧
    (t.dev.core 79).se.inflight.map (fun x => (x.dest, x.val.toNat)) = [(.s 2, 2 ^ 64 - 1)] := ⟨_, rfl, rfl, by decide⟩

end Sys2Proof.Tests
end

section
/-! SUPPORT. Everything a command can answer: a next state with the queue as it stands, or, ill formed, a fault; and what follows for a
queue of well-formed commands. -/

namespace Sys2Proof.Proofs

open Sys2Proof Sys2Proof.Machine Sys2Proof.Laws

/-- What a command may answer in state s: a next state that differs in the device alone; a fault only where the command is not `ok`. -/
inductive Answers (ok : Bool) (s : State) : Res → Prop where
  /-- the device changed, the queue as it stands -/
  | next (d : Dev) : Answers ok s (.next { s with dev := d })
  /-- an operand names a place the package does not have -/
  | fault (e : Fault) (h : ok = false) : Answers ok s (.fault e)

namespace Answers

variable {ok : Bool} {s : State}

theorem upd {f : Dev → Dev} : Answers ok s (upd s f) := next _

theorem updS {f : Dev → Dev} : Answers ok s (updS s f) := next _

theorem there {c : Bool} {k : Res} (hk : Answers ok s k) : Answers ok s (there c s k) := by
  obtain ⟨-, h⟩ | ⟨-, h⟩ := there_result (c := c) (s := s) (k := k)
  · rwa [h]
  · rw [h]; exact next s.dev

/-- A meaning with a needed place faults only where the command names none. -/
theorem need {c : Bool} {e : Fault} {k : Res} (hc : ok = true → c = true) (hk : Answers ok s k) : Answers ok s (need c e k) := by
  cases hok : ok with
  | true => rw [need_true (hc hok)]; exact hok ▸ hk
  | false =>
    cases c with
    | true => rw [need_true rfl]; exact hok ▸ hk
    | false => rw [need_false rfl]; exact .fault e rfl

/-- Of a well-formed command. -/
theorem next_of_ok {r : Res} (h : Answers true s r) : ∃ t, r = .next t := by
  cases h with
  | next d => exact ⟨_, rfl⟩
  | fault e h => cases h

/-- A next state has the queue as it stood. -/
theorem pending {t : State} (h : Answers ok s (.next t)) : t.pending = s.pending := by
  cases h; rfl

end Answers

/-- Every row: where its operands name places the package has, it changes the device alone. The rows of rings, semaphores, cores and
engines fault otherwise; no other row ever faults, and none is refused. -/
theorem exec_answers (c : Instr) (s : State) : Answers c.wf s (exec c s) := by
  cases c
  case ringEnable | ringDisable | ringDrainComplete | kick | doorbellPoll | idleHandshake | reportDoorbellRead | commandAccept |
    interruptModerationEnd | semPartWrite | hbOd | hbMm | hbMmFirstRow | hbMmCompletion | hbEnd | codeFetch |
    vld | vst | sld | sst | vldB | vstB | vstBx | vadd | vsub | vmul | vmin | vmax | vabs | vand | vor | vxor | vshl | vshr |
    vshrr | vsel | vcmp | vbcast | vfma | vfscl | vcvt | vnarrow | vperm | vnorm | vrsum | vrmax | vrmin | vbexp | vcmac | vcmacf |
    vbfly4 | vdemap | vfdiv | vfsqrt | sadd | ssub | smul | sand | sor | sxor | sshl | sshr | sli | amov | mmov | kmov | loop |
    span | br | brz | brnz | waitc | waitcSatisfied | sigc | seEnd | suSd | suMv | moveStart | suAt | atOffsetReached | suEend |
    suRma | suAmo | suFence | remoteOpComplete | suEvc | suEvr | contextSaveComplete | scrubComplete | contextRestoreComplete =>
      exact .need id .upd
  case nop | semAdd | semRead | semNotify | sessClose | moveComplete | seResultLand =>
      exact .need (fun h => (Bool.and_eq_true_iff.1 h).1) .upd
  case allocDeadline => exact .there (.there .upd)
  case pwrOkFall => exact .there .updS
  case ppsInEdge | ppsOutPulse | powerOn | i3cPointerWrite | i3cRead | powerCycle | pwrcycReqNRelease => exact .updS
  case registerWrite | hostAccessError | replaysReadClear | hostAccessTimeout | ideIntegrityFail | keyProg | gateListSwitch |
    resetBoundMiss | sessOpenLapse | epochTick | epochEnd | unitRelease | holdLimit | unitEnd | unitCapExpiry | exchangeSend |
    xdataReceive | xrelReceive | mreqReceive | mrspReceive | bulkReceive | bulkAckReceive | mirrorReceive | mirrorAckReceive |
    mirrorHorizonReceive | handoverRequest | handoverResponse | staleNoticeReceive | flitRefused | flitCrcFail | nakReceive |
    ackReceive | linkDown | linkPhaseEnd | trainingTimeout | retrain | ethernetFrameReceive | uplaneReceive | delayRequestReceive |
    rmaResponseReceive | cplaneSend | uplaneSend | dlWindowClose | lineClose | ulPresenceSet | fhPortDown | portRetry |
    quadModeSet | queuePoll | dlSch | ulSch | polarDci | polarBch | polarUci | smallUci | signal | codeBlockDone |
    codingJobComplete | signalDeadline | slotReport | patrolRead | bankRefresh | frameRelease | walkerPageRewrite |
    ptpMessageReceive | ptpSyncSend | transmitStart | lendNotice | takePoint | lendWon | lendWoff | sgDecision | yieldExpiry |
    fixedSliceBoundary | watchdogExpiry | probationEnd | drainBarrierComplete | dieLinkReplay | dieLinkLaneFail | loadComplete |
    detectionWindowStart | esmcReceive => exact .there .upd
  all_goals exact .upd

/-- Settles O47: the command at the front answers a next state, since it is well formed, and the rest of the queue stands. -/
theorem wellFormedQueueRuns : Obligations.WellFormedQueueRuns := by
  unfold Obligations.WellFormedQueueRuns
  intro s hs
  cases hp : s.pending with
  | nil => exact ⟨{ s with dev := tick s.dev }, by simp [step, hp], hs⟩
  | cons c rest =>
    have hwf : c.wf = true := hs c (by simp [hp])
    have answers := exec_answers c { s with pending := rest }
    obtain ⟨t, ht⟩ := (hwf ▸ answers).next_of_ok
    have hrest : t.pending = rest := (ht ▸ answers).pending
    refine ⟨t, by simpa [step, hp] using ht, fun x hx => hs x ?_⟩
    rw [hrest] at hx
    exact hp ▸ List.mem_cons_of_mem c hx

end Sys2Proof.Proofs
end

section
/-! SUPPORT. Rows whose operand names a core, an engine, a ring or a semaphore the package does not have. -/

namespace Sys2Proof.Proofs

open Sys2Proof Sys2Proof.Machine Sys2Proof.Laws

/-- Every slot instruction needs its core. -/
theorem slotRows_fault (s : State) (g : Nat) (sl : SeSlot) (w : Slot64) (hg : decide (g < 80) = false) :
    ∀ c ∈ Stated.slotRows g sl w, exec c s = .fault .noSuchCore := by
  repeat refine List.forall_mem_cons.2 ⟨need_false hg, ?_⟩
  exact List.forall_mem_nil _

/-- Every Hornbeam row needs its core and its engine. -/
theorem matrixRows_fault (s : State) (g e n : Nat) (ev : MmEvent) (x : Word256) (h : (decide (g < 80) && decide (e < 2)) = false) :
    ∀ c ∈ Stated.matrixRows g e n ev x, exec c s = .fault .noSuchCore := by
  repeat refine List.forall_mem_cons.2 ⟨need_false h, ?_⟩
  exact List.forall_mem_nil _

/-- Every row of a stream unit, of its moves and of what lands in a core's signal engine needs its core. -/
theorem streamRows_fault (s : State) (g : Nat) (x : Word256) (mv : MoveEvent) (se : SeEvent) (hg : decide (g < 80) = false) :
    ∀ c ∈ ([.suSd g x, .suMv g x, .suAt g x, .suEend g x, .suRma g x, .suAmo g x, .suFence g x, .suEvc g x, .suEvr g x, .moveStart g,
      .moveComplete g mv, .atOffsetReached g, .remoteOpComplete g, .seResultLand ⟨g, se⟩, .waitcSatisfied g] : List Instr),
      exec c s = .fault .noSuchCore := by
  repeat refine List.forall_mem_cons.2 ⟨need_false hg, ?_⟩
  exact List.forall_mem_nil _

/-- Every ring row needs its ring. -/
theorem ringRows_fault (s : State) (r : Nat) (v : BitVec 32) (v' : BitVec 64) (hr : decide (r < 16384) = false) :
    ∀ c ∈ ([.kick r v, .doorbellPoll r, .idleHandshake r, .commandAccept r, .ringEnable r v', .ringDisable r v', .ringDrainComplete r,
      .reportDoorbellRead r, .interruptModerationEnd r] : List Instr), exec c s = .fault .noSuchRing := by
  repeat refine List.forall_mem_cons.2 ⟨need_false hr, ?_⟩
  exact List.forall_mem_nil _

/-- The rows of an epoch and of its units occur nowhere when their partition is absent. -/
theorem partRows_absent (s : State) (p i : Nat) (hp : decide (p < 32) = false) :
    ∀ c ∈ ([.epochTick p, .epochEnd p, .unitEnd p i, .unitRelease p i] : List Instr), exec c s = .next s := by
  repeat refine List.forall_mem_cons.2 ⟨there_false hp, ?_⟩
  exact List.forall_mem_nil _

/-- Settles O49: each row's place is checked before its meaning. -/
theorem foreignUnitsFault : Obligations.ForeignUnitsFault := by
  unfold Obligations.ForeignUnitsFault
  have absent : ∀ {n k : Nat}, k ≤ n → decide (n < k) = false := fun h => decide_eq_false (Nat.not_lt.2 h)
  refine ⟨fun s g e n sl w x mm mv se hg => ?_, fun s g e n ev x he => ?_, fun s r v v' hr => ringRows_fault s r v v' (absent hr),
    fun s i v hi => need_false (absent hi), fun s p i hp => partRows_absent s p i (absent hp)⟩
  · refine List.forall_mem_append.2 ⟨List.forall_mem_append.2 ⟨slotRows_fault s g sl w (absent hg), ?_⟩,
      streamRows_fault s g x mv se (absent hg)⟩
    exact matrixRows_fault s g e n mm x (Bool.and_eq_false_iff.2 (.inl (absent hg)))
  · exact matrixRows_fault s g e n ev x (Bool.and_eq_false_iff.2 (.inr (absent he)))

end Sys2Proof.Proofs
end

section
/-! SUPPORT. The machine after power-up. -/

namespace Sys2Proof.Proofs

open Sys2Proof Sys2Proof.Machine Sys2Proof.Laws

/-- After power-up nothing is listed in the register table, so every register reads its reset value. -/
theorem reset_rd (r : RegName) (i : Nat) : State.reset.dev.rd r i = r.resetVal i := rfl

/-- After power-up a field reads the bits of its register's reset value. -/
theorem reset_getF (f : Field) (i : Nat) : State.reset.dev.getF f i = bitsOf (f.reg.resetVal i).toNat f.hi f.lo := rfl

/-- The elements of a register other than PT_PART_STATE reset alike (R290). -/
theorem resetVal_element {r : RegName} (i : Nat) (h : r ≠ .ptPartState) : r.resetVal i = r.resetVal 0 := by
  simp [RegName.resetVal, h]

/-- After power-up every ring is DISABLED (R326). -/
theorem reset_ringSt (r : Nat) : State.reset.dev.ringSt r = 0 := by
  rw [Dev.ringSt, reset_getF, resetVal_element r (by decide)]
  decide

/-- Settles O48: the state after power-up is the empty one, and the register map's reset values are evaluated field by field. -/
theorem resetState : Obligations.ResetState := by
  unfold Obligations.ResetState
  obtain ⟨hspad, hhbm, -, -, hhost⟩ := reset_memories_wf
  refine ⟨rfl, fun c hc => absurd hc List.not_mem_nil, reset_rd, rfl, rfl, rfl, rfl, rfl, rfl, rfl, hhbm, hspad, hhost, reset_ringSt, ?_⟩
  decide

end Sys2Proof.Proofs
end

section
/-! SUPPORT. Network time and the a-cycle count: nothing that an a-cycle brings, but `passTime`, moves them (R12, R13). One equation a
function, from the plainest updates up to `cycle`. -/

namespace Sys2Proof.Proofs

open Sys2Proof Sys2Proof.Machine Sys2Proof.Laws

/-- The a-cycle count and network time of a device. -/
def timeOf (d : Dev) : Nat × BitVec 64 := (d.acyc, d.nt)

/-! ### Folds and choices -/

/-- A fold whose every step keeps time keeps it. -/
theorem foldl_time {β : Type} (f : Dev → β → Dev) (l : List β) (d : Dev) (h : ∀ d x, timeOf (f d x) = timeOf d) :
    timeOf (l.foldl f d) = timeOf d := by
  induction l generalizing d with
  | nil => rfl
  | cons x l ih => exact (ih (f d x)).trans (h d x)

/-- So does a fold that also gathers values. -/
theorem foldl_snd_time {α β : Type} (f : α × Dev → β → α × Dev) (l : List β) (a : α × Dev)
    (h : ∀ a x, timeOf (f a x).2 = timeOf a.2) :
    timeOf (l.foldl f a).2 = timeOf a.2 := by
  induction l generalizing a with
  | nil => rfl
  | cons x l ih => exact (ih (f a x)).trans (h a x)

/-- Of two devices that show one time either shows it. -/
theorem ite_time {c : Prop} [Decidable c] {a b e : Dev} (ha : timeOf a = timeOf e) (hb : timeOf b = timeOf e) :
    timeOf (if c then a else b) = timeOf e := by
  split
  · exact ha
  · exact hb

/-! ### Plain updates and the operations of State -/

section
variable (d : Dev)

@[simp] theorem setF_time (f : Field) (i x : Nat) : timeOf (d.setF f i x) = timeOf d := rfl
@[simp] theorem modRing_time (r : Nat) (f : Ring → Ring) : timeOf (d.modRing r f) = timeOf d := rfl
@[simp] theorem modSched_time (p : Nat) (f : Sched → Sched) : timeOf (d.modSched p f) = timeOf d := rfl
@[simp] theorem modUnit_time (p i : Nat) (f : UnitRt → UnitRt) : timeOf (d.modUnit p i f) = timeOf d := rfl
@[simp] theorem modSe_time (g : Nat) (f : SeEngine → SeEngine) : timeOf (d.modSe g f) = timeOf d := rfl
@[simp] theorem modRegs_time (g : Nat) (f : SeRegs → SeRegs) : timeOf (d.modRegs g f) = timeOf d := rfl
@[simp] theorem modHb_time (g e : Nat) (f : HbEngine → HbEngine) : timeOf (d.modHb g e f) = timeOf d := rfl
@[simp] theorem modRemote_time (g i : Nat) (f : RemoteOp → RemoteOp) : timeOf (d.modRemote g i f) = timeOf d := rfl
@[simp] theorem modCarrier_time (k : Nat) (f : Carrier → Carrier) : timeOf (d.modCarrier k f) = timeOf d := rfl
@[simp] theorem modPort_time (e : Nat) (f : Port → Port) : timeOf (d.modPort e f) = timeOf d := rfl
@[simp] theorem modGrant_time (i k : Nat) (f : SgGrant → SgGrant) : timeOf (modGrant i k f d) = timeOf d := rfl
@[simp] theorem hostWrite_time (a : Nat) (b : Bytes) : timeOf (hostWrite a b d) = timeOf d := rfl
@[simp] theorem health_time (c n : Nat) : timeOf (health c n d) = timeOf d := rfl
@[simp] theorem evCore_time (g src sub n : Nat) : timeOf (evCore g src sub n d) = timeOf d := rfl
@[simp] theorem evPart_time (p src sub n : Nat) : timeOf (evPart p src sub n d) = timeOf d := rfl
@[simp] theorem evDie_time (die src sub n : Nat) : timeOf (evDie die src sub n d) = timeOf d := rfl
@[simp] theorem evNum_time (g e : Nat) (n : NumEv) : timeOf (evNum g e n d) = timeOf d := rfl
@[simp] theorem raise_time (f : Field) (i : Nat) : timeOf (d.raise f i) = timeOf d := by simp [timeOf]
@[simp] theorem raiseRing_time (r : Nat) : timeOf (raiseRing r d) = timeOf d := by simp [timeOf]
@[simp] theorem semAddTo_time (i : Nat) (a : BitVec 64) : timeOf (semAddTo i a d) = timeOf d := by simp [timeOf]
@[simp] theorem writeComp_time (c : Src) (st : Nat) (r0 r1 : BitVec 64) : timeOf (writeComp c st r0 r1 d) = timeOf d := by simp [timeOf]
@[simp] theorem spansEnd_time : timeOf (spansEnd d) = timeOf d := rfl

/-! ### Engines of a core -/

@[simp] theorem ccInc_time (g i : Nat) : timeOf (ccInc g i d) = timeOf d := ite_time rfl rfl

@[simp] theorem sigDue_time (g : Nat) : timeOf (sigDue g d) = timeOf d :=
  foldl_time _ _ _ fun d _ => ccInc_time d g _

@[simp] theorem landDue_time (g : Nat) : timeOf (landDue g d) = timeOf d := ite_time rfl rfl

@[simp] theorem seTick_time (g : Nat) : timeOf (seTick g d) = timeOf d := by
  unfold seTick
  dsimp only
  repeat' split
  all_goals simp

/-! ### Scratchpads -/

@[simp] theorem portRead_time (who : Who) (since : Nat) (taint : List (Nat × Nat)) (p : Nat) (cores : List Nat) (l n : Nat) :
    timeOf (portRead who since taint p cores l n d).2 = timeOf d := by
  obtain h | h := portRead_result who since taint p cores l n d <;> rw [h]
  rfl

@[simp] theorem spadWrite_time (p : Nat) (cores : List Nat) (l : Nat) (bs : Bytes) : timeOf (spadWrite p cores l bs d) = timeOf d := by
  obtain ⟨-, -, -, -, -, -, -, -, hacyc, hnt, -⟩ := spadWrite_keeps p cores l bs d
  exact Prod.ext hacyc hnt

@[simp] theorem spadFree_time (p : Nat) (cores : List Nat) (l n : Nat) : timeOf (spadFree p cores l n d) = timeOf d :=
  spadWrite_time _ p cores l _

@[simp] theorem noteOld_time (who : Who) (p : Nat) (cores : List Nat) (l n : Nat) : timeOf (noteOld who p cores l n d) = timeOf d :=
  ite_time rfl rfl

@[simp] theorem portWrite_time (who : Who) (since p : Nat) (cores : List Nat) (l : Nat) (b : Bytes) :
    timeOf (portWrite who since p cores l b d) = timeOf d := by
  have h := noteOld_time d who p cores l b.length
  refine ite_time ((spadWrite_time _ p cores l b).trans h) ((foldl_time _ _ _ fun e x => ?_).trans h)
  exact ite_time rfl (spadWrite_time e p cores _ _)

/-! ### The matrix arrays -/

@[simp] theorem mmElem_time (j : MmJob) (taint : List (Nat × Nat)) (x : OdDesc) (f i k : Nat) :
    timeOf (mmElem j taint x f i k d).2 = timeOf d := by
  unfold mmElem
  dsimp only
  split <;> simp

@[simp] theorem mmElems_time (j : MmJob) (taint : List (Nat × Nat)) (x : OdDesc) (f : Nat) (l : List (Nat × Nat)) :
    timeOf (mmElems j taint x f l d).2 = timeOf d :=
  foldl_snd_time _ l _ fun a _ => mmElem_time a.2 j taint x f _ _

@[simp] theorem unitLost_time (g e : Nat) : timeOf (unitLost g e d) = timeOf d := by
  unfold unitLost
  split <;> simp

@[simp] theorem mmStatus_time (j : MmJob) (a : Nat × Nat) (st : Nat) : timeOf (mmStatus j a st d) = timeOf d := by
  unfold mmStatus
  split_ifs <;> simp

@[simp] theorem modMm_time (j : MmJob) (f : MmRt → MmRt) : timeOf (modMm j f d) = timeOf d := rfl

@[simp] theorem startPass_time (a : Nat × Nat) (q : MmPass) (w t : Nat) : timeOf (startPass a q w t d) = timeOf d := rfl

@[simp] theorem loadRow_time (j : MmJob) (a : Nat × Nat) (q : MmPass) (u : Nat) : timeOf (loadRow j a q u d) = timeOf d := by
  unfold loadRow
  simp only [mmStatus_time, modHb_time]
  exact foldl_snd_time _ _ _ fun acc _ => mmElems_time acc.2 j _ _ _ _

@[simp] theorem enterRow_time (j : MmJob) (a : Nat × Nat) (q : MmPass) (r t : Nat) : timeOf (enterRow j a q r t d) = timeOf d := by
  unfold enterRow
  dsimp only
  split <;> simp

@[simp] theorem initRow_time (j : MmJob) (a : Nat × Nat) (t m : Nat) : timeOf (initRow j a t m d).2 = timeOf d := by
  unfold initRow
  dsimp only
  split_ifs <;> simp

@[simp] theorem mmPut_time (j : MmJob) (l : Nat) (b : Bytes) : timeOf (mmPut j l b d) = timeOf d :=
  ite_time (portWrite_time _ _ _ _ _ _ _) (portWrite_time _ _ _ _ _ _ _)

@[simp] theorem mmWriteTile_time (j : MmJob) (a : Nat × Nat) (t m : Nat) (vals : Nat → Machine.Num × Machine.Num) (bad : Bool) :
    timeOf (mmWriteTile j a t m vals bad d) = timeOf d := by
  unfold mmWriteTile
  dsimp only
  split <;> simp

@[simp] theorem outRow_time (j : MmJob) (a : Nat × Nat) (q : MmPass) (r : Nat) : timeOf (outRow j a q r d) = timeOf d := by
  unfold outRow
  dsimp only
  split
  · rfl
  · simp only [apply_ite timeOf, mmWriteTile_time, evNum_time, modHb_time, initRow_time, ite_self]

@[simp] theorem zeroRow_time (j : MmJob) (a : Nat × Nat) (m : Nat) : timeOf (zeroRow j a m d) = timeOf d := by
  unfold zeroRow
  exact foldl_time _ _ d fun e t => by simp only [mmWriteTile_time, initRow_time]

@[simp] theorem hbEvent_time (j : MmJob) (a : Nat × Nat) (t : Nat) (x : HbEv) : timeOf (hbEvent j a t x d) = timeOf d := by
  cases x <;> simp [hbEvent]

@[simp] theorem runArray_time (j : MmJob) (i n : Nat) (a : Nat × Nat) (lo hi t0 : Nat) : timeOf (runArray j i n a lo hi t0 d) = timeOf d := by
  have h : ∀ evs : List (Nat × Nat × HbEv), timeOf (evs.foldl (fun d x => hbEvent j a (t0 + x.1 - runBase) x.2.2 d) d) = timeOf d :=
    fun evs => foldl_time _ evs d fun e x => hbEvent_time e _ _ _ _
  exact ite_time (h _) (h _)

@[simp] theorem mmRun_time (g e : Nat) (x : MmRt) : timeOf (mmRun g e x d) = timeOf d := by
  unfold mmRun
  dsimp only
  repeat' split
  · rfl
  · rfl
  · exact foldl_time _ _ d fun e _ => runArray_time e _ _ _ _ _ _ _

@[simp] theorem hbTick_time (g : Nat) : timeOf (hbTick g d) = timeOf d := by
  have h : ∀ e (d : Dev), timeOf (hbRun g e d) = timeOf d := fun e d => foldl_time _ _ d fun d x => mmRun_time d g e x
  exact (h 1 _).trans (h 0 d)

/-! ### Sources, charges and lending -/

@[simp] theorem coreCycle_time (g : Nat) : timeOf (coreCycle g d) = timeOf d := by
  unfold coreCycle
  dsimp only
  repeat' split
  all_goals simp

@[simp] theorem dieCycle_time (die : Nat) : timeOf (dieCycle die d) = timeOf d := ite_time rfl rfl

@[simp] theorem schedCycle_time (p : Nat) : timeOf (schedCycle p d) = timeOf d := by
  unfold schedCycle
  dsimp only
  split_ifs <;> simp

@[simp] theorem chargePart_time (p : Nat) : timeOf (chargePart p d) = timeOf d := ite_time rfl rfl

@[simp] theorem startSave_time (g : Nat) : timeOf (startSave g d) = timeOf d := ite_time rfl rfl

@[simp] theorem sgTick_time (i : Nat) : timeOf (sgTick i d) = timeOf d := by
  have grants (f : Dev → Nat → SgGrant → SgGrant) (ks : List Nat) : timeOf (ks.foldl (fun d k => modGrant i k (f d k) d) d) = timeOf d :=
    foldl_time _ ks d fun e k => modGrant_time e i k _
  unfold sgTick
  dsimp only
  split
  · exact grants _ _
  · refine ite_time (grants _ _) (ite_time ?_ (grants _ _))
    refine (foldl_time _ _ _ fun e c => ?_).trans (grants _ _)
    exact ite_time (startSave_time e c) rfl

/-! ### Requests to the fabric -/


@[simp] theorem sendFlit_time (mask q : Nat) (hdr : BitVec 96) (b : Bytes) : timeOf (sendFlit mask q hdr b d) = timeOf d := by
  unfold sendFlit
  dsimp only
  split <;> rfl

@[simp] theorem sendReq_time (tag : Nat) (r : Req) (retry : Bool) : timeOf (sendReq tag r retry d) = timeOf d := by
  have h := sendFlit_time d (d.linksTo r.dst) r.queue (d.reqHdr r tag retry) r.body
  exact ite_time ((foldl_time _ _ _ fun e _ => sendFlit_time e _ _ _ _).trans h) h

@[simp] theorem openReq_time (tag : Nat) (r : Req) : timeOf (openReq tag r d) = timeOf d :=
  sendReq_time _ tag r false

@[simp] theorem farReq_time (p x va : Nat) (store : Option Bytes) (asker : Option (Nat × Nat)) (tag : Nat) :
    timeOf (farReq p x va store asker tag d) = timeOf d := openReq_time d tag _

theorem farAsk_time (p : Nat) (asker : Nat × Nat) (us : List (Nat × Nat)) (n : Nat) : timeOf (farAsk p asker us (n, d)).2 = timeOf d := by
  induction us generalizing n d with
  | nil => rfl
  | cons u us ih =>
    unfold farAsk
    split
    · exact (ih _ _).trans (farReq_time d _ _ _ _ _ _)
    · rfl

@[simp] theorem migAsk_time : timeOf (migAsk d) = timeOf d := by
  unfold migAsk
  dsimp only
  split
  · rfl
  · exact ite_time rfl (farAsk_time d _ _ _ _)

@[simp] theorem farPump_time (n : Nat) : timeOf (farPump n d) = timeOf d := by
  induction n generalizing d with
  | zero => rfl
  | succ n ih =>
    unfold farPump
    split
    · rfl
    · refine ite_time rfl ?_
      split
      · exact (ih _).trans (farReq_time _ _ _ _ _ _ _)
      · rfl

@[simp] theorem farCycle_time : timeOf (farCycle d) = timeOf d := (farPump_time _ _).trans (migAsk_time d)

/-! ### Moves -/

@[simp] theorem moveAsk_time (g : Nat) : timeOf (moveAsk g d) = timeOf d := by
  refine foldl_time _ _ d fun e i => ?_
  dsimp only
  split
  · rfl
  · exact ite_time rfl (ite_time rfl (farAsk_time e _ _ _ _))

@[simp] theorem regWaited_time (p r : Nat) : timeOf (regWaited p r d) = timeOf d := by simp [regWaited]

@[simp] theorem moveThrottled_time (g : Nat) : timeOf (moveThrottled g d) = timeOf d := by
  unfold moveThrottled
  split
  · rfl
  · refine ite_time rfl ?_
    split <;> simp

/-! ### Tier 2 as a remote operation reads it -/

@[simp] theorem tierLoad_time (x : SuPort) (tier a n : Nat) : timeOf (tierLoad x tier a n d).2 = timeOf d := by
  unfold tierLoad
  dsimp only
  split
  · exact portRead_time d _ _ _ _ _ _ _
  · rfl
  · split_ifs <;> rfl

@[simp] theorem ueLog_time (pa : Nat) (patrol : Bool) : timeOf (ueLog pa patrol d) = timeOf d := by
  simp [ueLog, apply_ite timeOf]

@[simp] theorem memCe_time (pa : Nat) : timeOf (memCe pa d) = timeOf d := by simp [memCe]

@[simp] theorem unitNote_time (patrol : Bool) (a : PAddr) : timeOf (unitNote patrol a d) = timeOf d := by
  unfold unitNote
  dsimp only
  repeat' split
  all_goals simp

@[simp] theorem vNote_time (p a n : Nat) : timeOf (vNote p a n d) = timeOf d := by
  refine foldl_time _ _ d fun e u => ?_
  split <;> simp

@[simp] theorem xlate_time (unit g p a n : Nat) : timeOf (xlate unit g p a n d) = timeOf d := by
  refine foldl_time _ _ d fun e v => ?_
  dsimp only
  split_ifs <;> rfl

@[simp] theorem regCharge_time (p r b : Nat) : timeOf (regCharge p r b d) = timeOf d := rfl

@[simp] theorem hbmCharge_time (p a n : Nat) : timeOf (hbmCharge p a n d) = timeOf d :=
  foldl_time _ _ d fun e _ => regCharge_time e _ _ _

/-! ### Reports and completions -/

@[simp] theorem loseReport_time (r : Nat) : timeOf (loseReport r d) = timeOf d := ite_time rfl rfl

@[simp] theorem foldMerged_time (r : Nat) (x : Report) : timeOf (foldMerged r x d).2 = timeOf d := by
  unfold foldMerged
  split_ifs <;> rfl

@[simp] theorem writeReport_time (r : Nat) (x : Report) : timeOf (writeReport r x d) = timeOf d := by simp [writeReport]

@[simp] theorem reportTo_time (r : Nat) (x : Report) : timeOf (reportTo r x d) = timeOf d :=
  ite_time (loseReport_time d r) (ite_time (writeReport_time d r x) rfl)

@[simp] theorem xlateFault_time (p page unit g : Nat) (write : Bool) : timeOf (xlateFault p page unit g write d) = timeOf d := by
  unfold xlateFault report
  split <;> simp

@[simp] theorem finish_time (c : Src) (st : Nat) (r0 r1 : BitVec 64) : timeOf (finish c st r0 r1 d) = timeOf d := by
  have started : timeOf (endStarted c d) = timeOf d := rfl
  unfold finish
  dsimp only
  split
  all_goals simp [apply_ite timeOf, started]

@[simp] theorem done_time (c : Src) (st : Nat) : timeOf (done c st d) = timeOf d := by
  unfold done complete
  split <;> simp

@[simp] theorem revokesDone_time : timeOf (revokesDone d) = timeOf d := by
  refine foldl_time _ _ d fun e k => ite_time rfl ?_
  exact (foldl_time _ _ _ fun f r => done_time f _ _).trans (modCarrier_time e k _)

/-! ### Remote operations -/

@[simp] theorem remoteFail_time (g i st : Nat) : timeOf (remoteFail g i st d) = timeOf d := rfl

@[simp] theorem issueReq_time (g op p dst role code kind atype off len addr o0 o1 : Nat) (first : Bool) (b : Bytes) (tag : Nat) :
    timeOf (issueReq g op p dst role code kind atype off len addr o0 o1 first b tag d) = timeOf d := openReq_time d tag _

@[simp] theorem putData_time (g : Nat) (o : RemoteOp) (ofs n : Nat) : timeOf (putData g o ofs n d).2 = timeOf d := by
  unfold putData
  dsimp only
  split <;> simp [apply_ite timeOf]

@[simp] theorem sendOne_time (g : Nat) (o : RemoteOp) (first : Bool) (i : Nat × Nat) (ofs n tag : Nat) :
    timeOf (sendOne g o first i ofs n tag d) = timeOf d := by
  unfold sendOne
  dsimp only
  split_ifs <;> simp

@[simp] theorem sendNext_time (g : Nat) (o : RemoteOp) : timeOf (sendNext g o d) = timeOf d := by
  unfold sendNext
  dsimp only
  refine ite_time rfl (ite_time rfl (ite_time rfl (ite_time (regWaited_time d _ _) ?_)))
  split
  · rfl
  · exact (foldl_time _ _ _ fun e _ => sendOne_time e _ _ _ _ _ _ _).trans rfl

@[simp] theorem remotePump_time (g : Nat) : timeOf (remotePump g d) = timeOf d := by
  unfold remotePump
  generalize (d.core g).remote = os
  induction os generalizing d with
  | nil => rfl
  | cons o os ih => exact ite_time rfl (ite_time rfl ((ih _).trans (sendNext_time d g o)))

/-! ### Egress ports and replies -/

@[simp] theorem gateOverrun_time (e : Nat) : timeOf (gateOverrun e d) = timeOf d := by
  unfold gateOverrun
  split
  · rfl
  · split_ifs <;> simp

@[simp] theorem cbsTick_time : timeOf (cbsTick d) = timeOf d := foldl_time _ _ d fun _ _ => ite_time rfl rfl

@[simp] theorem portCycle_time : timeOf (portCycle d) = timeOf d :=
  (foldl_time _ _ _ fun d e => gateOverrun_time d e).trans (cbsTick_time d)

@[simp] theorem repliesAge_time : timeOf (repliesAge d) = timeOf d := ite_time rfl rfl

@[simp] theorem ppsFall_time : timeOf (ppsFall d) = timeOf d := by
  unfold ppsFall
  split
  · exact ite_time rfl rfl
  · rfl

/-! ### The a-cycle -/

/-- Nothing that an a-cycle brings moves time. -/
theorem cycle_time : timeOf (cycle d) = timeOf d := by
  simp only [cycle, foldl_time, apply_ite timeOf, ite_self, seTick_time, hbTick_time, coreCycle_time, dieCycle_time, schedCycle_time,
    chargePart_time, spansEnd_time, sgTick_time, moveThrottled_time, remotePump_time, moveAsk_time, farCycle_time, portCycle_time,
    repliesAge_time, revokesDone_time, implies_true]

/-- An a-cycle moves time as `passTime` does. -/
theorem tick_time : timeOf (tick d) = timeOf (passTime d) :=
  ite_time (ppsFall_time _) ((cycle_time _).trans (ppsFall_time _))

end

/-- Settles O44: only `passTime` moves time in a step without a command. -/
theorem idlingMovesTime : Obligations.IdlingMovesTime := by
  unfold Obligations.IdlingMovesTime
  intro s hs
  have h := tick_time s.dev
  exact ⟨{ s with dev := tick s.dev }, by simp [step, hs], hs, congrArg Prod.fst h, congrArg Prod.snd h⟩

end Sys2Proof.Proofs
end

section
/-! SUPPORT. Writes of registers without a rule of their own: what each field takes (R21, R381), and that nothing but the register
written and the record of W1C bits changes. -/

namespace Sys2Proof.Proofs

open Sys2Proof Sys2Proof.Machine Sys2Proof.Laws

/-- A register that a write reaches by a rule of its own. -/
abbrev ownRuled : List RegName :=
  [.ringSq, .ringCq, .ringDb, .ringAux, .ringCtl, .semPart, .fhQuadCfg, .qsTlPlan, .tbHistCtl, .lgMboxCtl, .setupLock]

/-- Every other register follows its access codes. -/
theorem writeAt_reg {r : RegName} (hr : r ∉ ownRuled) (i width : Nat) (v : BitVec 64) (d : Dev) :
    writeAt (.reg r i) width v d = writeReg r i v d := by
  unfold writeAt
  split <;> simp_all

/-- A host write that reaches such a register writes it. -/
theorem exec_registerWrite_reg {s : State} {off width i : Nat} {r : RegName} (v : BitVec 64) (hrun : s.dev.pins.stopped = false)
    (hoff : off < 0x4000000) (hopen : s.dev.barOpen off = 2) (ht : barTarget off width = .inl (.reg r i)) (hr : r ∉ ownRuled) :
    exec (.registerWrite off width v) s = .next { s with dev := writeReg r i v s.dev } := by
  have hw : registerWrite off width v s.dev = writeReg r i v s.dev := by
    simp only [registerWrite, hopen, ht, writeAt_reg hr]
  show there (off < 0x4000000) s (upd s (registerWrite off width v)) = _
  rw [there_true (decide_eq_true hoff), upd_running hrun, hw]

/-! ### The writing of a register, by the setup lock -/

/-- While the setup lock is off every field is written by its code. -/
theorem writeReg_unlocked {d : Dev} (h : d.locked = false) (r : RegName) (i : Nat) (v : BitVec 64) :
    writeReg r i v d =
      (let e := r.spec.fields.foldl (writeField false i v.toNat) d
       match setcntOf r with
       | some c => e.setF c i (min 255 (e.countedNow r i v))
       | none => e) := by
  rw [writeReg, h]
  rfl

/-- A locked field stays; the others are written as they would be. -/
theorem foldl_writeField_locked (i v : Nat) (fs : List Field) (d : Dev) :
    fs.foldl (writeField true i v) d = (fs.filter (fun f => decide (f.acc ≠ .rwl))).foldl (writeField true i v) d := by
  rw [List.foldl_filter]
  congr 1
  funext d f
  by_cases h : f.acc = .rwl <;> simp [writeField, h]

/-- With LOCK set, a write that meets RWL fields counts once and leaves them. -/
theorem writeReg_locked {d : Dev} (h : d.locked = true) {r : RegName} (hr : r.spec.fields.any (fun f => decide (f.acc = .rwl)) = true)
    (hc : setcntOf r = none) (i : Nat) (v : BitVec 64) :
    writeReg r i v d = (r.spec.fields.filter (fun f => decide (f.acc ≠ .rwl))).foldl (writeField true i v.toNat) (lockedWrite d) := by
  simp only [writeReg, h, hr, hc, and_self, if_true]
  exact foldl_writeField_locked i v.toNat _ _

/-- Settles O1: the fold over the register's fields, each by its code. -/
theorem registerWriteFollowsAccessCodes : Obligations.RegisterWriteFollowsAccessCodes := by
  unfold Obligations.RegisterWriteFollowsAccessCodes
  intro s off width v r i hrun hoff hopen ht hr hlock
  rw [exec_registerWrite_reg v hrun hoff hopen ht hr, writeReg_unlocked hlock]
  rfl

/-! ### What a register write leaves as it was -/

/-- Device e differs from d in the register at offset o, and in the record of W1C bits met, at most. -/
def OnlyReg (o : Nat) (d e : Dev) : Prop :=
  e = { d with regs := e.regs, dropped := e.dropped } ∧ ∀ x ≠ o, tabGet 0 e.regs x = tabGet 0 d.regs x

theorem OnlyReg.refl (o : Nat) (d : Dev) : OnlyReg o d d := ⟨rfl, fun _ _ => rfl⟩

theorem OnlyReg.trans {o : Nat} {d e f : Dev} (h : OnlyReg o d e) (k : OnlyReg o e f) : OnlyReg o d f := by
  obtain ⟨hd, hx⟩ := h
  obtain ⟨kd, kx⟩ := k
  refine ⟨?_, fun x hne => (kx x hne).trans (hx x hne)⟩
  rw [kd, hd]

/-- A field of the register written. -/
theorem OnlyReg.setF (d : Dev) (f : Field) (i x : Nat) : OnlyReg (f.reg.off i) d (d.setF f i x) :=
  ⟨rfl, fun y hne => regs_wr_ne d f.reg i y _ 0 hne⟩

/-- W1C bits recorded. -/
theorem OnlyReg.drop (o : Nat) (d : Dev) (l : List (Nat × Nat)) : OnlyReg o d { d with dropped := l } := ⟨rfl, fun _ _ => rfl⟩

/-- A field of register r written by its code. -/
theorem writeField_onlyReg (locked : Bool) (i v : Nat) (d : Dev) (f : Field) :
    OnlyReg (f.reg.off i) d (writeField locked i v d f) := by
  unfold writeField
  dsimp only
  split
  · exact .refl _ d
  · exact .refl _ d
  · exact .setF d f i _
  · split
    · exact .refl _ d
    · exact .setF d f i _
  · split
    · exact .refl _ d
    · split
      · exact .setF d f i _
      · exact (OnlyReg.drop _ d _).trans (.setF _ f i _)
  · exact .setF d f i _

/-- The fields of a register lie in it. -/
theorem fields_reg (r : RegName) : ∀ f ∈ r.spec.fields, f.reg = r := by
  cases r <;> decide

/-- So does its SETCNT. -/
theorem setcntOf_reg (r : RegName) : ∀ c ∈ setcntOf r, c.reg = r := by
  cases r <;> decide

theorem foldl_writeField_onlyReg (locked : Bool) (r : RegName) (i v : Nat) (fs : List Field) (h : ∀ f ∈ fs, f.reg = r) (d : Dev) :
    OnlyReg (r.off i) d (fs.foldl (writeField locked i v) d) := by
  induction fs generalizing d with
  | nil => exact .refl _ d
  | cons f fs ih =>
    obtain ⟨hf, hfs⟩ := List.forall_mem_cons.1 h
    exact (hf ▸ writeField_onlyReg locked i v d f).trans (ih hfs _)

/-- Settles O59: each field's write changes its register and the record alone, and SETCNT is a field of the register. -/
theorem registerWritesFrame : Obligations.RegisterWritesFrame := by
  unfold Obligations.RegisterWritesFrame
  intro s off width v r i hrun hoff hopen ht hr hlock
  refine ⟨_, exec_registerWrite_reg v hrun hoff hopen ht hr, ?_⟩
  have hfs := foldl_writeField_onlyReg false r i v.toNat r.spec.fields (fields_reg r) s.dev
  rw [writeReg_unlocked hlock]
  cases hc : setcntOf r with
  | none => exact hfs
  | some c => exact hfs.trans (setcntOf_reg r c hc ▸ .setF _ c i _)

end Sys2Proof.Proofs
end

section
/-! SUPPORT. Event banks under EV_CTL.CLEAR (R427), ports under TB_HIST_CTL.CLEAR (R254). -/

namespace Sys2Proof.Proofs

open Sys2Proof Sys2Proof.Machine Sys2Proof.Laws

/-! ### EV_CTL.CLEAR -/

/-- Counting leaves what a counter counts, and the epoch of the sample. -/
theorem bump_keeps (b : EvBank) (i n : Nat) : (b.bump i n).sel = b.sel ∧ (b.bump i n).sampEpoch = b.sampEpoch := by
  simp only [EvBank.bump]
  split <;> exact ⟨rfl, rfl⟩

/-- So does counting in a list of counters. -/
theorem foldl_bump_keeps (n : EvBank → Nat → Nat) (is : List Nat) (b : EvBank) :
    (is.foldl (fun b i => b.bump i (n b i)) b).sel = b.sel ∧ (is.foldl (fun b i => b.bump i (n b i)) b).sampEpoch = b.sampEpoch := by
  induction is generalizing b with
  | nil => exact ⟨rfl, rfl⟩
  | cons i is ih =>
    obtain ⟨hsel, hep⟩ := ih (b.bump i (n b i))
    obtain ⟨ksel, kep⟩ := bump_keeps b i (n b i)
    exact ⟨hsel.trans ksel, hep.trans kep⟩

/-- FREEZE takes its value and leaves what a counter counts, and the epoch of the sample. -/
theorem setFreeze_keeps (b : EvBank) (f : Bool) :
    (b.setFreeze f).freeze = f ∧ (b.setFreeze f).sel = b.sel ∧ (b.setFreeze f).sampEpoch = b.sampEpoch := by
  unfold EvBank.setFreeze
  dsimp only
  split_ifs
  · exact ⟨rfl, rfl, rfl⟩
  · exact ⟨rfl, rfl, rfl⟩
  · exact ⟨rfl, foldl_bump_keeps (fun b i => tabGet 0 b.tally i) _ b⟩

/-- The record of what stood before this a-cycle leaves the bank as software sees it. -/
theorem mark_keeps (now : Nat) (b : EvBank) :
    (b.mark now).sel = b.sel ∧ (b.mark now).sampEpoch = b.sampEpoch ∧ (b.mark now).evcAt = b.evcAt := by
  unfold EvBank.mark
  split <;> exact ⟨rfl, rfl, rfl⟩

/-- A bank after a write of EV_CTL with CLEAR that no SU.EVC prevails over (R427). -/
theorem write_ctl_clear {b : EvBank} {now v : Nat} (he : b.evcAt ≠ some now) (hv : v.testBit 3 = true) :
    let x := b.write now 0 v
    x.cnt = [] ∧ x.samp = [] ∧ x.ovf = 0 ∧ x.freeze = v.testBit 0 ∧ x.frzOvf = v.testBit 1 ∧ x.sample = v.testBit 2 ∧ x.sel = b.sel ∧
      x.sampEpoch = b.sampEpoch := by
  obtain ⟨msel, mep, mevc⟩ := mark_keeps now b
  obtain ⟨ffrz, fsel, fep⟩ := setFreeze_keeps (b.mark now) (v.testBit 0)
  have hw : b.write now 0 v =
      ({ (b.mark now).setFreeze (v.testBit 0) with frzOvf := v.testBit 1, sample := v.testBit 2 } : EvBank).cleared := by
    simp [EvBank.write, mevc, he, hv]
  rw [hw]
  exact ⟨rfl, rfl, rfl, ffrz, rfl, rfl, fsel.trans msel, fep.trans mep⟩

/-- The row EV_CLEAR on an open bank's EV_CTL. -/
theorem exec_evClear {s : State} {off k : Nat} {b : EvBank} (v : BitVec 32) (hrun : s.dev.pins.stopped = false)
    (hopen : s.dev.barOpen off = 2) (hk : bankAt off = some (k, 0)) (hb : s.dev.barBank k = some b) :
    exec (.evClear off v) s = .next { s with dev := putBank k (b.write s.dev.acyc 0 v.toNat) s.dev } := by
  have h : evClear off v s.dev = putBank k (b.write s.dev.acyc 0 v.toNat) s.dev := by
    simp only [evClear, hopen, hk, bankWrite, hb]
  exact (upd_running hrun).trans (by rw [h])

/-! ### TB_HIST_CTL.CLEAR -/

/-- The ports with their histograms emptied; a port that then is as it was at reset is no longer listed. -/
def histCleared (ports : Tab Port) : Tab Port :=
  ports.filterMap (fun e =>
    let p := { e.2 with hist := [] }
    if p = {} then none else some (e.1, p))

theorem histCleared_cons (k : Nat) (p : Port) (t : Tab Port) :
    histCleared ((k, p) :: t) =
      if { p with hist := [] } = ({} : Port) then histCleared t else (k, { p with hist := [] }) :: histCleared t := by
  unfold histCleared
  rw [List.filterMap_cons]
  split <;> simp_all

/-- Every histogram is empty. -/
theorem histCleared_hist (t : Tab Port) (e : Nat) : (tabGet {} (histCleared t) e).hist = [] := by
  induction t with
  | nil => rfl
  | cons x t ih =>
    obtain ⟨k, p⟩ := x
    rw [histCleared_cons]
    split_ifs
    · exact ih
    · rw [tabGet]
      split_ifs
      · rfl
      · exact ih

/-- A key the table does not list is not listed afterwards. -/
theorem histCleared_absent {t : Tab Port} {e : Nat} (h : e ∉ t.map (·.1)) : tabGet {} (histCleared t) e = {} := by
  induction t with
  | nil => rfl
  | cons x t ih =>
    obtain ⟨k, p⟩ := x
    obtain ⟨hk, ht⟩ : e ≠ k ∧ e ∉ t.map (·.1) := by simpa using h
    rw [histCleared_cons]
    split_ifs
    · exact ih ht
    · rw [tabGet, if_neg hk]; exact ih ht

/-- With one entry a port, the rest of each port stays. -/
theorem histCleared_port {t : Tab Port} (h : (t.map (·.1)).Nodup) (e : Nat) :
    tabGet {} (histCleared t) e = { tabGet {} t e with hist := [] } := by
  induction t with
  | nil => rfl
  | cons x t ih =>
    obtain ⟨k, p⟩ := x
    obtain ⟨hk, ht⟩ := List.nodup_cons.1 h
    rw [histCleared_cons, tabGet]
    split_ifs with hp he he
    · subst he; exact (histCleared_absent hk).trans hp.symm
    · exact ih ht
    · rw [tabGet, if_pos he]
    · rw [tabGet, if_neg he]; exact ih ht

/-- The device after a write of TB_HIST_CTL with CLEAR (R254). -/
theorem histClear_clear {v : BitVec 32} (hv : v.getLsbD 1 = true) (d : Dev) :
    histClear v d = { d.setF F.tbHistCtlFreeze 0 (bitsOf v.toNat 0 0) with ports := histCleared d.ports } := if_pos hv

/-- Without CLEAR FREEZE alone is written. -/
theorem histClear_keep {v : BitVec 32} (hv : v.getLsbD 1 = false) (d : Dev) :
    histClear v d = d.setF F.tbHistCtlFreeze 0 (bitsOf v.toNat 0 0) := if_neg (ne_true_of_eq_false hv)

/-! ### The statement -/

/-- The row REPLAYS_READ_CLEAR in range, of a running device. -/
theorem exec_replaysReadClear {s : State} {off : Nat} (hrun : s.dev.pins.stopped = false) (hoff : off < 0x4000000) :
    exec (.replaysReadClear off) s = .next { s with dev := replaysRead off s.dev } :=
  (there_true (decide_eq_true hoff)).trans (upd_running hrun)

/-- Settles O3: the locked write by the fold over the other fields, each row of a single register by its meaning. -/
theorem singleRegisterRowsAct : Obligations.SingleRegisterRowsAct := by
  unfold Obligations.SingleRegisterRowsAct
  refine ⟨?lockedWrite, ?setupLock, ?dlStatus, ?tlLinkStatus, ?evClear, ?histClear, ?histKeep⟩
  case lockedWrite =>
    intro s off width v r i hrun hoff hopen ht hr hlock hrwl hc
    rw [exec_registerWrite_reg v hrun hoff hopen ht hr, writeReg_locked hlock hrwl hc, lockedWrite]
  case setupLock => exact fun s v hrun => upd_running hrun
  case dlStatus =>
    intro s off i hrun hoff hopen hf
    simp only [exec_replaysReadClear hrun hoff, replaysRead, hopen, hf]
  case tlLinkStatus =>
    intro s off i hrun hoff hopen hf
    simp only [exec_replaysReadClear hrun hoff, replaysRead, hopen, hf]
  case evClear =>
    intro s off k v b hrun hopen hk hb he hv
    exact ⟨_, exec_evClear v hrun hopen hk hb, write_ctl_clear he hv⟩
  case histClear =>
    intro s v hrun hv
    refine ⟨{ s with dev := histClear v s.dev }, upd_running hrun, ?_⟩
    rw [histClear_clear hv]
    exact ⟨rfl, rfl, histCleared_hist s.dev.ports, histCleared_port⟩
  case histKeep =>
    intro s v hrun hv
    exact (upd_running hrun).trans (by rw [histClear_keep hv])

end Sys2Proof.Proofs
end

section
/-! SUPPORT. Links and ports in training: each row's meaning by the state of its link or port (R412 to R418). -/

namespace Sys2Proof.Proofs

open Sys2Proof Sys2Proof.Machine Sys2Proof.Laws

/-! ### Rows of a link or a port that the package has -/

theorem exec_linkDown {s : State} {l : Nat} (hrun : s.dev.pins.stopped = false) (hl : l < 16) :
    exec (.linkDown l) s = .next { s with dev := linkDown l s.dev } :=
  (there_true (decide_eq_true hl)).trans (upd_running hrun)

theorem exec_linkPhaseEnd {s : State} {e : Nat} (pass : Bool) (pre post : Nat) (hrun : s.dev.pins.stopped = false) (he : e < 33) :
    exec (.linkPhaseEnd e pass pre post) s = .next { s with dev := linkPhaseEnd e pass pre post s.dev } :=
  (there_true (decide_eq_true he)).trans (upd_running hrun)

theorem exec_trainingTimeout {s : State} {e : Nat} (hrun : s.dev.pins.stopped = false) (he : e < 32) :
    exec (.trainingTimeout e) s = .next { s with dev := trainTimeout e s.dev } :=
  (there_true (decide_eq_true he)).trans (upd_running hrun)

theorem exec_quadModeSet {s : State} {q : Nat} (v : BitVec 32) (hrun : s.dev.pins.stopped = false) (hq : q < 4) :
    exec (.quadModeSet q v) s = .next { s with dev := quadModeSet q v s.dev } :=
  (there_true (decide_eq_true hq)).trans (upd_running hrun)

/-! ### Teril links -/

section
variable {d : Dev} {l pre post : Nat}

/-- Entries 16 to 31 are the Teril links. -/
theorem linkPhaseEnd_teril (hl : l < 16) (pass : Bool) (pre post : Nat) (d : Dev) :
    linkPhaseEnd (16 + l) pass pre post d = terilPhase l pass pre post d := by
  have h1 : ¬ 16 + l < 16 := by omega
  have h2 : 16 + l < 32 := by omega
  simp only [linkPhaseEnd, h1, h2, if_false, if_true, Nat.add_sub_cancel_left]

/-- Training passes. -/
theorem terilPhase_trained (hph : (d.link l).phase = 0) (hst : d.getF F.qsLinkState (16 + l) = 1) :
    terilPhase l true pre post d = (d.modLink l (fun x => { x with phase := 1 })).setF F.qsLinkState (16 + l) 2 := by
  simp [terilPhase, hph, hst]

/-- The screen passes: a link that has been up, and is not, enters service at once. -/
theorem terilPhase_screened (hph : (d.link l).phase = 1) :
    terilPhase l true pre post d =
      (let e := noteFec l pre post (d.modLink l (fun x => { x with phase := 2 }))
       if (d.link l).again = true ∧ ¬ d.flag F.tlLinkStatusUp l = true then enterService l e else e) := by
  simp [terilPhase, hph]

/-- The confirmation passes. -/
theorem terilPhase_confirmed (hph : (d.link l).phase = 2) :
    terilPhase l true pre post d =
      (let e := noteFec l pre post (d.modLink l (fun x => { x with phase := 3 }))
       if d.flag F.tlLinkStatusUp l then e else enterService l e) := by
  simp [terilPhase, hph]

/-- Training fails. -/
theorem terilPhase_failed_training (hph : (d.link l).phase = 0) (h0 : d.getF F.qsLinkState (16 + l) ≠ 0)
    (h6 : d.getF F.qsLinkState (16 + l) ≠ 6) :
    terilPhase l false pre post d = tryConf l ((d.link l).conf + 1) (leaveService l d) := by
  simp [terilPhase, hph, h0, h6]

/-- A later phase fails. -/
theorem terilPhase_failed_later {r : Dev} (hr : r = noteFec l pre post d) (h0 : r.getF F.qsLinkState (16 + l) ≠ 0)
    (h6 : r.getF F.qsLinkState (16 + l) ≠ 6) (hph : (d.link l).phase ≠ 0) :
    terilPhase l false pre post d = tryConf l ((d.link l).conf + 1) (leaveService l r) := by
  subst hr
  simp [terilPhase, hph, h0, h6]

/-! ### Fronthaul ports -/

variable {p : Nat}

/-- Entries 0 to 15 are the fronthaul ports. -/
theorem linkPhaseEnd_fronthaul (hp : p < 16) (pass : Bool) (pre post : Nat) (d : Dev) :
    linkPhaseEnd p pass pre post d = fhPhaseEnd p pass pre post d := if_pos hp

/-- What a phase after training measured on port p. -/
def fhNote (p pre post : Nat) (d : Dev) : Dev :=
  (d.setF F.qsLinkPrefec p (min (pre / 1024) 0xFFFFFF)).setF F.qsLinkPostfec p (min post 255)

/-- A port that is not UP has no service to leave. -/
theorem fhLeave_down (hup : d.flag F.fhPortStatusUp p = false) : fhLeave p d = d := by
  simp [fhLeave, hup]

/-- A port of its quad's mode that is in training, or in its screen. -/
theorem fhPhaseEnd_guard (hm : d.fhMbps p ≠ 0) (hst : d.getF F.qsLinkState p = 1 ∨ d.getF F.qsLinkState p = 2) :
    ¬ (d.fhMbps p = 0 ∨ (d.getF F.qsLinkState p ≠ 1 ∧ d.getF F.qsLinkState p ≠ 2 ∧ ¬ d.flag F.fhPortStatusUp p)) := by
  tauto

section
variable (hm : d.fhMbps p ≠ 0) (hst : d.getF F.qsLinkState p = 1 ∨ d.getF F.qsLinkState p = 2)
include hm hst

/-- Training passes. -/
theorem fhPhaseEnd_trained (hph : tabGet 0 d.fhPhase p = 0) :
    fhPhaseEnd p true pre post d = ({ d with fhPhase := tabSet 0 d.fhPhase p 1 } : Dev).setF F.qsLinkState p 2 := by
  rw [fhPhaseEnd, if_neg (fhPhaseEnd_guard hm hst)]
  simp only [hph, not_true_eq_false, if_false]

variable (hup : d.flag F.fhPortStatusUp p = false)
include hup

/-- A failed phase: the port waits for its retry, with what the phase measured. -/
theorem fhPhaseEnd_failed :
    fhPhaseEnd p false pre post d = (if tabGet 0 d.fhPhase p = 0 then d else fhNote p pre post d).setF F.qsLinkState p 6 := by
  rw [fhPhaseEnd, if_neg (fhPhaseEnd_guard hm hst), fhLeave_down hup]
  rfl

/-- The screen passes: a port that has been UP enters service at once. -/
theorem fhPhaseEnd_screened (hph : tabGet 0 d.fhPhase p = 1) :
    fhPhaseEnd p true pre post d =
      (let e : Dev := { fhNote p pre post d with fhPhase := tabSet 0 (fhNote p pre post d).fhPhase p 2 }
       if tabGet false d.fhOnce p then fhEnter p e else e) := by
  rw [fhPhaseEnd, if_neg (fhPhaseEnd_guard hm hst)]
  simp only [hph, hup, fhNote, not_true_eq_false, if_false, one_ne_zero, Bool.false_eq_true, not_false_eq_true, and_true]
  rfl

/-- The confirmation passes. -/
theorem fhPhaseEnd_confirmed (hph : tabGet 0 d.fhPhase p = 2) :
    fhPhaseEnd p true pre post d =
      fhEnter p { fhNote p pre post d with fhPhase := tabSet 0 (fhNote p pre post d).fhPhase p 3 } := by
  rw [fhPhaseEnd, if_neg (fhPhaseEnd_guard hm hst)]
  simp only [hph, hup, fhNote, not_true_eq_false, if_false, OfNat.ofNat_ne_zero, Bool.false_eq_true]

end

end

/-- Settles O21: by the phase and the state of each link and port. -/
theorem linksAndPortsTrain : Obligations.LinksAndPortsTrain := by
  unfold Obligations.LinksAndPortsTrain
  refine ⟨⟨?lost, ?teril, ?fronthaul, ?pcie, ?retrain, ?portDown, ?portRetry, ?quad⟩, ?hiLink⟩
  case lost =>
    intro s l hrun hl
    rw [exec_linkDown hrun hl]
    refine ⟨fun hup hlost => ?_, fun h => ?_⟩
    · simp [linkDown, hup, hlost, retrainLink]
    · obtain h | h := h <;> simp [linkDown, h]
  case teril =>
    intro s l pre post hrun hl
    simp only [exec_linkPhaseEnd _ pre post hrun (by omega : 16 + l < 33), exec_trainingTimeout hrun (by omega : 16 + l < 32),
      linkPhaseEnd_teril hl, trainTimeout]
    refine ⟨fun hph hst => ?_, fun hph hup => ?_, fun hph ha hup => ?_, fun hph => ?_, fun h0 h6 hph => ?_, fun r hr h0 h6 hph => ?_,
      fun hst hph => ?_, fun hst => ?_⟩
    · rw [terilPhase_trained hph hst]
    · rw [terilPhase_screened hph]
      simp_all
    · rw [terilPhase_screened hph]
      simp_all
    · rw [terilPhase_confirmed hph]
    · rw [terilPhase_failed_training hph h0 h6]
    · rw [terilPhase_failed_later hr h0 h6 hph]
    · rw [if_neg (not_not.2 hst), terilPhase_failed_training hph (by omega) (by omega)]
    · rw [if_pos hst]
  case fronthaul =>
    intro s p pre post hrun hp hm
    simp only [exec_linkPhaseEnd _ pre post hrun (by omega : p < 33), exec_trainingTimeout hrun (by omega : p < 32),
      linkPhaseEnd_fronthaul hp, trainTimeout]
    refine ⟨fun hst hup => ⟨fun hph => ?_, fun hph => ?_, fun hph => ?_, fun hph => ?_, fun hph => ?_⟩, fun hst hph hup => ?_⟩
    · rw [fhPhaseEnd_trained hm hst hph]
    · rw [fhPhaseEnd_failed hm hst hup, if_pos hph]
    · rw [fhPhaseEnd_failed hm hst hup, if_neg hph, fhNote]
    · rw [fhPhaseEnd_screened hm hst hup hph]
      rfl
    · rw [fhPhaseEnd_confirmed hm hst hup hph]
      rfl
    · rw [if_neg (not_not.2 hst), fhPhaseEnd_failed hm (.inl hst) hup, if_pos hph]
  case pcie => exact fun s pass pre post hrun => exec_linkPhaseEnd pass pre post hrun (by omega)
  case retrain => exact fun s l v hrun hl => (there_true (decide_eq_true hl)).trans (upd_running hrun)
  case portDown => exact fun s p hrun hp => (there_true (decide_eq_true hp)).trans (upd_running hrun)
  case portRetry => exact fun s p hrun hp => (there_true (decide_eq_true hp)).trans (upd_running hrun)
  case quad =>
    intro s q v hrun hq
    rw [exec_quadModeSet v hrun hq]
    refine ⟨fun hlock => ?_, fun hlock => ?_⟩
    · simp only [quadModeSet, hlock, if_true, lockedWrite]
    · simp [quadModeSet, hlock]
  case hiLink =>
    intro s flit gen width hrun
    refine ⟨(upd_running hrun).trans ?_, (upd_running hrun).trans ?_⟩ <;> simp [pcieChange]

end Sys2Proof.Proofs
end

section
/-! SUPPORT. Changes of one core alone: landing, results in flight and events (R51, R85). -/

namespace Sys2Proof.Proofs

open Sys2Proof Sys2Proof.Machine Sys2Proof.Laws

/-- From d to e core g alone changed. -/
def OnlyCore (g : Nat) (d e : Dev) : Prop := e = { d with cores := e.cores } ∧ ∀ g' ≠ g, e.core g' = d.core g'

namespace OnlyCore

variable {g : Nat} {d e f : Dev}

theorem refl (g : Nat) (d : Dev) : OnlyCore g d d := ⟨rfl, fun _ _ => rfl⟩

theorem trans (h : OnlyCore g d e) (k : OnlyCore g e f) : OnlyCore g d f := by
  obtain ⟨hd, hcore⟩ := h
  obtain ⟨kd, kcore⟩ := k
  exact ⟨by rw [kd, hd], fun g' hne => (kcore g' hne).trans (hcore g' hne)⟩

/-- Any update of core g. -/
theorem modCore (g : Nat) (d : Dev) (f : Core → Core) : OnlyCore g d (d.modCore g f) :=
  ⟨rfl, fun g' hne => core_setCore_ne d g g' _ hne⟩

theorem modCtx (g : Nat) (d : Dev) (f : Ctx → Ctx) : OnlyCore g d (d.modCtx g f) :=
  modCore g d fun c => { c with ctx := f c.ctx }

theorem modSe (g : Nat) (d : Dev) (f : SeEngine → SeEngine) : OnlyCore g d (d.modSe g f) :=
  modCore g d fun c => { c with se := f c.se }

/-- Results that are due land. -/
theorem landDue (g : Nat) (d : Dev) : OnlyCore g d (landDue g d) := by
  unfold Machine.landDue
  dsimp only
  split
  · exact .refl g d
  · exact .modCore g d _

/-- A bundle counts as progress. -/
theorem seCounted (g : Nat) (d : Dev) : OnlyCore g d (seCounted g d) := modSe g d _

/-- Results are put in flight. -/
theorem seOut (g : Nat) (sl : SeSlot) (lat : Nat) (rs : List (SeDest × BitVec 32 × BitVec 1024)) (d : Dev) :
    OnlyCore g d (seOut g sl lat rs d) := modSe g d _

/-- Events of one source count in the core's bank. -/
theorem evCore (g src sub n : Nat) (d : Dev) : OnlyCore g d (evCore g src sub n d) := modCtx g d _

/-- The four sources of R51. -/
theorem evNum (g e : Nat) (n : NumEv) (d : Dev) : OnlyCore g d (evNum g e n d) :=
  (((evCore g 0x0C e n.nan d).trans (.evCore g 0x0D e n.inf _)).trans (.evCore g 0x0E e n.sat _)).trans (.evCore g 0x0F e n.drop _)

end OnlyCore

/-- Settles O54: each of the four operations changes the core alone. -/
theorem resultsStayInTheCore : Obligations.ResultsStayInTheCore := by
  unfold Obligations.ResultsStayInTheCore
  intro d g e lat sl rs ev
  exact (((OnlyCore.landDue g d).trans (.seCounted g _)).trans (.seOut g sl lat rs _)).trans (.evNum g e ev _)

end Sys2Proof.Proofs
end

section
/-! SUPPORT. What a slot instruction of an engine that issues answers (R84, R91, R94), and the vector instructions of slots V0 and V1
(R95, R100, R101). -/

namespace Sys2Proof.Proofs

open Sys2Proof Sys2Proof.Machine Sys2Proof.Laws

/-- A slot instruction acts where the engine issues, its stage is enabled and no field of the word is illegal: a vector or memory slot with
a mask below k8. -/
theorem seGo_acts {g : Nat} {sl : SeSlot} {w : Slot64} {opc : Nat} {slots : List SeSlot} {types : List Nat} {body : SlotOp → Dev → Dev}
    {d : Dev} (hready : (landDue g d).seReady g = true) (hstage : ((landDue g d).se g).stageOn (slotOp w).stg = true)
    (hopc : (slotOp w).opc = opc) (hslot : sl ∈ slots) (htype : (slotOp w).t ∈ types) (hs : sl ≠ .s) (hkm : (slotOp w).km < 8) :
    seGo g sl w opc slots types body d = body (slotOp w) (seCounted g (landDue g d)) := by
  have hissue : ¬ (¬ (landDue g d).seReady g = true ∨ ¬ ((landDue g d).se g).stageOn (slotOp w).stg = true) := by
    simp [hready, hstage]
  have hform : ¬ ((slotOp w).opc ≠ opc ∨ ¬ slots.contains sl = true) := by simp [hopc, hslot]
  have hlegal : ¬ (types ≠ [] ∧ ¬ types.contains (slotOp w).t = true) := by simp [htype]
  have hfields : ¬ ((sl ≠ .s ∧ 8 ≤ (slotOp w).km ∧ opc ≠ 0x07) ∨
      (sl = .s ∧ ((slotOp w).vc ≠ 0 ∨ (slotOp w).km ≠ 0 ∨ (slotOp w).t ≠ 0))) := by
    rintro (⟨-, h, -⟩ | ⟨h, -⟩)
    · omega
    · exact hs h
  simp only [seGo, if_neg hissue, if_neg hform, if_neg hlegal, if_neg hfields]

/-- The clocks run, the package has core g, and its signal engine issues w in vector slot sl, in an enabled stage, under one of its masks. -/
structure VectorIssues (s : State) (g : Nat) (sl : SeSlot) (w : Slot64) : Prop where
  running : s.dev.pins.stopped = false
  core : g < 80
  slot : sl = .v0 ∨ sl = .v1
  ready : (landDue g s.dev).seReady g = true
  stage : ((landDue g s.dev).se g).stageOn (slotOp w).stg = true
  mask : (slotOp w).km < 8

namespace VectorIssues

variable {s : State} {g : Nat} {sl : SeSlot} {w : Slot64} {opc : Nat} {types : List Nat} {body : SlotOp → Dev → Dev} {e : Dev}

/-- Every row of a slot instruction answers what its body makes of the device in which due results have landed and the bundle counts. -/
theorem answer_of_slots (h : VectorIssues s g sl w) {slots : List SeSlot} (hslot : sl ∈ slots) (hopc : (slotOp w).opc = opc)
    (htype : (slotOp w).t ∈ types) (hbody : body (slotOp w) (seCounted g (landDue g s.dev)) = e) :
    need (g < 80) .noSuchCore (upd s (seGo g sl w opc slots types body)) = .next { s with dev := e } := by
  have hs : sl ≠ .s := by
    obtain rfl | rfl := h.slot <;> decide
  rw [need_true (decide_eq_true h.core), upd_running h.running, seGo_acts h.ready h.stage hopc hslot htype hs h.mask, hbody]

/-- A row of both vector slots. -/
theorem answer (h : VectorIssues s g sl w) (hopc : (slotOp w).opc = opc) (htype : (slotOp w).t ∈ types)
    (hbody : body (slotOp w) (seCounted g (landDue g s.dev)) = e) :
    need (g < 80) .noSuchCore (upd s (seGo g sl w opc vslots types body)) = .next { s with dev := e } :=
  h.answer_of_slots (by obtain rfl | rfl := h.slot <;> decide) hopc htype hbody

end VectorIssues

/-! ### Two sources (R94, R95) -/

/-- Of type fp32, VFDIV and VFSQRT take their operands as every lane-wise instruction does. -/
theorem longOp_fp32 {o : SlotOp} (ht : o.t = 8) (g : Nat) (sl : SeSlot) (w : Slot64) (f : Machine.Num → Machine.Num → Machine.Num)
    (d : Dev) :
    longOp g sl w f o d =
      (let r := d.se g
       let num := fun n e => laneNum o.t (elemOf (laneW o.t) (r.vr n) e)
       let v := vmap 32 (o.mask r) (fun e => laneRes 8 (f (num o.va e) (num o.vb e)))
       evNum g 2 v.2 (seOutEvery g sl w 8 16 [(r.vdest o.vd, o.mask r, v.1)] d)) := by
  rw [ht]
  rfl

/-- Settles O32: each row answers its body, which is the lane-wise operation, the operation on whole registers or the long operation. -/
theorem vectorArithmeticIssues : Obligations.VectorArithmeticIssues := by
  unfold Obligations.VectorArithmeticIssues
  intro s g sl w hrun hg hsl o l hready hstage hkm d r num next bits long lat
  have h : VectorIssues s g sl w := ⟨hrun, hg, hsl, hready, hstage, hkm⟩
  refine ⟨fun ht => ⟨?add, ?sub, ?mul, ?min, ?max, ?abs⟩, fun ht => ⟨?and, ?or, ?xor⟩, fun ht => ⟨?shl, ?shr, ?shrr⟩, fun hv1 ht => ?long⟩
  case add | sub | mul | min | max | abs | and | or | xor | shl | shr | shrr => exact fun hopc => h.answer hopc ht rfl
  case long =>
    have hslot : sl ∈ [SeSlot.v1] := List.mem_singleton.2 hv1
    have htype : o.t ∈ [8] := List.mem_singleton.2 ht
    exact ⟨fun hopc => h.answer_of_slots hslot hopc htype (longOp_fp32 ht g sl w _ d),
      fun hopc => h.answer_of_slots hslot hopc htype (longOp_fp32 ht g sl w _ d)⟩

/-! ### Selection, conversion, permutation, norms (R44, R95, R100, R101) -/

/-- Settles O33: each row answers its body; VCVT first asks whether its pair of types is listed. -/
theorem vectorMovesIssue : Obligations.VectorMovesIssue := by
  unfold Obligations.VectorMovesIssue
  intro s g sl w hrun hg hsl o l hready hstage hkm d r num put next
  have h : VectorIssues s g sl w := ⟨hrun, hg, hsl, hready, hstage, hkm⟩
  refine ⟨?sel, ?cmp, ?bcast, ?fma, ?scale, ?convert, ?unlisted, ?narrow, ?perm, ?norm⟩
  case sel | cmp | bcast | fma | scale | perm => exact fun hopc ht => h.answer hopc ht rfl
  case convert =>
    intro hopc ht hpair
    have listed : ¬ ¬ convPairs.contains (o.imm % 16, o.t) = true := not_not.2 (List.contains_iff_mem.2 hpair)
    exact h.answer hopc ht (if_neg listed)
  case unlisted =>
    intro hopc ht hpair
    have unlisted : ¬ convPairs.contains (o.imm % 16, o.t) = true := fun hc => hpair (List.contains_iff_mem.1 hc)
    exact h.answer hopc ht (if_pos unlisted)
  case narrow | norm => exact fun hopc ht => h.answer hopc (by simpa using ht) rfl

end Sys2Proof.Proofs
end

section
/-! SUPPORT. What each row of a matrix stream makes of the device: the three words by their legality (R59 to R62, R139), the entry of a
first row (R68, R70) and a completion (R69, R74). -/

namespace Sys2Proof.Proofs

open Sys2Proof Sys2Proof.Machine Sys2Proof.Laws

/-- With clocks running, a row of an engine the package has answers what its meaning makes of the device. -/
theorem matrixRow_answer {s : State} {g e : Nat} {f : Dev → Dev} {d : Dev} (hrun : s.dev.pins.stopped = false) (hg : g < 80)
    (he : e < 2) (hf : f s.dev = d) : need (g < 80 && e < 2) .noSuchCore (upd s f) = .next { s with dev := d } := by
  rw [need_true (by simp [hg, he]), upd_running hrun, hf]

section
variable {d : Dev} {g e : Nat} {w : Word256}

/-! ### A stream that takes no word -/

theorem hbOdWord_unready (h : d.hbReady g e = false) : hbOdWord g e w d = d := by simp [hbOdWord, h]

theorem hbMmWord_unready (h : d.hbReady g e = false) : hbMmWord g e w d = d := by simp [hbMmWord, h]

theorem hbEndWord_unready (h : d.hbReady g e = false) : hbEndWord g e w d = d := by simp [hbEndWord, h]

/-! ### HB.OD (R59, R62) -/

theorem hbOdWord_legal (h : d.hbReady g e = true) (hopc : wfld w 0 7 0 = 0x40) (hlow : wrsv w 0 31 13 = true)
    (hmid : wrsv w 4 95 0 = true) (hhigh : wrsv w 0x1C 31 24 = true) :
    hbOdWord g e w d =
      (let i := wfld w 0 12 8
       let v : BitVec 128 := BitVec.ofNat 128 (wfld w 0x10 127 0)
       (hbStep g e d).modCtx g (fun c => if e = 0 then { c with od0 := tabSet 0 c.od0 i v } else { c with od1 := tabSet 0 c.od1 i v })) := by
  simp [hbOdWord, h, hopc, hlow, hmid, hhigh]

theorem hbOdWord_opcode (h : d.hbReady g e = true) (hopc : wfld w 0 7 0 ≠ 0x40) :
    hbOdWord g e w d = hbIllegal g e 10 (hbStep g e d) := by
  simp [hbOdWord, h, hopc]

theorem hbOdWord_reserved (h : d.hbReady g e = true) (hopc : wfld w 0 7 0 = 0x40)
    (hrsv : wrsv w 0 31 13 = false ∨ wrsv w 4 95 0 = false ∨ wrsv w 0x1C 31 24 = false) :
    hbOdWord g e w d = hbIllegal g e 9 (hbStep g e d) := by
  have illegal : ¬ (wrsv w 0 31 13 = true ∧ wrsv w 4 95 0 = true ∧ wrsv w 0x1C 31 24 = true) := by
    rintro ⟨hlow, hmid, hhigh⟩
    simp [hlow, hmid, hhigh] at hrsv
  simp [hbOdWord, h, hopc, illegal]

/-! ### HB.MM (R60, R62) -/

/-- A legal HB.MM joins the engine with the descriptors of its a-cycle and holds the other streams of its group. -/
theorem hbMmWord_legal (h : d.hbReady g e = true) (hopc : wfld w 0 7 0 = 0x41) (hcause : mmCause (hbStep g e d) g e w = 0) :
    hbMmWord g e w d =
      (let b := hbStep g e d
       let x : MmRt := { w := w, oda := b.od g e (mmOp w).oda, odb := b.od g e (mmOp w).odb, odc := b.od g e (mmOp w).odc
                         odd := b.od g e (mmOp w).odd, issued := b.acyc, seq := (d.hb g e).pos }
       (mmArrays g e (mmOp w).gsize).foldl (fun d a =>
         if a = (g, e) then d else d.modHb a.1 a.2 (fun h => { h with heldBy := g :: h.heldBy }))
         (hbProg g e (b.modHb g e (fun h => { h with mms := h.mms ++ [x] })))) := by
  simp [hbMmWord, h, hopc, hcause]

theorem hbMmWord_opcode (h : d.hbReady g e = true) (hopc : wfld w 0 7 0 ≠ 0x41) :
    hbMmWord g e w d = hbIllegal g e 10 (hbStep g e d) := by
  simp [hbMmWord, h, hopc]

theorem hbMmWord_illegal (h : d.hbReady g e = true) (hopc : wfld w 0 7 0 = 0x41) (hcause : mmCause (hbStep g e d) g e w ≠ 0) :
    hbMmWord g e w d = hbIllegal g e (mmCause (hbStep g e d) g e w) (hbStep g e d) := by
  simp [hbMmWord, h, hopc, hcause]

/-! ### HB.END (R62, R139) -/

theorem hbEndWord_legal (h : d.hbReady g e = true) (hopc : wfld w 0 7 0 = 0x4F) (hrsv : wrsv w 0 255 8 = true) :
    hbEndWord g e w d = hbDrain g e ((hbStep g e d).modHb g e (fun h => { h with ending := true })) := by
  simp [hbEndWord, h, hopc, hrsv]

theorem hbEndWord_opcode (h : d.hbReady g e = true) (hopc : wfld w 0 7 0 ≠ 0x4F) :
    hbEndWord g e w d = hbIllegal g e 10 (hbStep g e d) := by
  simp [hbEndWord, h, hopc]

theorem hbEndWord_reserved (h : d.hbReady g e = true) (hopc : wfld w 0 7 0 = 0x4F) (hrsv : wrsv w 0 255 8 = false) :
    hbEndWord g e w d = hbIllegal g e 9 (hbStep g e d) := by
  simp [hbEndWord, h, hopc, hrsv]

/-! ### The first row of the oldest HB.MM that waits (R68, R70) -/

theorem mmFirstRow_enters {x : MmRt} {t u stall : Nat} (hwaits : (d.hb g e).mms.find? (fun x => x.t0.isNone) = some x)
    (ht : mmEarliest d g e x = some t) (hu : mmUntiled d g e x = some u) (hcome : t + stall ≤ d.acyc)
    (hfree : d.mmBlocked g e x = false) :
    mmFirstRow g e stall d =
      (let b := d.modHb g e (fun h =>
         { h with mms := h.mms.map (fun y => if y.seq = x.seq then { y with t0 := some (t + stall) } else y) })
       let b := (mmArrays g e (mmOp x.w).gsize).foldl (fun d a => evCore a.1 0x06 a.2 (t - u) (evCore a.1 0x05 a.2 stall d)) b
       mmRun g e { x with t0 := some (t + stall) } b) := by
  have may : ¬ (d.acyc < t + stall ∨ d.mmBlocked g e x = true) := by
    rintro (h | h)
    · omega
    · simp [hfree] at h
  simp only [mmFirstRow, hwaits, ht, hu, if_neg may]
  rfl

/-- Without an HB.MM that waits, without an a-cycle in which it may enter, before that a-cycle and behind another HB.MM nothing happens. -/
theorem mmFirstRow_waits {stall : Nat} (h : ∀ x t, (d.hb g e).mms.find? (fun x => x.t0.isNone) = some x → mmEarliest d g e x = some t →
      d.acyc < t + stall ∨ d.mmBlocked g e x = true) :
    mmFirstRow g e stall d = d := by
  unfold mmFirstRow
  split
  case h_1 => rfl
  case h_2 x hwaits =>
    split
    case h_1 t u ht hu => exact if_pos (h x t hwaits ht)
    case h_2 => rfl

/-! ### Completion (R69, R74) -/

theorem mmComplete_due {x : MmRt} {t stall : Nat} (ev : MmEvent)
    (hdue : (d.hb g e).mms.find? (fun x => (mmDue g e x).any (fun t => decide (t + stall ≤ d.acyc))) = some x)
    (ht : mmDue g e x = some t) : mmComplete g e stall ev d = mmFinish g e stall t ev x d := by
  simp only [mmComplete, hdue, ht, Option.getD_some]

theorem mmComplete_none {stall : Nat} (ev : MmEvent)
    (hdue : (d.hb g e).mms.find? (fun x => (mmDue g e x).any (fun t => decide (t + stall ≤ d.acyc))) = none) :
    mmComplete g e stall ev d = d := by
  simp only [mmComplete, hdue]

end

/-- Settles O31: every row of an engine that the package has answers what its word, first row or completion makes of the device. -/
theorem matrixStreamsRun : Obligations.MatrixStreamsRun := by
  unfold Obligations.MatrixStreamsRun
  refine ⟨⟨?taken, ?refused, ?firstRow, ?completion⟩, ?illegal⟩
  case taken =>
    intro s g e w hrun hg he hready d i v
    exact ⟨fun hopc hlow hmid hhigh => matrixRow_answer hrun hg he (hbOdWord_legal hready hopc hlow hmid hhigh),
      fun hopc hcause => matrixRow_answer hrun hg he (hbMmWord_legal hready hopc hcause),
      fun hopc hrsv => matrixRow_answer hrun hg he (hbEndWord_legal hready hopc hrsv)⟩
  case refused =>
    intro s g e w hrun hg he hready
    exact ⟨matrixRow_answer hrun hg he (hbOdWord_unready hready), matrixRow_answer hrun hg he (hbMmWord_unready hready),
      matrixRow_answer hrun hg he (hbEndWord_unready hready)⟩
  case firstRow =>
    intro s g e stall hrun hg he waiting
    exact ⟨fun x t u hwaits ht hu hcome hfree => matrixRow_answer hrun hg he (mmFirstRow_enters hwaits ht hu hcome hfree),
      fun h => matrixRow_answer hrun hg he (mmFirstRow_waits h)⟩
  case completion =>
    intro s g e stall ev hrun hg he due
    exact ⟨fun x t hdue ht => matrixRow_answer hrun hg he (mmComplete_due ev hdue ht),
      fun hdue => matrixRow_answer hrun hg he (mmComplete_none ev hdue)⟩
  case illegal =>
    intro s g e w hrun hg he hready d aborted
    exact ⟨fun hopc => matrixRow_answer hrun hg he (hbOdWord_opcode hready hopc),
      fun hopc hrsv => matrixRow_answer hrun hg he (hbOdWord_reserved hready hopc hrsv),
      fun hopc => matrixRow_answer hrun hg he (hbMmWord_opcode hready hopc),
      fun hopc hcause => matrixRow_answer hrun hg he (hbMmWord_illegal hready hopc hcause),
      fun hopc => matrixRow_answer hrun hg he (hbEndWord_opcode hready hopc),
      fun hopc hrsv => matrixRow_answer hrun hg he (hbEndWord_reserved hready hopc hrsv)⟩

end Sys2Proof.Proofs
end

section
/-! SUPPORT. What every slot instruction has in common: it issues, or aborts, or does nothing but land results (R84, R91, R94, R106). -/

namespace Sys2Proof.Proofs

open Sys2Proof Sys2Proof.Machine Sys2Proof.Laws

/-- Every row of R94's table is issued by `seGo` under the opcode, the slots and the types that the table gives it. -/
theorem slotForms_seGo (g : Nat) (sl : SeSlot) (w : Slot64) : ∀ f ∈ Stated.slotForms g sl w, ∃ body : SlotOp → Dev → Dev,
    ∀ s, exec f.2.2.2.2 s = need (g < 80) .noSuchCore (upd s (seGo g f.2.1 w f.1 f.2.2.1 f.2.2.2.1 body)) := by
  repeat refine List.forall_mem_cons.2 ⟨⟨_, fun _ => rfl⟩, ?_⟩
  exact List.forall_mem_nil _

/-- With clocks running, a row of a core the package has answers what its meaning makes of the device. -/
theorem coreRow_answer {s : State} {g : Nat} {f : Dev → Dev} {d : Dev} (hrun : s.dev.pins.stopped = false) (hg : g < 80)
    (hf : f s.dev = d) : need (g < 80) .noSuchCore (upd s f) = .next { s with dev := d } := by
  rw [need_true (decide_eq_true hg), upd_running hrun, hf]

section
variable {g : Nat} {sl : SeSlot} {w : Slot64} {opc : Nat} {slots : List SeSlot} {types : List Nat} {body : SlotOp → Dev → Dev} {d : Dev}

/-- An engine that does not issue, or a disabled stage: results that are due land (R91). -/
theorem seGo_idle (h : (landDue g d).seReady g = false ∨ ((landDue g d).se g).stageOn (slotOp w).stg = false) :
    seGo g sl w opc slots types body d = landDue g d :=
  if_pos (by simpa using h)

section
variable (hready : (landDue g d).seReady g = true) (hstage : ((landDue g d).se g).stageOn (slotOp w).stg = true)
include hready hstage

/-- Where the engine issues, `seGo` asks for the opcode and the slot, then the type, then the reserved fields. -/
theorem seGo_issues :
    seGo g sl w opc slots types body d =
      if (slotOp w).opc ≠ opc ∨ sl ∉ slots then seAbort g 1 (landDue g d)
      else if types ≠ [] ∧ (slotOp w).t ∉ types then seAbort g 2 (landDue g d)
      else if (sl ≠ .s ∧ 8 ≤ (slotOp w).km ∧ opc ≠ 0x07) ∨ (sl = .s ∧ ((slotOp w).vc ≠ 0 ∨ (slotOp w).km ≠ 0 ∨ (slotOp w).t ≠ 0)) then
        seAbort g 9 (landDue g d)
      else body (slotOp w) (seCounted g (landDue g d)) := by
  simp [seGo, hready, hstage]

/-- The opcode of another instruction, or a slot that the instruction does not have (R84). -/
theorem seGo_undefined (h : (slotOp w).opc ≠ opc ∨ sl ∉ slots) : seGo g sl w opc slots types body d = seAbort g 1 (landDue g d) := by
  rw [seGo_issues hready hstage, if_pos h]

variable (hopc : (slotOp w).opc = opc) (hslot : sl ∈ slots)
include hopc hslot

/-- A type that the instruction does not take. -/
theorem seGo_untyped (hne : types ≠ []) (ht : (slotOp w).t ∉ types) :
    seGo g sl w opc slots types body d = seAbort g 2 (landDue g d) := by
  rw [seGo_issues hready hstage, if_neg (by simp [hopc, hslot]), if_pos ⟨hne, ht⟩]

variable (ht : types = [] ∨ (slotOp w).t ∈ types)
include ht

/-- A reserved field or mask register. -/
theorem seGo_reserved (h : (sl ≠ .s ∧ 8 ≤ (slotOp w).km ∧ opc ≠ 0x07) ∨
      (sl = .s ∧ ((slotOp w).vc ≠ 0 ∨ (slotOp w).km ≠ 0 ∨ (slotOp w).t ≠ 0))) :
    seGo g sl w opc slots types body d = seAbort g 9 (landDue g d) := by
  rw [seGo_issues hready hstage, if_neg (by simp [hopc, hslot]), if_neg (by tauto), if_pos h]

/-- A legal slot acts. -/
theorem seGo_legal (h : ¬ ((sl ≠ .s ∧ 8 ≤ (slotOp w).km ∧ opc ≠ 0x07) ∨
      (sl = .s ∧ ((slotOp w).vc ≠ 0 ∨ (slotOp w).km ≠ 0 ∨ (slotOp w).t ≠ 0)))) :
    seGo g sl w opc slots types body d = body (slotOp w) (seCounted g (landDue g d)) := by
  rw [seGo_issues hready hstage, if_neg (by simp [hopc, hslot]), if_neg (by tauto), if_neg h]

end

end

/-- Settles O37: every row is `seGo`, which asks in the order of the causes. -/
theorem illegalSlotsAbort : Obligations.IllegalSlotsAbort := by
  unfold Obligations.IllegalSlotsAbort
  intro s g sl w hrun hg o l aborts f hf
  obtain ⟨body, hexec⟩ := slotForms_seGo g sl w f hf
  obtain ⟨opc, slot, slots, types, c⟩ := f
  have answer : ∀ {d : Dev}, seGo g slot w opc slots types body s.dev = d → exec c s = .next { s with dev := d } :=
    fun h => (hexec s).trans (coreRow_answer hrun hg h)
  refine ⟨fun h => answer (seGo_idle h), fun hready hstage =>
    ⟨fun h => answer (seGo_undefined hready hstage h), fun hopc hslot => ⟨?type, ?fields⟩⟩⟩
  case type => exact fun hne ht => answer (seGo_untyped hready hstage hopc hslot hne ht)
  case fields =>
    intro ht
    exact ⟨fun hs h7 hkm => answer (seGo_reserved hready hstage hopc hslot ht (.inl ⟨hs, hkm, h7⟩)),
      fun hs h => answer (seGo_reserved hready hstage hopc hslot ht (.inr ⟨hs, h⟩))⟩

/-- Outside every loop only stage 0 is enabled; in one, stage s while s ≤ i < n + s (R91). -/
theorem stageOn_eq_false {r : SeRegs} {stg : Nat} (h : (r.loops = [] ∧ stg ≠ 0) ∨
      ∃ l ls, r.loops = l :: ls ∧ ¬ (stg ≤ l.iter ∧ l.iter < l.n + stg)) : r.stageOn stg = false := by
  obtain ⟨hl, hs⟩ | ⟨l, ls, hl, hs⟩ := h
  · simpa [SeRegs.stageOn, hl] using hs
  · simpa [SeRegs.stageOn, hl] using hs

/-- Settles O51: every row is `seGo`, which lets results land and looks at the stage next. -/
theorem disabledStagesDoNothing : Obligations.DisabledStagesDoNothing := by
  unfold Obligations.DisabledStagesDoNothing
  intro s g sl w hrun hg hstage c hc
  obtain ⟨f, hf, rfl⟩ := List.mem_map.1 hc
  obtain ⟨body, hexec⟩ := slotForms_seGo g sl w f hf
  exact (hexec s).trans (coreRow_answer hrun hg (seGo_idle (.inr (stageOn_eq_false hstage))))

end Sys2Proof.Proofs
end
section
/-! SUPPORT. Two results for one register that land together (R86). -/

namespace Sys2Proof.Proofs

open Sys2Proof Sys2Proof.Machine Sys2Proof.Laws

section
variable {x y : SeRes}

/-- No result is issued later than itself. -/
theorem after_irrefl (y : SeRes) : y.after y = false := by simp [SeRes.after]

/-- Of two results at most one is the later. -/
theorem after_asymm (h : y.after x = true) : x.after y = false := by
  simp only [SeRes.after, decide_eq_true_eq, decide_eq_false_iff_not] at h ⊢
  omega

/-- Of two results that land in one register in one a-cycle the later-issued alone has an effect, in whichever order they stand. -/
theorem landAll_pair {l : List SeRes} (hl : l = [x, y] ∨ l = [y, x]) (hdest : x.dest = y.dest) (hdue : x.due = y.due)
    (h : y.after x = true) (r : SeRegs) : landAll l r = landReg y.dest y.lanes y.val r := by
  have kept : l.filter (fun z => ! l.any (fun u => decide (u.due = z.due ∧ u.dest = z.dest) && u.after z)) = [y] := by
    obtain rfl | rfl := hl <;> simp [hdest, hdue, h, after_asymm h, after_irrefl]
  rw [landAll, kept]
  rfl

end

/-- When every result in flight is due, all of them land. -/
theorem landDue_all {g : Nat} {d : Dev} (hne : (d.core g).se.inflight ≠ [])
    (hdue : ∀ x ∈ (d.core g).se.inflight, x.due ≤ (d.core g).se.cyc) :
    landDue g d = landInflight g d := by
  have all : (d.core g).se.inflight.filter (fun x => decide (x.due ≤ (d.core g).se.cyc)) = (d.core g).se.inflight :=
    List.filter_eq_self.2 fun x hx => decide_eq_true (hdue x hx)
  have notDue : (d.core g).se.inflight.filter (fun x => decide (¬ x.due ≤ (d.core g).se.cyc)) = [] :=
    List.filter_eq_nil_iff.2 fun x hx => by simpa using hdue x hx
  simp only [landDue, all, if_neg hne, landInflight, Dev.modCore, notDue]

/-- The engine's registers and its results in flight once all of them have landed. -/
theorem landInflight_core {g : Nat} {d : Dev} (hw : tabWf {} d.cores = true) :
    (landInflight g d).se g = landAll (d.core g).se.inflight (d.se g) ∧ ((landInflight g d).core g).se.inflight = [] := by
  simp [landInflight, Dev.modCore, Dev.se, core_setCore d g _ hw]

/-- Settles O50: the earlier of the two is dropped from what lands, and the one that is left lands. -/
theorem laterResultIsKept : Obligations.LaterResultIsKept := by
  unfold Obligations.LaterResultIsKept
  refine ⟨by decide, ?_⟩
  intro s g x y hrun hg r hcores _ _ _ _ _ hflight hdest hdue hcyc hlater
  have hafter : y.after x = true := decide_eq_true hlater
  have hland : landDue g s.dev = landInflight g s.dev := by
    apply landDue_all <;> obtain h | h := hflight <;> simp [h, hdue, hcyc]
  obtain ⟨hregs, hnone⟩ := landInflight_core (g := g) hcores
  exact ⟨_, coreRow_answer hrun hg hland, hregs.trans (landAll_pair hflight hdest hdue hafter r), hnone⟩

end Sys2Proof.Proofs
end

section
/-! SUPPORT. The instructions of slot V1 alone: reductions, block exponents, complex products, butterflies and demapping (R96 to R100). -/

namespace Sys2Proof.Proofs

open Sys2Proof Sys2Proof.Machine Sys2Proof.Laws

section
variable {g : Nat} {ns : List Nat} {k : Dev → Dev} {d : Dev}

/-- Registers that the file has. -/
theorem inFile_within (h : ∀ n ∈ ns, n < 64) : inFile g ns k d = k d :=
  if_pos (List.all_eq_true.2 fun n hn => decide_eq_true (h n hn))

/-- A register beyond v63 (log 26). -/
theorem inFile_beyond (h : ∃ n ∈ ns, 64 ≤ n) : inFile g ns k d = seAbort g 9 d := by
  refine if_neg fun hall => ?_
  obtain ⟨n, hn, hge⟩ := h
  have hlt := of_decide_eq_true (List.all_eq_true.1 hall n hn)
  omega

end

/-- Settles O34: each row answers its body; the rows that name groups of registers first ask whether the file has them. -/
theorem vectorUnitInstructionsIssue : Obligations.VectorUnitInstructionsIssue := by
  unfold Obligations.VectorUnitInstructionsIssue
  intro s g w hrun hg o l hready hstage hkm d r lanes reduced h conj ai bi acc c
  have issued : VectorIssues s g .v1 w := ⟨hrun, hg, .inr rfl, hready, hstage, hkm⟩
  have answer {opc : Nat} {types : List Nat} {body : SlotOp → Dev → Dev} {e : Dev} (hopc : o.opc = opc) (ht : o.t ∈ types)
      (hbody : body o d = e) : need (g < 80) .noSuchCore (upd s (seGo g .v1 w opc [.v1] types body)) = .next { s with dev := e } :=
    issued.answer_of_slots (List.mem_singleton.2 rfl) hopc ht hbody
  have only {t : Nat} (ht : o.t = t) : o.t ∈ [t] := List.mem_singleton.2 ht
  refine ⟨fun ht => ⟨?sum, ?max, ?min⟩, ?bexp, ?cmac, ?cmacf, ?bfly4, ?bfly4Open, ⟨?cmacfBeyond, ?bfly4Beyond, ?demapBeyond⟩,
    ?demap, ?demapOpen⟩
  case sum | max | min => exact fun hopc => answer hopc (by simpa using ht) rfl
  case bexp => exact fun hopc ht => answer hopc (by simpa using ht) rfl
  case cmac => exact fun hopc ht => answer hopc (only ht) rfl
  case cmacf => exact fun hopc ht ha hb => answer hopc (only ht) (inFile_within (by simp [ha, hb]))
  case bfly4 => exact fun hopc ht ha hb hd hsh => answer hopc (only ht) ((inFile_within (by simp [ha, hb, hd])).trans (if_neg hsh))
  case bfly4Open => exact fun hopc ht ha hb hd hsh => answer hopc (only ht) ((inFile_within (by simp [ha, hb, hd])).trans (if_pos hsh))
  case cmacfBeyond => exact fun hopc ht h => answer hopc (only ht) (inFile_beyond (by simpa using h))
  case bfly4Beyond => exact fun hopc ht h => answer hopc (only ht) (inFile_beyond (by simpa using h))
  case demapBeyond =>
    intro hopc ht hlo hhi h
    refine answer hopc (only ht) (inFile_beyond ⟨_, List.mem_singleton.2 rfl, ?_⟩)
    rwa [if_pos ⟨hlo, hhi⟩]
  case demap =>
    intro hopc ht hlo hhi width n hn
    refine answer hopc (only ht) ((inFile_within ?_).trans ?_)
    · simpa [hlo, hhi] using hn
    · by_cases hf : o.imm / 16 % 16 ≤ 10
      · simp only [hlo, hhi, hf, and_self, if_true]
        rfl
      · simp only [hlo, hhi, hf, and_self, and_false, if_true, if_false]
        rfl
  case demapOpen =>
    intro hopc ht hmod hd
    refine answer hopc (only ht) ((inFile_within ?_).trans ?_)
    · simpa [hmod] using hd
    · simp only [hmod, false_and, if_false]
      rfl

end Sys2Proof.Proofs
end

section
/-! SUPPORT. The scalar slot, the landing of results and counter waits (R85 to R94, R104, R105, R110). -/

namespace Sys2Proof.Proofs

open Sys2Proof Sys2Proof.Machine Sys2Proof.Laws

/-- The clocks run, the package has core g, and its signal engine issues w in the scalar slot, in an enabled stage, with its reserved
fields at 0. -/
structure ScalarIssues (s : State) (g : Nat) (w : Slot64) : Prop where
  running : s.dev.pins.stopped = false
  core : g < 80
  ready : (landDue g s.dev).seReady g = true
  stage : ((landDue g s.dev).se g).stageOn (slotOp w).stg = true
  reserved : (slotOp w).vc = 0 ∧ (slotOp w).km = 0 ∧ (slotOp w).t = 0

/-- A row of the scalar slot answers what its body makes of the device in which due results have landed and the bundle counts. -/
theorem ScalarIssues.answer {s : State} {g : Nat} {w : Slot64} {opc : Nat} {body : SlotOp → Dev → Dev} {e : Dev}
    (h : ScalarIssues s g w) (hopc : (slotOp w).opc = opc) (hbody : body (slotOp w) (seCounted g (landDue g s.dev)) = e) :
    need (g < 80) .noSuchCore (upd s (seGo g .s w opc [.s] [] body)) = .next { s with dev := e } := by
  refine coreRow_answer h.running h.core ((seGo_legal h.ready h.stage hopc (List.mem_singleton.2 rfl) (.inl rfl) ?_).trans hbody)
  simp [h.reserved]

/-- A choice between two next devices is one between two answers. -/
theorem next_ite (s : State) (c : Prop) [Decidable c] (a b : Dev) :
    (.next { s with dev := if c then a else b } : Res) = if c then .next { s with dev := a } else .next { s with dev := b } := by
  split_ifs <;> rfl

/-- A branch, by its condition (R93). -/
theorem branch_eq (g : Nat) (taken : BitVec 64 → Bool) (o : SlotOp) (d : Dev) :
    branch g taken o d =
      if taken ((d.se g).sr o.va) then
        d.modSe g (fun x => { x with branch := some (x.cyc + 3, (toSigned 20 o.imm + (d.se g).pc).toNat) })
      else d := rfl

/-- Settles O36: each row of the scalar slot answers its body, by the case of the body that the operands choose; the rows of landing and
of WAITC answer their meaning. -/
theorem scalarSlotIssues : Obligations.ScalarSlotIssues := by
  unfold Obligations.ScalarSlotIssues
  refine ⟨?slot, ?landing, ?wait⟩
  case slot =>
    intro s g w hrun hg o l hready hstage hvc hkm ht d r a b put n jump
    have h : ScalarIssues s g w := ⟨hrun, hg, hready, hstage, hvc, hkm, ht⟩
    refine ⟨?add, ?sub, ?mul, ?and, ?or, ?xor, ?shl, ?shr, ?li, ?toA, ?toM, ?toK, ?loopBegins, ?loopSkipped, ?loopFifth, ?span, ?spanBad,
      ?br, ?brz, ?brnz, ?waitc, ?sigc, ?ends, ?endInLoop⟩
    case add | sub | mul | and | or | xor | shl | shr | li | toA | toM | toK | br | sigc => exact fun hopc => h.answer hopc rfl
    case loopBegins => exact fun hopc hl hn => h.answer hopc ((if_neg (Nat.not_le.2 hl)).trans (if_neg hn))
    case loopSkipped => exact fun hopc hl hn => h.answer hopc ((if_neg (Nat.not_le.2 hl)).trans (if_pos hn))
    case loopFifth => exact fun hopc hl => h.answer hopc (if_pos hl)
    case span => exact fun hopc hb hb' hs hs' hsum => h.answer hopc (if_pos ⟨hb, hb', hs, hs', hsum⟩)
    case spanBad => exact fun hopc hbad => h.answer hopc (if_neg (by simpa only [not_and_or, not_le] using hbad))
    case brz =>
      intro hopc
      refine (h.answer hopc (branch_eq g _ o d)).trans ?_
      simp only [next_ite, decide_eq_true_eq]
      rfl
    case brnz =>
      intro hopc
      refine (h.answer hopc (branch_eq g _ o d)).trans ?_
      simp only [next_ite, decide_eq_true_eq, ite_not]
      rfl
    case waitc => exact fun hopc => h.answer hopc rfl
    case ends => exact fun hopc hl => h.answer hopc (if_neg (not_not.2 hl))
    case endInLoop => exact fun hopc hl => h.answer hopc (if_pos hl)
  case landing => exact fun s g ev hrun hg => ⟨coreRow_answer hrun hg rfl, fun _ => rfl⟩
  case wait =>
    intro s g hrun hg
    refine (coreRow_answer hrun hg rfl).trans ?_
    unfold waitcDone
    cases (s.dev.core g).se.wait with
    | none => rfl
    | some cv =>
      exact next_ite s _ _ _

end Sys2Proof.Proofs
end

section
/-! SUPPORT. Loads and stores of slot M: what they ask of modifiers and addresses, and what they do (R82, R83, R88, R102, R103). -/

namespace Sys2Proof.Proofs

open Sys2Proof Sys2Proof.Machine Sys2Proof.Laws

/-- The clocks run, the package has core g, and its signal engine issues w in slot M, in an enabled stage. -/
structure MemoryIssues (s : State) (g : Nat) (w : Slot64) : Prop where
  running : s.dev.pins.stopped = false
  core : g < 80
  ready : (landDue g s.dev).seReady g = true
  stage : ((landDue g s.dev).se g).stageOn (slotOp w).stg = true

/-- A row of slot M answers what its body makes of the device in which due results have landed and the bundle counts; its mask is below k8,
or the register of VST.BX (R103). -/
theorem MemoryIssues.answer {s : State} {g : Nat} {w : Slot64} {opc : Nat} {types : List Nat} {body : SlotOp → Dev → Dev} {e : Dev}
    (h : MemoryIssues s g w) (hkm : (slotOp w).km < 8 ∨ (slotOp w).opc = 0x07) (hopc : (slotOp w).opc = opc) (ht : (slotOp w).t ∈ types)
    (hbody : body (slotOp w) (seCounted g (landDue g s.dev)) = e) :
    need (g < 80) .noSuchCore (upd s (seGo g .m w opc [.m] types body)) = .next { s with dev := e } := by
  refine coreRow_answer h.running h.core ((seGo_legal h.ready h.stage hopc (List.mem_singleton.2 rfl) (.inr ht) ?_).trans hbody)
  subst hopc
  rintro (⟨-, h8, h7⟩ | ⟨hs, -⟩)
  · obtain hlt | heq := hkm
    · omega
    · exact h7 heq
  · cases hs

/-! ### What an access asks -/

/-- A read that meets no other port's writing and no wrong bit gives the bytes of the scratchpad and changes nothing (R79, R105). -/
theorem seRead_clear {g x n : Nat} {d : Dev} (h : d.portClear (g, 2, 0) (d.acyc + 1) [] (d.workOf g) [g] x n = true) :
    seRead g x n d = (d.spadRead (d.workOf g) [g] x n, d) := by
  simp only [seRead, portRead_clear _ _ _ _ _ _ _ _ h, if_true]

/-- The answer of an access: its modifiers are asked first, then its address (log 20). -/
theorem next_access (s : State) (g : Nat) (ok : Bool) (c : Nat) (d e : Dev) :
    (.next { s with dev := if ¬ ok = true then seAbort g 5 d else if c ≠ 0 then seAbort g c d else e } : Res) =
      if ok = false then .next { s with dev := seAbort g 5 d } else if c ≠ 0 then .next { s with dev := seAbort g c d }
      else .next { s with dev := e } := by
  cases ok <;> simp [next_ite]

/-- What a block access asks before it acts: its registers, its modifiers, its addresses (R81, R83, R102, log 26). -/
def blockAccess (g : Nat) (o : SlotOp) (k : Dev → Dev) : Dev → Dev :=
  inFile g [if o.t = 5 then o.vd + 1 else o.vd] (fun d =>
    if ¬ modsOk (d.se g) o true then seAbort g 5 d
    else if blockCause (d.se g) o ≠ 0 then seAbort g (blockCause (d.se g) o) d
    else k d)

section
variable {g : Nat} {o : SlotOp} {k : Dev → Dev} {d : Dev}

/-- The last register of a block access: cq16 takes two. -/
theorem lastReg_eq (ht : o.t ≤ 5) : (if o.t = 5 then o.vd + 1 else o.vd) = o.vd + o.t / 5 := by
  split_ifs <;> omega

variable (ht : o.t ≤ 5)
include ht

theorem blockAccess_legal (hreg : o.vd + o.t / 5 < 64) (hmods : modsOk (d.se g) o true = true) (hcause : blockCause (d.se g) o = 0) :
    blockAccess g o k d = k d := by
  rw [blockAccess, lastReg_eq ht, inFile_within (by simpa using hreg), if_neg (not_not.2 hmods), if_neg (not_not.2 hcause)]

theorem blockAccess_illegal (h : 64 ≤ o.vd + o.t / 5 ∨ modsOk (d.se g) o true = false ∨ blockCause (d.se g) o ≠ 0) :
    blockAccess g o k d =
      seAbort g (if 64 ≤ o.vd + o.t / 5 then 9 else if modsOk (d.se g) o true = false then 5 else blockCause (d.se g) o) d := by
  rw [blockAccess, lastReg_eq ht]
  by_cases hreg : 64 ≤ o.vd + o.t / 5
  · rw [inFile_beyond (by simpa using hreg), if_pos hreg]
  · rw [inFile_within (by simpa using hreg), if_neg hreg]
    cases hmods : modsOk (d.se g) o true with
    | false => rfl
    | true =>
      have hcause : blockCause (d.se g) o ≠ 0 := by simpa [hreg, hmods] using h
      exact if_pos hcause

end

/-- Settles O35: each row answers its body, once its registers, its modifiers and its address have been asked. -/
theorem loadsAndStoresIssue : Obligations.LoadsAndStoresIssue := by
  unfold Obligations.LoadsAndStoresIssue
  intro s g w hrun hg o l hready hstage hkm d r a aborts
  have h : MemoryIssues s g w := ⟨hrun, hg, hready, hstage⟩
  have block (ht : o.t ≤ 5) : o.t ∈ blockTypes := by
    simp only [blockTypes, List.mem_cons, List.not_mem_nil, or_false]
    omega
  refine ⟨fun x n hclear => seRead_clear hclear, fun ht => ⟨?vld, ?vst⟩, fun ht => ⟨?sld, ?sst⟩,
    fun ht hbad => ⟨?vldBad, ?vstBad, ?vstxBad⟩, fun ht hvd hmods hcause => ⟨?bsLoad, ?bsStore, ?bsStoreX⟩,
    fun ht hvd hmods hcause => ⟨?cqLoad, ?cqStore, ?cqStoreX⟩⟩
  case vld | vst => exact fun hopc => (h.answer hkm hopc ht rfl).trans (next_access ..)
  case sld | sst => exact fun hopc => (h.answer hkm hopc (by simpa using ht) rfl).trans (next_access ..)
  case vldBad | vstBad | vstxBad => exact fun hopc => h.answer hkm hopc (block ht) (blockAccess_illegal ht hbad)
  case bsLoad | bsStore | bsStoreX =>
    have hreg : o.vd + o.t / 5 < 64 := by omega
    have h5 : ¬ o.t = 5 := by omega
    exact fun hopc => h.answer hkm hopc (block ht.le) ((blockAccess_legal ht.le hreg hmods hcause).trans (if_neg h5))
  case cqLoad | cqStore | cqStoreX =>
    have hreg : o.vd + o.t / 5 < 64 := by omega
    exact fun hopc => h.answer hkm hopc (block ht.le) ((blockAccess_legal ht.le hreg hmods hcause).trans (if_pos ht))

end Sys2Proof.Proofs
end

section
/-! SUPPORT. What a store of the signal engine writes: the bytes at its address and no other, and where no other port is writing the
scratchpads, its own (R79, R102, R103, R109). -/

namespace Sys2Proof.Proofs

open Sys2Proof Sys2Proof.Machine Sys2Proof.Laws

/-- Byte j of a number's little-endian spelling (R24). -/
theorem leBytes_getElem (n v j : Nat) (hj : j < (leBytes n v).length) : (leBytes n v)[j] = BitVec.ofNat 8 (v / 256 ^ j) := by
  induction n generalizing v j with
  | zero => exact absurd hj (Nat.not_lt_zero j)
  | succ n ih =>
    cases j with
    | zero => simp [leBytes]
    | succ j =>
      have h := ih (v / 256) j (by simpa [leBytes] using hj)
      rw [Nat.div_div_eq_div_mul, ← pow_succ'] at h
      simpa [leBytes] using h

/-- A core's own scratchpad is addressed by offset (R122). -/
theorem spadAt_own {g l : Nat} (h : l < spadSize) : spadAt [g] l = (g, l) := by
  simp [spadAt, Nat.div_eq_of_lt h, Nat.mod_eq_of_lt h]

/-! ### Where a context stands is read off the registers -/

section
variable {d e : Dev} (h : e.regs = d.regs)
include h

theorem getF_congr (f : Field) (i : Nat) : e.getF f i = d.getF f i := by
  simp only [Dev.getF, Dev.rd, h]

theorem coreOwner_congr (g : Nat) : e.coreOwner g = d.coreOwner g := by
  have hflag : e.flag F.coreStateOwned g = d.flag F.coreStateOwned g := congrArg (fun x => decide (x = 1)) (getF_congr h _ g)
  rw [Dev.coreOwner, Dev.coreOwner, hflag, getF_congr h]

theorem workOf_congr (g : Nat) : e.workOf g = d.workOf g := by rw [Dev.workOf, Dev.workOf, coreOwner_congr h]

theorem inCore_congr (p g : Nat) : e.inCore p g = d.inCore p g := by
  rw [Dev.inCore, Dev.inCore, coreOwner_congr h, Dev.coreSt, Dev.coreSt, getF_congr h]

end

/-! ### A write by one port -/

section
variable {d : Dev} {p g : Nat}

/-- In a core that holds the context a write is one of the scratchpads' memory. -/
theorem spadWrite_own (hin : d.inCore p g = true) {l : Nat} (bs : Bytes) (hl : l + bs.length ≤ spadSize) :
    (spadWrite p [g] l bs d).mem.spad = memWrite d.mem.spad (g * spadSize + l) bs := by
  induction bs generalizing l d with
  | nil => rfl
  | cons b bs ih =>
    rw [List.length_cons] at hl
    have hput : (spadPut p g l b d).mem.spad = memSet d.mem.spad (g * spadSize + l) b := by simp [spadPut, hin]
    have hin' : (spadPut p g l b d).inCore p g = true := by
      obtain ⟨hregs, -⟩ := spadPut_keeps p g l b d
      rw [inCore_congr hregs, hin]
    rw [spadWrite, spadAt_own (by omega), ih hin' (by omega), hput, memWrite, Nat.add_assoc]

variable (who : Who) (since : Nat) (cores : List Nat) (l : Nat) (b : Bytes)

/-- A byte whose place no written address names reads as before, whichever of two racing values stays. -/
theorem portWrite_outside (x : Nat) (h : ∀ j < b.length, x ≠ (spadAt cores (l + j)).1 * spadSize + (spadAt cores (l + j)).2) :
    memByte (portWrite who since p cores l b d).mem.spad x = memByte d.mem.spad x := by
  obtain ⟨hspad, -⟩ := noteOld_mems who p cores l b.length d
  unfold portWrite
  dsimp only
  split
  · rw [spadWrite_outside p cores l b _ x h, hspad]
  · refine List.foldlRecOn (motive := fun e : Dev => memByte e.mem.spad x = memByte d.mem.spad x) b.zipIdx _
      (congrArg (memByte · x) hspad) fun e he y hy => ?_
    have hlt : y.2 < b.length := by simpa using (List.mem_zipIdx hy).2.1
    beta_reduce
    split
    · exact he
    · rw [spadWrite_outside p cores _ _ e x (by simpa using h y.2 hlt), he]

/-- Without another write to its words a write is plain. -/
theorem portWrite_unraced (h : d.racing who since = []) :
    portWrite who since p cores l b d = spadWrite p cores l b (noteOld who p cores l b.length d) := by
  simp [portWrite, h]

/-- The races of an operation are read off the record of overwritten words and the cores. -/
theorem racing_congr {e : Dev} (hover : e.mem.overwritten = d.mem.overwritten) (hcores : e.cores = d.cores) :
    e.racing who since = d.racing who since := by
  simp only [Dev.racing, Dev.opsWriting, Dev.hb, Dev.core, hover, hcores]

/-- Records of an operation's own are none of its races. -/
theorem filter_own (q : Overwrite → Bool) {new : List Overwrite} (h : ∀ e ∈ new, e.who = who) (old : List Overwrite) :
    (new ++ old).filter (fun e => decide (e.who ≠ who) && q e) = old.filter (fun e => decide (e.who ≠ who) && q e) := by
  rw [List.filter_append, List.filter_eq_nil_iff.2 fun e he => by simp [h e he], List.nil_append]

/-- The words that an operation itself overwrites are no race of it. -/
theorem racing_noteOld (n : Nat) : (noteOld who p cores l n d).racing who since = d.racing who since := by
  unfold noteOld
  dsimp only
  split
  · rfl
  · refine filter_own who _ (fun e he => ?_) _
    obtain ⟨c, -, rfl⟩ := List.mem_map.1 he
    rfl

theorem spadWrite_overwritten : (spadWrite p cores l b d).mem.overwritten = d.mem.overwritten := by
  induction b generalizing l d with
  | nil => rfl
  | cons b bs ih =>
    rw [spadWrite, ih]
    unfold spadPut
    split_ifs <;> rfl

theorem noteOld_keeps (n : Nat) : (noteOld who p cores l n d).regs = d.regs ∧ (noteOld who p cores l n d).cores = d.cores ∧
    (noteOld who p cores l n d).acyc = d.acyc := by
  unfold noteOld
  dsimp only
  split <;> exact ⟨rfl, rfl, rfl⟩

end

/-! ### A store of the engine -/

/-- The engine of core g writes its scratchpad with no other port at work: no write races with it, the context stands on the core, and the
memory has its canonical form. -/
structure Alone (g : Nat) (d : Dev) : Prop where
  races : d.racing (g, 2, 0) (d.acyc + 1) = []
  here : d.inCore (d.workOf g) g = true
  wf : Memory.wf d.mem.spad = true

section
variable {d : Dev} {g a : Nat} {b : Bytes}

/-- A store leaves every byte outside its range. -/
theorem seWrite_outside {n : Nat} (hn : b.length = n) (ha : a + n ≤ spadSize) {x : Nat}
    (hx : x < g * spadSize + a ∨ g * spadSize + a + n ≤ x) : memByte (seWrite g a b d).mem.spad x = memByte d.mem.spad x := by
  refine portWrite_outside _ _ _ _ _ x fun j hj => ?_
  rw [spadAt_own (by omega)]
  dsimp only
  omega

theorem seWrite_alone (h : Alone g d) :
    seWrite g a b d = spadWrite (d.workOf g) [g] a b (noteOld (g, 2, 0) (d.workOf g) [g] a b.length d) :=
  portWrite_unraced _ _ _ _ _ h.races

/-- An engine alone stays so under its own stores. -/
theorem Alone.seWrite (h : Alone g d) : Alone g (seWrite g a b d) := by
  obtain ⟨nregs, ncores, nacyc⟩ := noteOld_keeps (d := d) (p := d.workOf g) (g, 2, 0) [g] a b.length
  obtain ⟨wregs, wcores, -, -, -, -, -, -, wacyc, -⟩ :=
    spadWrite_keeps (d.workOf g) [g] a b (noteOld (g, 2, 0) (d.workOf g) [g] a b.length d)
  refine ⟨?races, ?here, portWrite_wf _ _ _ _ _ _ d h.wf⟩
  case races =>
    rw [seWrite_alone h, wacyc, nacyc, racing_congr _ _ (spadWrite_overwritten _ _ _) wcores, racing_noteOld]
    exact h.races
  case here =>
    rw [seWrite_alone h, inCore_congr (wregs.trans nregs), workOf_congr (wregs.trans nregs), h.here]

/-- Alone, the stored bytes of a number are its little-endian spelling. -/
theorem seWrite_inside (h : Alone g d) {n v j : Nat} (ha : a + n ≤ spadSize) (hj : j < n) :
    memByte (Machine.seWrite g a (leBytes n v) d).mem.spad (g * spadSize + a + j) = BitVec.ofNat 8 (v / 256 ^ j) := by
  have hn : (leBytes n v).length = n := leBytes_length n v
  obtain ⟨hspad, -⟩ := noteOld_mems (g, 2, 0) (d.workOf g) [g] a (leBytes n v).length d
  obtain ⟨nregs, -⟩ := noteOld_keeps (d := d) (p := d.workOf g) (g, 2, 0) [g] a (leBytes n v).length
  have here : (noteOld (g, 2, 0) (d.workOf g) [g] a (leBytes n v).length d).inCore (d.workOf g) g = true := by
    rw [inCore_congr nregs, h.here]
  rw [seWrite_alone h, spadWrite_own here _ (by omega), hspad]
  exact (memByte_memWrite_inside _ _ _ j (by omega) h.wf).trans (leBytes_getElem ..)

end

/-! ### The lanes of VST -/

/-- The first n lanes of a vector of 32-bit elements stored from address a, under a mask. -/
def laneStores (g a : Nat) (mask : BitVec 32) (f : Nat → Nat) (n : Nat) (d : Dev) : Dev :=
  (List.range n).foldl (fun d i => if mask.getLsbD i then seWrite g (a + 4 * i) (leBytes 4 (f i)) d else d) d

section
variable {g a n : Nat} {mask : BitVec 32} {f : Nat → Nat} {d : Dev}

theorem laneStores_succ : laneStores g a mask f (n + 1) d =
    if mask.getLsbD n then seWrite g (a + 4 * n) (leBytes 4 (f n)) (laneStores g a mask f n d) else laneStores g a mask f n d := by
  simp [laneStores, List.range_succ]

/-- No byte outside the enabled lanes changes. -/
theorem laneStores_outside (ha : a + 4 * n ≤ spadSize) {x : Nat}
    (hx : ∀ i < n, mask.getLsbD i = true → x < g * spadSize + a + 4 * i ∨ g * spadSize + a + 4 * i + 4 ≤ x) :
    memByte (laneStores g a mask f n d).mem.spad x = memByte d.mem.spad x := by
  induction n with
  | zero => rfl
  | succ n ih =>
    have before := ih (by omega) fun i hi => hx i (by omega)
    rw [laneStores_succ]
    split
    next hm =>
      have hn := hx n (by omega) hm
      exact (seWrite_outside (leBytes_length 4 _) (by omega) (by omega)).trans before
    next => exact before

theorem Alone.laneStores (h : Alone g d) : Alone g (laneStores g a mask f n d) := by
  induction n with
  | zero => exact h
  | succ n ih =>
    rw [laneStores_succ]
    split
    · exact ih.seWrite
    · exact ih

/-- Alone, the bytes of an enabled lane are those of its element. -/
theorem laneStores_inside (h : Alone g d) (ha : a + 4 * n ≤ spadSize) {i j : Nat} (hi : i < n) (hm : mask.getLsbD i = true) (hj : j < 4) :
    memByte (Proofs.laneStores g a mask f n d).mem.spad (g * spadSize + a + 4 * i + j) = BitVec.ofNat 8 (f i / 256 ^ j) := by
  induction n with
  | zero => exact absurd hi (Nat.not_lt_zero i)
  | succ n ih =>
    rw [laneStores_succ]
    obtain hlt | rfl := Nat.lt_succ_iff_lt_or_eq.1 hi
    · have before := ih (by omega) hlt
      split
      · exact (seWrite_outside (leBytes_length 4 _) (by omega) (.inl (by omega))).trans before
      · exact before
    · rw [if_pos hm, Nat.add_assoc (g * spadSize)]
      exact seWrite_inside h.laneStores (by omega) hj

end

/-! ### The statement -/

/-- An access without a cause lies in the scratchpad. -/
theorem accessCause_inside {x : Int} {n al : Nat} (h : accessCause x n al = 0) : x.toNat + n ≤ spadSize := by
  unfold accessCause at h
  split_ifs at h with _ hrange
  omega

/-- The next state of an access with legal modifiers and no cause. -/
theorem access_next {ok : Bool} {c : Nat} {x y z : Res} {t u : State} (hok : ok = true) (hc : c = 0)
    (hx : x = if ok = false then y else if c ≠ 0 then z else .next u) (ht : x = .next t) : u = t := by
  subst hok hc
  exact Host.Outcome.next.inj (hx.symm.trans ht)

/-- A read changes no memory: at most it uses free values, raises bits and marks the unit lost. -/
theorem seRead_keeps (g a n : Nat) (d : Dev) : (seRead g a n d).2.mem = d.mem ∧ (seRead g a n d).2.saves = d.saves := by
  have lost : ∀ e : Dev, (unitLost g 2 e).mem = e.mem ∧ (unitLost g 2 e).saves = e.saves := by
    intro e
    unfold unitLost
    split <;> exact ⟨rfl, rfl⟩
  obtain hread | hread := portRead_result (g, 2, 0) (d.acyc + 1) [] (d.workOf g) [g] a n d <;>
    simp only [seRead, hread] <;> split_ifs <;> simp [lost]

section
variable (g x n : Nat) (rs rs' : List (SeDest × BitVec 32 × BitVec 1024)) (d : Dev)

/-- A load puts what it read in flight, and its post-modifications. -/
theorem load_mem : (seOut g .m 1 rs' (seOut g .m 6 rs (seRead g x n d).2)).mem = d.mem := (seRead_keeps g x n d).1

theorem load_saves : (seOut g .m 1 rs' (seOut g .m 6 rs (seRead g x n d).2)).saves = d.saves := (seRead_keeps g x n d).2

end

/-- Settles O55: each row's next state is the one of O35, and its stores are those above. -/
theorem storesWriteTheirBytes : Obligations.StoresWriteTheirBytes := by
  unfold Obligations.StoresWriteTheirBytes
  intro s t g w hrun hg o l hready hstage hkm d r a alone
  obtain ⟨-, lanes, scalars, -⟩ := loadsAndStoresIssue s g w hrun hg hready hstage (.inl hkm)
  obtain ⟨-, lmem, -, lsaves, -⟩ := landDue_keeps g s.dev
  obtain ⟨-, cmem, -, csaves, -⟩ := seCounted_keeps g l
  have hmem : d.mem = s.dev.mem := cmem.trans lmem
  have hsaves : d.saves = s.dev.saves := csaves.trans lsaves
  have halone (h : alone) : Alone g d := ⟨h.1, h.2.1, by rw [hmem]; exact h.2.2⟩
  refine ⟨fun hopc ht hmods hcause hexec => ?sst, fun hopc ht hmods hcause hexec => ?vst, fun hopc ht hmods hcause hexec => ?vld,
    fun hopc ht hmods hcause hexec => ?sld⟩
  case sst =>
    have hin := accessCause_inside hcause
    obtain rfl := access_next hmods hcause ((scalars ht).2 hopc) hexec
    exact ⟨fun x hx => (seWrite_outside (leBytes_length 8 _) hin hx).trans (by rw [hmem]), fun h j hj => seWrite_inside (halone h) hin hj⟩
  case vst =>
    have hin : (effAddr r o).toNat + 4 * 32 ≤ spadSize := accessCause_inside hcause
    obtain rfl := access_next hmods hcause ((lanes ht).2 hopc) hexec
    have outside {x : Nat} (hx : ∀ i < 32, (o.mask r).getLsbD i = true → x < a + 4 * i ∨ a + 4 * i + 4 ≤ x) :=
      (laneStores_outside (f := elemOf 32 (r.vr o.vd)) (d := d) hin hx).trans (by rw [hmem])
    refine ⟨fun x hx => outside fun i hi _ => by omega, fun i hi hoff j hj => outside fun k hk hon => ?_,
      fun h i hi hon j hj => laneStores_inside (halone h) hin hi hon hj⟩
    have hne : k ≠ i := by rintro rfl; simp [hoff] at hon
    omega
  case vld =>
    obtain rfl := access_next hmods hcause ((lanes ht).1 hopc) hexec
    exact ⟨(load_mem ..).trans hmem, (load_saves ..).trans hsaves⟩
  case sld =>
    obtain rfl := access_next hmods hcause ((scalars ht).1 hopc) hexec
    exact ⟨(load_mem ..).trans hmem, (load_saves ..).trans hsaves⟩

end Sys2Proof.Proofs
end

section
/-! SUPPORT. What the slot instructions and the Hornbeam rows can do at all: every property that the few updates of `EngineClosed` keep is
kept by every row of both, an abort included. One lemma a function of the model, in the order of the model. -/

namespace Sys2Proof.Proofs

open Sys2Proof Sys2Proof.Machine Sys2Proof.Laws

/-- A property that no update of an engine of a core ends: of registers and the status bits raised, of the counter of free values, of cores,
of partitions, of health counts, of a byte of a scratchpad or a save area, of the record of overwritten words. -/
structure EngineClosed (I : Dev → Prop) : Prop where
  regs : ∀ d regs raised, I d → I { d with regs := regs, raised := raised }
  free : ∀ d n, I d → I { d with free := n }
  cores : ∀ d x, I d → I { d with cores := x }
  parts : ∀ d x, I d → I { d with parts := x }
  hn : ∀ d x, I d → I { d with hn := x }
  spadPut : ∀ d p g o b, I d → I (spadPut p g o b d)
  overwritten : ∀ d x, I d → I (d.modMem (fun m => { m with overwritten := x }))

/-- The body of a row of R94's table keeps I. -/
def RowKept (I : Dev → Prop) (g : Nat) (w : Slot64) (f : Nat × SeSlot × List SeSlot × List Nat × Instr) : Prop :=
  ∃ body : SlotOp → Dev → Dev,
    (∀ s, exec f.2.2.2.2 s = need (g < 80) .noSuchCore (upd s (seGo g f.2.1 w f.1 f.2.2.1 f.2.2.2.1 body))) ∧
      ∀ o d, I d → I (body o d)

namespace EngineClosed

variable {I : Dev → Prop} (h : EngineClosed I) {d : Dev}
include h

/-! ### Folds, registers, units -/

omit h in
theorem foldl {β : Type} {f : Dev → β → Dev} (l : List β) (hf : ∀ d x, I d → I (f d x)) (hd : I d) : I (l.foldl f d) :=
  List.foldlRecOn l f hd fun e he x _ => hf e x he

omit h in
/-- A fold that also gathers values. -/
theorem foldl_snd {α β : Type} {f : α × Dev → β → α × Dev} (l : List β) {a : α × Dev} (hf : ∀ a x, I a.2 → I (f a x).2) (ha : I a.2) :
    I (l.foldl f a).2 :=
  List.foldlRecOn (motive := fun a : α × Dev => I a.2) l f ha fun e he x _ => hf e x he

omit h in
theorem ite {c : Prop} [Decidable c] {a b : Dev} (ha : I a) (hb : I b) : I (if c then a else b) := by
  split
  · exact ha
  · exact hb

theorem modHb (g e : Nat) (f : HbEngine → HbEngine) (hd : I d) : I (d.modHb g e f) := h.cores d _ hd

theorem setF (f : Field) (i x : Nat) (hd : I d) : I (d.setF f i x) := h.regs d _ d.raised hd

theorem raise (f : Field) (i : Nat) (hd : I d) : I (d.raise f i) := by
  have hregs : d.raise f i = { d with regs := (d.raise f i).regs, raised := (d.raise f i).raised } := by
    unfold Dev.raise
    dsimp only
    split <;> split_ifs <;> rfl
  rw [hregs]
  exact h.regs d _ _ hd

theorem unitLost (g e : Nat) (hd : I d) : I (unitLost g e d) := by
  unfold Machine.unitLost
  split
  · exact h.parts d _ hd
  · exact hd

theorem evCore (g src sub n : Nat) (hd : I d) : I (evCore g src sub n d) := h.cores d _ hd

theorem evNum (g e : Nat) (n : NumEv) (hd : I d) : I (evNum g e n d) := h.cores d _ hd

theorem ccIncAt (g i t : Nat) (hd : I d) : I (ccIncAt g i t d) := ite (h.cores d _ hd) (h.cores d _ hd)

/-! ### Scratchpads -/

theorem spadWrite (p : Nat) (cores : List Nat) (l : Nat) (b : Bytes) (hd : I d) : I (spadWrite p cores l b d) := by
  induction b generalizing l d with
  | nil => exact hd
  | cons b bs ih => exact ih (l + 1) (h.spadPut d _ _ _ b hd)

theorem spadFree (p : Nat) (cores : List Nat) (l n : Nat) (hd : I d) : I (spadFree p cores l n d) :=
  h.spadWrite p cores l _ (h.free d (d.free + 1) hd)

theorem noteOld (who : Who) (p : Nat) (cores : List Nat) (l n : Nat) (hd : I d) : I (noteOld who p cores l n d) :=
  ite hd (h.overwritten d _ hd)

theorem portRead (who : Who) (since : Nat) (taint : List (Nat × Nat)) (p : Nat) (cores : List Nat) (l n : Nat) (hd : I d) :
    I (portRead who since taint p cores l n d).2 := by
  obtain he | he := portRead_result who since taint p cores l n d <;> rw [he]
  · exact hd
  · exact h.free d _ hd

theorem portWrite (who : Who) (since p : Nat) (cores : List Nat) (l : Nat) (b : Bytes) (hd : I d) :
    I (portWrite who since p cores l b d) := by
  have hnoted := h.noteOld who p cores l b.length hd
  exact ite (h.spadWrite p cores l b hnoted)
    (foldl _ (fun e x he => ite he (h.spadWrite p cores _ _ he)) (h.free _ _ hnoted))

/-! ### The arrays at work -/

theorem mmElem (j : MmJob) (taint : List (Nat × Nat)) (x : OdDesc) (f i k : Nat) (hd : I d) : I (mmElem j taint x f i k d).2 := by
  unfold Machine.mmElem
  dsimp only
  split
  · exact h.portRead _ _ _ _ _ _ _ hd
  · exact h.portRead _ _ _ _ _ _ _ (h.portRead _ _ _ _ _ _ _ hd)

theorem mmElems (j : MmJob) (taint : List (Nat × Nat)) (x : OdDesc) (f : Nat) (l : List (Nat × Nat)) (hd : I d) :
    I (mmElems j taint x f l d).2 := foldl_snd l (fun _ _ ha => h.mmElem j taint x f _ _ ha) hd

theorem mmStatus (j : MmJob) (a : Nat × Nat) (st : Nat) (hd : I d) : I (mmStatus j a st d) :=
  ite hd (ite (h.hn _ _ (h.raise _ _ hd)) (h.unitLost _ _ (h.hn _ _ (h.raise _ _ hd))))

theorem modMm (j : MmJob) (f : MmRt → MmRt) (hd : I d) : I (modMm j f d) := h.cores d _ hd

theorem loadRow (j : MmJob) (a : Nat × Nat) (q : MmPass) (u : Nat) (hd : I d) : I (loadRow j a q u d) :=
  h.mmStatus _ _ _ (h.modHb _ _ _ (foldl_snd _ (fun _ _ ha => h.mmElems j _ _ _ _ ha) hd))

theorem enterRow (j : MmJob) (a : Nat × Nat) (q : MmPass) (r t : Nat) (hd : I d) : I (enterRow j a q r t d) := by
  have hentered := fun st f => h.mmStatus j a st (h.modHb a.1 a.2 f
    (h.mmElems j (mmDest j.x) (odDesc j.x.oda) (mmOp j.x.w).fa ((passKs (mmOp j.x.w) q).map (fun k => (passRow (mmOp j.x.w) q r, k))) hd))
  exact ite (h.modMm _ _ (hentered _ _)) (hentered _ _)

theorem initRow (j : MmJob) (a : Nat × Nat) (t m : Nat) (hd : I d) : I (initRow j a t m d).2 := by
  unfold Machine.initRow
  dsimp only
  split
  · exact hd
  · have hread := fun taint x f l st => h.mmStatus j a st (h.mmElems j taint x f l hd)
    exact ite (h.modMm _ _ (hread _ _ _ _ _)) (hread _ _ _ _ _)

theorem mmPut (j : MmJob) (l : Nat) (b : Bytes) (hd : I d) : I (mmPut j l b d) :=
  ite (h.portWrite _ _ _ _ _ _ (h.free d _ hd)) (h.portWrite _ _ _ _ _ _ hd)

theorem mmWriteTile (j : MmJob) (a : Nat × Nat) (t m : Nat) (vals : Nat → Machine.Num × Machine.Num) (bad : Bool) (hd : I d) :
    I (mmWriteTile j a t m vals bad d) :=
  ite (h.spadFree _ _ _ _ (h.spadFree _ _ _ _ hd)) (h.evNum _ _ _ (h.mmPut _ _ _ (h.mmPut _ _ _ hd)))

theorem outRow (j : MmJob) (a : Nat × Nat) (q : MmPass) (r : Nat) (hd : I d) : I (outRow j a q r d) := by
  unfold Machine.outRow
  dsimp only
  split
  · exact hd
  · have hbank := fun ev f => h.evNum a.1 a.2 ev (h.modHb a.1 a.2 f
      (ite (c := q.pass = 0) (h.initRow j a q.tile (passRow (mmOp j.x.w) q r) hd) hd))
    exact ite (hbank _ _) (h.mmWriteTile _ _ _ _ _ _ (hbank _ _))

theorem zeroRow (j : MmJob) (a : Nat × Nat) (m : Nat) (hd : I d) : I (zeroRow j a m d) :=
  foldl _ (fun _ _ he => h.mmWriteTile _ _ _ _ _ _ (h.initRow _ _ _ _ he)) hd

theorem hbEvent (j : MmJob) (a : Nat × Nat) (t : Nat) (x : HbEv) (hd : I d) : I (hbEvent j a t x d) := by
  cases x with
  | load q u => exact h.loadRow j a q u hd
  | start q w => exact h.cores d _ hd
  | enter q r => exact h.enterRow j a q r t hd
  | out q r => exact h.outRow j a q r hd
  | init m => exact h.zeroRow j a m hd

theorem runArray (j : MmJob) (i n : Nat) (a : Nat × Nat) (lo hi t0 : Nat) (hd : I d) : I (runArray j i n a lo hi t0 d) := by
  have hrun := fun evs : List (Nat × Nat × HbEv) =>
    foldl (f := fun d x => Machine.hbEvent j a (t0 + x.1 - runBase) x.2.2 d) evs (fun _ _ he => h.hbEvent j a _ _ he) hd
  exact ite (hrun _) (h.evCore _ _ _ _ (h.evCore _ _ _ _ (hrun _)))

theorem mmRun (g e : Nat) (x : MmRt) (hd : I d) : I (mmRun g e x d) := by
  unfold Machine.mmRun
  split
  · exact hd
  · exact ite hd (h.modMm _ _ (foldl _ (fun _ _ he => h.runArray _ _ _ _ _ _ _ he) hd))

/-! ### Aborts -/

theorem pruneOld (hd : I d) : I (pruneOld d) := ite hd (h.overwritten d _ hd)

theorem releaseHold (g e : Nat) (x : MmRt) (hd : I d) : I (releaseHold g e x d) :=
  foldl _ (fun _ _ he => ite he (h.modHb _ _ _ he)) hd

theorem abortMm (g e : Nat) (x : MmRt) (hd : I d) : I (abortMm g e x d) := by
  refine h.releaseHold _ _ _ (h.modHb _ _ _ (foldl _ (fun _ _ he => h.modHb _ _ _ he) (foldl _ (fun _ _ he => ?_) (h.raise _ _ hd))))
  exact ite he (h.spadFree _ _ _ _ (h.spadFree _ _ _ _ he))

theorem abortHb (e g : Nat) (hd : I d) : I (abortHb e d g) :=
  h.modHb _ _ _ (foldl _ (fun _ _ he => h.abortMm _ _ _ he) hd)

theorem stopCore (g : Nat) (hd : I d) : I (stopCore d g) := h.cores _ _ (h.cores _ _ (h.abortHb 1 g (h.abortHb 0 g hd)))

theorem abortUnit (p i status engine cause : Nat) (hd : I d) : I (abortUnit p i status engine cause d) := by
  unfold Machine.abortUnit
  split
  · exact hd
  · exact ite hd (h.pruneOld (foldl _ (fun _ g he => h.stopCore g he) (h.parts d _ hd)))

theorem abortOn (g status engine cause : Nat) (hd : I d) : I (abortOn g status engine cause d) := by
  unfold Machine.abortOn
  split
  · exact h.abortUnit _ _ _ _ _ hd
  · exact h.pruneOld (h.stopCore g hd)

/-! ### Rows of a matrix stream -/

theorem hbIllegal (g e cause : Nat) (hd : I d) : I (hbIllegal g e cause d) :=
  h.abortOn _ _ _ _ (h.raise _ _ (h.setF _ _ _ (h.setF _ _ _ hd)))

theorem hbStep (g e : Nat) (hd : I d) : I (hbStep g e d) := h.modHb _ _ _ hd

theorem hbDrain (g e : Nat) (hd : I d) : I (hbDrain g e d) := ite (h.modHb _ _ _ hd) hd

theorem hbOdWord (g e : Nat) (w : Word256) (hd : I d) : I (hbOdWord g e w d) :=
  have hs := h.hbStep g e hd
  ite hd (ite (h.hbIllegal _ _ _ hs) (ite (h.hbIllegal _ _ _ hs) (h.cores _ _ hs)))

theorem hbMmWord (g e : Nat) (w : Word256) (hd : I d) : I (hbMmWord g e w d) :=
  have hs := h.hbStep g e hd
  ite hd (ite (h.hbIllegal _ _ _ hs) (ite (h.hbIllegal _ _ _ hs) (foldl _ (fun _ _ he => ite he (h.modHb _ _ _ he))
    (h.modHb _ _ _ (h.modHb _ _ _ hs)))))

theorem hbEndWord (g e : Nat) (w : Word256) (hd : I d) : I (hbEndWord g e w d) :=
  have hs := h.hbStep g e hd
  ite hd (ite (h.hbIllegal _ _ _ hs) (ite (h.hbIllegal _ _ _ hs) (h.hbDrain _ _ (h.modHb _ _ _ hs))))

theorem mmFirstRow (g e stall : Nat) (hd : I d) : I (mmFirstRow g e stall d) := by
  unfold Machine.mmFirstRow
  split
  · exact hd
  · split
    · exact ite hd (h.mmRun _ _ _ (foldl _ (fun _ _ he => h.evCore _ _ _ _ (h.evCore _ _ _ _ he)) (h.modMm _ _ hd)))
    · exact hd

theorem hbStall (g e : Nat) (x : MmRt) (t n : Nat) (hd : I d) : I (hbStall g e x t n d) := by
  refine ite hd (foldl _ (fun _ c he => foldl _ (fun _ e' he => foldl _ (fun _ y he => ?_) he) he)
    (foldl _ (fun _ _ he => h.evCore _ _ _ _ (h.modHb _ _ _ he)) hd))
  exact ite he (h.modMm _ _ (ite (foldl _ (fun _ _ he => h.evCore _ _ _ _ he) he) he))

theorem mmEvent (g e : Nat) (x : MmRt) (ev : MmEvent) (hd : I d) : I (mmEvent g e x ev d) := by
  cases ev with
  | clean => exact hd
  | corrected => exact h.mmStatus _ _ _ hd
  | lost rows => exact h.mmStatus _ _ _ (foldl _ (fun _ _ he => h.spadFree _ _ _ _ (h.spadFree _ _ _ _ he)) hd)

theorem mmFinish (g e stall t : Nat) (ev : MmEvent) (x : MmRt) (hd : I d) : I (mmFinish g e stall t ev x d) := by
  have hev := h.mmEvent g e x ev (h.hbStall g e x t stall (h.mmRun g e x hd))
  exact h.hbDrain _ _ (h.pruneOld (h.releaseHold _ _ _ (h.modHb _ _ _ (h.modHb _ _ _
    (ite (foldl _ (fun _ _ he => h.ccIncAt _ _ _ he) hev) hev)))))

theorem mmComplete (g e stall : Nat) (ev : MmEvent) (hd : I d) : I (mmComplete g e stall ev d) := by
  unfold Machine.mmComplete
  split
  · exact hd
  · exact h.mmFinish _ _ _ _ _ _ hd

/-! ### Slots of the signal engine -/

theorem landDue (g : Nat) (hd : I d) : I (landDue g d) := ite hd (h.cores d _ hd)

theorem seAbort (g cause : Nat) (hd : I d) : I (seAbort g cause d) :=
  h.abortOn _ _ _ _ (h.raise _ _ (h.setF _ _ _ (h.setF _ _ _ hd)))

theorem seGo (g : Nat) (sl : SeSlot) (w : Slot64) (opc : Nat) (slots : List SeSlot) (types : List Nat) {body : SlotOp → Dev → Dev}
    (hbody : ∀ o d, I d → I (body o d)) (hd : I d) : I (seGo g sl w opc slots types body d) := by
  have hland := h.landDue g hd
  obtain he | ⟨c, -, he⟩ | he := seGo_result g sl w opc slots types body d <;> rw [he]
  · exact hland
  · exact h.seAbort g c hland
  · exact hbody _ _ (h.cores _ _ hland)

theorem inFile (g : Nat) (ns : List Nat) {k : Dev → Dev} (hk : ∀ d, I d → I (k d)) (hd : I d) : I (inFile g ns k d) :=
  ite (hk d hd) (h.seAbort g 9 hd)

theorem seOut (g : Nat) (sl : SeSlot) (lat : Nat) (rs : List (SeDest × BitVec 32 × BitVec 1024)) (hd : I d) :
    I (seOut g sl lat rs d) := h.cores d _ hd

theorem seOutEvery (g : Nat) (sl : SeSlot) (w : Slot64) (n lat : Nat) (rs : List (SeDest × BitVec 32 × BitVec 1024)) (hd : I d) :
    I (seOutEvery g sl w n lat rs d) := h.seOut _ _ _ _ (h.cores d _ hd)

/-- Results put in flight with the events of R51, which most vector rows do. -/
theorem counted (g e : Nat) (sl : SeSlot) (lat : Nat) (rs : List (SeDest × BitVec 32 × BitVec 1024)) (n : NumEv) (hd : I d) :
    I (Machine.evNum g e n (Machine.seOut g sl lat rs d)) := h.evNum _ _ _ (h.seOut _ _ _ _ hd)

theorem seRead (g a n : Nat) (hd : I d) : I (seRead g a n d).2 := by
  have hread := h.portRead (g, 2, 0) (d.acyc + 1) [] (d.workOf g) [g] a n hd
  exact ite hread (ite (h.hn _ _ (h.raise _ _ hread)) (h.unitLost _ _ (h.hn _ _ (h.raise _ _ hread))))

theorem seWrite (g a : Nat) (b : Bytes) (hd : I d) : I (seWrite g a b d) := h.portWrite _ _ _ _ _ _ hd

/-- An access aborts for its modifiers, or for its address, or is made. -/
theorem access {g c : Nat} {ok : Bool} {e : Dev} (he : I e) (hd : I d) :
    I (if ¬ ok = true then Machine.seAbort g 5 d else if c ≠ 0 then Machine.seAbort g c d else e) :=
  ite (h.seAbort g 5 hd) (ite (h.seAbort g c hd) he)

theorem blockStore (g : Nat) (given : SeRegs → SlotOp → Option Nat) (o : SlotOp) (hd : I d) : I (blockStore g given o d) := by
  refine h.inFile _ _ (fun e he => h.access (ite ?_ ?_) he) hd
  · exact h.counted _ _ _ _ _ _ (h.seWrite _ _ _ (h.seWrite _ _ _ (h.seRead _ _ _ he)))
  · exact h.counted _ _ _ _ _ _ (h.seWrite _ _ _ (h.seWrite _ _ _ he))

theorem branch (g : Nat) (taken : BitVec 64 → Bool) (o : SlotOp) (hd : I d) : I (branch g taken o d) := by
  rw [branch_eq]
  exact ite (h.cores d _ hd) hd

omit h in
/-- One row of R94's table after another. -/
theorem rowKept_cons {g opc : Nat} {sl : SeSlot} {w : Slot64} {slots : List SeSlot} {types : List Nat} {c : Instr}
    {fs : List (Nat × SeSlot × List SeSlot × List Nat × Instr)} {body : SlotOp → Dev → Dev}
    (hexec : ∀ s, exec c s = need (g < 80) .noSuchCore (upd s (Machine.seGo g sl w opc slots types body)))
    (hbody : ∀ o d, I d → I (body o d)) (hfs : ∀ f ∈ fs, RowKept I g w f) : ∀ f ∈ (opc, sl, slots, types, c) :: fs, RowKept I g w f :=
  List.forall_mem_cons.2 ⟨⟨body, hexec, hbody⟩, hfs⟩

/-- Every row of R94's table keeps the property, row after row. -/
theorem slotForms (g : Nat) (sl : SeSlot) (w : Slot64) : ∀ f ∈ Stated.slotForms g sl w, RowKept I g w f := by
  -- VADD to VABS, then VAND, VOR, VXOR, then the shifts
  iterate 6 refine rowKept_cons (fun _ => rfl) (fun _ _ hd => h.counted _ _ _ _ _ _ hd) ?_
  iterate 3 refine rowKept_cons (fun _ => rfl) (fun _ _ hd => h.seOut _ _ _ _ hd) ?_
  iterate 3 refine rowKept_cons (fun _ => rfl) (fun _ _ hd => h.counted _ _ _ _ _ _ hd) ?_
  -- VSEL, VCMP, VBCAST, then VFMA, VFSCL, then VCVT
  iterate 3 refine rowKept_cons (fun _ => rfl) (fun _ _ hd => h.seOut _ _ _ _ hd) ?_
  iterate 2 refine rowKept_cons (fun _ => rfl) (fun _ _ hd => h.counted _ _ _ _ _ _ hd) ?_
  refine rowKept_cons (fun _ => rfl) (fun _ _ hd => ite (h.seAbort _ _ hd) (h.counted _ _ _ _ _ _ hd)) ?_
  -- VNARROW, then VPERM, VNORM, then the reductions, VBEXP and VCMAC
  refine rowKept_cons (fun _ => rfl) (fun _ _ hd => h.counted _ _ _ _ _ _ hd) ?_
  iterate 2 refine rowKept_cons (fun _ => rfl) (fun _ _ hd => h.seOut _ _ _ _ hd) ?_
  iterate 3 refine rowKept_cons (fun _ => rfl) (fun _ _ hd => h.counted _ _ _ _ _ _ hd) ?_
  refine rowKept_cons (fun _ => rfl) (fun _ _ hd => h.seOut _ _ _ _ hd) ?_
  refine rowKept_cons (fun _ => rfl) (fun _ _ hd => h.counted _ _ _ _ _ _ hd) ?_
  -- VCMACF, VBFLY4 and VDEMAP name groups of registers
  refine rowKept_cons (fun _ => rfl) (fun _ _ hd => h.inFile _ _ (fun _ he => h.counted _ _ _ _ _ _ he) hd) ?_
  refine rowKept_cons (fun _ => rfl) (fun _ _ hd => h.inFile _ _ (fun _ he =>
    ite (h.seOutEvery _ _ _ _ _ _ he) (h.evNum _ _ _ (h.seOutEvery _ _ _ _ _ _ he))) hd) ?_
  refine rowKept_cons (fun _ => rfl) (fun _ _ hd => h.inFile _ _ (fun _ he =>
    ite (h.seOutEvery _ _ _ _ _ _ he) (h.seOutEvery _ _ _ _ _ _ he)) hd) ?_
  -- VFDIV, VFSQRT
  iterate 2 refine rowKept_cons (fun _ => rfl) (fun _ _ hd => h.evNum _ _ _ (h.seOutEvery _ _ _ _ _ _ hd)) ?_
  -- VLD, VST, SLD, SST
  refine rowKept_cons (fun _ => rfl) (fun _ _ hd => h.access (h.seOut _ _ _ _ (h.seOut _ _ _ _ (h.seRead _ _ _ hd))) hd) ?_
  refine rowKept_cons (fun _ => rfl) (fun _ _ hd => h.access (h.seOut _ _ _ _
    (foldl _ (fun _ _ he => ite (h.seWrite _ _ _ he) he) hd)) hd) ?_
  refine rowKept_cons (fun _ => rfl) (fun _ _ hd => h.access (h.seOut _ _ _ _ (h.seOut _ _ _ _ (h.seRead _ _ _ hd))) hd) ?_
  refine rowKept_cons (fun _ => rfl) (fun _ _ hd => h.access (h.seOut _ _ _ _ (h.seWrite _ _ _ hd)) hd) ?_
  -- VLD.B, then VST.B, VST.BX
  refine rowKept_cons (fun _ => rfl) (fun _ _ hd => h.inFile _ _ (fun _ he => h.access (ite
    (h.seOut _ _ _ _ (h.seOut _ _ _ _ (h.seRead _ _ _ (h.seRead _ _ _ he))))
    (h.counted _ _ _ _ _ _ (h.seOut _ _ _ _ (h.seRead _ _ _ (h.seRead _ _ _ he))))) he) hd) ?_
  iterate 2 refine rowKept_cons (fun _ => rfl) (fun o _ hd => h.blockStore _ _ o hd) ?_
  -- SADD to SSHR, SLI to KMOV
  iterate 12 refine rowKept_cons (fun _ => rfl) (fun _ _ hd => h.seOut _ _ _ _ hd) ?_
  -- LOOP, SPAN, then the branches, then WAITC, SIGC, END
  refine rowKept_cons (fun _ => rfl) (fun _ _ hd =>
    ite (h.seAbort _ _ hd) (ite (h.cores _ _ hd) (h.cores _ _ hd))) ?_
  refine rowKept_cons (fun _ => rfl) (fun _ _ hd => ite (h.cores _ _ hd) (h.seAbort _ _ hd)) ?_
  iterate 3 refine rowKept_cons (fun _ => rfl) (fun o _ hd => h.branch _ _ o hd) ?_
  refine rowKept_cons (fun _ => rfl) (fun _ _ hd => ite hd (h.cores _ _ hd)) ?_
  refine rowKept_cons (fun _ => rfl) (fun _ _ hd => h.cores _ _ hd) ?_
  refine rowKept_cons (fun _ => rfl) (fun _ _ hd => ite (h.seAbort _ _ hd) (h.cores _ _ hd)) ?_
  exact List.forall_mem_nil _

/-! ### The rows -/

omit h in
/-- The next state of a row that a place is needed for. -/
theorem need_upd {c : Bool} {e : Fault} {s t : State} {f : Dev → Dev} (hf : I s.dev → I (f s.dev)) (hs : I s.dev)
    (ht : need c e (upd s f) = .next t) : I t.dev := by
  obtain ⟨-, hnext⟩ := need_next ht
  obtain ⟨-, hdev⟩ := upd_next hnext
  rw [hdev]
  exact ite hs (hf hs)

/-- Every slot command that answers a next state keeps the property. -/
theorem slotRows {s t : State} {g : Nat} {sl : SeSlot} {w : Slot64} {c : Instr} (hc : c ∈ Stated.slotRows g sl w) (hs : I s.dev)
    (ht : exec c s = .next t) : I t.dev := by
  obtain ⟨f, hf, rfl⟩ := List.mem_map.1 hc
  obtain ⟨body, hexec, hbody⟩ := h.slotForms g sl w f hf
  rw [hexec] at ht
  exact need_upd (h.seGo g _ w _ _ _ hbody) hs ht

/-- So does every Hornbeam command. -/
theorem matrixRows {s t : State} {g e n : Nat} {ev : MmEvent} {x : Word256} {c : Instr} (hc : c ∈ Stated.matrixRows g e n ev x)
    (hs : I s.dev) (ht : exec c s = .next t) : I t.dev := by
  simp only [Stated.matrixRows, List.mem_cons, List.not_mem_nil, or_false] at hc
  obtain rfl | rfl | rfl | rfl | rfl := hc
  · exact need_upd (h.hbOdWord g e x) hs ht
  · exact need_upd (h.hbMmWord g e x) hs ht
  · exact need_upd (h.mmFirstRow g e n) hs ht
  · exact need_upd (h.mmComplete g e n ev) hs ht
  · exact need_upd (h.hbEndWord g e x) hs ht

end EngineClosed

/-- The device without what an engine of a core can change. -/
def outside (d : Dev) : Dev :=
  { d with regs := [], raised := [], free := 0, cores := [], parts := [], hn := [], saves := []
           mem := { d.mem with spad := [], spadUe := [], spadCe := [], overwritten := [] } }

/-- The rest of the device is kept. -/
theorem outside_engineClosed (x : Dev) : EngineClosed (fun d => outside d = x) where
  regs _ _ _ hd := hd
  free _ _ hd := hd
  cores _ _ hd := hd
  parts _ _ hd := hd
  hn _ _ hd := hd
  overwritten _ _ hd := hd
  spadPut d p g o b hd := by
    unfold spadPut
    split_ifs <;> exact hd

/-- Settles O53: what lies outside the engines is kept by the few updates of which every row is made. -/
theorem engineCommandsFrame : Obligations.EngineCommandsFrame := by
  unfold Obligations.EngineCommandsFrame
  intro s t g e n sl w x ev _ c hc ht
  have closed := outside_engineClosed (outside s.dev)
  have k : outside t.dev = outside s.dev := by
    obtain hc | hc := List.mem_append.1 hc
    · exact closed.slotRows hc rfl ht
    · exact closed.matrixRows hc rfl ht
  have kept {α : Type} (field : Dev → α) : field (outside t.dev) = field (outside s.dev) := congrArg field k
  exact ⟨kept (·.host), kept (·.mem.hbm), kept (·.mem.sb), kept (·.mem.peer), kept (·.flash), kept (·.rings), kept (·.sems),
    kept (·.carriers), kept (·.coding), kept (·.servo), kept (·.ports), kept (·.teril), kept (·.lends), kept (·.sessions), kept (·.pins),
    kept (·.acyc), kept (·.nt)⟩

end Sys2Proof.Proofs
end

section
/-! SUPPORT. The canonical form of the scratchpads' memory under the rows of the engines (R107). -/

namespace Sys2Proof.Proofs

open Sys2Proof Sys2Proof.Machine Sys2Proof.Laws

/-- No update of an engine ends the canonical form: only a byte of a scratchpad touches that memory, and a byte written keeps it. -/
theorem canonical_engineClosed : EngineClosed (fun d => Memory.wf d.mem.spad = true) where
  regs _ _ _ hd := hd
  free _ _ hd := hd
  cores _ _ hd := hd
  parts _ _ hd := hd
  hn _ _ hd := hd
  overwritten _ _ hd := hd
  spadPut d p g o b hd := spadPut_wf p g o b d hd

/-- Settles O57: the few updates of which every row is made keep the canonical form. -/
theorem scratchpadsStayCanonical : Obligations.ScratchpadsStayCanonical := by
  unfold Obligations.ScratchpadsStayCanonical
  refine ⟨reset_memories_wf.1, fun s t g e n sl w x ev hs c hc ht => ?_⟩
  obtain hc | hc := List.mem_append.1 hc
  · exact canonical_engineClosed.slotRows hc hs ht
  · exact canonical_engineClosed.matrixRows hc hs ht

end Sys2Proof.Proofs
end

section
/-! SUPPORT. The words of a transfer list: what one makes of the device by its cause of illegality and its list (R113, R116, R119, R143,
R266), and the end of an SU.AT's offset. -/

namespace Sys2Proof.Proofs

open Sys2Proof Sys2Proof.Machine Sys2Proof.Laws

section
variable {g cause : Nat} {eff : Dev → Dev} {w : Word256} {d : Dev}

/-! ### Any word -/

/-- A list that is not active, is paused or held issues nothing. -/
theorem suWord_idle (h : d.suReady g = false) : suWord g cause eff d = d := by simp [suWord, h]

/-- Nor a word that may have to wait for more than its list. -/
theorem suWord_idle_of_waits {c : Prop} [Decidable c] (h : d.suReady g = false) : (if c then d else suWord g cause eff d) = d := by
  rw [suWord_idle h, ite_self]

theorem suWord_legal (h : d.suReady g = true) (hc : cause = 0) : suWord g cause eff d = eff (suStep g d) := by simp [suWord, h, hc]

theorem suWord_illegal (h : d.suReady g = true) (hc : cause ≠ 0) : suWord g cause eff d = suIllegal g cause d := by
  simp [suWord, h, hc]

/-! ### SU.MV: at most eight moves in flight (R116) -/

theorem suMvWord_full (h : d.suReady g = true) (hopc : wfld w 0 7 0 = 0x80) (hfull : 8 ≤ (d.core g).moves.length) : suMvWord g w d = d :=
  if_pos ⟨h, hfull, hopc⟩

theorem suMvWord_room (hroom : (d.core g).moves.length < 8) :
    ¬ (d.suReady g = true ∧ 8 ≤ (d.core g).moves.length ∧ wfld w 0 7 0 = 0x80) := by
  omega

/-! ### SU.AT and SU.EEND (R143) -/

/-- SU.AT with its cause written out: the opcode of another word, or a reserved bit. -/
theorem suAtWord_eq : suAtWord g w d =
    suWord g (if wfld w 0 7 0 ≠ 0x82 then 11
      else if wrsv w 0 31 8 = true ∧ wrsv w 4 31 22 = true ∧ (w >>> 64).toNat = 0 then 0 else 9) (fun d =>
      d.modList g (fun l =>
        { l with held := if d.acyc < l.tick + wfld w 4 21 0 then some (l.tick + wfld w 4 21 0) else none })) d := by
  simp only [suAtWord, decide_eq_true_eq]

/-- SU.FENCE with its cause written out: the opcode of another word, a reserved bit, or a role that the job does not have (R266, R273). -/
theorem suFenceWord_eq : suFenceWord g w d =
    suWord g (if remOpc w ≠ 0x85 then 11
      else if ¬ (wrsv w 0 15 9 = true ∧ wrsv w 0 31 25 = true ∧ (w >>> 32).toNat % 2 ^ 160 = 0 ∧ (suWait w).rsvOk = true) then 9
      else if ¬ wbit w 0 8 = true ∧ d.roles (d.workOf g) ≤ remRole w then 5 else 0) (addRemote g w 0 0 true) d := by
  simp only [suFenceWord, decide_eq_true_eq]

section
variable (h : d.suReady g = true)
include h

theorem suAtWord_opcode (hopc : wfld w 0 7 0 ≠ 0x82) : suAtWord g w d = suIllegal g 11 d := by
  rw [suAtWord_eq, if_pos hopc, suWord_illegal h (by decide)]

theorem suEendWord_opcode (hopc : wfld w 0 7 0 ≠ 0x8F) : suEendWord g w d = suIllegal g 11 d := by
  rw [suEendWord, if_pos hopc, suWord_illegal h (by decide)]

theorem suFenceWord_opcode (hopc : remOpc w ≠ 0x85) : suFenceWord g w d = suIllegal g 11 d := by
  rw [suFenceWord_eq, if_pos hopc, suWord_illegal h (by decide)]

section
variable (hopc : wfld w 0 7 0 = 0x82)
include hopc

theorem suAtWord_legal (hrsv : wrsv w 0 31 8 = true ∧ wrsv w 4 31 22 = true ∧ (w >>> 64).toNat = 0) :
    suAtWord g w d = (suStep g d).modList g (fun l =>
      { l with held := if (suStep g d).acyc < l.tick + wfld w 4 21 0 then some (l.tick + wfld w 4 21 0) else none }) := by
  rw [suAtWord_eq, if_neg (not_not.2 hopc), if_pos hrsv, suWord_legal h rfl]

theorem suAtWord_reserved (hrsv : ¬ (wrsv w 0 31 8 = true ∧ wrsv w 4 31 22 = true ∧ (w >>> 64).toNat = 0)) :
    suAtWord g w d = suIllegal g 9 d := by
  rw [suAtWord_eq, if_neg (not_not.2 hopc), if_neg hrsv, suWord_illegal h (by decide)]

end

section
variable (hopc : wfld w 0 7 0 = 0x8F)
include hopc

theorem suEendWord_legal (hrsv : (w >>> 8).toNat = 0) :
    suEendWord g w d = (suStep g d).modList g (fun l => { l with active := false }) := by
  rw [suEendWord, if_neg (not_not.2 hopc), if_pos hrsv, suWord_legal h rfl]

theorem suEendWord_reserved (hrsv : (w >>> 8).toNat ≠ 0) : suEendWord g w d = suIllegal g 9 d := by
  rw [suEendWord, if_neg (not_not.2 hopc), if_neg hrsv, suWord_illegal h (by decide)]

end

section
variable (hopc : remOpc w = 0x85)
include hopc

theorem suFenceWord_reserved
    (hrsv : ¬ (wrsv w 0 15 9 = true ∧ wrsv w 0 31 25 = true ∧ (w >>> 32).toNat % 2 ^ 160 = 0 ∧ (suWait w).rsvOk = true)) :
    suFenceWord g w d = suIllegal g 9 d := by
  rw [suFenceWord_eq, if_neg (not_not.2 hopc), if_pos hrsv, suWord_illegal h (by decide)]

theorem suFenceWord_role
    (hrsv : wrsv w 0 15 9 = true ∧ wrsv w 0 31 25 = true ∧ (w >>> 32).toNat % 2 ^ 160 = 0 ∧ (suWait w).rsvOk = true)
    (hone : wbit w 0 8 = false) (hrole : d.roles (d.workOf g) ≤ remRole w) : suFenceWord g w d = suIllegal g 5 d := by
  rw [suFenceWord_eq, if_neg (not_not.2 hopc), if_neg (not_not.2 hrsv), if_pos ⟨Bool.eq_false_iff.1 hone, hrole⟩,
    suWord_illegal h (by decide)]

end

end

/-! ### The offset that holds a list (R143) -/

theorem atReached_held {t : Nat} (h : (d.core g).ctx.list.held = some t) :
    atReached g d = if t ≤ d.acyc then d.modList g (fun l => { l with held := none }) else d := by
  simp only [atReached, h]

theorem atReached_free (h : (d.core g).ctx.list.held = none) : atReached g d = d := by
  simp only [atReached, h]

end

/-- Settles O38: each word is `suWord` with its cause and its effect, once an SU.MV has room and an event word has met its wait. -/
theorem streamWordsAct : Obligations.StreamWordsAct := by
  unfold Obligations.StreamWordsAct
  refine ⟨?acts, ?illegal, ?idle, fun s g t hrun hg ht => coreRow_answer hrun hg (atReached_held ht),
    fun s g hrun hg ht => coreRow_answer hrun hg (atReached_free ht)⟩
  case acts =>
    intro s g w hrun hg hready d
    have answer {f : Dev → Dev} {e : Dev} (hf : f s.dev = e) := coreRow_answer hrun hg hf
    have goes {c : Prop} (hm : s.dev.waitMet g w = true) : ¬ (s.dev.suReady g = true ∧ c ∧ ¬ s.dev.waitMet g w = true) := by simp [hm]
    have waits {c : Prop} (hc : c) (hm : s.dev.waitMet g w = false) : s.dev.suReady g = true ∧ c ∧ ¬ s.dev.waitMet g w = true :=
      ⟨hready, hc, Bool.eq_false_iff.1 hm⟩
    refine ⟨?sd, ?mv, ?full, ?at_, ?eend, ?evc, ?evr, ?evcWaits, ?evrWaits⟩
    case sd => exact fun hc => answer (suWord_legal hready hc)
    case mv => exact fun hc hroom => answer ((if_neg (suMvWord_room hroom)).trans (suWord_legal hready hc))
    case full => exact fun hopc hfull => answer (suMvWord_full hready hopc hfull)
    case at_ => exact fun hopc hlow hmid hhigh => answer (suAtWord_legal hready hopc ⟨hlow, hmid, hhigh⟩)
    case eend => exact fun hopc hrsv => answer (suEendWord_legal hready hopc hrsv)
    case evc | evr => exact fun hc hm => answer ((if_neg (goes hm)).trans (suWord_legal hready hc))
    case evcWaits | evrWaits => exact fun hc hm => answer (if_pos (waits hc hm))
  case illegal =>
    intro s g w hrun hg hready stops
    have answer {f : Dev → Dev} {e : Dev} (hf : f s.dev = e) := coreRow_answer hrun hg hf
    have goes {c : Nat} (hc : c ≠ 0) : ¬ (s.dev.suReady g = true ∧ c = 0 ∧ ¬ s.dev.waitMet g w = true) := by simp [hc]
    refine ⟨?sd, ?mv, ?atOpcode, ?atReserved, ?eendOpcode, ?eendReserved, ?rma, ?amo, ?fenceOpcode, ?fenceReserved, ?fenceRole, ?evc,
      ?evr⟩
    case sd | rma | amo => exact fun hc => answer (suWord_illegal hready hc)
    case mv => exact fun hc hroom => answer ((if_neg (suMvWord_room hroom)).trans (suWord_illegal hready hc))
    case atOpcode => exact fun hopc => answer (suAtWord_opcode hready hopc)
    case atReserved => exact fun hopc hrsv => answer (suAtWord_reserved hready hopc hrsv)
    case eendOpcode => exact fun hopc => answer (suEendWord_opcode hready hopc)
    case eendReserved => exact fun hopc hrsv => answer (suEendWord_reserved hready hopc hrsv)
    case fenceOpcode => exact fun hopc => answer (suFenceWord_opcode hready hopc)
    case fenceReserved => exact fun hopc hrsv => answer (suFenceWord_reserved hready hopc hrsv)
    case fenceRole =>
      exact fun hopc hlow hmid hhigh hwait hone hrole => answer (suFenceWord_role hready hopc ⟨hlow, hmid, hhigh, hwait⟩ hone hrole)
    case evc | evr => exact fun hc => answer ((if_neg (goes hc)).trans (suWord_illegal hready hc))
  case idle =>
    intro s g w hrun hg hready
    have answer {f : Dev → Dev} (hf : f s.dev = s.dev) := coreRow_answer hrun hg hf
    refine ⟨?sd, ?mv, answer (suAtWord_eq.trans (suWord_idle hready)), ?eend, ?rma, ?amo,
      answer (suFenceWord_eq.trans (suWord_idle hready)), ?evc, ?evr⟩
    case sd | eend | rma | amo => exact answer (suWord_idle hready)
    case mv | evc | evr => exact answer (suWord_idle_of_waits hready)

end Sys2Proof.Proofs
end

section
/-! SUPPORT. Moves in order: what the oldest one waits for, and what its completion makes of the device (R116 to R119, R265, R297). -/

namespace Sys2Proof.Proofs

open Sys2Proof Sys2Proof.Machine Sys2Proof.Laws

section
variable {d : Dev} {g p : Nat} {m : Move}

/-- What a move waits for before it is carried out. -/
theorem mvReady_iff : d.mvReady g p m = true ↔
    m.started ≠ none ∧ mvEarliest (mvOp m.w) (d.mvFrom g m) ≤ d.acyc ∧ d.mvToAsk g p m = [] ∧ d.farAsking (g, m.issued) = false ∧
      (∀ x ∈ (d.mvTier2 p g m).2, d.vMigrating p x.1 x.2 = false) ∧ d.moveWaits g p m = none := by
  simp only [Dev.mvReady, Bool.and_eq_true, Bool.not_eq_true', List.any_eq_false, List.isEmpty_iff, Option.isNone_iff_eq_none,
    Option.isSome_iff_ne_none, decide_eq_true_eq, Bool.not_eq_true, and_assoc]

theorem moveComplete_none (ev : MoveEvent) (h : (d.core g).moves = []) : moveComplete g ev d = d := by
  simp only [moveComplete, h]

section
variable {rest : List Move} (ev : MoveEvent) (h : (d.core g).moves = m :: rest)
include h

section
variable (hw : m.wrote = false)
include hw

/-- A move that cannot be carried out yet. -/
theorem moveComplete_unready (hr : d.mvReady g (d.workOf g) m = false) : moveComplete g ev d = d := by
  simp [moveComplete, h, hw, hr]

variable (hr : d.mvReady g (d.workOf g) m = true)
include hr

/-- A move without stores at peers writes its data and ends. -/
theorem moveComplete_ends (hs : (mvWriteData g (d.workOf g) m ev d).2.mvStoring g (d.workOf g) m = false) :
    moveComplete g ev d =
      mvEnd g (d.workOf g) m (mvWriteData g (d.workOf g) m ev d).1 (mvWriteData g (d.workOf g) m ev d).2 := by
  simp [moveComplete, h, hw, hr, hs]

/-- One with stores at peers writes its data and keeps what it found. -/
theorem moveComplete_stores (hs : (mvWriteData g (d.workOf g) m ev d).2.mvStoring g (d.workOf g) m = true) :
    moveComplete g ev d = (mvWriteData g (d.workOf g) m ev d).2.modCore g (fun c =>
      { c with moves := modAt c.moves 0 (fun y => { y with wrote := true, found := (mvWriteData g (d.workOf g) m ev d).1 }) }) := by
  simp [moveComplete, h, hw, hr, hs]

end

/-- A move whose data is written ends once its peers have answered. -/
theorem moveComplete_answered (hw : m.wrote = true) (hs : d.mvStoring g (d.workOf g) m = false) :
    moveComplete g ev d = mvEnd g (d.workOf g) m m.found d := by
  simp [moveComplete, h, hw, hs]

theorem moveComplete_unanswered (hw : m.wrote = true) (hs : d.mvStoring g (d.workOf g) m = true) : moveComplete g ev d = d := by
  simp [moveComplete, h, hw, hs]

end

end

/-- Settles O39: by whether the oldest move has written its data, can be carried out, and waits for its peers. -/
theorem movesStartAndComplete : Obligations.MovesStartAndComplete := by
  unfold Obligations.MovesStartAndComplete
  refine ⟨fun s g hrun hg => coreRow_answer hrun hg rfl, ?completes,
    fun s g ev hrun hg hm => coreRow_answer hrun hg (moveComplete_none ev hm)⟩
  intro s g ev m rest hrun hg hm o p ready finish
  have isReady : ready ↔ s.dev.mvReady g p m = true := mvReady_iff.symm
  exact ⟨fun hw hr => ⟨fun hs => coreRow_answer hrun hg (moveComplete_ends ev hm hw (isReady.1 hr) hs),
      fun hs => coreRow_answer hrun hg (moveComplete_stores ev hm hw (isReady.1 hr) hs)⟩,
    fun hw hr => coreRow_answer hrun hg (moveComplete_unready ev hm hw (Bool.eq_false_iff.2 (isReady.not.1 hr))),
    fun hw hs => coreRow_answer hrun hg (moveComplete_answered ev hm hw hs),
    fun hw hs => coreRow_answer hrun hg (moveComplete_unanswered ev hm hw hs)⟩

end Sys2Proof.Proofs
end

section
/-! SUPPORT. Byte strings written one after another, and the reads and writes of an operation on a scratchpad that no other disturbs (R79,
R109). -/

namespace Sys2Proof.Proofs

open Sys2Proof Sys2Proof.Machine Sys2Proof.Laws

/-! ### Byte strings written one after another -/

/-- Byte strings written one after another, each at its address. -/
def memWrites (m : Mem) (ws : List (Nat × Bytes)) : Mem := ws.foldl (fun m w => memWrite m w.1 w.2) m

/-- Two byte strings at their addresses share no byte. -/
def Apart (u v : Nat × Bytes) : Prop := u.1 + u.2.length ≤ v.1 ∨ v.1 + v.2.length ≤ u.1

/-- A byte outside every string reads as before. -/
theorem memByte_memWrites_outside (m : Mem) {ws : List (Nat × Bytes)} {x : Nat} (h : ∀ w ∈ ws, x < w.1 ∨ w.1 + w.2.length ≤ x) :
    memByte (memWrites m ws) x = memByte m x :=
  List.foldlRecOn (motive := fun n => memByte n x = memByte m x) ws _ rfl fun n hn w hw =>
    (memByte_memWrite_outside n w.1 w.2 x (h w hw)).trans hn

/-- Of strings that share no byte each is read back. -/
theorem memByte_memWrites_inside {m : Mem} {ws : List (Nat × Bytes)} (hwf : Memory.wf m = true) (hws : ws.Pairwise Apart)
    {w : Nat × Bytes} (hw : w ∈ ws) {j : Nat} (hj : j < w.2.length) : memByte (memWrites m ws) (w.1 + j) = w.2[j] := by
  induction ws generalizing m with
  | nil => exact absurd hw List.not_mem_nil
  | cons u us ih =>
    obtain ⟨hu, hus⟩ := List.pairwise_cons.1 hws
    obtain rfl | hw := List.mem_cons.1 hw
    · refine (memByte_memWrites_outside (memWrite m w.1 w.2) fun v hv => ?_).trans (memByte_memWrite_inside m w.1 w.2 j hj hwf)
      obtain h | h := hu v hv <;> omega
    · exact ih (memWrite_wf m u.1 u.2 hwf) hus hw

/-! ### An operation of a stream unit that no other disturbs -/

/-- An operation of p on core g writes with no other at work, p's context stands on the core, and the memory has its canonical form. -/
structure Unraced (who : Who) (since p g : Nat) (d : Dev) : Prop where
  races : d.racing who since = []
  here : d.inCore p g = true
  wf : Memory.wf d.mem.spad = true

section
variable {who : Who} {since p g l : Nat} {b : Bytes} {d : Dev}

/-- What a write without races changes of the scratchpads' memory. -/
theorem Unraced.portWrite_spad (h : Unraced who since p g d) (hl : b ≠ [] → l + b.length ≤ spadSize) :
    (portWrite who since p [g] l b d).mem.spad = memWrite d.mem.spad (g * spadSize + l) b := by
  obtain ⟨hspad, -⟩ := noteOld_mems who p [g] l b.length d
  obtain ⟨hregs, -⟩ := noteOld_keeps (d := d) (p := p) who [g] l b.length
  rw [portWrite_unraced _ _ _ _ _ h.races]
  cases b with
  | nil => exact hspad
  | cons x xs => rw [spadWrite_own ((inCore_congr hregs p g).trans h.here) _ (hl (List.cons_ne_nil x xs)), hspad]

/-- A write without races leaves cores and registers. -/
theorem Unraced.portWrite_keeps (h : Unraced who since p g d) :
    (portWrite who since p [g] l b d).regs = d.regs ∧ (portWrite who since p [g] l b d).cores = d.cores := by
  obtain ⟨nregs, ncores, -⟩ := noteOld_keeps (d := d) (p := p) who [g] l b.length
  obtain ⟨wregs, wcores, -⟩ := spadWrite_keeps p [g] l b (noteOld who p [g] l b.length d)
  rw [portWrite_unraced _ _ _ _ _ h.races]
  exact ⟨wregs.trans nregs, wcores.trans ncores⟩

/-- What the operation writes disturbs it no more than before. -/
theorem Unraced.portWrite (h : Unraced who since p g d) : Unraced who since p g (portWrite who since p [g] l b d) := by
  obtain ⟨hregs, -⟩ := h.portWrite_keeps (l := l) (b := b)
  obtain ⟨-, wcores, -⟩ := spadWrite_keeps p [g] l b (noteOld who p [g] l b.length d)
  refine ⟨?_, (inCore_congr hregs p g).trans h.here, portWrite_wf _ _ _ _ _ _ d h.wf⟩
  rw [portWrite_unraced _ _ _ _ _ h.races, racing_congr _ _ (spadWrite_overwritten _ _ _) wcores, racing_noteOld]
  exact h.races

end

section
variable {who : Who} {since p g : Nat}

/-- Writes of an operation without races are plain, one after another. -/
theorem Unraced.foldl_portWrite {ws : List (Nat × Bytes)} {d : Dev} (h : Unraced who since p g d)
    (hws : ∀ w ∈ ws, w.2 ≠ [] → w.1 + w.2.length ≤ spadSize) :
    (ws.foldl (fun d w => Machine.portWrite who since p [g] w.1 w.2 d) d).cores = d.cores ∧
      (ws.foldl (fun d w => Machine.portWrite who since p [g] w.1 w.2 d) d).mem.spad =
        memWrites d.mem.spad (ws.map (fun w => (g * spadSize + w.1, w.2))) := by
  induction ws generalizing d with
  | nil => exact ⟨rfl, rfl⟩
  | cons w ws ih =>
    obtain ⟨hcores, hspad⟩ := ih (h.portWrite (l := w.1) (b := w.2)) fun v hv => hws v (List.mem_cons_of_mem w hv)
    obtain ⟨-, wcores⟩ := h.portWrite_keeps (l := w.1) (b := w.2)
    have wspad := h.portWrite_spad (hws w List.mem_cons_self)
    rw [wspad] at hspad
    exact ⟨hcores.trans wcores, hspad⟩

end

/-- A read while no other operation writes, nothing was overwritten and no word is wrong meets nothing (R75, R79, R109). -/
theorem portClear_of_quiet {d : Dev} {who : Who} (hops : d.opsWriting who = []) (hover : d.mem.overwritten = []) (hue : d.mem.spadUe = [])
    (hce : d.mem.spadCe = []) (since p : Nat) (cores : List Nat) (l n : Nat) : d.portClear who since [] p cores l n = true := by
  simp [Dev.portClear, Dev.openByte, Dev.racing, inRanges, tabGet, hops, hover, hue, hce]

end Sys2Proof.Proofs
end

section
/-! SUPPORT. The lines of a move within one scratchpad: read and written where nothing disturbs them, they are copied bit for bit (R114,
R116, R117). -/

namespace Sys2Proof.Proofs

open Sys2Proof Sys2Proof.Machine Sys2Proof.Laws

/-! ### The lines of a move -/

/-- Each line of a side lies in its tier. -/
theorem mvInRange_line {x : SdDesc} {f lines len top i : Nat} (h : mvInRange x f (lines, len) top = true) (hi : i < lines) :
    x.ebase + i * x.estride + linePayload f len ≤ top ∧
      (lineScales f len ≠ 0 → x.sbase + i * x.sstride + lineScales f len ≤ top) := by
  have he : i * x.estride ≤ (lines - 1) * x.estride := Nat.mul_le_mul_right _ (by omega)
  have hs : i * x.sstride ≤ (lines - 1) * x.sstride := Nat.mul_le_mul_right _ (by omega)
  simp only [mvInRange, Bool.and_eq_true, Bool.or_eq_true, decide_eq_true_eq] at h
  omega

/-- A stride of at least a line keeps the lines of a plane apart. -/
theorem line_before {stride n i j : Nat} (h : n ≤ stride) (hij : i < j) : i * stride + n ≤ j * stride := by
  have := Nat.mul_le_mul_right stride (Nat.succ_le_of_lt hij)
  rw [Nat.succ_mul] at this
  omega

/-- An SU.MV without transposition and decompression within the scratchpad of its own core, with its lines in it and no byte that two of
its destination lines share (R114, R117). -/
structure PlainMove (m : Move) : Prop where
  xpose : (mvOp m.w).xpose = false
  decomp : (mvOp m.w).decomp = false
  own : (mvOp m.w).gsize ≤ 1
  fromSpad : (sdDesc m.sds).tier = 0
  toSpad : (sdDesc m.sdd).tier = 0
  sourceInside : mvInRange (sdDesc m.sds) (mvOp m.w).fmt (mvShape (mvOp m.w)).1 spadSize = true
  destInside : mvInRange (sdDesc m.sdd) (mvOp m.w).fmt (mvShape (mvOp m.w)).2 spadSize = true
  strides : mvStrides (sdDesc m.sdd) (mvOp m.w).fmt (mvShape (mvOp m.w)).2 = true
  planes : ∀ i < (mvOp m.w).lines, ∀ j < (mvOp m.w).lines,
    (sdDesc m.sdd).ebase + i * (sdDesc m.sdd).estride + linePayload (mvOp m.w).fmt (mvOp m.w).len ≤
        (sdDesc m.sdd).sbase + j * (sdDesc m.sdd).sstride ∨
      (sdDesc m.sdd).sbase + j * (sdDesc m.sdd).sstride + lineScales (mvOp m.w).fmt (mvOp m.w).len ≤
        (sdDesc m.sdd).ebase + i * (sdDesc m.sdd).estride

/-- Nothing disturbs move m of core g: no byte of it is open, no other operation writes or has written the scratchpads meanwhile, no word is
wrong, it asks for nothing at peers, its partition's context stands on the core, and the memory has its canonical form. -/
structure Undisturbed (d : Dev) (g : Nat) (m : Move) : Prop where
  openDest : d.openDest (d.workOf g) g m = []
  openSource : d.openSource (d.workOf g) g m = []
  asks : d.farAsking (g, m.issued) = false
  ops : d.opsWriting (g, 3, m.issued) = []
  overwritten : d.mem.overwritten = []
  spadUe : d.mem.spadUe = []
  spadCe : d.mem.spadCe = []
  here : d.inCore (d.workOf g) g = true
  wf : Memory.wf d.mem.spad = true

/-- From one memory of the scratchpads to another a move of core g copies every byte of its lines and changes no other. -/
def Copied (g : Nat) (m : Move) (old new : Mem) : Prop :=
  let o := mvOp m.w
  let a := sdDesc m.sds
  let b := sdDesc m.sdd
  let pl := linePayload o.fmt o.len
  let sc := lineScales o.fmt o.len
  (∀ i < o.lines, ∀ j < pl, memByte new (g * spadSize + (b.ebase + i * b.estride + j)) =
    memByte old (g * spadSize + (a.ebase + i * a.estride + j))) ∧
  (∀ i < o.lines, ∀ j < sc, memByte new (g * spadSize + (b.sbase + i * b.sstride + j)) =
    memByte old (g * spadSize + (a.sbase + i * a.sstride + j))) ∧
  (∀ x, (∀ i < o.lines, x < g * spadSize + (b.ebase + i * b.estride) ∨ g * spadSize + (b.ebase + i * b.estride + pl) ≤ x) →
    (∀ i < o.lines, x < g * spadSize + (b.sbase + i * b.sstride) ∨ g * spadSize + (b.sbase + i * b.sstride + sc) ≤ x) →
    memByte new x = memByte old x)

/-- A line as core g holds it: bytes of its own scratchpad. -/
def spadLine (old : Mem) (g l n : Nat) : Bytes := memRead old (g * spadSize + l) n

/-- Line i of the source as the scratchpad holds it: payload and scales. -/
def sourceLine (old : Mem) (g : Nat) (m : Move) (i : Nat) : Bytes × Bytes :=
  let o := mvOp m.w
  let a := sdDesc m.sds
  (spadLine old g (a.ebase + i * a.estride) (linePayload o.fmt o.len), spadLine old g (a.sbase + i * a.sstride) (lineScales o.fmt o.len))

/-- The destination lines of a move with what the source lines hold, each at its offset in the scratchpad: payload, then scales. -/
def copiedLines (old : Mem) (g : Nat) (m : Move) : List (Nat × Bytes) :=
  let b := sdDesc m.sdd
  (List.range (mvOp m.w).lines).flatMap (fun i =>
    [(b.ebase + i * b.estride, (sourceLine old g m i).1), (b.sbase + i * b.sstride, (sourceLine old g m i).2)])

section
variable {m : Move} {g : Nat} {old : Mem}

@[simp] theorem spadLine_length (l n : Nat) : (spadLine old g l n).length = n := by simp [spadLine, memRead]

theorem spadLine_getElem {l n j : Nat} (hj : j < (spadLine old g l n).length) :
    (spadLine old g l n)[j] = memByte old (g * spadSize + (l + j)) := by
  simp [spadLine, memRead, Nat.add_assoc]

/-- The lines a plain move writes lie in the scratchpad. -/
theorem PlainMove.lines_inside (h : PlainMove m) : ∀ w ∈ copiedLines old g m, w.2 ≠ [] → w.1 + w.2.length ≤ spadSize := by
  intro w hw hne
  have hin := h.destInside
  simp only [mvShape, h.xpose] at hin
  simp only [copiedLines, List.mem_flatMap, List.mem_range, List.mem_cons, List.not_mem_nil, or_false] at hw
  obtain ⟨i, hi, rfl | rfl⟩ := hw
  · obtain ⟨he, -⟩ := mvInRange_line hin hi
    simpa [sourceLine] using he
  · obtain ⟨-, hs⟩ := mvInRange_line hin hi
    rw [← List.length_pos_iff_ne_nil, sourceLine, spadLine_length] at hne
    simpa [sourceLine] using hs (by omega)

/-- They share no byte. -/
theorem PlainMove.lines_apart (h : PlainMove m) : (copiedLines old g m).Pairwise Apart := by
  have hstr := h.strides
  simp only [mvShape, mvStrides, h.xpose, Bool.and_eq_true, decide_eq_true_eq, Bool.false_eq_true, if_false] at hstr
  obtain ⟨⟨-, he⟩, hs⟩ := hstr
  refine List.pairwise_flatMap.2 ⟨fun i hi => ?_, List.pairwise_lt_range.imp_of_mem fun {i j} hi hj hij => ?_⟩
  · have hi := List.mem_range.1 hi
    simpa [Apart, sourceLine] using h.planes i hi i hi
  · have hi := List.mem_range.1 hi
    have hj := List.mem_range.1 hj
    have hee := line_before he hij
    have hss := line_before hs hij
    have hes := h.planes i hi j hj
    have hse := h.planes j hj i hi
    simp only [List.mem_cons, List.not_mem_nil, or_false, forall_eq_or_imp, forall_eq, Apart, sourceLine, spadLine_length]
    omega

/-- Written into the memory they were read from, the lines are a copy. -/
theorem PlainMove.copied (h : PlainMove m) (hwf : Memory.wf old = true) :
    Copied g m old (memWrites old ((copiedLines old g m).map (fun w => (g * spadSize + w.1, w.2)))) := by
  have apart : ((copiedLines old g m).map (fun w => (g * spadSize + w.1, w.2))).Pairwise Apart := by
    refine List.pairwise_map.2 (h.lines_apart.imp fun {u v} huv => ?_)
    simp only [Apart] at huv ⊢
    omega
  have inside {l a n j : Nat} (hj : j < n) (hw : (l, spadLine old g a n) ∈ copiedLines old g m) :
      memByte (memWrites old ((copiedLines old g m).map (fun w => (g * spadSize + w.1, w.2)))) (g * spadSize + (l + j)) =
        memByte old (g * spadSize + (a + j)) := by
    rw [← Nat.add_assoc]
    exact (memByte_memWrites_inside hwf apart (List.mem_map_of_mem hw) (by simpa using hj)).trans (spadLine_getElem _)
  refine ⟨fun i hi j hj => inside hj ?_, fun i hi j hj => inside hj ?_, fun x hpl hsc => memByte_memWrites_outside old fun w hw => ?_⟩
  · exact List.mem_flatMap.2 ⟨i, List.mem_range.2 hi, List.mem_cons_self⟩
  · exact List.mem_flatMap.2 ⟨i, List.mem_range.2 hi, List.mem_cons_of_mem _ List.mem_cons_self⟩
  · obtain ⟨v, hv, rfl⟩ := List.mem_map.1 hw
    obtain ⟨i, hi, hv⟩ := List.mem_flatMap.1 hv
    have hi := List.mem_range.1 hi
    have hpl := hpl i hi
    have hsc := hsc i hi
    simp only [List.mem_cons, List.not_mem_nil, or_false] at hv
    obtain rfl | rfl := hv <;> simp only [sourceLine, spadLine_length] <;> omega

end

/-! ### The reading of the lines -/

/-- A fold that appends one entry at a time gathers a map. -/
theorem foldl_gathers {α β γ : Type} {F : List α × γ → β → List α × γ} {f : β → α} {c : γ} {l : List β}
    (hF : ∀ xs, ∀ i ∈ l, F (xs, c) i = (xs ++ [f i], c)) (xs : List α) : l.foldl F (xs, c) = (xs ++ l.map f, c) := by
  induction l generalizing xs with
  | nil => simp
  | cons i l ih =>
    rw [List.foldl_cons, hF xs i List.mem_cons_self, ih fun ys j hj => hF ys j (List.mem_cons_of_mem i hj), List.map_cons,
      List.append_assoc, List.singleton_append]

/-- Entries of a list made from their positions, numbered. -/
theorem zipIdx_map_range {α : Type} (f : Nat → α) (n : Nat) :
    ((List.range n).map f).zipIdx = (List.range n).map (fun i => (f i, i)) := by
  refine List.ext_getElem (by simp) fun i _ _ => ?_
  simp

section
variable {d : Dev} {g : Nat} {m : Move}

/-- In a core that holds the context a read within the scratchpad is one of the memory. -/
theorem spadRead_own {p l n : Nat} (hin : d.inCore p g = true) (hl : n ≠ 0 → l + n ≤ spadSize) :
    d.spadRead p [g] l n = spadLine d.mem.spad g l n := by
  refine List.map_congr_left fun i hi => ?_
  have hi := List.mem_range.1 hi
  rw [spadAt_own (by omega)]
  simp [hin, Nat.add_assoc]

/-- The group of a plain move is its own core. -/
theorem PlainMove.cores (h : PlainMove m) (p : Nat) : (d.mvPort g p m).cores = [g] := by
  simp [Dev.mvPort, gsizeCores, h.own]

/-- A side of a move in the scratchpads has no bytes in tier 2. -/
theorem mvRanges_spad {o : MvOp} {x : SdDesc} (h : x.tier = 0) (sh : Nat × Nat) :
    (mvRanges g o x sh).filter (fun r => r.1 = 2) = [] := by
  refine List.filter_eq_nil_iff.2 fun r hr => ?_
  rw [mvRanges, if_pos h] at hr
  obtain ⟨y, -, rfl⟩ := List.mem_map.1 hr
  simp

/-- A plain move touches no tier 2. -/
theorem PlainMove.mvTier2 (h : PlainMove m) (p : Nat) : d.mvTier2 p g m = ([], []) := by
  simp [Dev.mvTier2, mvSource, mvDest, mvRanges_spad h.fromSpad, mvRanges_spad h.toSpad, h.decomp]

theorem peerUnits_nil (p : Nat) (look : Look) : d.peerUnits p look [] = [] := by simp [Dev.peerUnits]

/-- It stores nothing at peers. -/
theorem PlainMove.mvStoring (h : PlainMove m) (p : Nat) : d.mvStoring g p m = false := by
  simp [Dev.mvStoring, h.mvTier2, peerUnits_nil]

/-- Once started and passed, a plain move that asks for nothing can be carried out. -/
theorem PlainMove.mvReady (h : PlainMove m) (hq : Undisturbed d g m) (hstart : m.started ≠ none)
    (hdue : mvEarliest (mvOp m.w) (d.mvFrom g m) ≤ d.acyc) : d.mvReady g (d.workOf g) m = true :=
  mvReady_iff.2 ⟨hstart, hdue, by simp [Dev.mvToAsk, h.mvTier2, peerUnits_nil], hq.asks, by simp [h.mvTier2],
    by simp [Dev.moveWaits, h.mvTier2, h.fromSpad, h.toSpad]⟩

/-- A line of an undisturbed move is read as the scratchpad holds it. -/
theorem Undisturbed.mvLoad (hq : Undisturbed d g m) (h : PlainMove m) {l n : Nat} (hl : n ≠ 0 → l + n ≤ spadSize) :
    mvLoad (d.mvPort g (d.workOf g) m) [] 0 l n (0, d) = (spadLine d.mem.spad g l n, 0, d) := by
  have clear := portRead_clear (g, 3, m.issued) (m.started.getD d.acyc) [] (d.workOf g) [g] l n d
    (portClear_of_quiet hq.ops hq.overwritten hq.spadUe hq.spadCe ..)
  have load : tierLoad (d.mvPort g (d.workOf g) m) 0 l n d = ((spadLine d.mem.spad g l n, 0), d) := by
    rw [← spadRead_own hq.here hl, ← clear, ← h.cores (d := d) (g := g) (d.workOf g)]
    rfl
  simp [Machine.mvLoad, load, openCells]

/-- An undisturbed move reads its lines as the scratchpad holds them. -/
theorem Undisturbed.mvOut (hq : Undisturbed d g m) (h : PlainMove m) :
    mvOut (d.mvPort g (d.workOf g) m) [] m d =
      ((some ((List.range (mvOp m.w).lines).map (sourceLine d.mem.spad g m)), {}, 0), d) := by
  have lines : mvLines (d.mvPort g (d.workOf g) m) [] (mvOp m.w) (sdDesc m.sds) d =
      ((List.range (mvOp m.w).lines).map (sourceLine d.mem.spad g m), 0, d) := by
    refine foldl_gathers (fun xs i hi => ?_) []
    have hin := mvInRange_line h.sourceInside (List.mem_range.1 hi)
    simp only [h.fromSpad, hq.mvLoad h fun _ => hin.1, hq.mvLoad h hin.2, sourceLine]
  simp [Machine.mvOut, h.decomp, h.xpose, lines]

end

/-! ### The writing of the lines -/

section
variable {d : Dev} {g : Nat} {m : Move}

/-- A byte string that move m of core g, carried out in d, writes to its own scratchpad. -/
def spadStore (d : Dev) (g : Nat) (m : Move) (e : Dev) (w : Nat × Bytes) : Dev :=
  portWrite (g, 3, m.issued) (m.started.getD d.acyc) (d.workOf g) [g] w.1 w.2 e

/-- A destination line of a plain move is two writes of its scratchpad port. -/
theorem PlainMove.mvPutLine (h : PlainMove m) (i : Nat) (l : Bytes × Bytes) (e : Dev) :
    mvPutLine (d.mvPort g (d.workOf g) m) [] (sdDesc m.sdd) i l e =
      [((sdDesc m.sdd).ebase + i * (sdDesc m.sdd).estride, l.1), ((sdDesc m.sdd).sbase + i * (sdDesc m.sdd).sstride, l.2)].foldl
        (spadStore d g m) e := by
  have store (a : Nat) (b : Bytes) (e : Dev) : tierStore (d.mvPort g (d.workOf g) m) 0 a b e = spadStore d g m e (a, b) := by
    rw [spadStore, ← h.cores (d := d) (g := g) (d.workOf g)]
    rfl
  simp [Machine.mvPutLine, openCells, h.toSpad, store]

/-- The device in which an undisturbed move writes: its bytes are noted under its epoch (R157). -/
def noted (d : Dev) (g : Nat) (m : Move) : Dev :=
  noteWrote (d.workOf g) (d.currentEpoch (d.workOf g)) (g, 3, m.issued) (mvDest g m.w m.sdd) d

/-- The device in which the lines of an undisturbed plain move are written. -/
def written (d : Dev) (g : Nat) (m : Move) : Dev :=
  (copiedLines d.mem.spad g m).foldl (spadStore d g m) (noted d g m)

/-- Carrying out an undisturbed plain move writes its lines, misses no page and loses no data. -/
theorem Undisturbed.mvWriteData (hq : Undisturbed d g m) (h : PlainMove m) :
    mvWriteData g (d.workOf g) m .clean d = ((none, false), evNum g 3 {} (written d g m)) := by
  have lines (e : Dev) :
      (((List.range (mvOp m.w).lines).map (sourceLine d.mem.spad g m)).zipIdx.foldl (fun e l =>
        Machine.mvPutLine (d.mvPort g (d.workOf g) m) [] (sdDesc m.sdd) l.2 (l.1.1, l.1.2) e) e) =
      (copiedLines d.mem.spad g m).foldl (spadStore d g m) e := by
    rw [zipIdx_map_range, List.foldl_map, copiedLines, List.foldl_flatMap]
    simp only [h.mvPutLine]
  have who : (d.mvPort g (d.workOf g) m).who = (g, 3, m.issued) := rfl
  have none_missing : d.mvMissing g (d.workOf g) m = none := by simp [Dev.mvMissing, h.mvTier2]
  simp [Machine.mvWriteData, moveMeets, none_missing, h.mvTier2, mvTouch, h.fromSpad, h.toSpad, hq.openDest, hq.openSource, hq.mvOut h,
    mvWords, freeWords, lines, who, written, noted]

/-- The lines stand in the memory, and the cores are as they were. -/
theorem Undisturbed.written_keeps (hq : Undisturbed d g m) (h : PlainMove m) :
    (written d g m).cores = d.cores ∧ Copied g m d.mem.spad (written d g m).mem.spad := by
  have unraced : Unraced (g, 3, m.issued) (m.started.getD d.acyc) (d.workOf g) g (noted d g m) :=
    ⟨by simp [Dev.racing, noted, noteWrote, hq.overwritten], hq.here, hq.wf⟩
  obtain ⟨hcores, hspad⟩ := unraced.foldl_portWrite (h.lines_inside (old := d.mem.spad) (g := g))
  refine ⟨hcores, ?_⟩
  have hcopied := h.copied (g := g) hq.wf
  rw [written]
  exact hspad ▸ hcopied

end

end Sys2Proof.Proofs
end

section
/-! SUPPORT. The end of a move within one scratchpad, and what holds of the statement that it copies bit for bit and leaves the unit
(R116). -/

namespace Sys2Proof.Proofs

open Sys2Proof Sys2Proof.Machine Sys2Proof.Laws

/-! ### The end of a move -/

section
variable {d e : Dev} {g : Nat} {m : Move}

/-- A changed core is read back where the table of cores is canonical, and everywhere if it does not become the empty one. -/
theorem core_modCore {f : Core → Core} (h : tabWf {} d.cores = true ∨ f (d.core g) ≠ {}) : (d.modCore g f).core g = f (d.core g) := by
  obtain hwf | hne := h
  · exact core_setCore d g (f (d.core g)) hwf
  · exact tabGet_tabSet_of_ne_default ({} : Core) d.cores g (f (d.core g)) hne

/-- A core with moves, or with a-cycles that its moves have taken, is not the empty one. -/
theorem core_ne_empty {c : Core} (h : c.moves ≠ [] ∨ c.suFree ≠ 0) : c ≠ {} := by
  rintro rfl
  simp at h

/-- From d to e the scratchpads and a canonical table of cores stand, and so do the moves of core g: in a canonical table, or where it has
moves or has carried some out. -/
structure MovesStand (g : Nat) (d e : Dev) : Prop where
  spad : e.mem.spad = d.mem.spad
  wf : tabWf {} d.cores = true → tabWf {} e.cores = true
  moves : tabWf {} d.cores = true ∨ (d.core g).moves ≠ [] ∨ (d.core g).suFree ≠ 0 →
    (e.core g).moves = (d.core g).moves ∧ (e.core g).suFree = (d.core g).suFree

namespace MovesStand

theorem refl (g : Nat) (d : Dev) : MovesStand g d d := ⟨rfl, id, fun _ => ⟨rfl, rfl⟩⟩

theorem trans {f : Dev} (h : MovesStand g d e) (k : MovesStand g e f) : MovesStand g d f := by
  refine ⟨k.spad.trans h.spad, k.wf ∘ h.wf, fun hd => ?_⟩
  obtain ⟨hm, hs⟩ := h.moves hd
  obtain ⟨km, ks⟩ := k.moves (hd.imp h.wf (by rw [hm, hs]; exact id))
  exact ⟨km.trans hm, ks.trans hs⟩

theorem modCore (f : Core → Core) (hf : ∀ c, (f c).moves = c.moves ∧ (f c).suFree = c.suFree) : MovesStand g d (d.modCore g f) := by
  refine ⟨rfl, tabWf_tabSet _ _ _ _, fun hd => ?_⟩
  obtain ⟨hm, hs⟩ := hf (d.core g)
  rw [core_modCore (hd.imp_right fun hne => core_ne_empty (by rwa [hm, hs]))]
  exact ⟨hm, hs⟩

theorem modCtx (f : Ctx → Ctx) : MovesStand g d (d.modCtx g f) := modCore _ fun _ => ⟨rfl, rfl⟩

theorem evCore (src sub n : Nat) : MovesStand g d (evCore g src sub n d) := modCtx _

theorem evNum (i : Nat) (n : NumEv) : MovesStand g d (evNum g i n d) :=
  (((evCore 0x0C i n.nan).trans (evCore 0x0D i n.inf)).trans (evCore 0x0E i n.sat)).trans (evCore 0x0F i n.drop)

theorem suProgress (n : Nat) : MovesStand g d (suProgress g n d) := modCore _ fun _ => ⟨rfl, rfl⟩

theorem ccInc (i : Nat) : MovesStand g d (ccInc g i d) := by
  unfold Machine.ccInc ccIncAt
  dsimp only
  split
  · exact modCtx _
  · exact modCtx _

theorem pruneOld : MovesStand g d (pruneOld d) := by
  unfold Machine.pruneOld
  split
  · exact .refl g d
  · exact ⟨rfl, id, fun _ => ⟨rfl, rfl⟩⟩

end MovesStand

/-- A line of elements has a payload. -/
theorem linePayload_pos {f n : Nat} (hn : n ≠ 0) : 0 < linePayload f n := by
  have blocks {b : Nat} (hb : 0 < b) : 0 < ceilDiv n b := Nat.div_pos (by omega) hb
  have width : 0 < bsPayload f := by unfold bsPayload bsFmt; split <;> decide
  have size : 0 < plainSize f := by unfold plainSize; split <;> decide
  unfold linePayload
  split_ifs
  · exact Nat.mul_pos (blocks (by decide)) width
  · exact Nat.mul_pos (blocks (by decide)) (by decide)
  · exact Nat.mul_pos (by omega) size

/-- The bytes of a plain move with elements take the stream unit time. -/
theorem PlainMove.mvTime_pos (h : PlainMove m) (hlen : (mvOp m.w).len ≠ 0) : 0 < mvTime (mvOp m.w) := by
  have bytes : 0 < mvBytes (mvOp m.w) := by
    simp only [mvBytes, mvShape, h.xpose, Bool.false_eq_true, if_false]
    exact Nat.mul_pos (Nat.succ_pos _) (Nat.add_pos_left (linePayload_pos hlen) _)
  simp only [mvTime, h.xpose, Bool.false_eq_true, if_false]
  exact Nat.div_pos (by have : 0 < ceilDiv (mvBytes (mvOp m.w)) 512 := Nat.div_pos (by omega) (by decide); omega) (by decide)

/-- The oldest move of a core leaves its stream unit, which is free from an a-cycle on. -/
def leave (free : Nat) (c : Core) : Core := { c with moves := c.moves.tail, suFree := free }

/-- After a move without a missing page or lost data has left, nothing more happens to the memory and to the moves. -/
theorem mvEnd_stands (p : Nat) :
    MovesStand g (d.modCore g (leave (d.mvFrom g m + mvTime (mvOp m.w)))) (mvEnd g p m (none, false) d) := by
  have counted {e : Dev} : MovesStand g e (suProgress g (mvBytes (mvOp m.w) / 64) (evCore g 0x09 0 (mvBytes (mvOp m.w)) e)) :=
    (MovesStand.evCore _ _ _).trans (.suProgress _)
  unfold mvEnd
  simp only [Bool.false_eq_true, if_false]
  split_ifs
  · exact (counted.trans (.ccInc _)).trans .pruneOld
  · exact counted.trans .pruneOld

/-- The oldest move of core g is a plain one, due and undisturbed. -/
structure CopyDue (d : Dev) (g : Nat) (m : Move) (rest : List Move) : Prop where
  moves : (d.core g).moves = m :: rest
  wrote : m.wrote = false
  started : m.started ≠ none
  due : mvEarliest (mvOp m.w) (d.mvFrom g m) ≤ d.acyc
  plain : PlainMove m
  quiet : Undisturbed d g m

namespace CopyDue

variable {rest : List Move} (h : CopyDue d g m rest)
include h

/-- It is carried out and ends. -/
theorem moveComplete : moveComplete g .clean d = mvEnd g (d.workOf g) m (none, false) (evNum g 3 {} (written d g m)) := by
  have ready := h.plain.mvReady h.quiet h.started h.due
  rw [moveComplete_ends .clean h.moves h.wrote ready (h.plain.mvStoring _), h.quiet.mvWriteData h.plain]

/-- It copies every byte of its lines and changes no other byte of any scratchpad. -/
theorem copied : Copied g m d.mem.spad (Machine.moveComplete g .clean d).mem.spad := by
  have hend := (mvEnd_stands (d := evNum g 3 {} (written d g m)) (g := g) (m := m) (d.workOf g)).spad
  obtain ⟨-, hcopied⟩ := h.quiet.written_keeps h.plain
  rw [h.moveComplete, hend]
  exact hcopied

/-- It leaves the unit where the table of cores is canonical, and everywhere if its length is not 0, which R119 asks for. -/
theorem leaves (hknown : tabWf {} d.cores = true ∨ (mvOp m.w).len ≠ 0) : ((Machine.moveComplete g .clean d).core g).moves = rest := by
  obtain ⟨hcores, -⟩ := h.quiet.written_keeps h.plain
  have hwritten : ((written d g m).core g).moves = m :: rest := by
    rw [Dev.core, hcores]
    exact h.moves
  have counted : MovesStand g (written d g m) (evNum g 3 {} (written d g m)) := .evNum 3 {}
  rw [h.moveComplete]
  generalize evNum g 3 {} (written d g m) = e at counted ⊢
  obtain ⟨hmoves, -⟩ := counted.moves (.inr (.inl (by simp [hwritten])))
  have hfree : tabWf {} e.cores = true ∨ e.mvFrom g m + mvTime (mvOp m.w) ≠ 0 :=
    hknown.imp (fun hwf => counted.wf (hcores ▸ hwf)) fun hlen => (Nat.add_pos_right _ (h.plain.mvTime_pos hlen)).ne'
  have hleft : (e.modCore g (leave (e.mvFrom g m + mvTime (mvOp m.w)))).core g = leave (e.mvFrom g m + mvTime (mvOp m.w)) (e.core g) :=
    core_modCore (hfree.imp_right fun hne => core_ne_empty (.inr hne))
  obtain ⟨hend, -⟩ := (mvEnd_stands (d := e) (g := g) (m := m) (d.workOf g)).moves
    (hfree.imp (tabWf_tabSet _ _ _ _) fun hne => .inr (by rw [hleft]; exact hne))
  rw [hend, hleft, leave, hmoves, hwritten, List.tail_cons]

end CopyDue

end

/-! ### The statement -/

/-- With clocks running, the row of a core the package has completes its oldest move. -/
theorem exec_moveComplete {s : State} {g : Nat} (ev : MoveEvent) (hrun : s.dev.pins.stopped = false) (hg : g < 80) :
    exec (.moveComplete g ev) s = .next { s with dev := moveComplete g ev s.dev } :=
  coreRow_answer hrun hg rfl

/-- What the statement says of a move holds in a canonical table of cores, and everywhere of a length that R119 allows. -/
theorem CopyDue.exec {s : State} {g : Nat} {m : Move} {rest : List Move} (h : CopyDue s.dev g m rest) (hrun : s.dev.pins.stopped = false)
    (hg : g < 80) (hknown : tabWf {} s.dev.cores = true ∨ (mvOp m.w).len ≠ 0) :
    ∃ t, Machine.exec (.moveComplete g .clean) s = .next t ∧ (t.dev.core g).moves = rest ∧ Copied g m s.dev.mem.spad t.dev.mem.spad :=
  ⟨_, exec_moveComplete .clean hrun hg, h.leaves hknown, h.copied⟩

/-- The context of p0 stands on core 0, whose entries in the table of cores are given; byte 0 of its scratchpad is not 0. -/
def coreZero (acyc : Nat) (cores : List Core) : State :=
  let d := (State.reset.dev.setF F.coreStateOwned 0 1).setF F.coreStateState 0 1
  { State.reset with dev := { d with acyc := acyc, cores := cores.map (fun c => (0, c)), mem := { d.mem with spad := [(0, 0xAB)] } } }

/-- A move of one 4-byte element from address 0 to address 64, started in a-cycle 0. -/
def wordMove : Move :=
  let stride : BitVec 192 := 64 <<< 128
  { w := 0x980 ||| 1 <<< 64, sds := stride, sdd := 64 ||| stride, issued := 0, started := some 0 }

theorem wordMove_due : CopyDue (coreZero 3 [{ moves := [wordMove] }]).dev 0 wordMove [] where
  moves := by decide
  wrote := rfl
  started := by decide
  due := by decide
  plain := by constructor <;> decide
  quiet := by constructor <;> decide

/-- It is copied and leaves. -/
theorem wordMove_copied :
    ∃ t, exec (.moveComplete 0 .clean) (coreZero 3 [{ moves := [wordMove] }]) = .next t ∧ (t.dev.core 0).moves = [] ∧
      Copied 0 wordMove [(0, 0xAB)] t.dev.mem.spad :=
  wordMove_due.exec rfl (by decide) (.inl (by decide))

/-- A move of no elements, which R119 makes illegal and the statement admits, started in a-cycle 0. -/
def emptyMove : Move := { w := 0x80, sds := 0, sdd := 0, issued := 0, started := some 0 }

/-- A state whose table of cores is not canonical: in a-cycle 1 it lists core 0 twice, each time with that move and nothing else. -/
def listedTwice : State := coreZero 1 [{ moves := [emptyMove] }, { moves := [emptyMove] }]

/-- The move's completion leaves the core empty, so the table lists its entry no longer, and the other entry shows. -/
theorem listedTwice_keeps_move : ((moveComplete 0 .clean listedTwice.dev).core 0).moves ≠ [] := by
  decide +kernel

theorem listedTwice_due : CopyDue listedTwice.dev 0 emptyMove [] where
  moves := by decide
  wrote := rfl
  started := by decide
  due := by decide
  plain := by constructor <;> decide
  quiet := by constructor <;> decide

/-- Refutes O58: every byte is copied, but a move of LEN = 0 need not leave the unit where the table of cores lists its core twice. In a
canonical table, and of any other length, the statement holds (`CopyDue.exec`). -/
theorem not_movesCopyBitForBit : ¬ Obligations.MovesCopyBitForBit := by
  unfold Obligations.MovesCopyBitForBit
  intro h
  obtain ⟨hmoves, hwrote, hstart, hdue, plain, quiet⟩ := listedTwice_due
  obtain ⟨t, ht, hleft, -⟩ := h listedTwice 0 emptyMove [] rfl (by decide) hmoves hwrote hstart hdue plain.xpose plain.decomp plain.own
    plain.fromSpad plain.toSpad plain.sourceInside plain.destInside plain.strides quiet.openDest quiet.openSource quiet.asks quiet.ops
    quiet.overwritten quiet.spadUe quiet.spadCe plain.planes quiet.here quiet.wf
  rw [exec_moveComplete .clean rfl (by decide)] at ht
  obtain rfl := Host.Outcome.next.inj ht
  exact listedTwice_keeps_move hleft

end Sys2Proof.Proofs
end

section
/-! SUPPORT. Watchdogs and probation (R391 to R394), membership and service (R184 to R186, R397, R398, R404), heartbeats and health (R402,
R403): what each row makes of the device, case by case. -/

namespace Sys2Proof.Proofs

open Sys2Proof Sys2Proof.Machine Sys2Proof.Laws

/-- With clocks running, a row without a place answers what its meaning makes of the device. -/
theorem devRow_answer {s : State} {f : Dev → Dev} {d : Dev} (hrun : s.dev.pins.stopped = false) (hf : f s.dev = d) :
    upd s f = .next { s with dev := d } := by
  rw [upd_running hrun, hf]

/-- So does a row of a place that the package has. -/
theorem placeRow_answer {s : State} {c : Bool} {f : Dev → Dev} {d : Dev} (hrun : s.dev.pins.stopped = false) (hc : c = true)
    (hf : f s.dev = d) : there c s (upd s f) = .next { s with dev := d } :=
  (there_true hc).trans (devRow_answer hrun hf)

section
variable {d : Dev} {e : EngineId} {q : Nat} {rest : List Nat}

/-! ### Watchdogs (R391, R392) -/

/-- An engine with work and no progress for TIMEOUT. -/
def Stuck (d : Dev) (e : EngineId) : Prop := d.engBusy e = true ∧ d.stuckSince e + d.wdogTime ≤ d.acyc

/-- Its hang is counted and recorded. -/
def hangNoted (e : EngineId) (d : Dev) : Dev :=
  faultRecord 1 0 0 (engPlace e).1 (engPlace e).2.1 (engPlace e).2.2 (health 4 1 (raiseFlt F.fltStatusHang (d.addSat F.fltStateHangs 0 1)))

theorem watchdogExpiry_free (h : ¬ Stuck d e) : watchdogExpiry e d = d := by
  have free : ¬ d.engBusy e = true ∨ d.acyc < d.stuckSince e + d.wdogTime := by
    rw [Stuck, not_and_or, not_le] at h
    exact h
  rw [watchdogExpiry, if_pos free]

section
variable (h : Stuck d e)
include h

theorem Stuck.guard : ¬ (¬ d.engBusy e = true ∨ d.acyc < d.stuckSince e + d.wdogTime) := by
  rw [not_or, not_not, not_lt]
  exact h

/-- A coding engine's block is abandoned. -/
theorem watchdogExpiry_coding {die k i : Nat} (he : e = .coding die k i) : watchdogExpiry e d = codingHang die k i (hangNoted e d) := by
  rw [watchdogExpiry, if_neg h.guard]
  subst he
  rfl

variable (he : ∀ die k i, e ≠ .coding die k i)
include he

/-- The suspect on probation is killed. -/
theorem watchdogExpiry_suspect (hs : ((hangNoted e d).watchOf e).suspects = q :: rest) :
    watchdogExpiry e d = nextSuspect e true (resetEngine e (kill e q (hangNoted e d))) := by
  rw [watchdogExpiry, if_neg h.guard]
  unfold hangNoted at hs ⊢
  cases e with
  | coding die k i => exact absurd rfl (he die k i)
  | core | edge => simp only [hs]

/-- Without suspects the engine's work aborts: the partitions with work on it become suspects, or with none the hang is its own. -/
theorem watchdogExpiry_unsuspected (hs : ((hangNoted e d).watchOf e).suspects = []) :
    watchdogExpiry e d =
      (let r := resetEngine e (abortWork e 4 (hangNoted e d))
       if (hangNoted e d).workers e = [] then attribute_ e r
       else modWatch e (fun w => { w with suspects := (hangNoted e d).workers e, base := ((hangNoted e d).progOf e).n, killed := false,
                                          prog := { w.prog with at_ := r.acyc } }) r) := by
  rw [watchdogExpiry, if_neg h.guard]
  unfold hangNoted at hs ⊢
  cases e with
  | coding die k i => exact absurd rfl (he die k i)
  | core | edge => simp only [hs]

end

/-! ### Probation (R392, R394) -/

theorem probationEnd_waits (h : ∀ q rest, (d.watchOf e).suspects = q :: rest → d.probed e q = false) : probationEnd e d = d := by
  cases hs : (d.watchOf e).suspects with
  | nil => simp only [probationEnd, hs]
  | cons q rest => simp [probationEnd, hs, h q rest hs]

theorem probationEnd_passed (hs : (d.watchOf e).suspects = q :: rest) (hp : d.probed e q = true) :
    probationEnd e d =
      (let n := nextSuspect e false d
       if rest = [] ∧ (n.watchOf e).killed = false then attribute_ e n else n) := by
  simp [probationEnd, hs, hp]

end

/-! ### Membership and service (R184 to R186, R397, R398, R404) -/

section
variable {d : Dev} {c : Src} {flags k mode : Nat} {b : Bytes}

theorem memberConfirm_malformed (h : ¬ (flags ≤ 1 ∧ b.length = 512)) : memberConfirm c flags k b d = done c 2 d :=
  if_pos (by omega)

section
variable (h : flags ≤ 1 ∧ b.length = 512)
include h

theorem memberConfirm_stale (hk : k < d.getF F.fhMemberMepoch) : memberConfirm c flags k b d = done c 0xE2 d := by
  rw [memberConfirm, if_neg (by omega), if_pos hk]

variable (hk : d.getF F.fhMemberMepoch ≤ k)
include hk

theorem memberConfirm_outsider (hb : d.getF F.tlSelfFaddr ∉ bitmapList b) : memberConfirm c flags k b d = done c 0 (enterFenced d) := by
  rw [memberConfirm, if_neg (by omega), if_neg (by omega), if_pos (by simpa using hb)]

theorem memberConfirm_member (hb : d.getF F.tlSelfFaddr ∈ bitmapList b) :
    memberConfirm c flags k b d =
      (let d := ((List.range 256).foldl (confirmToken (flags = 1) k) d).setF F.fhMemberMepoch 0 k
       let lease := d.eff F.fhLeaseLease 2 100 * 800000
       let d := d.modTeril (fun t => { t with members := some (bitmapList b), ld := later d.nt lease })
       done c 0 (if d.fenced then faultRecord 5 0 0 15 0 0 (d.setF F.fltStateFenced 0 0) else d)) := by
  rw [memberConfirm, if_neg (by omega), if_neg (by omega), if_neg (by simpa using hb)]

end

theorem fltService_bad (h : 1 < mode) : fltService c mode d = done c 2 d := if_pos h

theorem fltService_oos (h : mode ≤ 1) (ho : d.oos = true) : fltService c mode d = done c 0xE3 d := by
  rw [fltService, if_neg (by omega), if_pos ho]

theorem fltService_sets (h : mode ≤ 1) (ho : d.oos = false) :
    fltService c mode d = done c 0 ((if mode = 1 ∧ ¬ d.degraded then degrade d else d).setF F.fltStateService 0 mode) := by
  rw [fltService, if_neg (by omega), if_neg (Bool.eq_false_iff.1 ho)]

theorem fltReturn_oos (h : d.oos = true) :
    fltReturn c d = done c 0 (({ d with oosResets := [] }.setF F.fltStateService 0 0).setF F.fltStateResets 0 0) :=
  if_neg (not_not.2 h)

theorem fltReturn_in_service (h : d.oos = false) : fltReturn c d = done c 0xE5 d := if_pos (Bool.eq_false_iff.1 h)

end

/-! ### Heartbeats, health, replays (R127, R402, R403) -/

section
variable {d : Dev}

theorem heartbeat_none (h : d.beat 0 800000 0 = none) : heartbeat d = d := by simp only [heartbeat, h]

theorem heartbeat_due {t : BitVec 64} (h : d.beat 0 800000 0 = some t) :
    heartbeat d =
      (let b := beatBytes t d
       let a := d.getF F.fltHbAddrBase * 64
       let d := if a = 0 then d else emit (.dma a b) (hostWrite a b d)
       let d := (List.range 4).foldl (fun d i =>
         if (d.getF F.fltHbDestValid).testBit i then sendCtrl (d.getF F.fltHbDestAddr / 2 ^ (12 * i) % 4096) 1 0 b d else d) d
       beatDone 0 t { d with hbSeq := (d.hbSeq + 1) % 2 ^ 32 }) := by
  simp only [heartbeat, h]

theorem healthUpdate_none (h : d.beat 1 80000000 0 = none) : healthUpdate d = d := by simp only [healthUpdate, h]

theorem healthUpdate_due {t : BitVec 64} (h : d.beat 1 80000000 0 = some t) :
    healthUpdate d =
      (let e := fun c => healthNext (tabGet 0 d.he c) (tabGet 0 d.hn c)
       let p := (List.range 6).map (fun c => healthPenalty c (e c))
       let d : Dev := { d with hn := [], he := (List.range 6).foldl (fun (x : Tab Int) c => tabSet 0 x c (e c)) [] }
       let d := (List.range 6).foldl (fun (x : Dev) c => x.setF (healthField c) 0 (p.getD c 0)) d
       beatDone 1 t (oosWindow (d.setF F.fltHealthScore 0 (1000 - sumL p)))) := by
  simp only [healthUpdate, h]

end

/-- Settles O30: each row by the state of its engine, of the device, or of its interval. -/
theorem membershipAndHealthAct : Obligations.MembershipAndHealthAct := by
  unfold Obligations.MembershipAndHealthAct
  refine ⟨⟨?watchdog, ?probation⟩, ⟨?confirm, ?service⟩, ?beat, ?health, ?replay⟩
  case watchdog =>
    intro s e hrun he stuck d r
    have answer {f : Dev} (hf : watchdogExpiry e s.dev = f) := placeRow_answer hrun he hf
    exact ⟨fun die k i h hc => answer (watchdogExpiry_coding h hc), fun q rest h hne hs => answer (watchdogExpiry_suspect h hne hs),
      fun h hne hs hw => answer ((watchdogExpiry_unsuspected h hne hs).trans (if_pos hw)),
      fun h hne hs hw => answer ((watchdogExpiry_unsuspected h hne hs).trans (if_neg hw)), fun h => answer (watchdogExpiry_free h)⟩
  case probation =>
    intro s e hrun he
    exact ⟨fun q rest hs hp => placeRow_answer hrun he (probationEnd_passed hs hp),
      fun h => placeRow_answer hrun he (probationEnd_waits h)⟩
  case confirm =>
    intro s c flags k b hrun sized
    exact ⟨fun h hk hb => devRow_answer hrun (memberConfirm_member h hk hb),
      fun h hk hb => devRow_answer hrun (memberConfirm_outsider h hk hb),
      fun h hk => devRow_answer hrun (memberConfirm_stale h hk), fun h => devRow_answer hrun (memberConfirm_malformed h)⟩
  case service =>
    intro s c mode hrun
    exact ⟨fun h ho => devRow_answer hrun (fltService_sets h ho), fun h ho => devRow_answer hrun (fltService_oos h ho),
      fun h => devRow_answer hrun (fltService_bad h), fun ho => devRow_answer hrun (fltReturn_oos ho),
      fun ho => devRow_answer hrun (fltReturn_in_service ho)⟩
  case beat =>
    intro s hrun
    exact ⟨fun t h => devRow_answer hrun (heartbeat_due h), fun h => devRow_answer hrun (heartbeat_none h)⟩
  case health =>
    intro s hrun
    exact ⟨fun t h => devRow_answer hrun (healthUpdate_due h), fun h => devRow_answer hrun (healthUpdate_none h)⟩
  case replay =>
    intro s die link hrun hd hl d
    have here : (decide (die < 4) && decide (link < 3)) = true := by simp [hd, hl]
    exact ⟨placeRow_answer hrun here rfl, fun g e n => placeRow_answer hrun here rfl⟩

end Sys2Proof.Proofs
end

section
/-! SUPPORT. Epochs, units and the exchange engine (R133, R137, R139 to R142, R144, R146, R149, R150, R307): what each row makes of the
device when its event has come, and what it leaves when it has not. -/

namespace Sys2Proof.Proofs

open Sys2Proof Sys2Proof.Machine Sys2Proof.Laws

section
variable {d : Dev} {p i t : Nat}

/-! ### Ticks and epoch ends (R137, R149) -/

/-- A running schedule is not ARMED. -/
theorem not_armed_of_running (h : d.running p = true) : d.esState p ≠ 3 := by
  intro hst
  simp [Dev.running, hst] at h

/-- An ARMED schedule at the nominal tick of e_s. -/
theorem epochTick_armed (hst : d.esState p = 3) (hdue : d.nominalTick p (d.sched p).eS ≤ d.acyc) :
    epochTick p d = tickEpoch p (d.sched p).eS d := by
  simp only [epochTick, if_pos hst, if_pos hdue]

section
variable (hrun : d.running p = true) (hend : (d.sched p).endAt = some t)
include hrun hend

/-- A running schedule whose epoch has ended waits for the nominal tick of the next one, and for 4 a-cycles. -/
theorem epochTick_ended :
    epochTick p d =
      if d.nominalTick p ((d.epoch p + 1) % 2 ^ 48) ≤ d.acyc ∧ t + 4 ≤ d.acyc then tickEpoch p ((d.epoch p + 1) % 2 ^ 48) d else d := by
  simp only [epochTick, if_neg (not_armed_of_running hrun), if_pos hrun, hend]

theorem epochTick_next (hgap : t + 4 ≤ d.acyc) (hdue : d.nominalTick p ((d.epoch p + 1) % 2 ^ 48) ≤ d.acyc) :
    epochTick p d = tickEpoch p ((d.epoch p + 1) % 2 ^ 48) d :=
  (epochTick_ended hrun hend).trans (if_pos ⟨hdue, hgap⟩)

theorem epochTick_early (hgap : d.acyc < t + 4) : epochTick p d = d :=
  (epochTick_ended hrun hend).trans (if_neg fun h => absurd h.2 (Nat.not_le.2 hgap))

end

theorem epochEnd_over (hin : d.inEpoch p = true) (hover : d.epochOver p = true) :
    epochEnd p d =
      (let e := d.epoch p
       let d := d.modSched p (fun x => { x with endAt := some d.acyc })
       let d := unitFaultReport p (releaseSlots p (evPart p 0x40 0 1 d))
       let last : Bool := match (d.sched p).active with
         | some im => im.repeats ≠ 0 ∧ im.seq.length * im.repeats ≤ e + 1
         | none => true
       if last then setEs p 8 d
       else if d.esState p = 6 ∧ (d.sched p).stopAt.any (· ≤ e) then setEs p 7 d
       else throttleEnd p d) :=
  if_neg (by simp [hin, hover])

/-! ### Fetches (R133) and releases (R140 to R142) -/

theorem codeFetch_ended {g e : Nat} (he : e < 3) (hown : d.coreOwner g = some p) (hin : d.inEpoch p = true) (hst : d.coreSt g ≠ 5)
    (hnext : d.nextFetch p g e = some (i, t)) (hdue : t ≤ d.acyc) :
    codeFetch g e d =
      d.modCore g (fun c => { c with code := tabMod {} c.code e (fun b => { fetched := b.fetched ++ [(i, t)] }) }) := by
  have fetching : ¬ (¬ d.inEpoch p = true ∨ d.coreSt g = 5 ∨ 3 ≤ e) := by simp [hin, hst, he]
  simp only [codeFetch, hown, if_neg fetching, hnext, if_pos hdue]

section
variable {im : Image} {u : UnitRt} (him : (d.sched p).active = some im) (hu : d.unitRt p i = some u)

include him hu in
theorem unitRelease_due (hat : d.dueAt p i = some t) (hdue : t ≤ d.acyc) (hin : d.inEpoch p = true)
    (hcores : u.cores.all (fun g => d.mayRelease p g) = true) :
    unitRelease p i d =
      (let on := (d.sched p).tick + u.entry.release
       let late := lateCauses d p im u
       let d := d.modUnit p i (fun x => { x with
         issued := some d.acyc, status := if u.cores.any (fun g => (d.core g).saveUe) then 2 else 0 })
       let d := if on < d.acyc then
         d.modSched p (fun x => noteSlot late.2 { x with heldUnits := x.heldUnits + 1, causes := x.causes ||| late.1 }) else d
       holdEnds p (u.cores.foldl (fun d g => startStreams im p i u g (evCore g 0x10 0 (d.acyc - on) d)) d)) := by
  have free : ¬ (¬ d.inEpoch p = true ∨ d.acyc < t ∨ ¬ u.cores.all (fun g => d.mayRelease p g) = true) := by
    rw [not_or, not_or, not_not, not_not, Nat.not_lt]
    exact ⟨hin, hdue, hcores⟩
  simp only [unitRelease, him, hu, hat, if_neg free]

/-! ### The hold limit (R150) -/

section
variable (hin : d.inEpoch p = true) (hwait : u.issued = none ∧ u.holding = false ∧ d.depsAt p im u = none)
  (hlim : (d.sched p).tick + u.entry.release + (d.sched p).hold < d.acyc)
include hin hwait hlim

theorem holdLimit_guard (hst : d.esState p = 4 ∨ d.esState p = 5) :
    ¬ (¬ d.inEpoch p = true ∨ u.issued.isSome = true ∨ u.holding = true ∨ (d.depsAt p im u).isSome = true ∨
      d.acyc ≤ (d.sched p).tick + u.entry.release + (d.sched p).hold ∨ (d.esState p ≠ 4 ∧ d.esState p ≠ 5)) := by
  obtain ⟨hissued, hholding, hdeps⟩ := hwait
  simp only [hin, hissued, hholding, hdeps, Option.isSome_none, not_true_eq_false, Bool.false_eq_true, false_or]
  omega

include him hu

/-- A schedule that is HELD stays so. -/
theorem holdLimit_held (hst : d.esState p = 5) : holdLimit p i d = d.modUnit p i (fun u => { u with holding := true }) := by
  have still : (d.modUnit p i (fun u => { u with holding := true })).esState p ≠ 4 := fun h => absurd (hst.symm.trans h) (by decide)
  simp only [holdLimit, him, hu, if_neg (holdLimit_guard hin hwait hlim (.inr hst)), if_neg still]

/-- One that is RUNNING is HELD, with one report. -/
theorem holdLimit_running (hst : d.esState p = 4) :
    holdLimit p i d =
      (let d := d.modUnit p i (fun u => { u with holding := true })
       let x := lateCauses d p im u
       let d := d.modSched p (fun y => noteSlot x.2 { y with causes := y.causes ||| x.1 })
       epochReport p 2 (d.epoch p) (d.getF F.esLagLag p) (d.sched p).slot (d.sched p).peer (d.sched p).causes.toNat
         (setEs p 5 (d.raise F.esStatusHeld p))) := by
  simp only [holdLimit, him, hu, if_neg (holdLimit_guard hin hwait hlim (.inl hst))]
  exact if_pos hst

end

end

/-! ### The end of a unit (R139, R307) -/

section
variable {u : UnitRt} (hu : d.unitRt p i = some u)
include hu

theorem unitEnd_ended (hissued : u.issued.isSome = true) (hended : u.ended = none) (hstreams : d.streamsEnded u = true) :
    unitEnd p i d = unitEnded p i d := by
  simp [unitEnd, hu, hissued, hended, hstreams]

theorem unitCap_over (hissued : u.issued = some t) (hcap : t + 24001 ≤ d.acyc) (hended : u.ended = none) (habort : u.aborted = none) :
    unitCap p i d =
      (let d := u.cores.foldl (fun d g => d.raise F.seStatusAbort g) (d.raise F.esStatusOverrun p)
       abortUnit p i 3 (d.openEngine u.cores) 0 (health 4 1 d)) := by
  simp [unitCap, hu, hissued, hcap, hended, habort]

end

/-! ### Exchange sends (R144, R146) -/

/-- Entry x, number i of the epoch, has not been sent and may be, but for its credit and a window: no earlier entry of its class is left,
its offset and its dependency hold, and its partition may send. -/
structure SendDue (d : Dev) (p i : Nat) (im : Image) (x : SendRt) : Prop where
  active : (d.sched p).active = some im
  entry : (d.sched p).sends[i]? = some x
  inEpoch : d.inEpoch p = true
  done : x.done = false
  sent : x.sent = 0
  first : ((d.sched p).sends.take i).any (fun y => decide (y.entry.window = x.entry.window) && decide (y.sent = 0)) = false
  offset : (d.sched p).tick + x.entry.offset ≤ d.acyc
  dep : d.xchReady p im x.entry.dep = true
  member : d.fenced = false
  issue : d.mayIssue 8 p = true

/-- The credit of a send: its peer, its slot and the parity of its consuming epoch (R146). -/
def sendKey (d : Dev) (p : Nat) (x : SendRt) : Nat := creditKey x.entry.peer x.entry.slot ((d.epoch p + x.entry.edelta) % 2)

/-- The links of a send's route that carry data. -/
def sendLinks (d : Dev) (p : Nat) (x : SendRt) : List Nat :=
  d.dataLinks (((d.sched p).route[x.entry.peer]?).map (·.links) |>.getD 0)

namespace SendDue

variable {im : Image} {x : SendRt} (h : SendDue d p i im x)
include h

theorem guard :
    ¬ (¬ d.inEpoch p = true ∨ x.done = true ∨ x.sent ≠ 0 ∨
      ((d.sched p).sends.take i).any (fun y => decide (y.entry.window = x.entry.window) && decide (y.sent = 0)) = true ∨
      d.acyc < (d.sched p).tick + x.entry.offset ∨ ¬ d.xchReady p im x.entry.dep = true ∨ d.fenced = true ∨
      ¬ d.mayIssue 8 p = true) := by
  rw [h.inEpoch, h.done, h.first, h.dep, h.member, h.issue]
  simp [h.sent, h.offset]

/-- Without its credit it waits and notes the cause. -/
theorem exchangeSend_waits (hspent : tabGet false (d.sched p).spent (sendKey d p x) = true) :
    exchangeSend p i d = d.modSched p (fun y => { y with causes := y.causes ||| 16 }) := by
  simp only [exchangeSend, h.active, h.entry, if_neg h.guard]
  exact if_pos hspent

/-- With its credit, while a window of its class is open on a link of its route, it hands its data to the links. -/
theorem exchangeSend_sends (hheld : tabGet false (d.sched p).spent (sendKey d p x) = false)
    (hopen : (sendLinks d p x).any (d.windowOpen p x.entry.window) = true) (hinst : d.instances p x.entry.peer ≠ []) :
    exchangeSend p i d =
      (let read := xchBytes p im x.entry d
       let e := (d.instances p x.entry.peer).foldl (fun e t => xchFlits p i t.1 (read.2.ownCode p) (d.epoch p + x.entry.edelta) x.entry
         (sendLinks d p x) read.1 e) read.2
       (edgeProg 8 x.entry.len64 e).modSched p (fun y =>
         { y with spent := tabSet false y.spent (sendKey d p x) true
                  sends := modAt y.sends i (fun z =>
                    { z with sent := x.entry.len64, queued := ceilDiv x.entry.len64 4 * (d.instances p x.entry.peer).length }) })) := by
  have free : ¬ (d.instances p x.entry.peer = [] ∨ ¬ (sendLinks d p x).any (d.windowOpen p x.entry.window) = true) := by
    simp [hinst, hopen]
  simp only [exchangeSend, h.active, h.entry, if_neg h.guard]
  exact (if_neg (Bool.eq_false_iff.1 hheld)).trans (if_neg free)

end SendDue

end

/-- Settles O9: each row by the lemma of its case above. -/
theorem epochsUnitsAndExchangeRun : Obligations.EpochsUnitsAndExchangeRun := by
  unfold Obligations.EpochsUnitsAndExchangeRun
  -- the rows of a partition name one of the 32
  have answer {s : State} {p : Nat} {f : Dev → Dev} {d : Dev} (hrun : s.dev.pins.stopped = false) (hp : p < 32) (hf : f s.dev = d) :
      there (p < 32) s (upd s f) = .next { s with dev := d } := placeRow_answer hrun (decide_eq_true hp) hf
  refine ⟨⟨?armed, ?next, ?early, ?finished⟩, ⟨?fetch, ?release, ?limit, ?ended, ?cap⟩, ?sends, ?waits⟩
  case armed => exact fun s p hrun hp hst hdue => answer hrun hp (epochTick_armed hst hdue)
  case next => exact fun s p t hrun hp hact hend hgap hdue => answer hrun hp (epochTick_next hact hend hgap hdue)
  case early => exact fun s p t hrun hp hact hend hgap => answer hrun hp (epochTick_early hact hend hgap)
  case finished => exact fun s p hrun hp hin hover => answer hrun hp (epochEnd_over hin hover)
  case fetch =>
    intro s g e p i t hrun hg he hown hin hst hnext hdue
    have here : (decide (g < 80) && decide (e < 4)) = true := by
      rw [Bool.and_eq_true, decide_eq_true_eq, decide_eq_true_eq]
      omega
    exact (need_true here).trans (devRow_answer hrun (codeFetch_ended he hown hin hst hnext hdue))
  case release =>
    exact fun s p i t im u hrun hp him hu hat hdue hin hcores => answer hrun hp (unitRelease_due him hu hat hdue hin hcores)
  case limit =>
    intro s p i im u hrun hp him hu hin hissued hholding hdeps hlim
    have hwait := And.intro hissued (And.intro hholding hdeps)
    exact ⟨fun hst => answer hrun hp (holdLimit_held him hu hin hwait hlim hst),
      fun hst => answer hrun hp (holdLimit_running him hu hin hwait hlim hst)⟩
  case ended => exact fun s p i u hrun hp hu hissued hended hstreams => answer hrun hp (unitEnd_ended hu hissued hended hstreams)
  case cap => exact fun s p i t u hrun hp hu hissued hcap hended habort => answer hrun hp (unitCap_over hu hissued hcap hended habort)
  case sends =>
    intro s p i im x hrun hp him hx hin hdone hsent hfirst hoffset hdep hmember hissue key links insts hheld hopen hinst
    have due : SendDue s.dev p i im x := ⟨him, hx, hin, hdone, hsent, hfirst, hoffset, hdep, hmember, hissue⟩
    exact answer hrun hp (due.exchangeSend_sends hheld hopen hinst)
  case waits =>
    intro s p i im x hrun hp him hx hin hdone hsent hfirst hoffset hdep hmember hissue hspent
    have due : SendDue s.dev p i im x := ⟨him, hx, hin, hdone, hsent, hfirst, hoffset, hdep, hmember, hissue⟩
    exact answer hrun hp (due.exchangeSend_waits hspent)

end Sys2Proof.Proofs
end

section
/-! SUPPORT. The schedule commands (R131, R135, R153 to R155): what each of them answers in the cases of O8, and the state in which UNLOAD
answers otherwise. -/

namespace Sys2Proof.Proofs

open Sys2Proof Sys2Proof.Machine Sys2Proof.Laws

/-- A changed schedule is read back where the table of partitions is canonical, and everywhere if it does not become the empty one. -/
theorem sched_modSched {d : Dev} {p : Nat} {f : Sched → Sched} (h : tabWf {} d.parts = true ∨ f (d.sched p) ≠ {}) :
    (d.modSched p f).sched p = f (d.sched p) := by
  have back : (d.modSched p f).part p = { d.part p with sched := f (d.sched p) } := by
    obtain hwf | hne := h
    · exact tabGet_tabSet ({} : Part) d.parts p _ hwf
    · exact tabGet_tabSet_of_ne_default ({} : Part) d.parts p _ fun he => hne (congrArg Part.sched he)
  exact congrArg Part.sched back

/-- What LOAD holds until LOAD_COMPLETE: the command, the state before it, and a status or the image. -/
def loadHeld (c : Src) (prev : Nat) : Nat ⊕ Image → Src × Nat × Nat × Option Image
  | .inl st => (c, prev, st, none)
  | .inr im => (c, prev, 0, some im)

/-- The route table has an entry for each role of the active image; without one, from 1 to 512 entries. -/
def tableFits (active : Option Image) (n : Nat) : Prop :=
  match active with
  | some im => n = 16 * (im.rolesM1 + 1)
  | none => n % 16 = 0 ∧ 0 < n ∧ n ≤ 8192

section
variable {s : State} {c : Src} {p : Nat} (hrun : s.dev.pins.stopped = false)
include hrun

/-! ### Images (R131, R135) -/

theorem exec_load_open {a n : Nat} (hopen : s.dev.schedOpen (s.dev.cpart c) = true)
    (hstandby : (s.dev.sched (s.dev.cpart c)).standby = none) (hloading : (s.dev.sched (s.dev.cpart c)).loading = none) :
    exec (.load c a n) s = .next { s with
      dev :=
        let p := s.dev.cpart c
        let d := if n < 256 ∨ 0x10000000 < n ∨ (s.dev.vMissing p a n).isSome = true then s.dev else vNote p a n s.dev
        let d := d.modSched p (fun x => { x with loading := some (loadHeld c (s.dev.esState p) (loadImage s.dev p a n)) })
        if d.esState p = 0 then d.setF F.esStateState p 1 else d } := by
  have accepted : ¬ (¬ s.dev.schedOpen (s.dev.cpart c) = true ∨ ((s.dev.sched (s.dev.cpart c)).active.isSome = true ∧
      (s.dev.sched (s.dev.cpart c)).standby.isSome = true) ∨ (s.dev.sched (s.dev.cpart c)).loading.isSome = true) := by
    simp [hopen, hstandby, hloading]
  refine devRow_answer hrun ?_
  rw [loadCmd, if_neg accepted]
  cases hpages : s.dev.vMissing (s.dev.cpart c) a n with
  | none => simp only [hpages, Option.isSome_none, Bool.false_eq_true, or_false]; rfl
  | some page => simp only [hpages, Option.isSome_some, or_true, if_true, ite_self]; rfl

section
variable (hp : p < 32) {prev st : Nat} {im : Image}
include hp

/-- The first image of a schedule, in a canonical table of partitions. -/
theorem exec_loadComplete_active (hwf : tabWf {} s.dev.parts = true) (hloading : (s.dev.sched p).loading = some (c, prev, st, some im))
    (hactive : (s.dev.sched p).active = none) :
    exec (.loadComplete p) s = .next { s with
      dev := done c 0 (esView p (setEs p 2 ((s.dev.modSched p (fun x => { x with loading := none })).modSched p
        (fun x => { x with active := some im })))) } :=
  placeRow_answer hrun (decide_eq_true hp) (by simp [loadComplete, hloading, sched_modSched (.inl hwf), hactive])

/-- The second: that the schedule has one keeps it from becoming the empty one. -/
theorem exec_loadComplete_standby (hloading : (s.dev.sched p).loading = some (c, prev, st, some im))
    (hactive : (s.dev.sched p).active.isSome = true) :
    exec (.loadComplete p) s = .next { s with
      dev := done c 0 (esView p ((s.dev.modSched p (fun x => { x with loading := none })).modSched p
        (fun x => { x with standby := some im }))) } := by
  have some_active := Option.isSome_iff_ne_none.1 hactive
  have back : (s.dev.modSched p (fun x => { x with loading := none })).sched p = { s.dev.sched p with loading := none } :=
    sched_modSched (.inr fun he => some_active (congrArg Sched.active he))
  exact placeRow_answer hrun (decide_eq_true hp) (by simp [loadComplete, hloading, back, some_active])

theorem exec_loadComplete_failed (hloading : (s.dev.sched p).loading = some (c, prev, st, none)) :
    exec (.loadComplete p) s = .next { s with
      dev :=
        let d := s.dev.modSched p (fun x => { x with loading := none })
        done c st ((if s.dev.esState p = 1 then setEs p prev d else d).raise F.esStatusLoadFail p) } := by
  refine placeRow_answer hrun (decide_eq_true hp) ?_
  simp only [loadComplete, hloading]
  rfl

end

section
variable (hopen : s.dev.schedOpen (s.dev.cpart c) = true) (hidle : s.dev.running (s.dev.cpart c) = false)
include hopen hidle

theorem exec_unload_standby (hstandby : (s.dev.sched (s.dev.cpart c)).standby.isSome = true) :
    exec (.unload c 1) s = .next { s with
      dev := done c 0 (esView (s.dev.cpart c) (s.dev.modSched (s.dev.cpart c) (fun x => { x with standby := none }))) } := by
  have loaded : (s.dev.sched (s.dev.cpart c)).standby ≠ none := Option.isSome_iff_ne_none.1 hstandby
  exact devRow_answer hrun (by simp [unloadCmd, hopen, hidle, loaded])

/-- UNLOAD of the active image, by what is read of the schedule once it has gone. -/
theorem exec_unload_active (hactive : (s.dev.sched (s.dev.cpart c)).active.isSome = true) :
    exec (.unload c 0) s = .next { s with
      dev :=
        let p := s.dev.cpart c
        let d := s.dev.modSched p (fun x => { x with active := x.standby, standby := none })
        done c 0 (esView p (setEs p (if (d.sched p).active.isSome then 2 else 0) d)) } := by
  have loaded : (s.dev.sched (s.dev.cpart c)).active ≠ none := Option.isSome_iff_ne_none.1 hactive
  exact devRow_answer hrun (by simp [unloadCmd, hopen, hidle, loaded])

/-- In a canonical table of partitions that is its standby. -/
theorem exec_unload_active_canonical (hwf : tabWf {} s.dev.parts = true)
    (hactive : (s.dev.sched (s.dev.cpart c)).active.isSome = true) :
    exec (.unload c 0) s = .next { s with
      dev :=
        let p := s.dev.cpart c
        done c 0 (esView p (setEs p (if (s.dev.sched p).standby.isSome then 2 else 0)
          (s.dev.modSched p (fun x => { x with active := x.standby, standby := none })))) } := by
  simpa only [sched_modSched (.inl hwf)] using exec_unload_active hrun hopen hidle hactive

end

/-! ### Binding and arming (R153, R154) -/

theorem exec_jobBind {job jgen : Nat} {r : List Byte} (hp : p < 32) (hopen : s.dev.schedOpen p = true)
    (hfits : tableFits (s.dev.sched p).active r.length) (hroutes : (routeTable r).all routeOk = true) :
    exec (.jobBind c p job jgen r) s = .next { s with
      dev := done c 0 (if s.dev.esState p = 4 ∨ s.dev.esState p = 5 then
          s.dev.modSched p (fun x => { x with routeNext := some ((routeTable r).map routeOf) })
        else (s.dev.modSched p (fun x => { x with
          jobId := job, jgen := jgen, route := (routeTable r).map routeOf
          oldCodes := staleCodes x.oldCodes x.route ((routeTable r).map routeOf), routeNext := none, bound := true })).setF
            F.esStateJgen p (jgen % 65536)) } := by
  have good : ¬ ((match (s.dev.sched p).active with
      | some im => decide (r.length ≠ 16 * (im.rolesM1 + 1))
      | none => decide (r.length % 16 ≠ 0 ∨ r.length = 0 ∨ 512 * 16 < r.length)) = true ∨ ¬ (routeTable r).all routeOk = true) := by
    simp only [hroutes, not_true_eq_false, or_false, Bool.not_eq_true]
    cases hactive : (s.dev.sched p).active with
    | none =>
      obtain ⟨hmod, hpos, hmax⟩ : r.length % 16 = 0 ∧ 0 < r.length ∧ r.length ≤ 8192 := by rwa [hactive] at hfits
      exact decide_eq_false (by omega)
    | some im =>
      rw [hactive] at hfits
      exact decide_eq_false (not_not.2 hfits)
  exact devRow_answer hrun ((if_neg (Nat.not_lt.2 (by omega))).trans ((if_neg (not_not.2 hopen)).trans ((if_neg good).trans
    (apply_ite (done c 0) _ _ _).symm)))

theorem exec_arm_good {t0 : BitVec 64} {eS hold : Nat} (h : armStatus s.dev (s.dev.cpart c) t0 eS hold = 0) :
    exec (.arm c t0 eS hold) s = .next { s with
      dev :=
        let p := s.dev.cpart c
        done c 0 (setEs p 3 (((s.dev.modSched p (fun x => { x with
          t0 := t0, eS := eS, hold := (if hold = 0 then 100 else hold) * 300000, stopAt := none, tick := 0, endAt := none,
          units := [], sends := [], presence := [], spent := [], acc := 0, merged := [], fail := none, heldUnits := 0,
          lateUnits := 0, slot := 0, peer := 0, causes := 0, wrote := [] })).setF F.esSlipsSlips p 0).setF F.esLagLag p 0)) } :=
  devRow_answer hrun (if_neg (not_not.2 h))

theorem exec_arm_bad {t0 : BitVec 64} {eS hold : Nat} (h : armStatus s.dev (s.dev.cpart c) t0 eS hold ≠ 0) :
    exec (.arm c t0 eS hold) s = .next { s with
      dev := done c (armStatus s.dev (s.dev.cpart c) t0 eS hold) (s.dev.raise F.esStatusLoadFail (s.dev.cpart c)) } :=
  devRow_answer hrun (if_pos h)

/-! ### STOP, SWAP and ABORT (R135, R155) -/

theorem exec_stop_running {eX : Nat} (h : s.dev.running (s.dev.cpart c) = true) :
    exec (.stop c eX) s = .next { s with
      dev :=
        let p := s.dev.cpart c
        let d := s.dev.modSched p (fun x => { x with stopAt := some (max eX (s.dev.currentEpoch p)) })
        (if s.dev.esState p = 6 then d else setEs p 6 d).modSched p (fun x => { x with stopBy := x.stopBy ++ [c] }) } :=
  devRow_answer hrun (if_pos h)

theorem exec_swap_matching {eW : Nat} {a b : Image} (hactive : (s.dev.sched (s.dev.cpart c)).active = some a)
    (hstandby : (s.dev.sched (s.dev.cpart c)).standby = some b) (hact : s.dev.running (s.dev.cpart c) = true)
    (hswap : (s.dev.sched (s.dev.cpart c)).swap = none)
    (hsame : a.jobDigest = b.jobDigest ∧ a.epochLen = b.epochLen ∧ a.slack = b.slack ∧ a.role = b.role ∧ a.slots = b.slots) :
    exec (.swap c eW) s = .next { s with dev := s.dev.modSched (s.dev.cpart c) (fun x => { x with swap := some (eW, c) }) } := by
  refine devRow_answer hrun ?_
  simp [swapCmd, hactive, hstandby, hact, hswap, hsame]

theorem exec_abort_armed (h : s.dev.esState (s.dev.cpart c) = 3) :
    exec (.abort c) s = .next { s with
      dev :=
        let p := s.dev.cpart c
        done c 0 (setEs p 2 (s.dev.modSched p (fun x => { x with presence := [], spent := [] }))) } :=
  devRow_answer hrun (by simp [abortCmd, abortSched, h])

theorem exec_abort_running (h : s.dev.running (s.dev.cpart c) = true) :
    exec (.abort c) s = .next { s with
      dev :=
        let p := s.dev.cpart c
        done c 0 (setEs p 9 ((cutSends p (cutRun p s.dev)).modSched p
          (fun x => { x with units := [], sends := [], presence := [], spent := [], stopAt := none }))) } := by
  have act : s.dev.esState (s.dev.cpart c) = 4 ∨ s.dev.esState (s.dev.cpart c) = 5 ∨ s.dev.esState (s.dev.cpart c) = 6 := by
    simpa [Dev.running, or_assoc] using h
  have armed := not_armed_of_running h
  exact devRow_answer hrun (by simp [abortCmd, abortSched, act, armed])

end

theorem stopEnded_stopped {d : Dev} {p st : Nat} (h : st = 7 ∨ st = 8) :
    stopEnded p st d = (d.sched p).stopBy.foldl (fun d c => done c 0 d) (d.modSched p (fun x => { x with stopBy := [] })) := by
  have rest : linkState st = false := by obtain rfl | rfl := h <;> decide
  simp [stopEnded, rest, h]

/-! ### The statement -/

/-- An image of no units. -/
def emptyImage : Image :=
  { digest := [], epochLen := 5000, slack := 10, linkClass := 0, role := 0, rolesM1 := 0, coresM1 := 0, repeats := 0, nondet := false
    radio := true, lglDigest := [], jobDigest := [], groups := [], code := [], templates := [], dispatch := [], exchange := []
    slots := [], seq := [], restart := [], binding := [], devSlots := 0 }

/-- The schedule of p0 is LOADED, and the table of partitions lists p0 n times, each time with that image active and nothing else. -/
def loadedTimes (n : Nat) : State :=
  let d := State.reset.dev.setF F.esStateState 0 2
  { State.reset with dev := { d with parts := List.replicate n (0, { sched := { active := some emptyImage } }) } }

/-- An UNLOAD of ring 0, which belongs to p0. -/
def unloadOfP0 : Src := { ring := 0, op := 0x0502, ctag := 0, notify := false, ssig := none, counter := 0 }

/-- Listed once, p0 has no image left: its schedule is EMPTY. -/
theorem loadedOnce_unloads : ∃ t, exec (.unload unloadOfP0 0) (loadedTimes 1) = .next t ∧ t.dev.esState 0 = 0 :=
  ⟨_, exec_unload_active_canonical rfl (by decide) (by decide) (by decide) (by decide), by decide +kernel⟩

/-- Listed twice, it stays LOADED: the entry that has become the empty one is listed no longer, and the other shows. -/
theorem loadedTwice_stays : ∃ t, exec (.unload unloadOfP0 0) (loadedTimes 2) = .next t ∧ t.dev.esState 0 = 2 :=
  ⟨_, exec_unload_active rfl (by decide) (by decide) (by decide), by decide +kernel⟩

/-- Refutes O8: UNLOAD of the only image need not leave the schedule EMPTY where the table of partitions lists its partition twice. In a
canonical table every clause holds: UNLOAD of the active image by `exec_unload_active_canonical`, LOAD_COMPLETE of a first image by
`exec_loadComplete_active`, and in any table the other clauses, by the theorems above that are named after their commands. -/
theorem not_imagesAndSchedulesAct : ¬ Obligations.ImagesAndSchedulesAct := by
  unfold Obligations.ImagesAndSchedulesAct
  intro h
  obtain ⟨⟨-, -, -, -, -, unload⟩, -⟩ := h
  have stated := unload (loadedTimes 2) unloadOfP0 rfl (by decide) (by decide) (by decide)
  obtain ⟨t, ht, stays⟩ := loadedTwice_stays
  rw [ht] at stated
  rw [Host.Outcome.next.inj stated] at stays
  exact absurd stays (by decide +kernel)

end Sys2Proof.Proofs
end

section
/-! SUPPORT. Fronthaul: sections that leave (R161, R166 to R168) and arrive (R170 to R172, R176), presence and detection windows (R171,
R177), received frames (R159, R160): what each row makes of the device where it acts, and where it does not. -/

namespace Sys2Proof.Proofs

open Sys2Proof Sys2Proof.Machine Sys2Proof.Laws

/-! ### Downlink (R161, R166 to R168) -/

/-- The extension data that a record names, and the device once FH has read them. -/
def readExtension (b r : Bytes) (d : Dev) : Bytes × Dev :=
  if at_ r 0x10 4 = 0 then ([], d) else fhRead (dPort b) (at_ b 0x48 8 + at_ r 0x10 4) (at_ r 0x14 2) d

section
variable {d e : Dev} {k n i v : Nat} {b h r : Bytes} (hb : (d.carrier k).desc = b) (hne : b ≠ [])
  (hread : readSection k b n i d = (some (h, r), e)) (hok : recordOk b r = true) (hdown : sectionDown b r n = true)
include hb hne hread hok hdown

/-- A C-plane message that has not been sent goes in its window, with its symbol marked ready. -/
theorem cplaneSend_sends (hsent : d.sentOf k n i = 0)
    (hslot : ntLe (d.air (dMu b) n 0 - BitVec.ofNat 64 (dT1aMax b + dTcpAdv b)) d.nt = true) (hready : bit h 8 (rSym r) = true)
    (hfrom : ntLe (e.air (dMu b) n (rSym r) - BitVec.ofNat 64 (dT1aMax b + dTcpAdv b)) e.nt = true)
    (hto : ntLe e.nt (e.air (dMu b) n (rSym r) - BitVec.ofNat 64 (dT1aMin b + dTcpAdv b)) = true)
    (hext : extOk b (readExtension b r e).1 = true) :
    cplaneSend k n i d =
      sendFrames k n (dPort b) 1 (2 * i) (e.air (dMu b) n (rSym r) - BitVec.ofNat 64 (dT1aMin b + dTcpAdv b))
        (if fld r 0 16 14 = 3 then some (fld r 0 13 8, rSym r, rSym r + rNsym r - 1) else none)
        (Config.cplaneFrames b n r (readExtension b r e).1) (setSent k n i 1 (readExtension b r e).2) := by
  unfold readExtension at hext ⊢
  simp [cplaneSend, hb, hne, hread, hok, hdown, hsent, hslot, hready, hfrom, hto, hext]

/-- The U-plane message of symbol v of a section that is ready goes in its window. -/
theorem uplaneSend_sends (hsent : d.sentOf k n i = v + 1) (hopen : v ≠ 62) (hdata : hasUplane r = true) (hv : v < rNsym r)
    (hready : (List.range (rNsym r)).all (fun x => bit h 8 (rSym r + x)) = true)
    (hfrom : ntLe (e.air (dMu b) n (rSym r + v) - BitVec.ofNat 64 (dT1aMax b)) e.nt = true)
    (hto : ntLe e.nt (e.air (dMu b) n (rSym r + v) - BitVec.ofNat 64 (dT1aMin b)) = true) :
    uplaneSend k n i d =
      (let nb := recBlocks b r
       let a := at_ b 0x48 8 + at_ r 0x0C 4 + v * (elemLine nb + expLine nb)
       let el := fhRead (dPort b) a (48 * nb) e
       let ex := fhRead (dPort b) (a + elemLine nb) (ceilDiv nb 2) el.2
       let g := if dTd b then fhRead (dPort b) (at_ b 0x48 8 + at_ r 0x10 4) 2 ex.2 else ([], ex.2)
       let blocks := txBlocks b n (rSym r + v) (leNat g.1) ((List.range nb).map (cqBlock el.1 ex.1))
       sendFrames k n (dPort b) 0 (2 * i + 1) (e.air (dMu b) n (rSym r + v) - BitVec.ofNat 64 (dT1aMin b)) none
         (Config.uplaneFrames b n (rSym r + v) r (blocks.map (fun x => (x.1, x.2.1))))
         (setSent k n i (v + 2) { g.2 with fhSat := g.2.fhSat + sumL (blocks.map (·.2.2)) })) := by
  simp [uplaneSend, hb, hne, hread, hok, hdown, hsent, hopen, hdata, hv, hready, hfrom, hto]

/-- The C-plane message has missed its window. -/
theorem dlWindowClose_cplane (hsent : d.sentOf k n i = 0)
    (hlate : ntLe e.nt (e.air (dMu b) n (rSym r) - BitVec.ofNat 64 (dT1aMin b + dTcpAdv b)) = false) :
    dlWindowClose k n i d = dlLate k n i (dPort b) e := by
  simp [dlWindowClose, hb, hne, hread, hok, hdown, hsent, hlate]

/-- The U-plane message of symbol v has missed its window. -/
theorem dlWindowClose_uplane (hsent : d.sentOf k n i = v + 1) (hopen : v ≠ 62) (hdata : hasUplane r = true) (hv : v < rNsym r)
    (hlate : ntLe e.nt (e.air (dMu b) n (rSym r + v) - BitVec.ofNat 64 (dT1aMin b)) = false) :
    dlWindowClose k n i d = dlLate k n i (dPort b) e := by
  simp [dlWindowClose, hb, hne, hread, hok, hdown, hsent, hopen, hdata, hv, hlate]

end

/-! ### Uplink (R170 to R172, R176, R177) -/

/-- An open line of the carrier acts once network time has reached A + TA4_MAX of its symbol. -/
theorem line_due {b : Bytes} {x : Line} {l r : Nat} {t now : BitVec 64} (hne : b ≠ []) (hl : l ≤ 13) (hr : r < dUl b)
    (hopen : x.closed = false) (hdue : ntLe t now = true) :
    ¬ (b = [] ∨ 13 < l ∨ dUl b ≤ r ∨ x.closed = true ∨ ¬ ntLe t now = true) := by
  simp [hne, hl, hr, hopen, hdue]

section
variable {d : Dev} {k n : Nat} {b : Bytes} (hb : (d.carrier k).desc = b)
include hb

/-- A section of uplink symbols that lies in its carrier, in its window. -/
theorem uplaneReceive_stores {u : UlSection} {r : Nat} (hup : d.flag F.fhPortStatusUp u.port = true)
    (hcarrier : d.carrierOf u.port u.eaxc = some (k, r)) (hn : n = (d.nearFrame u.frameId * 10 + u.subframe) * 2 ^ dMu b + u.slotId)
    (hplace : u.subframe ≤ 9 ∧ u.slotId < 2 ^ dMu b ∧ u.symbol ≤ 13 ∧
      u.prb0 + u.blocks.length ≤ (if dTd b then ceilDiv (fftSize b + prefixLen b n u.symbol) 12 else dNprb b) ∧
      ntLe (d.air (dMu b) n u.symbol - 8000000) d.nt = true)
    (hfrom : ntLe (d.air (dMu b) n u.symbol + BitVec.ofNat 64 (dTa4Min b)) d.nt = true)
    (hto : ntLe d.nt (d.air (dMu b) n u.symbol + BitVec.ofNat 64 (dTa4Max b)) = true)
    (hcode : ¬ (symCode b n u.symbol = 0 ∨ symCode b n u.symbol = 2)) :
    uplaneReceive u d =
      (u.blocks.zipIdx.map (fun x => (u.prb0 + x.2, x.1))).foldl (ulBlock k n u.symbol r b (d.tokenValid k)) d := by
  have known : ¬ (9 < u.subframe ∨ 2 ^ dMu b ≤ u.slotId ∨ 13 < u.symbol ∨
      (if dTd b then ceilDiv (fftSize b + prefixLen b n u.symbol) 12 else dNprb b) < u.prb0 + u.blocks.length ∨
      ¬ ntLe (d.air (dMu b) n u.symbol - 8000000) d.nt = true) := by
    simpa using hplace
  subst hn
  simp only [uplaneReceive, hup, hcarrier, hb, if_neg known, hfrom, hto, if_neg hcode]
  rfl

/-- Its presence waits for its time, and there is none without a schedule. -/
theorem ulPresence_waits
    (h : ntLe (d.air (dMu b) n 13 + BitVec.ofNat 64 (dTa4Max b + 16000)) d.nt = false ∨ (d.sched 0).active = none) :
    ulPresence k n d = d := by
  obtain early | idle := h
  · simp [ulPresence, hb, early]
  · simp [ulPresence, devPresence, idle]

end

theorem devPresence_sets {d : Dev} {slot e : Nat} {t : BitVec 64} {im : Image} (hactive : (d.sched 0).active = some im)
    (hst : 3 ≤ d.esState 0 ∧ d.esState 0 ≤ 6) (hlen : im.epochLen ≠ 0) (hslot : im.slots.any (fun x => x.1 = slot) = true)
    (he : (d.sched 0).eS ≤ e)
    (hepoch : ((d.sched 0).eS : Int) + (t - (d.sched 0).t0).toInt.fdiv (im.epochLen * 800 : Nat) + 1 = e) :
    devPresence slot t d = d.modSched 0 (fun x =>
      { x with presence := tabSet {} x.presence (slot * 2 + e % 2) { epoch := e, full := 1, setAt := some d.acyc } }) := by
  have listed : ¬ (d.esState 0 < 3 ∨ 6 < d.esState 0 ∨ im.epochLen = 0 ∨ (! im.slots.any (fun x => x.1 = slot)) = true) := by
    simp [hst, hlen, hslot]
  have begun : ¬ (e : Int) < ((d.sched 0).eS : Int) := by omega
  simp only [devPresence, hactive, if_neg listed, hepoch, if_neg begun, Int.toNat_natCast]

/-- Stream r has one detection window in slot n, from symbol f to symbol e: the uplink symbols of a receive stream, or the symbols of the one
section of type 3 of a PRACH stream. -/
def OneWindow (c : Carrier) (n r f e : Nat) : Prop :=
  (r < dRx c.desc ∧ ∃ l, ulSyms c.desc n = f :: l ∧ l.getLastD f = e) ∨
    (dRx c.desc ≤ r ∧ r < dUl c.desc ∧ c.prachSyms n r = [(f, e)])

theorem windowStart_latches {d : Dev} {k n r f e : Nat} (hne : (d.carrier k).desc ≠ []) (hwin : OneWindow (d.carrier k) n r f e)
    (hbegun : ntLe (d.air (dMu (d.carrier k).desc) n f) d.nt = true) (hnew : tabFind (d.carrier k).win (lineKey n f r) = none) :
    windowStart k n r d = d.modCarrier k (fun x => { x with
      win := tabPut (x.win.filter (fun y => n ≤ y.2.slot + 32)) (lineKey n f r)
        { gain := (d.carrier k).gain r, slot := n, first := f, last := e } }) := by
  obtain ⟨hrx, l, hsyms, rfl⟩ | ⟨hrx, hul, hprach⟩ := hwin
  · have hul : r < dUl (d.carrier k).desc := Nat.lt_add_right _ hrx
    simp [windowStart, hne, hrx, hul, hsyms, hbegun, hnew]
  · simp [windowStart, hne, hrx.not_gt, hul.not_ge, hprach, hbegun, hnew]

/-! ### Received frames (R159, R160, R165) -/

section
variable {d : Dev} {port : Nat} (hup : d.flag F.fhPortStatusUp port = true)
include hup

theorem ethernetFrame_bad_fcs {f : FhFrame} (hfcs : f.fcsOk = false) :
    ethernetFrame port f d = evEdge 0xC5 port 1 (evEdge 0xC4 port 1 (d.raise F.fhPortStatusFrameErr port)) := by
  simp [ethernetFrame, hup, hfcs]

section
variable {f : FhFrame} (hwell : f.fcsOk = true ∧ f.len ≤ d.mtu port ∧ f.tags ≤ 1)
include hwell

/-- A well-formed frame of a kind that the port takes. -/
theorem ethernetFrame_taken
    (hkind : f.pause = true ∨ f.etherType = 0x88F7 ∨ f.etherType = 0x8809 ∨
      (f.etherType = 0xAEFE ∧ f.hdrOk = true ∧ (f.ecpri = 0 ∨ f.ecpri = 5))) :
    ethernetFrame port f d = evEdge 0xC4 port 1 d := by
  obtain ⟨hfcs, hlen, htags⟩ := hwell
  obtain hpause | hptp | hslow | ⟨hecpri, hhdr, htype | htype⟩ := hkind <;> simp [ethernetFrame, *]

theorem ethernetFrame_unknown (hpause : f.pause = false) (hptp : f.etherType ≠ 0x88F7) (hslow : f.etherType ≠ 0x8809)
    (hecpri : f.etherType ≠ 0xAEFE) :
    ethernetFrame port f d = evEdge 0xC4 port 1 (d.raise F.fhPortStatusUnknown port) := by
  obtain ⟨hfcs, hlen, htags⟩ := hwell
  simp [ethernetFrame, *]

end

theorem rmaResponse_counts : rmaResponse port d = evEdge 0xC4 port 1 d := if_pos hup

end

theorem frameBoundary_due {d : Dev} {t : BitVec 64} (h : d.beat 3 80000000 d.gridOfs = some t) :
    frameBoundary d = (tabKeys d.carriers).foldl (frameCarrier ((t.toNat - d.gridOfs) / 80000000)) (beatDone 3 t d) := by
  simp only [frameBoundary, h]

/-- Settles O11: each row by its section, line, slot or frame. -/
theorem radioTrafficMoves : Obligations.RadioTrafficMoves := by
  unfold Obligations.RadioTrafficMoves
  refine ⟨⟨?cplane, ?uplane, ?lateCplane, ?lateUplane⟩, ⟨?arrival, ?line, ?presence, ?absence, ?window, ?prach⟩,
    ?badFcs, ?taken, ?unknown, ?delay, ?response, ?boundary⟩
  case cplane =>
    intro s k n i b h r d hrun hk hb hne hsent hslot hread hok hdown hready hfrom hto x hext
    exact placeRow_answer hrun (decide_eq_true hk) (cplaneSend_sends hb hne hread hok hdown hsent hslot hready hfrom hto hext)
  case uplane =>
    intro s k n i v b h r d hrun hk hb hne hsent hopen hread hok hdown hdata hv hready hfrom hto
    exact placeRow_answer hrun (decide_eq_true hk) (uplaneSend_sends hb hne hread hok hdown hsent hopen hdata hv hready hfrom hto)
  case lateCplane =>
    intro s k n i b h r d hrun hk hb hne hsent hread hlate hok hdown
    exact placeRow_answer hrun (decide_eq_true hk) (dlWindowClose_cplane hb hne hread hok hdown hsent hlate)
  case lateUplane =>
    intro s k n i v b h r d hrun hk hb hne hsent hopen hread hdata hv hlate hok hdown
    exact placeRow_answer hrun (decide_eq_true hk) (dlWindowClose_uplane hb hne hread hok hdown hsent hopen hdata hv hlate)
  case arrival =>
    intro s u k r n b hrun hport hup hcarrier hb hn hsub hslot hsym hprb hfrom hbegun hto hnotD hnotG
    exact placeRow_answer hrun (decide_eq_true hport)
      (uplaneReceive_stores hb hup hcarrier hn ⟨hsub, hslot, hsym, hprb, hbegun⟩ hfrom hto (not_or.2 ⟨hnotD, hnotG⟩))
  case line =>
    intro s k n l r b hrun hk hb hne hl hr hopen hdue
    subst hb
    exact placeRow_answer hrun (decide_eq_true hk) (if_neg (line_due hne hl hr hopen hdue))
  case presence =>
    intro s k n e b im hrun hk hb hne hactive harmed hlast hlen slot t hslot he hepoch hdue
    have due : ulPresence k n s.dev = devPresence slot t s.dev := by
      simp [ulPresence, hb, hne, hactive, hdue, slot, t]
    exact placeRow_answer hrun (decide_eq_true hk) (due.trans (devPresence_sets hactive ⟨harmed, hlast⟩ hlen hslot he hepoch))
  case absence =>
    intro s k n b hrun hk hb h
    exact placeRow_answer hrun (decide_eq_true hk) (ulPresence_waits hb h)
  case window =>
    intro s k n r f l b hrun hk hb hne hrx hsyms hbegun hnew
    subst hb
    exact placeRow_answer hrun (decide_eq_true hk) (windowStart_latches hne (.inl ⟨hrx, l, hsyms, rfl⟩) hbegun hnew)
  case prach =>
    intro s k n r f e b hrun hk hb hne hrx hul hprach hbegun hnew
    subst hb
    exact placeRow_answer hrun (decide_eq_true hk) (windowStart_latches hne (.inr ⟨hrx, hul, hprach⟩) hbegun hnew)
  case badFcs =>
    intro s port f hrun hport hup hfcs
    exact placeRow_answer hrun (decide_eq_true hport) (ethernetFrame_bad_fcs hup hfcs)
  case taken =>
    intro s port f hrun hport hup hfcs hlen htags hkind
    exact placeRow_answer hrun (decide_eq_true hport) (ethernetFrame_taken hup ⟨hfcs, hlen, htags⟩ hkind)
  case unknown =>
    intro s port f hrun hport hup hfcs hlen htags hpause hptp hslow hecpri
    exact placeRow_answer hrun (decide_eq_true hport) (ethernetFrame_unknown hup ⟨hfcs, hlen, htags⟩ hpause hptp hslow hecpri)
  case delay =>
    intro s port t2 hrun hport hup
    exact placeRow_answer hrun (decide_eq_true hport) (if_neg (not_not.2 hup))
  case response =>
    intro s port hrun hport hup
    exact placeRow_answer hrun (decide_eq_true hport) (rmaResponse_counts hup)
  case boundary =>
    intro s t hrun hbeat
    exact devRow_answer hrun (frameBoundary_due hbeat)

end Sys2Proof.Proofs
end

section
/-! SUPPORT. Coding queues and jobs (R195 to R198, R201, R205): what each row makes of the device in the cases of O13. -/

namespace Sys2Proof.Proofs

open Sys2Proof Sys2Proof.Machine Sys2Proof.Laws

section
variable {d : Dev} {die q j : Nat} {x : Job}

/-! ### Queues (R195) -/

section
variable {c : Src} {log2depth qbase : Nat} (hdie : die < 4) (hq : q < 16)
include hdie hq

theorem codingQueueCfg_enables (hdepth : 4 ≤ log2depth ∧ log2depth ≤ 12) (hbase : qbase % 64 = 0)
    (hoff : (d.cq die q).enabled = false) :
    codingQueueCfg c die q 1 log2depth qbase d =
      done c 0 (d.modCq die q (fun _ => { enabled := true, log2depth := log2depth, qbase := qbase })) := by
  have wellFormed : ¬ (log2depth < 4 ∨ 12 < log2depth ∨ qbase % 64 ≠ 0) := by omega
  simp [codingQueueCfg, hdie.not_ge, hq.not_ge, wellFormed, hoff, CodingQueue.configured]

/-- An enabled queue is run empty, whether the command disables it or enables it again. -/
theorem codingQueueCfg_drains {enable : Nat}
    (hcfg : enable = 0 ∨ (enable = 1 ∧ 4 ≤ log2depth ∧ log2depth ≤ 12 ∧ qbase % 64 = 0)) (hon : (d.cq die q).enabled = true) :
    codingQueueCfg c die q enable log2depth qbase d =
      drainQueue c die q (if enable = 1 then some (log2depth, qbase) else none) d := by
  obtain rfl | ⟨rfl, hdepth⟩ := hcfg
  · simp [codingQueueCfg, hdie.not_ge, hq.not_ge, hon]
  · have wellFormed : ¬ (log2depth < 4 ∨ 12 < log2depth ∨ qbase % 64 ≠ 0) := by omega
    simp [codingQueueCfg, hdie.not_ge, hq.not_ge, wellFormed, hon]

end

theorem queuePoll_reads {b : Bytes} {e : Dev} (hon : (d.cq die q).enabled = true) (hopen : (d.cq die q).waiting = [])
    (hread : cdRead die (d.cq die q).qbase 64 d = (b, e)) :
    queuePoll die q d =
      (let x := d.cq die q
       let ahead := (at_ b 0 4 + 2 ^ 32 - x.cons) % 2 ^ 32
       ((List.range (min ahead x.depth - (x.seen + 2 ^ 32 - x.cons) % 2 ^ 32)).map (fun i => (x.seen + i) % 2 ^ 32)).foldl
        (readJob die q)
        (if x.depth < ahead then ((e.raise F.cdStatusOverflow die).setF F.cdErrinfoQueue die q).setF F.cdErrinfoCause die 7 else e)) := by
  have taken : ¬ (¬ (d.cq die q).enabled = true ∨ (d.cq die q).waiting ≠ []) := by simp [hon, hopen]
  simp only [queuePoll, if_neg taken, hread]

/-! ### Starting jobs (R197) -/

/-- The next job starts by the row of its kind. -/
theorem startJob_starts {kind : Nat} {f : Job → Dev → Job × Dev} {y : Job} {e : Dev} (hnext : d.nextJob die = some (q, x))
    (hj : x.j = j) (hkind : jKind x.bytes = kind) (hread : f x d = (y, e)) :
    startJob die q j kind f d = startAs die q y (e.raiseIf (y.erased || decide (y.status = 0x44)) F.cdStatusDataLost die) := by
  simp [startJob, hnext, hj, hkind, hread]

/-! ### Blocks and jobs that are done (R198, R201, R205) -/

/-- A block whose time is over leaves its engine. -/
theorem blockDone_ends {kind i : Nat} {x : CbRt} {y : Job} (hbusy : tabFind (d.cod die).busy (kind * 16 + i) = some x)
    (hover : x.until_ ≤ d.acyc)
    (hjob : ((d.modCod die (fun c => { c with busy := tabDel c.busy (kind * 16 + i) })).cq die x.q).jobs.find? (fun z => z.j = x.j) =
      some y) :
    blockDone die kind i d =
      (let d := d.modCod die (fun c => { c with busy := tabDel c.busy (kind * 16 + i) })
       let d := (y.soft.filter (fun (e : Nat × Bytes) => e.1 / softSize (jBg y.bytes) = x.r ∧ e.1 < 2 ^ 32)).foldl
         (fun d (e : Nat × Bytes) => cdWrite die (jSoft y.bytes + e.1) e.2 d) d
       let d := d.modCq die x.q (fun z => { z with jobs := z.jobs.map (fun w =>
         if w.j = x.j then { w with ended := w.ended ++ [x.r], lastAt := max w.lastAt x.until_ } else w) })
       let d := if kind = 4 then evDie die 0x81 0 (y.iters[x.r]?.getD 0) (evDie die 0x80 0 1 d) else d
       placeBlocks die x.until_ x.from_ d) := by
  simp only [blockDone, hbusy, if_neg hover.not_gt, hjob, Option.bind_some]

section
variable (hjob : (d.cq die q).jobs.find? (fun y => y.j = j) = some x) (hleft : x.done = false)
include hjob hleft

/-- Its output, then its trailer, then its completion record. -/
theorem jobComplete_finishes (hstarted : x.started = true) (hkind : jKind x.bytes ≠ 7) (hblocks : x.cbs ≤ x.ended.length)
    (htail : x.lastAt + jobTail x.bytes ≤ d.acyc) :
    jobComplete die q j d =
      (let d := match x.out with
        | some o => cdWrite die (jDst x.bytes) o d
        | none => d
       finishJob die q x x.outcome
        (if jDec x.bytes then cdWrite die (jDst x.bytes + jTbLen x.bytes) (trailer x x.outcome) d else d)) := by
  have ripe : ¬ (x.done = true ∨ ¬ x.started = true ∨ jKind x.bytes = 7 ∨ x.ended.length < x.cbs ∨
      d.acyc < x.lastAt + jobTail x.bytes) := by
    simp [hleft, hstarted, hkind, hblocks, htail]
  unfold jobComplete
  rw [hjob]
  exact if_neg ripe

section
variable (hsignal : jKind x.bytes = 7)
include hsignal

theorem signalJob_completes (hfirst : (d.cq die q).before j = []) (hat : x.lastAt ≤ d.acyc) :
    signalJob die q j d = finishJob die q x 0 (signalPresence x.bytes d) := by
  have ripe : ¬ (x.done = true ∨ jKind x.bytes ≠ 7 ∨ (d.cq die q).before j ≠ [] ∨ d.acyc < x.lastAt) := by
    simp [hleft, hsignal, hfirst, hat]
  simp only [signalJob, hjob, if_neg ripe]

/-- At its deadline the jobs before it that can still complete do; the others are stopped. -/
theorem signalDeadline_stops (hdue : ntLe (BitVec.ofNat 64 (at_ x.bytes 0x18 8)) d.nt = true) :
    signalDeadline die q j d =
      (let d := dueBlocks die d
       let d := ((d.cq die q).before j).foldl (fun d y => jobComplete die q y.j d) d
       let left := (d.cq die q).before j
       let d := left.foldl (fun d y =>
         if jKind y.bytes = 7 then finishJob die q y 0 (signalPresence y.bytes d)
         else finishJob die q y.stopped 0x42 (stopJob die q y.j d)) (d.raiseIf (decide (left ≠ [])) F.cdStatusDeadline die)
       finishJob die q x 0 (signalPresence x.bytes d)) := by
  have ripe : ¬ (x.done = true ∨ jKind x.bytes ≠ 7 ∨ ¬ ntLe (BitVec.ofNat 64 (at_ x.bytes 0x18 8)) d.nt = true) := by
    simp [hleft, hsignal, hdue]
  simp only [signalDeadline, hjob, if_neg ripe]

end

end

end

/-! ### The statement -/

theorem queue_there {die q : Nat} (hdie : die < 4) (hq : q < 16) : (decide (die < 4) && decide (q < 16)) = true := by
  simp [hdie, hq]

/-- Settles O13: each row by its queue, job or block. -/
theorem codingJobsRun : Obligations.CodingJobsRun := by
  unfold Obligations.CodingJobsRun
  refine ⟨⟨?enable, ?drain, ?poll, ?start⟩, ?block, ?complete, ?signal, ?deadline⟩
  case enable =>
    intro s c die q log2depth qbase hrun hdie hq hmin hmax hbase hoff
    exact devRow_answer hrun (codingQueueCfg_enables hdie hq ⟨hmin, hmax⟩ hbase hoff)
  case drain =>
    intro s c die q enable log2depth qbase hrun hdie hq hcfg hon
    exact devRow_answer hrun (codingQueueCfg_drains hdie hq hcfg hon)
  case poll =>
    intro s die q b d hrun hdie hq hon hopen hread
    exact placeRow_answer hrun (queue_there hdie hq) (queuePoll_reads hon hopen hread)
  case start =>
    intro s die q j x y d hrun hdie hq hnext hj started
    have answer {kind : Nat} {f : Job → Dev → Job × Dev} (hkind : jKind x.bytes = kind) (hread : f x s.dev = (y, d)) :
        there (decide (die < 4) && decide (q < 16)) s (upd s (startJob die q j kind f)) = started :=
      placeRow_answer hrun (queue_there hdie hq) (startJob_starts hnext hj hkind hread)
    exact ⟨answer, answer, answer, answer, answer, answer⟩
  case block =>
    intro s die kind i x y hrun hdie hmin hmax hi hbusy hover d hjob
    have here : (decide (die < 4) && decide (4 ≤ kind) && decide (kind < 8) && decide (i < engineCount kind)) = true := by
      simp [hdie, hmin, hmax, hi]
    exact placeRow_answer hrun here (blockDone_ends hbusy hover hjob)
  case complete =>
    intro s die q j x hrun hdie hq hjob hleft hstarted hkind hblocks htail
    exact placeRow_answer hrun (queue_there hdie hq) (jobComplete_finishes hjob hleft hstarted hkind hblocks htail)
  case signal =>
    intro s die q j x hrun hdie hq hjob hleft hsignal hfirst hat
    exact placeRow_answer hrun (queue_there hdie hq) (signalJob_completes hjob hleft hsignal hfirst hat)
  case deadline =>
    intro s die q j x hrun hdie hq hjob hleft hsignal hdue
    exact placeRow_answer hrun (queue_there hdie hq) (signalDeadline_stops hjob hleft hsignal hdue)

end Sys2Proof.Proofs
end

section
/-! SUPPORT. The memory commands (R220 to R222, R226, R227, R229, R448): what each of them makes of the device in the cases of O15. -/

namespace Sys2Proof.Proofs

open Sys2Proof Sys2Proof.Machine Sys2Proof.Laws

/-! ### Tables and partitions -/

theorem tabFind_tabDel {α : Type} (t : Tab α) (k : Nat) : tabFind (tabDel t k) k = none := by
  unfold tabDel
  induction t with
  | nil => rfl
  | cons e r ih =>
    by_cases h : e.1 = k
    · simpa [h] using ih
    · simpa [h, tabFind, Ne.symm h] using ih

/-- A key of a dropped range holds the default. -/
theorem tabGet_tabDrop_inside {α : Type} (v : α) (t : Tab α) {a n k : Nat} (hk : a ≤ k ∧ k < a + n) : tabGet v (tabDrop t a n) k = v := by
  unfold tabDrop
  induction t with
  | nil => rfl
  | cons e r ih =>
    rw [List.filter_cons]
    split
    case isTrue kept =>
      have other : k ≠ e.1 := fun he => of_decide_eq_true kept (he ▸ hk)
      rw [tabGet, if_neg other, ih]
    case isFalse => exact ih

/-- The table of partitions is canonical. -/
def PartsWf (d : Dev) : Prop := tabWf {} d.parts = true

theorem PartsWf.modPart {d : Dev} (h : PartsWf d) (p : Nat) (f : Part → Part) : PartsWf (d.modPart p f) :=
  tabWf_tabSet ({} : Part) d.parts p _ h

theorem PartsWf.modMem {d : Dev} (h : PartsWf d) (f : MemSys → MemSys) : PartsWf (d.modMem f) := h

/-- Then a changed partition is read back. -/
theorem PartsWf.part_modPart {d : Dev} (h : PartsWf d) (p : Nat) (f : Part → Part) : (d.modPart p f).part p = f (d.part p) :=
  tabGet_tabSet ({} : Part) d.parts p _ h

theorem part_modMem (d : Dev) (p : Nat) (f : MemSys → MemSys) : (d.modMem f).part p = d.part p := rfl

theorem part_setF (d : Dev) (p : Nat) (f : Field) (i x : Nat) : (d.setF f i x).part p = d.part p := rfl

section
variable {d : Dev} {c : Src} {p : Nat}

/-! ### Submission (R220) -/

theorem memSubmit_runs {i : Instr} (hfree : (d.part p).memBusy = none) : memSubmit p i d = memRun i d := by
  simp [memSubmit, hfree]

theorem memSubmit_waits {i : Instr} {b : Src} (hbusy : (d.part p).memBusy = some b) :
    memSubmit p i d = d.modPart p (fun x => { x with memWait := x.memWait ++ [i] }) := by
  simp [memSubmit, hbusy]

/-- An operator's command names one of the 32 partitions. -/
theorem opSubmit_partition {i : Instr} (hp : p < 32) : opSubmit c p i d = memSubmit p i d := if_pos hp

theorem opSubmit_runs {i : Instr} (hp : p < 32) (hfree : (d.part p).memBusy = none) : opSubmit c p i d = memRun i d :=
  (opSubmit_partition hp).trans (memSubmit_runs hfree)

/-! ### Ranges and grants (R221, R448) -/

section
variable (hlive : d.pstate p ≠ 0 ∧ d.pstate p ≠ 4)
include hlive

theorem live_guard : ¬ (d.pstate p = 0 ∨ d.pstate p = 4) := not_or.2 hlive

theorem memRangeAddDo_adds {first frames : Nat} (hframes : frames ≠ 0) (hend : first + frames ≤ frameCount)
    (hpresent : (List.range frames).any (fun i => d.frameAbsent (first + i)) = false) (hroom : (d.part p).ranges.length < 8)
    (hunowned : (List.range frames).any (fun i => tabGet 0 d.mem.owner (first + i) ≠ 0) = false) :
    memRangeAddDo c p first frames d =
      done c 0 (((d.modMem (fun m =>
        { m with owner := (List.range frames).foldl (fun o i => tabSet 0 o (first + i) (p + 1)) m.owner })).modPart p
        (fun x => { x with ranges := x.ranges ++ [(first, frames)] })).addSat F.ptMemUseHbmFrames p frames) := by
  have inside : ¬ (frameCount < first + frames ∨ (List.range frames).any (fun i => d.frameAbsent (first + i)) = true) := by
    simp [hend.not_gt, hpresent]
  rw [memRangeAddDo, if_neg (live_guard hlive), if_neg hframes, if_neg inside, if_neg hroom.not_ge, if_neg (by rw [hunowned]; simp)]

section
variable {grant kind base pages tgt : Nat} (hgrant : grant ≤ 15) (hpages : pages ≠ 0) (hbase : base % pageSize = 0)
  (hunused : tabFind (d.part p).grants grant = none) (hroom : (d.part p).grants.length < 16) (hend : base + pages * pageSize ≤ 2 ^ 48)
include hgrant hpages hbase hunused hroom hend

/-- A host grant names a PASID of the partition; a peer grant another device of the tray, which has lent the pages. -/
theorem memFarAddDo_adds
    (htgt : (kind = 0 ∧ tgt ∈ (d.part p).pasids) ∨
      (kind = 1 ∧ tgt < 4096 ∧ tgt / 8 = d.getF F.tlSelfFaddr / 8 ∧ tgt ≠ d.getF F.tlSelfFaddr ∧
        Config.peerLent tgt base pages d.acyc = true)) :
    memFarAddDo c p grant kind base pages tgt d =
      (let d := d.modPart p (fun x => { x with grants := tabPut x.grants grant { kind := kind, base := base, pages := pages, tgt := tgt } })
       done c 0 ((d.setF F.ptMemUseGrants p (min (d.part p).grants.length 15)).addSat F.ptMemUseFarPages p pages)) := by
  have wellFormed : ¬ (15 < grant ∨ 1 < kind ∨ pages = 0 ∨ base % pageSize ≠ 0 ∨ 2 ^ 48 < base + pages * pageSize) := by
    omega
  have target : ¬ ((kind = 0 ∧ tgt ∉ (d.part p).pasids) ∨
      (kind = 1 ∧ (4096 ≤ tgt ∨ tgt / 8 ≠ d.getF F.tlSelfFaddr / 8 ∨ tgt = d.getF F.tlSelfFaddr ∨
        Config.peerLent tgt base pages d.acyc = false))) := by
    obtain ⟨rfl, hpasid⟩ | ⟨rfl, haddr, htray, hother, hlent⟩ := htgt
    · simp [hpasid]
    · simp [haddr, htray, hother, hlent]
  rw [memFarAddDo, if_neg (live_guard hlive), if_neg wellFormed, if_neg hroom.not_ge, if_neg (by simp [hunused]), if_neg target]

end

/-- A range that stands is removed. -/
theorem memRangeRemoveDo_stands {first frames : Nat} (hframes : frames ≠ 0) (hrange : (first, frames) ∈ (d.part p).ranges) :
    memRangeRemoveDo c p first frames d = memRemoveDo c p first frames d := by
  have stands : ¬ (frames = 0 ∨ (first, frames) ∉ (d.part p).ranges) := by simp [hframes, hrange]
  rw [memRangeRemoveDo, if_neg (live_guard hlive), if_neg stands]

theorem memFarRemoveDo_stands {grant : Nat} (hgrant : grant ≤ 15) (hstands : (tabFind (d.part p).grants grant).isSome = true) :
    memFarRemoveDo c p grant d = memRemoveDo c p (grant + 1) 0 d := by
  have stands : ¬ (15 < grant ∨ (tabFind (d.part p).grants grant).isNone = true) := by
    simp [hgrant, Option.isSome_iff_ne_none.1 hstands]
  rw [memFarRemoveDo, if_neg (live_guard hlive), if_neg stands]

end

/-! ### Pages (R226, R227, R229) -/

section
variable {a pages : Nat}

theorem memMapDo_maps {hint die zr : Nat} {places : List (Bool × Nat × Nat)} {tf : List Nat} {q : Pool}
    (hrange : vRange a pages 1048576 = true) (hhint : hint ≤ 3) (hdie : die ≤ 3) (hzr : zr ≤ 1)
    (hunmapped : (vPages a pages).any (fun v => (d.pte p v).isSome) = false)
    (htables : (d.pool p).takeTables (tableCount (d.part p) (newTables (d.part p) (vPages a pages)).length) = some (tf, q))
    (hplaces : q.placeAll ((List.range pages).map (fun i => (hint, die, i))) = some places) (hkey : d.noKey p = false) :
    memMapDo c p a pages hint die zr d =
      (let l := vPages a pages
       let e := d.modPart p (fun x => { addTables tf (newTables (d.part p) l) x with
         pt := (l.zip places).foldl (fun t y => tabPut t y.1
           { far := y.2.1, gen := d.wgen p, mig := false, hint := hint, die := die
             frame := if y.2.1 then 0 else y.2.2.1, grant := if y.2.1 then y.2.2.1 else 0, gpage := y.2.2.2 }) x.pt })
       done c 0 (l.foldl (fun d v => markPage p v d) (if zr = 1 then l.foldl (fun d v => zeroPage p v d) e else e))) := by
  have wellFormed : ¬ (¬ vRange a pages 1048576 = true ∨ 3 < hint ∨ 3 < die ∨ 1 < zr) := by simp [hrange, hhint, hdie, hzr]
  rw [memMapDo, if_neg wellFormed, if_neg (Bool.eq_false_iff.1 hunmapped)]
  simp only [htables, hplaces, hkey, Bool.false_eq_true, if_false]

theorem memUnmapDo_unmaps (hrange : vRange a pages 1048576 = true)
    (hmapped : (vPages a pages).any (fun v => (d.pte p v).isNone) = false) :
    memUnmapDo c p a pages d =
      (let l := vPages a pages
       done c 0 (tlbDrop p (fun v => l.contains v) ((pinMoves p l d).modPart p (fun x =>
        { x with pt := l.foldl tabDel x.pt
                 retiring := x.retiring ++ l.filterMap (fun v => (d.pte p v).map d.retireAt) })))) := by
  rw [memUnmapDo, if_neg (not_not.2 hrange), if_neg (Bool.eq_false_iff.1 hmapped)]

theorem memHintDo_hints {hint die rate : Nat} {places : List (Bool × Nat × Nat)} (hrange : vRange a pages 1048576 = true)
    (hhint : hint ≤ 3) (hdie : die ≤ 3) (hmapped : (vPages a pages).any (fun v => (d.pte p v).isNone) = false)
    (hplaces : (d.pool p).placeAll
      (((vPages a pages).zipIdx.filter (fun v => d.hintUnmet p hint die v.1)).map (fun v => (hint, die, v.2))) = some places) :
    memHintDo c p a pages hint die rate d =
      (let l := vPages a pages
       let moved := l.zipIdx.filter (fun v => d.hintUnmet p hint die v.1)
       let e := l.foldl (fun d v => markPage p v d) (l.foldl (setHint p hint die) d)
       if moved = [] then done c 0 e else queueMigs p c rate moved e) := by
  have wellFormed : ¬ (¬ vRange a pages 1048576 = true ∨ 3 < hint ∨ 3 < die) := by simp [hrange, hhint, hdie]
  rw [memHintDo, if_neg wellFormed, if_neg (Bool.eq_false_iff.1 hmapped)]
  simp only [hplaces]

theorem memQuery_answers {result : Nat} (hrange : vRange a pages 64 = true) :
    memQuery c a pages result d =
      done c 0 (hostWrite result ((vPages a pages).flatMap (fun v => queryWord (d.pte (d.cpart c) v))) d) :=
  if_neg (not_not.2 hrange)

end

/-! ### Removals (R222) -/

/-- A command whose migrations are queued is in progress. -/
theorem queueMigs_part (hwf : PartsWf d) (rate : Nat) (pages : List (Nat × Nat)) :
    (queueMigs p c rate pages d).part p = { d.part p with memBusy := some c } :=
  (hwf.modMem _).part_modPart p _

/-- No table frame moves, none is renamed. -/
theorem moveTables_nil (x : Part) : moveTables [] x = x := by
  simp [moveTables, tabFind]

/-- The device with a removal by c in progress: its pages are queued. -/
def removing (c : Src) (p first frames : Nat) (d : Dev) : Dev :=
  queueMigs p c 0 (d.pagesInside p first frames)
    ((d.modPart p (fun x => { x with memGone := some (first, frames) })).modPart p
      (fun x => { x with memBusy := some c }))

/-- What a page inside the range or grant asks of the rest of the pool: its own hint and die, or another far page (R222, R227). -/
def removalWant (d : Dev) (p frames : Nat) (x : Nat × Nat) : Nat × Nat × Nat :=
  match d.pte p x.1 with
  | some e => (if frames = 0 then 2 else e.hint, e.die, x.2)
  | none => (0, 0, 0)

section
variable {first frames : Nat}

/-- Where the rest of the pool takes the pages and no table frame lies inside, the removal is in progress until nothing is left. -/
theorem memRemoveDo_untabled {l : List (Bool × Nat × Nat)} (htables : frames = 0 ∨ (d.part p).tableFrames = [])
    (hplaces : ((d.modPart p (fun x => { x with memGone := some (first, frames) })).pool p).placeAll
      ((d.pagesInside p first frames).map (removalWant d p frames)) = some l) :
    memRemoveDo c p first frames d =
      if (removing c p first frames d).memGoing p then removing c p first frames d else memRemoved p (removing c p first frames d) := by
  have untabled : (d.part p).tableFrames.filter (fun f => decide (frames ≠ 0 ∧ first ≤ f ∧ f < first + frames)) = [] := by
    obtain h | h := htables <;> simp [h]
  simp only [memRemoveDo, untabled, List.length_nil, Pool.takeTables]
  split
  case h_1 hnone => exact absurd (hnone.symm.trans hplaces) nofun
  case h_2 =>
    simp only [List.foldl_nil, List.zip_nil_right, List.map_nil, List.append_nil, moveTables_nil]
    rfl

theorem removing_mig : (removing c p first frames d).mem.mig = d.mem.mig ++ (d.pagesInside p first frames).map (fun x =>
    { p := p, vpn := x.1, cmd := some c, rate := 0, i := x.2 }) := rfl

section
variable (hwf : PartsWf d)
include hwf

theorem removing_partsWf : PartsWf (removing c p first frames d) :=
  (((hwf.modPart p _).modPart p _).modMem _).modPart p _

theorem removing_part : (removing c p first frames d).part p = { d.part p with memGone := some (first, frames), memBusy := some c } := by
  rw [removing, queueMigs_part ((hwf.modPart p _).modPart p _), (hwf.modPart p _).part_modPart, hwf.part_modPart]

/-- The removal goes on while one of its pages is queued. -/
theorem removing_going (hpages : d.pagesInside p first frames ≠ []) : (removing c p first frames d).memGoing p = true := by
  obtain ⟨x, hx⟩ := List.exists_mem_of_ne_nil _ hpages
  have queued : (removing c p first frames d).mem.mig.any (fun m => m.p = p && m.cmd.isSome) = true := by
    rw [removing_mig, List.any_append, List.any_map, Bool.or_eq_true]
    exact .inr (List.any_eq_true.2 ⟨x, hx, by simp⟩)
  simp only [Dev.memGoing, removing_part hwf, queued, Bool.true_or]

/-- It does not where nothing is queued and nothing retires. -/
theorem removing_ends (hpages : d.pagesInside p first frames = []) (hmig : d.mem.mig = []) (hretiring : (d.part p).retiring = []) :
    (removing c p first frames d).memGoing p = false := by
  simp only [Dev.memGoing, removing_part hwf, removing_mig, hpages, hmig, hretiring, List.map_nil, List.append_nil, List.any_nil, Bool.or_self]

end

end

section
variable (hwf : PartsWf d) (hbusy : (d.part p).memBusy = some c)
include hwf hbusy

/-- The end of a range's removal: it is listed no longer, and nobody owns its frames. -/
theorem memRemoved_range {first frames : Nat} (hgone : (d.part p).memGone = some (first, frames)) (hframes : frames ≠ 0) :
    ∃ e : Dev, memRemoved p d = done c 0 e ∧ (first, frames) ∉ (e.part p).ranges ∧ (e.part p).memBusy = none ∧
      (∀ f, first ≤ f → f < first + frames → tabGet 0 e.mem.owner f = 0) := by
  simp only [memRemoved, hgone, hbusy, if_neg hframes]
  refine ⟨_, rfl, ?_, ?_, fun f hf hend => tabGet_tabDrop_inside 0 _ ⟨hf, hend⟩⟩ <;>
    rw [part_setF, ((hwf.modPart p _).modMem _).part_modPart, part_modMem, hwf.part_modPart]
  simp

/-- The end of a grant's removal: there is none of its index. -/
theorem memRemoved_grant {grant : Nat} (hgone : (d.part p).memGone = some (grant + 1, 0)) :
    ∃ e : Dev, memRemoved p d = done c 0 e ∧ tabFind (e.part p).grants grant = none ∧ (e.part p).memBusy = none := by
  simp only [memRemoved, hgone, hbusy, if_true]
  refine ⟨_, rfl, ?_, ?_⟩ <;>
    rw [part_setF, part_setF, (hwf.modPart p _).part_modPart, hwf.part_modPart]
  exact tabFind_tabDel _ grant

end

end

/-! ### The statement -/

/-- An operator's command of a partition that has none in progress runs at once. -/
theorem operatorRow_answer {s : State} {c : Src} {p : Nat} {i : Instr} {d : Dev} (hrun : s.dev.pins.stopped = false) (hp : p < 32)
    (hfree : (s.dev.part p).memBusy = none) (h : memRun i s.dev = d) : upd s (opSubmit c p i) = .next { s with dev := d } :=
  devRow_answer hrun ((opSubmit_runs hp hfree).trans h)

/-- So does a tenant's. -/
theorem tenantRow_answer {s : State} {c : Src} {i : Instr} {d : Dev} (hrun : s.dev.pins.stopped = false)
    (hfree : (s.dev.part (s.dev.cpart c)).memBusy = none) (h : memRun i s.dev = d) :
    upd s (fun d => memSubmit (d.cpart c) i d) = .next { s with dev := d } :=
  devRow_answer hrun ((memSubmit_runs hfree).trans h)

/-- Settles O15: each command by its checks, the removals by what is left of the range or grant. -/
theorem memoryCommandsAct : Obligations.MemoryCommandsAct := by
  unfold Obligations.MemoryCommandsAct
  refine ⟨⟨?rangeAdd, ?hostGrant, ?peerGrant, ?map, ?unmap, ?hint, ?query, ?tenantWaits, ?operatorWaits⟩, ?rangeGone, ?grantGone, ?rangeGoing⟩
  case rangeAdd =>
    intro s c p first frames hrun hp hfree hheld hleft hframes hend hpresent hroom hunowned
    exact operatorRow_answer hrun hp hfree (memRangeAddDo_adds ⟨hheld, hleft⟩ hframes hend hpresent hroom hunowned)
  case hostGrant =>
    intro s c p grant base pages tgt hrun hp hfree hheld hleft hgrant hpages hbase hunused hroom htgt hend
    exact operatorRow_answer hrun hp hfree (memFarAddDo_adds ⟨hheld, hleft⟩ hgrant hpages hbase hunused hroom hend (.inl ⟨rfl, htgt⟩))
  case peerGrant =>
    intro s c p grant base pages tgt hrun hp hfree hheld hleft hgrant hpages hbase hunused hroom hend haddr htray hother hlent
    exact operatorRow_answer hrun hp hfree
      (memFarAddDo_adds ⟨hheld, hleft⟩ hgrant hpages hbase hunused hroom hend (.inr ⟨rfl, haddr, htray, hother, hlent⟩))
  case map =>
    intro s c a pages hint die zr places tf q hrun p l new hfree hrange hhint hdie hzr hunmapped htables hplaces hkey
    exact tenantRow_answer hrun hfree (memMapDo_maps hrange hhint hdie hzr hunmapped htables hplaces hkey)
  case unmap =>
    intro s c a pages hrun p l hfree hrange hmapped
    exact tenantRow_answer hrun hfree (memUnmapDo_unmaps hrange hmapped)
  case hint =>
    intro s c a pages hint die rate places hrun p l moved hfree hrange hhint hdie hmapped hplaces
    exact tenantRow_answer hrun hfree (memHintDo_hints hrange hhint hdie hmapped hplaces)
  case query =>
    intro s c a pages result hrun hrange
    exact devRow_answer hrun (memQuery_answers hrange)
  case tenantWaits =>
    intro s c b a pages hint die zr rate hrun p hbusy i hi
    simp only [List.mem_cons, List.not_mem_nil, or_false] at hi
    obtain rfl | rfl | rfl := hi <;> exact devRow_answer hrun (memSubmit_waits hbusy)
  case operatorWaits =>
    intro s c b p n m k x y z hrun hp hbusy i hi
    simp only [List.mem_cons, List.not_mem_nil, or_false] at hi
    obtain rfl | rfl | rfl | rfl := hi <;> exact devRow_answer hrun ((opSubmit_partition hp).trans (memSubmit_waits hbusy))
  case rangeGone =>
    intro s c p first frames hrun hp hfree hheld hleft hframes hrange hwf hpages htables hmig hretiring
    have ended := removing_ends (c := c) hwf hpages hmig hretiring
    have part := removing_part (c := c) (p := p) (first := first) (frames := frames) hwf
    obtain ⟨e, hremoved, hlisted, hbusy, howner⟩ := memRemoved_range (p := p) (removing_partsWf hwf)
      (congrArg Part.memBusy part) (congrArg Part.memGone part) hframes
    refine ⟨e, operatorRow_answer hrun hp hfree ?_, hlisted, hbusy, howner⟩
    calc memRangeRemoveDo c p first frames s.dev
        = memRemoveDo c p first frames s.dev := memRangeRemoveDo_stands ⟨hheld, hleft⟩ hframes hrange
      _ = memRemoved p (removing c p first frames s.dev) :=
        (memRemoveDo_untabled (.inr htables) (by rw [hpages]; rfl)).trans (if_neg (Bool.eq_false_iff.1 ended))
      _ = done c 0 e := hremoved
  case grantGone =>
    intro s c p grant hrun hp hfree hheld hleft hgrant hstands hwf hpages hmig hretiring
    have ended := removing_ends (c := c) hwf hpages hmig hretiring
    have part := removing_part (c := c) (p := p) (first := grant + 1) (frames := 0) hwf
    obtain ⟨e, hremoved, hlisted, hbusy⟩ := memRemoved_grant (p := p) (removing_partsWf hwf)
      (congrArg Part.memBusy part) (congrArg Part.memGone part)
    refine ⟨e, operatorRow_answer hrun hp hfree ?_, hlisted, hbusy⟩
    calc memFarRemoveDo c p grant s.dev
        = memRemoveDo c p (grant + 1) 0 s.dev := memFarRemoveDo_stands ⟨hheld, hleft⟩ hgrant hstands
      _ = memRemoved p (removing c p (grant + 1) 0 s.dev) :=
        (memRemoveDo_untabled (.inl rfl) (by rw [hpages]; rfl)).trans (if_neg (Bool.eq_false_iff.1 ended))
      _ = done c 0 e := hremoved
  case rangeGoing =>
    intro s c p first frames l hrun hp hfree hwf hheld hleft hframes hrange htables hpages hplaces
    have part := removing_part (c := c) (p := p) (first := first) (frames := frames) hwf
    refine ⟨removing c p first frames s.dev, operatorRow_answer hrun hp hfree ?_, congrArg Part.memBusy part, congrArg Part.memGone part,
      (congrArg Part.ranges part :), removing_mig⟩
    calc memRangeRemoveDo c p first frames s.dev
        = memRemoveDo c p first frames s.dev := memRangeRemoveDo_stands ⟨hheld, hleft⟩ hframes hrange
      _ = removing c p first frames s.dev := by
        refine (memRemoveDo_untabled (.inr htables) (Eq.trans (congrArg _ (List.map_congr_left fun x _ => ?_)) hplaces)).trans
          (if_pos (removing_going hwf hpages))
        cases he : s.dev.pte p x.1 <;> simp [removalWant, he, hframes]

end Sys2Proof.Proofs
end

section
/-! SUPPORT. The engines of the memory (R214, R216, R217, R228, R229, R370): what each of them makes of the device in the cases of O16. -/

namespace Sys2Proof.Proofs

open Sys2Proof Sys2Proof.Machine Sys2Proof.Laws

section
variable {d : Dev}

/-! ### Migration (R228) -/

section
variable {m : Mig} {rest : List Mig} {e : Pte}

/-- The page at the head of the order, not yet started, is marked, and its target waits for the copy. -/
theorem migStart_starts {t : Bool × Nat × Nat} {q : Pool} (horder : d.migOrder = m :: rest) (hnew : m.target = none)
    (hready : d.migReady m = true) (hmapped : d.pte m.p m.vpn = some e)
    (hplace : (d.pool m.p).place (if (d.part m.p).memGone.any (fun g => g.2 = 0) then 2 else e.hint) e.die m.i = some (t, q)) :
    migStart d = ((setPte m.p m.vpn { e with mig := true } d).modPart m.p (fun x =>
      { x with migUsed := (if (d.part m.p).migUsed.2 = d.interval then (d.part m.p).migUsed.1 + 1 else 1, d.interval) })).modMem
      (fun x => { x with mig := { m with target := some { e with mig := false, far := t.1, frame := if t.1 then 0 else t.2.1
                                                                 grant := if t.1 then t.2.1 else 0, gpage := t.2.2 }
                                         started := d.acyc } :: rest }) := by
  have free : ¬ (m.target ≠ none ∨ ¬ d.migReady m = true) := by simp [hnew, hready]
  simp only [migStart, horder, if_neg free, hmapped, hplace]

/-- Once its time has passed the page is at its target: the entry names it, what was held goes there, the source retires. -/
theorem migSwitch_switches {t : Pte} (hhead : d.mem.mig = m :: rest) (hstarted : m.target = some t) (hmapped : d.pte m.p m.vpn = some e)
    (hcopied : m.started + d.copyTime m.p e t ≤ d.acyc) :
    migSwitch d =
      (let t := { t with gen := e.gen, hint := e.hint, die := e.die, recvOnly := e.recvOnly }
       let d := setPte m.p m.vpn t (copyPage m.p e t d)
       let d := releaseHeld m.p m.vpn (tlbDrop m.p (· = m.vpn) d)
       let d := d.modPart m.p (fun x => { x with retiring := x.retiring ++ [d.retireAt e] })
       migEnded m (edgeProg 10 (pageSize / 64) (d.modMem (fun x => { x with mig := rest })))) := by
  simp only [migSwitch, hhead, hstarted, hmapped, if_neg hcopied.not_gt]

/-- With nothing still to be read from a peer, the switch comes first, then what waited for it. -/
theorem migSwitchAll_read (hread : d.migAsking = false) :
    migSwitchAll d =
      (let d := migSwitch d
       let d := d.teril.held.foldl takeHeld (d.modTeril (fun t => { t with held := [] }))
       (tabKeys d.teril.bulk).foldl (fun d k => bulkFinish (k / 65536) (k % 65536) d) d) := by
  rw [migSwitchAll, if_neg (Bool.eq_false_iff.1 hread)]

end

/-! ### The walker (R370) -/

/-- Within its rate, counted from 0 in a new interval, the walker rewrites its next page. -/
theorem walkerRewrite_rewrites {p v : Nat} {r r' : Rotation} {e : Pte} (hrot : (d.part p).rot = some r)
    (hr : r' = if r.interval = d.interval then r else { r with used := 0, interval := d.interval })
    (hrate : r'.rate = 0 ∨ r'.used < r'.rate) (hnext : (d.modPart p (fun x => { x with rot := some r' })).walkNext p = some (v, e)) :
    walkerRewrite p d = rotateEnd p (rewritePage p v e (d.modPart p (fun x => { x with rot := some r' }))) := by
  have capped : ¬ (r'.rate ≠ 0 ∧ r'.rate ≤ r'.used) := by omega
  simp only [walkerRewrite, hrot, ← hr, if_neg capped, hnext]

/-! ### Patrol (R216) -/

/-- What the scrubber finds in a unit strikes it. -/
def strikeFound (unit : Nat) : MemFinding → Dev → Dev
  | .clean, d => d
  | .corrected, d => strikeUnit unit false d
  | .uncorrectable, d => strikeUnit unit true d

/-- The scrubber of a die is to read this unit now. -/
theorem patrolRead_reads {unit : Nat} {found : MemFinding} (hon : d.flag F.memPatrolEnable (unit / dieUnits) = true)
    (hunit : unit % dieUnits = tabGet 0 d.mem.patrol (unit / dieUnits)) (hdue : d.patrolDue (unit / dieUnits) ≤ d.acyc) :
    patrolRead unit found d =
      (let die := unit / dieUnits
       let d := unitNote true (.hbm (unit * 64)) (strikeFound unit found d)
       let d := d.modMem (fun m =>
         { m with tags := tabMod {} m.tags unit (fun t => { t with ce := false })
                  patrol := tabSet 0 m.patrol die ((unit % dieUnits + 1) % dieUnits)
                  patrolAt := if unit % dieUnits + 1 = dieUnits then tabSet 0 m.patrolAt die d.acyc else m.patrolAt })
       if unit % dieUnits + 1 = dieUnits then d.addSat F.memPatrolPasses die 1 else d) := by
  have due : ¬ (¬ d.flag F.memPatrolEnable (unit / dieUnits) = true ∨ unit % dieUnits ≠ tabGet 0 d.mem.patrol (unit / dieUnits) ∨
      d.acyc < d.patrolDue (unit / dieUnits)) := by
    simp [hon, hunit, hdue]
  refine (if_neg due).trans ?_
  cases found <;> rfl

end

/-! ### The statement -/

/-- Settles O16: each engine by its next page, unit or bank. -/
theorem memoryEnginesAct : Obligations.MemoryEnginesAct := by
  unfold Obligations.MemoryEnginesAct
  refine ⟨?start, ?switch, ?release, ?walker, ?patrol, ?refresh⟩
  case start =>
    intro s m rest e t q hrun horder hnew hready hmapped hplace
    exact devRow_answer hrun (migStart_starts horder hnew hready hmapped hplace)
  case switch =>
    intro s m rest e t hrun hhead hstarted hmapped hcopied hread
    refine devRow_answer hrun ?_
    rw [migSwitchAll_read hread, migSwitch_switches hhead hstarted hmapped hcopied]
  case release =>
    intro s p hrun hp
    refine placeRow_answer hrun (decide_eq_true hp) ?_
    simp only [frameRelease, Bool.not_eq_true]
  case walker =>
    intro s p v r e hrun hp hrot r' hrate d hnext
    exact placeRow_answer hrun (decide_eq_true hp) (walkerRewrite_rewrites hrot rfl hrate hnext)
  case patrol =>
    intro s unit found hrun hin die hon hunit hdue
    refine placeRow_answer hrun (decide_eq_true hin) ((patrolRead_reads hon hunit hdue).trans ?_)
    cases found <;> rfl
  case refresh =>
    intro s die stack pc bank hrun hdie hstack hpc
    have here : (decide (die < 4) && decide (stack < 8) && decide (pc < 64)) = true := by simp [hdie, hstack, hpc]
    exact placeRow_answer hrun here rfl

end Sys2Proof.Proofs
end

section
/-! SUPPORT. Power, straps, the I3C port, sensors and throttling (R217, R321, R419, R421, R431 to R434, R439 to R443): what each row makes
of the device in the cases of O42. -/

namespace Sys2Proof.Proofs

open Sys2Proof Sys2Proof.Machine Sys2Proof.Laws

section
variable {d : Dev}

/-! ### The I3C port (R421) -/

theorem i3cRead_served (n : Nat) (hq0 : d.q0Done = true) :
    i3cRead n d = emit (.i3c ((List.range n).map (fun i => d.i3cByte ((d.i3c + i) % 65536)))) { d with i3c := (d.i3c + n) % 65536 } :=
  if_neg (not_not.2 hq0)

theorem i3cRead_nack (n : Nat) (hq0 : d.q0Done = false) : i3cRead n d = emit .i3cNack d := if_pos (Bool.eq_false_iff.1 hq0)

/-! ### Rails (R432, R433) -/

/-- After a Q0 that passed, a good rail fails: it is recorded, and unless they stand already the clocks stop. -/
theorem pwrOkFall_stops {b : Nat} (hq0 : d.qsResult 0 = 1) (hgood : d.pins.pwrOk.getLsbD b = true) :
    pwrOkFall b d =
      (let d := d.modPins (fun x => { x with pwrOk := x.pwrOk &&& ~~~ (1#12 <<< b) })
       let d := d.setF F.pwrStatusRailLost 0 (d.getF F.pwrStatusRailLost ||| 2 ^ b)
       if d.pins.stopped then d else stopClocks (d.modPins (fun x => { x with pwrcycReq := true, pwrcycAt := d.nt }))) :=
  if_neg (by simp [hq0, hgood])

/-- Before that, or for a rail that has failed, nothing. -/
theorem pwrOkFall_ignored {b : Nat} (h : d.qsResult 0 ≠ 1 ∨ d.pins.pwrOk.getLsbD b = false) : pwrOkFall b d = d :=
  if_pos (h.imp_right Bool.eq_false_iff.1)

theorem execPwrOkFall_ignored {s : State} {b : Nat} (h : 12 ≤ b ∨ s.dev.qsResult 0 ≠ 1 ∨ s.dev.pins.pwrOk.getLsbD b = false) :
    execPwrOkFall b s = .next s := by
  by_cases hb : b < 12
  · refine (there_true (decide_eq_true hb)).trans ?_
    rw [updS, pwrOkFall_ignored (h.resolve_left hb.not_ge)]
  · exact there_false (decide_eq_false hb)

/-! ### Sensors (R431, R441, R442) -/

/-- The temperatures of the stacks after a reading: an empty one leaves them. -/
def stackTemps (old : List Int) (hbmT : List Int) : List Int := if hbmT = [] then old else hbmT.take 32

/-- The device with a reading in its pins and registers, and a stack above 85 °C marked. -/
def sensed (dieT hbmT : List Int) (d : Dev) : Dev :=
  let die := dieTemps d.pins.dieTemp dieT
  let hbm := stackTemps d.pins.stackTemp hbmT
  let d := d.modPins (fun x => { x with dieTemp := die, stackTemp := hbm })
  let d := (d.setF F.pkgTempC 0 (leNat ((die.take 4).map (fun t => BitVec.ofNat 8 (degree t))))).setF F.pkgTempE 0 (degree (die.getD 4 0))
  let d := d.setF F.pkgTempHbm 0 (degree (hottest 0 hbm))
  hbm.zipIdx.foldl (fun (d : Dev) (x : Int × Nat) =>
    let was := tabGet false d.mem.hot x.2
    let d := d.modMem (fun m => { m with hot := tabSet false m.hot x.2 (decide (85 < x.1)) })
    d.raiseIf (decide (85 < x.1) && ! was) F.memStatusHot (x.2 / 8)) d

/-- A die of 115 °C or a stack of 105 °C trips. -/
def Trips (d : Dev) (dieT hbmT : List Int) : Prop :=
  (∃ t ∈ dieTemps d.pins.dieTemp dieT, 115 ≤ t) ∨ ∃ t ∈ stackTemps d.pins.stackTemp hbmT, 105 ≤ t

theorem any_reaches {limit : Int} {l : List Int} : l.any (fun t => decide (limit ≤ t)) = true ↔ ∃ t ∈ l, limit ≤ t := by
  simp only [List.any_eq_true, decide_eq_true_eq]

theorem sensorRead_trips {dieT hbmT : List Int} (h : Trips d dieT hbmT) :
    sensorRead dieT hbmT d = (stopClocks (sensed dieT hbmT d)).modPins (fun x => { x with thermtrip := true }) :=
  if_pos (h.imp any_reaches.2 any_reaches.2)

theorem sensorRead_cool {dieT hbmT : List Int} (h : ¬ Trips d dieT hbmT) : sensorRead dieT hbmT d = sensed dieT hbmT d :=
  if_neg (mt (Or.imp any_reaches.1 any_reaches.1) h)

/-- A trip stops the clocks. -/
theorem sensorRead_trips_pins {dieT hbmT : List Int} (h : Trips d dieT hbmT) :
    (sensorRead dieT hbmT d).pins.stopped = true ∧ (sensorRead dieT hbmT d).pins.thermtrip = true := by
  rw [sensorRead_trips h]
  exact ⟨rfl, rfl⟩

/-! ### The AVS ports (R434, R439) -/

theorem avsRead_strap (rails : List (Nat × Nat)) :
    avsRead rails d =
      if d.pins.straps.getLsbD 1 then
        let w := rails.map (fun x => x.1 * x.2)
        d.modPins (fun x => { x with rails := rails, power := ((sumL w, (List.range 4).map (fun i => w.getD (4 + i) 0)) :: x.power).take 150 })
      else d :=
  ite_not _ _ _

/-! ### Throttling (R443) -/

theorem throttle_none (h : d.beat 4 8000000 0 = none) : throttle d = d := by simp only [throttle, h]

theorem throttle_due {t : BitVec 64} (h : d.beat 4 8000000 0 = some t) :
    throttle d =
      (let c := d.overConds
       let l := d.getF F.pwrStatusLevel
       let l' := nextLevel (c.any id) d.underCond l (d.eff F.pwrCfgLmax 0 48)
       let e := (d.raiseIf (c.getD 0 false) F.pwrStatusCap).raiseIf (c.getD 1 false) F.pwrStatusDieCap
       let e := (e.raiseIf (c.getD 2 false) F.pwrStatusTemp).raiseIf (c.getD 3 false) F.pwrStatusHbmTemp
       let e := e.raiseIf (c.any id && decide (l = d.eff F.pwrCfgLmax 0 48) && decide (0 < d.eff F.pwrCfgLmax 0 48)) F.pwrStatusAtMax
       let e := (e.setF F.pwrStatusPower 0 (min 8191 (d.powerSums.2.1 / (1000000 * max d.powerSums.1 1)))).setF F.pwrStatusLevel 0 l'
       beatDone 4 t (if 0 < l' ∨ e.mem.hot ≠ [] then health 5 1 e else e)) := by
  simp only [throttle, h]

/-! ### Die links (R419) -/

section
variable {die link dir group lane : Nat}

theorem dieLinkLaneFail_spared {e : Dev}
    (h : takeSpare (laneByte (dieLinkIndex die link) (dir * (if link = 2 then 4 else 8) + group)) lane
      (d.raise F.dlStatusLane (die * 3 + link)) = some e) : dieLinkLaneFail die link dir group lane d = e := by
  simp only [dieLinkLaneFail, h]

theorem dieLinkLaneFail_unspared
    (h : takeSpare (laneByte (dieLinkIndex die link) (dir * (if link = 2 then 4 else 8) + group)) lane
      (d.raise F.dlStatusLane (die * 3 + link)) = none) :
    dieLinkLaneFail die link dir group lane d =
      (let e := health 3 1 ((d.raise F.dlStatusLane (die * 3 + link)).raise F.dlStatusDown (die * 3 + link))
       takeStep .device 3 none { e with dieOut := tabSet false e.dieOut (dieLinkIndex die link) true }) := by
  simp only [dieLinkLaneFail, h]

/-- The check of a lane's place. -/
theorem lane_there : (decide (die < 4) && decide (link < 3) && decide (dir < 2) && decide (group < if link = 2 then 4 else 8) &&
    decide (lane < 33)) = decide (die < 4 ∧ link < 3 ∧ dir < 2 ∧ group < (if link = 2 then 4 else 8) ∧ lane < 33) := by
  simp only [Bool.decide_and, Bool.and_assoc]

end

end

/-! ### The statement -/

/-- What the S-clock drives answers whether or not the other clocks run. -/
theorem sClockRow_answer {s : State} {f : Dev → Dev} {d : Dev} (hf : f s.dev = d) : updS s f = .next { s with dev := d } := by
  rw [updS, hf]

/-- Settles O42: the rows of the S-clock in every state, the others while the clocks run. -/
theorem powerAndPackageAct : Obligations.PowerAndPackageAct := by
  unfold Obligations.PowerAndPackageAct
  refine ⟨fun s => ⟨?pointer, ?read, ?nack, ?fall, ?ignored, ?release, ?cycle⟩,
    fun s hrun => ⟨?assert, ?deassert, ?sensors, ?trip, ?avs, ?early, ?interval, ?noLane, ?lane⟩⟩
  case pointer => exact fun b => rfl
  case read => exact fun n hq0 => sClockRow_answer (i3cRead_served n hq0)
  case nack => exact fun n hq0 => sClockRow_answer (i3cRead_nack n hq0)
  case fall => exact fun b hb hq0 hgood => (there_true (decide_eq_true hb)).trans (sClockRow_answer (pwrOkFall_stops hq0 hgood))
  case ignored => exact fun b h => execPwrOkFall_ignored h
  case release => rfl
  case cycle => exact ⟨powerCycle s.dev, rfl, rfl, rfl, rfl, rfl, rfl, rfl, rfl, rfl, rfl, rfl, rfl⟩
  case assert => exact devRow_answer hrun rfl
  case deassert => exact devRow_answer hrun rfl
  case sensors =>
    intro dieT hbmT
    refine devRow_answer hrun ?_
    by_cases h : Trips s.dev dieT hbmT
    · exact (sensorRead_trips h).trans (if_pos h).symm
    · exact (sensorRead_cool h).trans (if_neg h).symm
  case trip =>
    intro dieT hbmT h
    have trips : Trips s.dev dieT hbmT := h.imp_right fun ⟨t, ht, hot⟩ => ⟨t, by
      have read : hbmT ≠ [] := by
        rintro rfl
        simp at ht
      rwa [stackTemps, if_neg read], hot⟩
    exact ⟨_, devRow_answer hrun rfl, sensorRead_trips_pins trips⟩
  case avs => exact fun rails => devRow_answer hrun (avsRead_strap rails)
  case early => exact fun h => devRow_answer hrun (throttle_none h)
  case interval => exact fun t h => devRow_answer hrun (throttle_due h)
  case noLane => exact fun die link dir group lane h => there_false (lane_there.trans (decide_eq_false h))
  case lane =>
    intro die link dir group lane hdie hlink hdir hgroup hlane d o
    have here := lane_there.trans (decide_eq_true ⟨hdie, hlink, hdir, hgroup, hlane⟩)
    exact ⟨fun e h => placeRow_answer hrun here (dieLinkLaneFail_spared h), fun h => placeRow_answer hrun here (dieLinkLaneFail_unspared h)⟩

end Sys2Proof.Proofs
end

section
/-! SUPPORT. Gate lists and histograms (R251, R254), the servo, its steps and the messages of the timebase (R237 to R245), pulses (R437,
R438) and the free transmitter (R247 to R252): what each row makes of the device in the cases of O14. -/

namespace Sys2Proof.Proofs

open Sys2Proof Sys2Proof.Machine Sys2Proof.Laws

section
variable {d : Dev} {c : Src} {e : Nat}

/-! ### Gate lists (R251) -/

/-- The list that waits at a port gives way: its GATE_SET completes with SUPERSEDED. -/
def supersedeWaiting (e : Nat) (d : Dev) : Dev :=
  match (d.port e).pend with
  | some (_, _, old) => done old 0x74 d
  | none => d

/-- A GATE_SET that passes its checks waits at its port, with PENDING set, for the first cycle start at or after APPLY. -/
theorem gateSet_waits {b : Bytes} (hlen : b.length = gateLen b) (hok : gateOk d b = true)
    (hsoon : 800000 ≤ (BitVec.ofNat 64 (at_ b 0x08 8) - d.nt).toInt) :
    gateSet c b d = ((supersedeWaiting (fld b 0 4 0) d).modPort (fld b 0 4 0) (fun p =>
      { p with pend := some (gateDesc b, p.active.nextStart (BitVec.ofNat 64 (at_ b 0x08 8)), c) })).setF
        F.tbPortStatusPending (fld b 0 4 0) 1 :=
  (if_neg (not_not.2 hlen)).trans ((if_neg (not_not.2 hok)).trans (if_neg hsoon.not_gt))

theorem gateSwitch_switches {l : GateList} {t : BitVec 64} (hpend : (d.port e).pend = some (l, t, c)) (hdue : reached d t = true) :
    gateSwitch e d =
      (let d := d.modPort e (fun p =>
        { p with active := l, pend := none
                 credit := p.credit.filter (fun x => tabGet 0 p.active.mode x.1 = 1 ∧ tabGet 0 l.mode x.1 = 1) })
       done c 0 ((d.setF F.tbPortStatusPending e 0).setF F.tbPortStatusBank e (1 - d.getF F.tbPortStatusBank e))) := by
  simp only [gateSwitch, hpend]
  exact if_neg (not_not.2 hdue)

/-! ### Histograms (R254) -/

theorem histSample_samples {b : BitVec 64} (hbeat : d.beat 2 8000 0 = some b) (hnow : (d.nt - b).toNat < 8)
    (hfree : d.flag F.tbHistCtlFreeze = false) :
    histSample d =
      (List.range portCount).foldl (fun d e => d.modPort e (fun p => (List.range 8).foldl (sampleQueue d.nt) p)) (beatDone 2 b d) := by
  have samples : ¬ (d.flag F.tbHistCtlFreeze = true ∨ 8 ≤ (d.nt - b).toNat) :=
    not_or.2 ⟨Bool.eq_false_iff.1 hfree, hnow.not_ge⟩
  simp only [histSample, hbeat]
  exact if_neg samples

/-! ### Steps (R244) -/

section
variable {seq : Nat} (hpending : d.flag F.tbStepReqPending = true) (hseq : d.getF F.tbStepReqSeq = seq)
include hpending hseq

/-- A TB_STEP_ACCEPT that names the pending request is not stale. -/
theorem stepRequest_stands : ¬ (¬ d.flag F.tbStepReqPending = true ∨ d.getF F.tbStepReqSeq ≠ seq) :=
  not_or.2 ⟨not_not.2 hpending, not_not.2 hseq⟩

theorem tbStepAccept_steps :
    tbStepAccept c seq 0 d =
      done c 0 (stepTime (toSigned 40 (d.getF F.tbStepReqStep)) (enterAcquiring (d.setF F.tbStepReqPending 0 0))) :=
  if_neg (stepRequest_stands hpending hseq)

theorem tbStepAccept_slews :
    tbStepAccept c seq 1 d =
      (let v := toSigned 40 (d.getF F.tbStepReqStep)
       let d := enterAcquiring (d.setF F.tbStepReqPending 0 0)
       let rate : Int := if v < 0 then -slewRate else slewRate
       done c 0 (setFadj (toSigned 40 (d.getF F.tbFadjFadj) + rate) (d.modServo (fun x => { x with slew := some rate })))) :=
  if_neg (stepRequest_stands hpending hseq)

end

/-! ### Messages of the timebase (R237 to R240) -/

theorem isTeril_fronthaul (he : e < 16) : isTeril e = false := decide_eq_false he.not_ge

/-- The fronthaul ports are egress ports. -/
theorem fronthaul_there (he : e < 16) : decide (e < portCount) = true := decide_eq_true (he.trans (by decide))

section
variable (he : e < 16) (hptp : d.flag F.tbPortCfgPtpEn e = true)
include he hptp

theorem ptpMessage_malformed : ptpMessage e d.ptpDomain .malformed d = d.raise F.tbPortStatusPtpRxErr e := by
  simp [ptpMessage, isTeril_fronthaul he, hptp]

theorem ptpMessage_announce (hslave : d.isSlave e = true) :
    ptpMessage e d.ptpDomain (.announce false) d = d.modServo (fun x => { x with announce := d.nt }) := by
  simp [ptpMessage, isTeril_fronthaul he, hptp, hslave]

theorem ptpMessage_delayReq {t4 : BitVec 64} {d' : Dev} (hmaster : d.isSlave e = false) (hstamp : stampIn e d = (t4, d')) :
    ptpMessage e d.ptpDomain .delayReq d = sendTiming e 2 (leBytes 8 t4.toNat) d' := by
  simp [ptpMessage, isTeril_fronthaul he, hptp, hmaster, hstamp]

theorem ptpMessage_sync {t1 t2 : BitVec 64} {c1 : Int} {d' : Dev} (hslave : d.isSlave e = true) (hstamp : stampIn e d = (t2, d')) :
    ptpMessage e d.ptpDomain (.sync t1 c1) d =
      d'.modServo (fun x => { x with sync := some (t1, t2, c1), t3 := none, lastSync := d'.nt }) := by
  simp [ptpMessage, isTeril_fronthaul he, hptp, hslave, hstamp]

end

theorem esmc_fronthaul {ql : Nat} {choose : Bool} (he : e < 16) :
    esmc e ql choose d =
      (let d := d.modPort e (fun p => { p with ql := some ql })
       if choose = true ∧ d.flag F.tbPortCfgFsrc e = true ∧ d.flag F.tbCtlHybrid = true then
         (d.setF F.tbStatusFreqOk 0 1).modServo (fun x => { x with src := some e })
       else d) := by
  simp only [esmc, isTeril_fronthaul he, Bool.false_eq_true, if_false]

/-! ### Losses of the servo's sources (R239, R241 to R243) -/

/-- The slave port is given up, and with it a pending request. -/
def slaveDropped (d : Dev) : Dev := (d.setF F.tbStatusSlaveValid 0 0).setF F.tbStepReqPending 0 0

theorem slaveLost_drops (hvalid : d.flag F.tbStatusSlaveValid = true)
    (hgone : 3000000000 ≤ (d.nt - d.servo.announce).toInt ∨ 3000000000 ≤ (d.nt - d.servo.lastSync).toInt) :
    slaveLost d =
      if d.servo.everLocked then enterHoldover (slaveDropped d)
      else if (slaveDropped d).servoSt = 1 then (slaveDropped d).setF F.tbStatusState 0 0 else slaveDropped d := by
  have lost : ¬ (¬ d.flag F.tbStatusSlaveValid = true ∨
      ¬ (decide (3000000000 ≤ (d.nt - d.servo.announce).toInt) || decide (3000000000 ≤ (d.nt - d.servo.lastSync).toInt)) = true) := by
    simp only [hvalid, Bool.or_eq_true, decide_eq_true_eq, hgone, not_true, or_self, not_false_eq_true]
  exact if_neg lost

theorem synceLost_freezes (hsrc : d.servo.src = some e) :
    synceLost d =
      (let d := (((d.raise F.tbStatusFreqLost).raise F.tbPortStatusFsrcLost e).setF F.tbStatusFreqOk 0 0).modServo
        (fun x => { x with src := none, fsync := 0 })
       if d.servoSt = 3 ∧ d.servo.outs ≠ [] then setFadj ((d.servo.outs.foldl (· + ·) 0).tdiv d.servo.outs.length) d else d) := by
  simp only [synceLost, hsrc]

/-! ### Messages sent at their intervals (R237 to R239) -/

section
variable {key period kind : Nat} {bytes : Bytes} {ok : Bool}

theorem sendEach_waits (hbeat : d.beat key period 0 = none) : sendEach key period e kind bytes ok d = d := by
  simp only [sendEach, hbeat]

theorem sendEach_due {b : BitVec 64} (hbeat : d.beat key period 0 = some b) :
    sendEach key period e kind bytes ok d = if ok then sendTiming e kind bytes (beatDone key b d) else beatDone key b d := by
  simp only [sendEach, hbeat]

end

/-- The intervals of the Sync, the Announce and the ESMC of a master port, in eighths of a ns. -/
theorem syncSend_sends :
    syncSend e d =
      (let master := ! d.isSlave e && decide (d.mbps e ≠ 0)
       let ptp := master && d.flag F.tbPortCfgPtpEn e
       let d := sendEach (48 + e) 1000000000 e 4 [] ptp (sendEach (16 + e) 500000000 e 0 [] ptp d)
       sendEach (80 + e) 8000000000 e 5 (leBytes 1 (d.sourceQl.getD 15)) master d) := rfl

theorem delayReqSend_sends {b : BitVec 64} (hbeat : d.beat 8 500000000 0 = some b)
    (hvalid : (beatDone 8 b d).flag F.tbStatusSlaveValid = true) :
    delayReqSend d = sendTiming ((beatDone 8 b d).getF F.tbStatusSlave) 1 [] (beatDone 8 b d) := by
  simp only [delayReqSend, ptpInterval, hbeat, hvalid, if_true]

/-! ### Pulses (R438) -/

theorem ppsPulse_rises {b : BitVec 64} (hbeat : d.beat 5 8000000000 0 = some b) (hnow : (d.nt - b).toNat < 8)
    (hout : d.flag F.ppsCtlOutEn = true) : ppsPulse d = ppsRise (beatDone 5 b d) := by
  simp only [ppsPulse, hbeat]
  exact if_pos ⟨hout, hnow⟩

/-! ### The free transmitter (R247) -/

/-- The arbiter's first pick starts when no check drops it. -/
theorem transmit_starts {i j fuel : Nat} {f : Frame} (hpick : d.nextItem e = some (i, j)) (hframe : ((d.port e).q i)[j]? = some f)
    (hkept : frameDrop e f d = none) : transmit e (fuel + 1) d = startItem e i j f d := by
  simp only [transmit, hpick, hframe, hkept]

/-- A free transmitter of a port with a rate serves its queues once revocations have completed and frames that never fit are gone. -/
theorem transmitStart_serves (hfree : (revokesDone d).txFree e = true) (hrate : (revokesDone d).mbps e ≠ 0)
    (hpower : (revokesDone d).pins.pwrcycReq = false)
    (hreplay : isTeril e = true → ((revokesDone d).link (e - 16)).replay.length < 1024) :
    ∃ fuel, transmitStart e d = transmit e (fuel + 1) (guardDrop e (revokesDone d)) := by
  have serves : ¬ (¬ (revokesDone d).txFree e = true ∨ (revokesDone d).mbps e = 0 ∨ (revokesDone d).pins.pwrcycReq = true ∨
      (isTeril e = true ∧ 1024 ≤ ((revokesDone d).link (e - 16)).replay.length)) := by
    rintro (h | h | h | ⟨hteril, hfull⟩)
    · exact h hfree
    · exact hrate h
    · exact Bool.false_ne_true (hpower.symm.trans h)
    · exact (hreplay hteril).not_ge hfull
  exact ⟨_, if_neg serves⟩

end

/-! ### The statement -/

/-- Settles O14: with clocks running each row answers what its meaning makes of the device; the pulses answer in every state. -/
theorem timebaseAndPortsAct : Obligations.TimebaseAndPortsAct := by
  unfold Obligations.TimebaseAndPortsAct
  refine ⟨⟨?gateSet, ?gateSwitch, ?histogram⟩,
    ⟨?stepAccept, ?sync, ?delayReq, ?announce, ?malformed, ?slaveLost, ?sourceLost, ?esmc, ?syncSend, ?sendEach, ?delayReqSend⟩,
    ⟨?ppsIn, ?ppsOut⟩, ?transmit⟩
  case gateSet => exact fun s c b hrun hlen hok hsoon => devRow_answer hrun (gateSet_waits hlen hok hsoon)
  case gateSwitch =>
    exact fun s e l t c hrun he hpend hdue => placeRow_answer hrun (decide_eq_true he) (gateSwitch_switches hpend hdue)
  case histogram => exact fun s b hrun hbeat hnow hfree => devRow_answer hrun (histSample_samples hbeat hnow hfree)
  case stepAccept =>
    intro s c seq hrun hpending hseq
    exact ⟨devRow_answer hrun (tbStepAccept_steps hpending hseq), devRow_answer hrun (tbStepAccept_slews hpending hseq)⟩
  case sync =>
    exact fun s e t1 t2 c1 d hrun he hptp hslave hstamp =>
      placeRow_answer hrun (fronthaul_there he) (ptpMessage_sync he hptp hslave hstamp)
  case delayReq =>
    exact fun s e t4 d hrun he hptp hmaster hstamp =>
      placeRow_answer hrun (fronthaul_there he) (ptpMessage_delayReq he hptp hmaster hstamp)
  case announce =>
    exact fun s e hrun he hptp hslave => placeRow_answer hrun (fronthaul_there he) (ptpMessage_announce he hptp hslave)
  case malformed => exact fun s e hrun he hptp => placeRow_answer hrun (fronthaul_there he) (ptpMessage_malformed he hptp)
  case slaveLost =>
    intro s hrun hvalid hgone d
    refine ⟨fun hlocked => devRow_answer hrun ((slaveLost_drops hvalid hgone).trans (if_pos hlocked)), fun hnever => ?_⟩
    exact devRow_answer hrun ((slaveLost_drops hvalid hgone).trans (if_neg (Bool.eq_false_iff.1 hnever)))
  case sourceLost => exact fun s e hrun hsrc => devRow_answer hrun (synceLost_freezes hsrc)
  case esmc => exact fun s e ql choose hrun he => placeRow_answer hrun (fronthaul_there he) (esmc_fronthaul he)
  case syncSend => exact fun s e hrun he => placeRow_answer hrun (decide_eq_true he) syncSend_sends
  case sendEach =>
    intro key period e kind bytes ok d
    cases hbeat : d.beat key period 0 with
    | none => exact sendEach_waits hbeat
    | some b => exact sendEach_due hbeat
  case delayReqSend => exact fun s b hrun hbeat hvalid => devRow_answer hrun (delayReqSend_sends hbeat hvalid)
  case ppsIn => exact fun s => rfl
  case ppsOut => exact fun s b hbeat hnow hout => sClockRow_answer (ppsPulse_rises hbeat hnow hout)
  case transmit =>
    intro s e i j f hrun he r d hfree hrate hpower hreplay hpick hframe hkept
    obtain ⟨fuel, serves⟩ := transmitStart_serves hfree hrate hpower hreplay
    exact placeRow_answer hrun (decide_eq_true he) (serves.trans (transmit_starts hpick hframe hkept))

end Sys2Proof.Proofs
end

section
/-! SUPPORT. Lends of HBM frames (R275) and checkpoints through the host (R288): what each row makes of the device, check by check. -/

namespace Sys2Proof.Proofs

open Sys2Proof Sys2Proof.Machine Sys2Proof.Laws

section
variable {d : Dev} {c : Src} {i t : Nat} {x : Lend}

/-! ### Lends (R275) -/

/-- A frame that TL_LEND cannot lend: it is absent, or someone has it. -/
def FrameHeld (d : Dev) (k : Nat) : Prop := d.frameAbsent k = true ∨ tabGet 0 d.mem.owner k ≠ 0

/-- What TL_LEND completes with LEND_BAD for. -/
def LendBad (d : Dev) (i first frames borrower : Nat) : Prop :=
  15 < i ∨ frames = 0 ∨ frameCount < first + frames ∨ (∃ k, k < frames ∧ FrameHeld d (first + k)) ∨
    (tabFind d.mem.lends i).isSome = true ∨ borrower / 8 ≠ d.getF F.tlSelfFaddr / 8

section
variable {first frames borrower : Nat}

theorem any_frameHeld :
    (List.range frames).any (fun k => d.frameAbsent (first + k) || decide (tabGet 0 d.mem.owner (first + k) ≠ 0)) = true ↔
      ∃ k, k < frames ∧ FrameHeld d (first + k) := by
  simp only [List.any_eq_true, List.mem_range, Bool.or_eq_true, decide_eq_true_eq, FrameHeld]

theorem tlLend_bad (h : LendBad d i first frames borrower) : tlLend c i first frames borrower d = done c 0x97 d := by
  rw [LendBad, ← any_frameHeld] at h
  exact if_pos h

theorem tlLend_lends (h : ¬ LendBad d i first frames borrower) :
    tlLend c i first frames borrower d =
      done c 0 (d.modMem (fun m =>
        { m with lends := tabPut m.lends i { first := first, frames := frames, borrower := borrower }
                 owner := (List.range frames).foldl (fun o k => tabSet 0 o (first + k) (64 + i)) m.owner })) := by
  rw [LendBad, ← any_frameHeld] at h
  exact if_neg h

theorem not_lendBad (hi : i ≤ 15) (hframes : frames ≠ 0) (hend : first + frames ≤ frameCount)
    (hfree : ∀ k, k < frames → d.frameAbsent (first + k) = false ∧ tabGet 0 d.mem.owner (first + k) = 0)
    (hindex : tabFind d.mem.lends i = none) (htray : borrower / 8 = d.getF F.tlSelfFaddr / 8) :
    ¬ LendBad d i first frames borrower := by
  rintro (h | h | h | ⟨k, hk, habsent | howned⟩ | h | h)
  · omega
  · exact hframes h
  · omega
  · exact Bool.false_ne_true ((hfree k hk).1.symm.trans habsent)
  · exact howned (hfree k hk).2
  · simp [hindex] at h
  · exact h htray

end

theorem tlUnlend_refuses (hlend : tabFind d.mem.lends i = some x) (hstands : x.withdrawn = none) :
    tlUnlend c i d = d.modMem (fun m => { m with lends := tabPut m.lends i { x with withdrawn := some (c, d.acyc) } }) := by
  simp [tlUnlend, hlend, hstands]

theorem tlUnlend_bad (h : ∀ x, tabFind d.mem.lends i = some x → x.withdrawn.isSome = true) : tlUnlend c i d = done c 0x97 d := by
  cases hlend : tabFind d.mem.lends i with
  | none => simp only [tlUnlend, hlend]
  | some x => simp only [tlUnlend, hlend, h x hlend, if_true]

theorem unlendZero_early
    (h : ∀ x c t, tabFind d.mem.lends i = some x → x.withdrawn = some (c, t) → d.acyc < t + 6000000) : unlendZero i d = d := by
  cases hlend : tabFind d.mem.lends i with
  | none => simp only [unlendZero, hlend]
  | some x =>
    cases hgone : x.withdrawn with
    | none => simp only [unlendZero, hlend, hgone]
    | some w => simp only [unlendZero, hlend, hgone, h x w.1 w.2 hlend hgone, if_true]

theorem unlendZero_due (hlend : tabFind d.mem.lends i = some x) (hgone : x.withdrawn = some (c, t)) (hdue : t + 6000000 ≤ d.acyc) :
    unlendZero i d =
      (let a := x.first * pageSize
       let n := x.frames * pageSize
       done c 0 (d.modMem (fun m =>
        { m with hbm := memZero m.hbm a n, tags := tabDrop m.tags (a / 64) (n / 64), lends := tabDel m.lends i
                 owner := tabDrop m.owner x.first x.frames }))) := by
  simp only [unlendZero, hlend, hgone, if_neg hdue.not_gt]

/-! ### Checkpoints (R288) -/

section
variable {p host pasid len : Nat}

/-- Room for the header, every HINT-3 page and for p0 every carrier record. -/
def ckptSize (d : Dev) (p : Nat) : Nat :=
  64 + ((d.part p).pt.filter (fun e => e.2.hint = 3)).length * (64 + pageSize) + 256 * (if p = 0 then d.carrierList else []).length

theorem ckptWrite_short (h : ¬ (d.pasidOk p pasid = true ∧ ckptSize d p ≤ len)) : ckptWrite c p host pasid len d = done c 6 d := by
  rw [not_and_or, Nat.not_le] at h
  exact if_pos h

theorem ckptWrite_writes (h : d.pasidOk p pasid = true ∧ ckptSize d p ≤ len) :
    ckptWrite c p host pasid len d =
      (let pages := (d.part p).pt.filter (fun e => e.2.hint = 3)
       let cars := if p = 0 then d.carrierList else []
       done c 0 (hostWrite host (leBytes 4 0x54504B43 ++ leBytes 4 (3 + d.getF F.tlSelfFaddr * 65536) ++ leBytes 8 d.nt.toNat ++
        leBytes 4 p ++ leBytes 4 pages.length ++ leBytes 4 cars.length ++ zeros 36 ++ pages.flatMap (ckptPage d p) ++
        cars.flatMap (ckptCarrier d)) d)) := by
  rw [← not_not (a := d.pasidOk p pasid = true), ← Nat.not_lt, ← not_or] at h
  exact if_neg h

/-- The schedule of p is armed or runs, or its keys are rotating. -/
def CkptBusy (d : Dev) (p : Nat) : Prop := (3 ≤ d.esState p ∧ d.esState p ≤ 6) ∨ (d.part p).rot.isSome = true

theorem ckptRestore_busy (h : CkptBusy d p) : ckptRestore c p host pasid len d = done c 0x9A d := if_pos h

section
variable (hidle : ¬ CkptBusy d p)
include hidle

theorem ckptRestore_foreign (hpasid : d.pasidOk p pasid = false) : ckptRestore c p host pasid len d = done c 6 d :=
  (if_neg hidle).trans (if_pos (Bool.eq_false_iff.1 hpasid))

variable (hpasid : d.pasidOk p pasid = true)
include hpasid

theorem ckptRestore_malformed (hstream : ckptOk d p host len = false) : ckptRestore c p host pasid len d = done c 0x9B d :=
  (if_neg hidle).trans ((if_neg (not_not.2 hpasid)).trans (if_pos (Bool.eq_false_iff.1 hstream)))

theorem ckptRestore_restores (hstream : ckptOk d p host len = true) :
    ckptRestore c p host pasid len d =
      (let h := d.hostRead host 64
       done c 0 ((List.range (fld h 0x18 15 0)).foldl (ckptRecord (host + 64 + at_ h 0x14 4 * (64 + pageSize)))
        ((List.range (at_ h 0x14 4)).foldl (ckptPut p host) d))) :=
  (if_neg hidle).trans ((if_neg (not_not.2 hpasid)).trans (if_neg (not_not.2 hstream)))

end

end

end

/-- A command of a partition that the package has answers what its meaning makes of the device. -/
theorem partRow_answer {s : State} {p : Nat} {f g : Dev → Dev} {d : Dev} (hrun : s.dev.pins.stopped = false) (hp : p < 32)
    (hf : f s.dev = d) : upd s (if p < 32 then f else g) = .next { s with dev := d } :=
  devRow_answer hrun ((congrFun (if_pos hp) s.dev).trans hf)

/-- Settles O17: each command by its checks, the end of a lend by its time. -/
theorem lendsAndCheckpointsAct : Obligations.LendsAndCheckpointsAct := by
  unfold Obligations.LendsAndCheckpointsAct
  refine ⟨⟨?lend, ?unlend, ?lendBad, ?unlendBad, ?early, ?due⟩, ?write, ?restore⟩
  case lend =>
    exact fun s c i first frames borrower hrun hi hframes hend hfree hindex htray =>
      devRow_answer hrun (tlLend_lends (not_lendBad hi hframes hend hfree hindex htray))
  case unlend => exact fun s c i x hrun hlend hstands => devRow_answer hrun (tlUnlend_refuses hlend hstands)
  case lendBad => exact fun s c i first frames borrower hrun h => devRow_answer hrun (tlLend_bad h)
  case unlendBad => exact fun s c i hrun h => devRow_answer hrun (tlUnlend_bad h)
  case early => exact fun s i hrun h => devRow_answer hrun (unlendZero_early h)
  case due => exact fun s c i t x hrun hlend hgone hdue => devRow_answer hrun (unlendZero_due hlend hgone hdue)
  case write =>
    intro s c p host pasid len hrun hp
    exact ⟨fun h => partRow_answer hrun hp (ckptWrite_writes h), fun h => partRow_answer hrun hp (ckptWrite_short h)⟩
  case restore =>
    intro s c p host pasid len hrun hp
    exact ⟨fun h => partRow_answer hrun hp (ckptRestore_busy h), fun h hpasid => partRow_answer hrun hp (ckptRestore_foreign h hpasid),
      fun h hpasid hbad => partRow_answer hrun hp (ckptRestore_malformed h hpasid hbad),
      fun h hpasid hok => partRow_answer hrun hp (ckptRestore_restores h hpasid hok)⟩

end Sys2Proof.Proofs
end

section
/-! SUPPORT. Arrival of flits on a Teril link (R257, R258, R399): everything `receive` does with a flit, case by case, and what two rows
with operands of their own hand to it. -/

namespace Sys2Proof.Proofs

open Sys2Proof Sys2Proof.Machine Sys2Proof.Laws

section
variable {d : Dev} {l : Nat} {hdr : BitVec 96} {ok data : Bool} {src : Option Nat} {f : Dev → Dev}

/-- An accepted flit changes its link and no register. -/
theorem flitIn_getF (l : Nat) (d : Dev) (x : Field) (i : Nat) : (flitIn l d).getF x i = d.getF x i := rfl

theorem dropped_fenced (l : Nat) (d : Dev) : (tlDrop (flitIn l d)).fenced = d.fenced := rfl

theorem dropped_members (l : Nat) (d : Dev) : (tlDrop (flitIn l d)).teril.members = d.teril.members := rfl

/-! ### Sources that are refused -/

theorem refuses_closed (h : d.fenced = true ∨ d.teril.members = none) : d.refuses src = true := by
  obtain h | h := h <;> simp [Dev.refuses, h]

theorem refuses_stranger {m : List Nat} {a : Nat} (hmembers : d.teril.members = some m) (ha : a ∉ m) : d.refuses (some a) = true := by
  simp [Dev.refuses, hmembers, ha]

/-! ### The link -/

/-- On a link that is not in service nothing arrives. -/
theorem receive_down (hdown : d.flag F.tlLinkStatusUp l = false) : receive l hdr ok data src f d = d :=
  if_pos (Bool.eq_false_iff.1 hdown)

section
variable (hup : d.flag F.tlLinkStatusUp l = true)
include hup

theorem receive_foreign (hdst : hf hdr 15 4 ≠ d.getF F.tlSelfFaddr) : receive l hdr ok data src f d = tlDrop (flitIn l d) :=
  (if_neg (not_not.2 hup)).trans (if_pos (.inl hdst))

/-- A flit for this device that keeps its format, from a source that is not refused. -/
theorem receive_wellFormed (hdst : hf hdr 15 4 = d.getF F.tlSelfFaddr) (hok : ok = true)
    (h : data = true → (flitIn l d).refuses src = false) :
    receive l hdr ok data src f d = f (flitIn l d) := by
  have taken : ¬ (hf hdr 15 4 ≠ (flitIn l d).getF F.tlSelfFaddr ∨ ¬ ok = true) := not_or.2 ⟨not_not.2 hdst, not_not.2 hok⟩
  have heard : ¬ (data = true ∧ (flitIn l d).refuses src = true) := fun r => Bool.false_ne_true ((h r.1).symm.trans r.2)
  exact (if_neg (not_not.2 hup)).trans ((if_neg taken).trans (if_neg heard))

section
variable (hdata : ok = true → data = true)
include hdata

/-- While FENCED or before the first MEMBER_CONFIRM a data flit is dropped, whoever sent it. -/
theorem receive_closed (h : d.fenced = true ∨ d.teril.members = none) : receive l hdr ok data src f d = tlDrop (flitIn l d) := by
  by_cases hform : hf hdr 15 4 ≠ d.getF F.tlSelfFaddr ∨ ¬ ok = true
  · exact (if_neg (not_not.2 hup)).trans (if_pos hform)
  · obtain ⟨hdst, hok⟩ := not_or.1 hform
    have refused : (flitIn l d).refuses src = true := refuses_closed h
    refine (if_neg (not_not.2 hup)).trans ((if_neg hform).trans ((if_pos ⟨hdata (not_not.1 hok), refused⟩).trans ?_))
    obtain h | h := h
    · simp only [dropped_fenced, h]
    · simp only [dropped_members, h]
      cases (tlDrop (flitIn l d)).fenced <;> rfl

/-- The source of a data flit that is no confirmed member gets a stale notice. -/
theorem receive_stranger {m : List Nat} {a : Nat} (hdst : hf hdr 15 4 = d.getF F.tlSelfFaddr) (hok : ok = true)
    (hopen : d.fenced = false) (hmembers : d.teril.members = some m) (ha : a ∉ m) :
    receive l hdr ok data (some a) f d = staleNotice a (tlDrop (flitIn l d)) := by
  have refused : (flitIn l d).refuses (some a) = true := refuses_stranger hmembers ha
  simp only [receive, hup, hdst, flitIn_getF, hok, hdata hok, refused, dropped_fenced, dropped_members, hopen, hmembers, not_true_eq_false,
    ne_eq, or_self, and_self, if_false, if_true]

end

end

end

/-! ### What BULK_RECEIVE and MIRROR_RECEIVE hand to `receive` -/

/-- What BULK_RECEIVE takes: data of a get that this device asked for, else data of a put. -/
def bulkTaken (hdr : BitVec 96) (b : Bytes) (d : Dev) : Dev :=
  let put := bulkPut (hf hdr 27 16) (hTag hdr) (hf hdr 75 44) (hdr.getLsbD 78) (b.take (64 * (hf hdr 77 76 + 1))) d
  match tabFind d.teril.reqs (hTag hdr) with
  | some r =>
    if r.dst = hf hdr 27 16 ∧ r.bulk ∧ r.isGet then bulkGet (hTag hdr) (hf hdr 75 44) (b.take (64 * (hf hdr 77 76 + 1))) r d else put
  | none => put

theorem bulkReceive_eq (l : Nat) (hdr : BitVec 96) (b : Bytes) :
    bulkReceive l hdr b =
      receive l hdr (decide (hf hdr 3 0 = 5 ∧ hf hdr 95 79 = 0)) true (some (hf hdr 27 16)) (bulkTaken hdr b) := rfl

/-- What MIRROR_RECEIVE takes: page data or a carrier record of the partner, for a partition that has not been taken over. -/
def mirrorTaken (hdr : BitVec 96) (b : Bytes) (d : Dev) : Dev :=
  if ¬ d.fromPartner hdr ∨ d.teril.taken.contains (hf hdr 32 28) then tlDrop d
  else match Config.recordIndex (BitVec.ofNat 42 (hf hdr 75 34)) with
    | some _ =>
      (match Config.recordOf b with
        | some (i, r) => d.modTeril (fun t => { t with records := tabPut t.records i r })
        | none => tlDrop d)
    | none =>
      mirrorData (hf hdr 32 28) (hf hdr 75 34) (hf hdr 77 76 + 1) (hdr.getLsbD 33) (b.take (64 * (hf hdr 77 76 + 1))) hdr d

theorem mirrorReceive_eq (l : Nat) (hdr : BitVec 96) (b : Bytes) :
    mirrorReceive l hdr b =
      receive l hdr (decide (hf hdr 3 0 = 6 ∧ hf hdr 95 78 = 0)) true (some (hf hdr 27 16)) (mirrorTaken hdr b) := rfl

theorem exec_bulkReceive (l : Nat) (hdr : BitVec 96) (b : Bytes) (s : State) :
    exec (.bulkReceive l hdr b) s =
      there (l < 16) s
        (upd s (receive l hdr (decide (hf hdr 3 0 = 5 ∧ hf hdr 95 79 = 0)) true (some (hf hdr 27 16)) (bulkTaken hdr b))) := rfl

theorem exec_mirrorReceive (l : Nat) (hdr : BitVec 96) (b : Bytes) (s : State) :
    exec (.mirrorReceive l hdr b) s =
      there (l < 16) s
        (upd s (receive l hdr (decide (hf hdr 3 0 = 6 ∧ hf hdr 95 78 = 0)) true (some (hf hdr 27 16)) (mirrorTaken hdr b))) := rfl

end Sys2Proof.Proofs
end

section
/-! SUPPORT. The mirror pair (R279 to R285): its commands by their checks, its events by its state, what is copied and what of the
partner's flits is taken. -/

namespace Sys2Proof.Proofs

open Sys2Proof Sys2Proof.Machine Sys2Proof.Laws

section
variable {d : Dev} {c : Src}

/-! ### Commands (R279, R280, R285) -/

section
variable {partner links cap : Nat}

/-- What MIRROR_SET completes with MIR_BAD for. -/
def MirrorSetBad (d : Dev) (partner links cap : Nat) : Prop :=
  4095 < partner ∨ (partner ≠ 0 ∧ (partner = d.getF F.tlSelfFaddr ∨ cap = 0 ∨ 200 < cap ∨ 65535 < links ∨
    d.terilGbs < cap + sumL ((List.range 32).map (fun p => regRate (d.regWord p 8)))))

/-- The links and the cap named, nothing dirty, nothing in flight. -/
def mirrorCleared (links cap : Nat) (d : Dev) : Dev :=
  d.modTeril (fun t => { t with mirLinks := links, mirCap := cap, dirty := [], copying := [], mirAt := d.nt })

theorem mirrorSet_bad (h : MirrorSetBad d partner links cap) : mirrorSet c partner links cap d = done c 0x98 d := if_pos h

theorem mirrorSet_pairs (h : ¬ MirrorSetBad d partner links cap) (hpartner : partner ≠ 0) :
    mirrorSet c partner links cap d =
      done c 0 (((mirrorCleared links cap d).setF F.tlMirStatusPartner 0 partner).setF F.tlMirStatusState 0 1) := by
  refine (if_neg h).trans ?_
  simp only [if_neg hpartner, mirrorCleared]

theorem mirrorSet_off :
    mirrorSet c 0 links cap d = done c 0 (((mirrorCleared links cap d).setF F.tlMirStatusPartner 0 0).setF F.tlMirStatusState 0 0) := by
  have good : ¬ MirrorSetBad d 0 links cap := by simp [MirrorSetBad]
  exact if_neg good

end

section
variable {p q : Nat}

/-- What MIRROR_MAP completes with MIR_BAD for. -/
def MirrorMapBad (d : Dev) (p q : Nat) : Prop :=
  31 < p ∨ 31 < q ∨ (p = 0 ∧ q ≠ 0) ∨ (p ≠ 0 ∧ q = 0) ∨ (p ≠ 0 ∧ d.pstate p = 0)

theorem mirrorMap_bad (h : MirrorMapBad d p q) : mirrorMap c p q d = done c 0x98 d := if_pos h

theorem mirrorMap_off (h : ¬ MirrorMapBad d p q) (hst : d.mirSt = 0) : mirrorMap c p q d = done c 0x99 d :=
  (if_neg h).trans (if_pos hst)

theorem mirrorMap_maps (h : ¬ MirrorMapBad d p q) (hst : d.mirSt ≠ 0) :
    mirrorMap c p q d = done c 0 (markPart p ((d.modPart p (fun x => { x with mirror := some q })).modTeril
      (fun t => { t with taken := t.taken.filter (· ≠ p) }))) :=
  (if_neg h).trans (if_neg hst)

end

section
variable {mask : BitVec 32} {result : Nat}

/-- The partitions that a mask names. -/
abbrev maskParts (mask : BitVec 32) : List Nat := (List.range 32).filter (fun p => mask.getLsbD p)

/-- A named partition does not exist. -/
def TakeoverBad (d : Dev) (mask : BitVec 32) : Prop := ∃ p ∈ maskParts mask, p ≠ 0 ∧ d.pstate p = 0

theorem takeoverBad_iff : (maskParts mask).any (fun p => decide (p ≠ 0 ∧ d.pstate p = 0)) = true ↔ TakeoverBad d mask := by
  simp only [List.any_eq_true, decide_eq_true_eq, TakeoverBad]

theorem mirrorTakeover_bad (h : TakeoverBad d mask) : mirrorTakeover c mask result d = done c 0x98 d := if_pos (takeoverBad_iff.2 h)

section
variable (h : ¬ TakeoverBad d mask)
include h

theorem mirrorTakeover_off (hst : d.mirSt = 0) : mirrorTakeover c mask result d = done c 0x99 d :=
  (if_neg (mt takeoverBad_iff.1 h)).trans (if_pos hst)

theorem mirrorTakeover_takes (hst : d.mirSt ≠ 0) :
    mirrorTakeover c mask result d =
      (let ps := maskParts mask
       let d := d.modTeril (fun t =>
        { t with taken := ps ++ t.taken.filter (fun p => ! ps.contains p)
                 dirty := t.dirty.filter (fun x => ! ps.contains x.1), copying := t.copying.filter (fun x => ! ps.contains x.1) })
       let d := ps.foldl (fun d p => d.modPart p (fun x => { x with pt := x.pt.map (fun e => (e.1, { e.2 with recvOnly := false })) })) d
       let d := if mask.getLsbD 0 then d.teril.records.foldl (fun d r => loadRecord r.1 r.2 d) d else d
       done c 0 ((hostWrite result (ps.flatMap (fun p => leBytes 8 (d.getF F.tlMirHorizonH p))) d).raise F.tlMirStatusTakeover)) :=
  (if_neg (mt takeoverBad_iff.1 h)).trans (if_neg hst)

end

end

/-! ### Events of the pair (R279) -/

theorem mirrorPaired_pairing (hst : d.mirSt = 1) : mirrorPaired d = markAll (d.setF F.tlMirStatusState 0 2) := if_pos hst

theorem mirrorPaired_other (hst : d.mirSt ≠ 1) : mirrorPaired d = d := if_neg hst

theorem mirrorBroken_active (hst : d.mirSt = 2) : mirrorBroken d = (d.setF F.tlMirStatusState 0 3).raise F.tlMirStatusBroken :=
  if_pos (.inr hst)

theorem mirrorRegained_pairs {m : List Nat} (hst : d.mirSt = 3) (hmembers : d.teril.members = some m)
    (hpartner : d.getF F.tlMirStatusPartner ∈ m) (hopen : d.fenced = false) : mirrorRegained d = d.setF F.tlMirStatusState 0 1 := by
  simp [mirrorRegained, hst, hmembers, hpartner, hopen]

theorem mirrorRegained_other
    (h : d.mirSt ≠ 3 ∨ d.fenced = true ∨ ∀ m, d.teril.members = some m → d.getF F.tlMirStatusPartner ∉ m) : mirrorRegained d = d := by
  obtain hst | hfenced | hstranger := h
  · simp [mirrorRegained, hst]
  · simp [mirrorRegained, hfenced]
  · cases hmembers : d.teril.members with
    | none => simp [mirrorRegained, hmembers]
    | some m => simp [mirrorRegained, hmembers, hstranger m hmembers]

/-! ### Copying (R281, R283) -/

theorem chunkCopy_idle
    (h : d.copyOrder = [] ∨ d.dataLinks d.teril.mirLinks = [] ∨ d.mirSt ≠ 2 ∨ d.fenced = true ∨ reached d d.teril.mirAt = false) :
    chunkCopy d = d := by
  cases horder : d.copyOrder with
  | nil => simp only [chunkCopy, horder]
  | cons x rest =>
    cases hlinks : d.dataLinks d.teril.mirLinks with
    | nil => simp only [chunkCopy, horder, hlinks]
    | cons l ls =>
      have still : d.mirSt ≠ 2 ∨ d.fenced = true ∨ ¬ reached d d.teril.mirAt = true ∨ ¬ d.mayIssue 9 x.1 = true := by
        simp only [horder, hlinks, reduceCtorEq, false_or] at h
        obtain h | h | h := h
        · exact .inl h
        · exact .inr (.inl h)
        · exact .inr (.inr (.inl (Bool.eq_false_iff.1 h)))
      simp only [chunkCopy, horder, hlinks]
      exact if_pos still

theorem chunkCopy_copies {p vpn chunk q l : Nat} {t : BitVec 64} {rest : List (Nat × Nat × Nat × BitVec 64)} {ls : List Nat} {e : Pte}
    (horder : d.copyOrder = (p, vpn, chunk, t) :: rest) (hlinks : d.dataLinks d.teril.mirLinks = l :: ls)
    (hgo : d.mirSt = 2 ∧ d.fenced = false ∧ reached d d.teril.mirAt = true ∧ d.mayIssue 9 p = true) {r : Dev}
    (hr : r = d.modTeril (fun x => { x with dirty := x.dirty.erase (p, vpn, chunk, t) }))
    (hmirror : r.mirrorOf p = some q) (hpte : r.pte p vpn = some e) (hhint : e.hint = 3) :
    chunkCopy d =
      (let link := ((l :: ls)[chunk % (ls.length + 1)]?).getD l
       let n := (edgeProg 9 1024 r).modTeril (fun x =>
        { x with copying := x.copying ++ [(p, vpn, chunk, t, r.nt)], mirAt := later r.nt (ceilDiv (65536 * 8) (max 1 x.mirCap)) })
       sendChunk p vpn chunk q e link (xlate 5 0 p (vpn * pageSize + chunk * 65536) 65536 n)) := by
  obtain ⟨hst, hopen, hcap, hmover⟩ := hgo
  subst hr
  have goes : ¬ (d.mirSt ≠ 2 ∨ d.fenced = true ∨ ¬ reached d d.teril.mirAt = true ∨ ¬ d.mayIssue 9 p = true) := by
    simp only [hst, hopen, hcap, hmover, ne_eq, not_true_eq_false, Bool.false_eq_true, or_self, not_false_eq_true]
  simp only [chunkCopy, horder, hlinks]
  refine (if_neg goes).trans ?_
  simp only [hmirror, hpte]
  exact if_neg (not_not.2 hhint)

theorem horizonSend_none (h : d.beat 6 80000 0 = none) : horizonSend d = d := by simp only [horizonSend, h]

/-- The horizons do not depend on which boundaries have been acted on. -/
theorem horizonSend_due {b : BitVec 64} (h : d.beat 6 80000 0 = some b) (hst : d.mirSt = 2) :
    horizonSend d =
      sendFlit d.teril.mirLinks 1 (hdrOf [(0, 8), (4, d.getF F.tlMirStatusPartner), (16, d.getF F.tlSelfFaddr), (28, 5)])
        ((List.range 32).flatMap (fun q => leBytes 8 (d.horizonInto q))) (beatDone 6 b d) := by
  have active : ¬ (beatDone 6 b d).mirSt ≠ 2 := not_not.2 hst
  simp only [horizonSend, h]
  exact if_neg active

/-! ### Flits of the partner (R281, R283 to R285) -/

theorem partner_kept {hdr : BitVec 96} (hpartner : d.fromPartner hdr = true) (hkept : d.teril.taken.contains (hf hdr 32 28) = false) :
    ¬ (¬ d.fromPartner hdr = true ∨ d.teril.taken.contains (hf hdr 32 28) = true) :=
  not_or.2 ⟨not_not.2 hpartner, Bool.eq_false_iff.1 hkept⟩

section
variable {l : Nat} {hdr : BitVec 96} {b : Bytes} (hup : d.flag F.tlLinkStatusUp l = true) (hdst : hf hdr 15 4 = d.getF F.tlSelfFaddr)
  (hpartner : (flitIn l d).fromPartner hdr = true)
include hup hdst hpartner

theorem mirrorAck_cleans (hform : hf hdr 3 0 = 8 ∧ hSub hdr = 6) :
    mirrorAck l hdr b d = (flitIn l d).modTeril (fun t => { t with copying := t.copying.filter (fun x =>
      ¬ (x.2.1 = at_ b 0 8 / pageSize ∧ x.2.2.1 = at_ b 0 8 % pageSize / 65536 ∧ (flitIn l d).mirrorOf x.1 = some (at_ b 8 1))) }) :=
  (receive_wellFormed (data := false) hup hdst (decide_eq_true hform) nofun).trans (if_neg (not_not.2 hpartner))

theorem horizonReceive_notes (hform : hf hdr 3 0 = 8 ∧ hSub hdr = 5) :
    horizonReceive l hdr b d = (List.range 32).foldl (fun d q =>
      if at_ b (8 * q) 8 = 0 ∨ d.teril.taken.contains q then d else d.setF F.tlMirHorizonH q (at_ b (8 * q) 8)) (flitIn l d) :=
  (receive_wellFormed (data := false) hup hdst (decide_eq_true hform) nofun).trans (if_neg (not_not.2 hpartner))

section
variable (hform : hf hdr 3 0 = 6 ∧ hf hdr 95 78 = 0) (hsrc : (flitIn l d).refuses (some (hf hdr 27 16)) = false)
  (hkept : (flitIn l d).teril.taken.contains (hf hdr 32 28) = false)
include hform hsrc hkept

theorem mirrorReceive_data (hpage : Config.recordIndex (BitVec.ofNat 42 (hf hdr 75 34)) = none) :
    mirrorReceive l hdr b d = mirrorData (hf hdr 32 28) (hf hdr 75 34) (hf hdr 77 76 + 1) (hdr.getLsbD 33)
      (b.take (64 * (hf hdr 77 76 + 1))) hdr (flitIn l d) := by
  rw [mirrorReceive_eq, receive_wellFormed hup hdst (decide_eq_true hform) fun _ => hsrc]
  simp only [mirrorTaken, if_neg (partner_kept hpartner hkept), hpage]

theorem mirrorReceive_record {k i : Nat} {r : List Nat × Int × Nat × Nat}
    (hrecord : Config.recordIndex (BitVec.ofNat 42 (hf hdr 75 34)) = some k) (hbody : Config.recordOf b = some (i, r)) :
    mirrorReceive l hdr b d = (flitIn l d).modTeril (fun t => { t with records := tabPut t.records i r }) := by
  rw [mirrorReceive_eq, receive_wellFormed hup hdst (decide_eq_true hform) fun _ => hsrc]
  simp only [mirrorTaken, if_neg (partner_kept hpartner hkept), hrecord, hbody]

end

end

end

/-- Settles O18: the commands by their checks, the events by the pair's state, the flits by `receive`. -/
theorem mirrorPairActs : Obligations.MirrorPairActs := by
  unfold Obligations.MirrorPairActs
  refine ⟨⟨?set, ?map, ?takeover, ?events⟩, ?copies, ?idle, ?timeout, ?horizons, ?noHorizons, ?flits⟩
  case set =>
    intro s c partner links cap hrun bad d
    refine ⟨fun h => devRow_answer hrun (mirrorSet_bad h), fun h hpartner => devRow_answer hrun (mirrorSet_pairs h hpartner), ?_⟩
    rintro rfl
    exact devRow_answer hrun mirrorSet_off
  case map =>
    intro s c p q hrun bad
    exact ⟨fun h => devRow_answer hrun (mirrorMap_bad h), fun h hst => devRow_answer hrun (mirrorMap_off h hst),
      fun h hst => devRow_answer hrun (mirrorMap_maps h hst)⟩
  case takeover =>
    intro s c mask result hrun ps bad
    exact ⟨fun h => devRow_answer hrun (mirrorTakeover_bad h), fun h hst => devRow_answer hrun (mirrorTakeover_off h hst),
      fun h hst => devRow_answer hrun (mirrorTakeover_takes h hst)⟩
  case events =>
    intro s hrun
    exact ⟨fun hst => devRow_answer hrun (mirrorPaired_pairing hst), fun hst => devRow_answer hrun (mirrorPaired_other hst),
      fun hst => devRow_answer hrun ((if_pos hst).trans (mirrorBroken_active hst)), fun hst => devRow_answer hrun (if_neg hst),
      fun m hst hmembers hpartner hopen => devRow_answer hrun (mirrorRegained_pairs hst hmembers hpartner hopen),
      fun h => devRow_answer hrun (mirrorRegained_other h)⟩
  case copies =>
    intro s p vpn chunk q l t rest ls e hrun horder hlinks hst hopen hcap hmover r hmirror hpte hhint
    exact devRow_answer hrun (chunkCopy_copies horder hlinks ⟨hst, hopen, hcap, hmover⟩ rfl hmirror hpte hhint)
  case idle => exact fun s hrun h => devRow_answer hrun (chunkCopy_idle h)
  case timeout => exact fun s hrun => devRow_answer hrun rfl
  case horizons => exact fun s b hrun hbeat hst => devRow_answer hrun (horizonSend_due hbeat hst)
  case noHorizons => exact fun s hrun hbeat => devRow_answer hrun (horizonSend_none hbeat)
  case flits =>
    intro s l hdr b hrun hl hup hdst d hpartner
    have answer {f : Dev → Dev} {r : Dev} (hf : f s.dev = r) := placeRow_answer hrun (decide_eq_true hl) hf
    exact ⟨fun hty hsub => answer (mirrorAck_cleans hup hdst hpartner ⟨hty, hsub⟩),
      fun hty hsub => answer (horizonReceive_notes hup hdst hpartner ⟨hty, hsub⟩),
      fun hty h78 hsrc hkept hpage => answer (mirrorReceive_data hup hdst hpartner ⟨hty, h78⟩ hsrc hkept hpage),
      fun k i r hty h78 hsrc hkept hrecord hbody =>
        answer (mirrorReceive_record hup hdst hpartner ⟨hty, h78⟩ hsrc hkept hrecord hbody)⟩

end Sys2Proof.Proofs
end

section
/-! SUPPORT. Time while exchange data is written: nothing that a write of tier 2 or of a scratchpad brings moves it (R12, R13). -/

namespace Sys2Proof.Proofs

open Sys2Proof Sys2Proof.Machine Sys2Proof.Laws

section
variable (d : Dev)

@[simp] theorem modPart_time (p : Nat) (f : Part → Part) : timeOf (d.modPart p f) = timeOf d := rfl

@[simp] theorem putUnit_time (a : PAddr) (b : Bytes) (t : UnitTag) : timeOf (putUnit a b t d) = timeOf d := by cases a <;> rfl

@[simp] theorem pageCharge_time (p : Nat) (e : Pte) (n : Nat) : timeOf (pageCharge p e n d) = timeOf d := by
  unfold pageCharge
  split <;> simp

@[simp] theorem rewritePage_time (p vpn : Nat) (e : Pte) : timeOf (rewritePage p vpn e d) = timeOf d := by
  unfold rewritePage
  dsimp only
  rw [modPart_time, foldl_time, pageCharge_time]
  exact fun c i => (putUnit_time _ _ _ _).trans (unitNote_time c _ _)

@[simp] theorem takeBytes_time (n : Nat) : timeOf (takeBytes n d).2 = timeOf d := rfl

@[simp] theorem markDirty_time (p vpn chunk : Nat) : timeOf (markDirty p vpn chunk d) = timeOf d := by
  unfold markDirty
  dsimp only
  split_ifs <;> rfl

@[simp] theorem putVia_time (e : Pte) (p va o : Nat) (b : Bytes) : timeOf (putVia e p va o b d) = timeOf d := by
  unfold putVia
  dsimp only
  rw [markDirty_time, putUnit_time]
  split_ifs <;> simp

@[simp] theorem vWriteBy_time (look : Look) (p a : Nat) (b : Bytes) : timeOf (vWriteBy look p a b d) = timeOf d := by
  refine foldl_time _ _ d fun c u => ?_
  dsimp only
  split
  · exact ite_time (raise_time c _ _) (ite_time rfl (putVia_time c _ _ _ _ _))
  · rfl

@[simp] theorem tierWrite_time (unit g p a : Nat) (b : Bytes) : timeOf (tierWrite unit g p a b d) = timeOf d := by
  have written : timeOf (vWrite p a b (xlate unit g p a b.length (hbmCharge p a b.length d))) = timeOf d := by simp [vWrite]
  unfold tierWrite
  dsimp only
  split
  · exact (xlateFault_time _ _ _ _ _ _).trans written
  · exact written

@[simp] theorem openCells_time (open_ : List (Nat × Nat × Nat)) (g : Nat) (cores : List Nat) (tier a : Nat) (b : Bytes) :
    timeOf (openCells open_ g cores tier a b d).2 = timeOf d := by
  unfold openCells
  split_ifs <;> rfl

theorem xdataWrite_time (p : Nat) (im : Image) (who : Who) (epoch : Nat) (hdr : BitVec 96) (b : Bytes) :
    timeOf (xdataWrite p im who epoch hdr b d) = timeOf d := by
  have noted (rs : List (Nat × Nat × Nat)) (e : Dev) : timeOf (noteWrote p epoch who rs e) = timeOf e := modSched_time e p _
  unfold xdataWrite
  refine ite_time ((portWrite_time _ _ _ _ _ _ _).trans ?_) ((tierWrite_time _ _ _ _ _ _).trans ?_)
  all_goals exact (noted _ _).trans (openCells_time _ _ _ _ _ _ _)

end

end Sys2Proof.Proofs
end

section
/-! SUPPORT. Flits of the fabric for this device (R145 to R147, R257, R268 to R271, R277, R278, R399): what each row takes, ignores or
drops. -/

namespace Sys2Proof.Proofs

open Sys2Proof Sys2Proof.Machine Sys2Proof.Laws

section
variable {d : Dev} {hdr : BitVec 96} {b : Bytes} {p role inst e total c : Nat} {im : Image}

/-! ### Exchange data (R145 to R147) -/

/-- Exchange data of a role and slot that the job lists, for the slot's next consuming epoch. -/
structure Expected (d : Dev) (hdr : BitVec 96) (p role inst : Nat) (im : Image) (e total c : Nat) : Prop where
  code : ∃ a, d.codeOf (hf hdr 31 16) = some (p, role, inst, a)
  active : (d.sched p).active = some im
  slot : im.slots.find? (fun s => s.1 = hf hdr 44 32) = some (hf hdr 44 32, e, total)
  epoch : d.nextConsuming p (hf hdr 44 32) (hf hdr 46 45 % 2) = some c

/-- Where a partition counts what has arrived for the slot and the epoch's parity. -/
abbrev slotKey (hdr : BitVec 96) : Nat := hf hdr 44 32 * 2 + hf hdr 46 45 % 2

/-- What has arrived there. -/
abbrev slotPresence (d : Dev) (hdr : BitVec 96) (p : Nat) : Presence := tabGet {} (d.sched p).presence (slotKey hdr)

/-- What R147 drops it for: its schedule does not run, the flit is of another epoch, or the role has sent under another number. -/
def Stale (d : Dev) (hdr : BitVec 96) (p role inst c : Nat) : Prop :=
  d.esState p < 3 ∨ 6 < d.esState p ∨ c % 4 ≠ hf hdr 46 45 ∨
    (tabGet 0 (slotPresence d hdr p).inst role ≠ 0 ∧ tabGet 0 (slotPresence d hdr p).inst role ≠ inst)

namespace Expected

variable (h : Expected d hdr p role inst im e total c)
include h

theorem dropped (hstale : Stale d hdr p role inst c) : xdata hdr b d = esDrop p d := by
  obtain ⟨⟨a, hcode⟩, hactive, hslot, hepoch⟩ := h
  simp only [xdata, hcode, hactive, hslot, hepoch]
  exact if_pos hstale

theorem written (hfresh : ¬ Stale d hdr p role inst c)
    (hrest : Config.xdataTier0 hdr = true ∨ d.vMigrating p (hf hdr 89 48 * 64) (64 * (hf hdr 91 90 + 1)) = false) :
    xdata hdr b d =
      (xdataWrite p im (200 + role, inst, hf hdr 44 32) c hdr (b.take (64 * (hf hdr 91 90 + 1))) d).modSched p (fun s =>
        { s with presence := tabSet {} s.presence (slotKey hdr)
                  (received c (e + 1) total role inst (hf hdr 91 90 + 1) d.acyc (slotPresence d hdr p)) }) := by
  obtain ⟨⟨a, hcode⟩, hactive, hslot, hepoch⟩ := h
  have rests : ¬ (¬ Config.xdataTier0 hdr = true ∧ d.vMigrating p (hf hdr 89 48 * 64) (64 * (hf hdr 91 90 + 1)) = true) := by
    rwa [not_and_or, not_not, Bool.not_eq_true]
  have now : (xdataWrite p im (200 + role, inst, hf hdr 44 32) c hdr (b.take (64 * (hf hdr 91 90 + 1))) d).acyc = d.acyc :=
    congrArg Prod.fst (xdataWrite_time _ _ _ _ _ _ _)
  rw [← now]
  simp only [xdata, hcode, hactive, hslot, hepoch]
  exact (if_neg hfresh).trans (if_neg rests)

end Expected

theorem not_stale (hlow : 3 ≤ d.esState p) (hhigh : d.esState p ≤ 6) (hcep : c % 4 = hf hdr 46 45)
    (hinst : tabGet 0 (slotPresence d hdr p).inst role = 0 ∨ tabGet 0 (slotPresence d hdr p).inst role = inst) :
    ¬ Stale d hdr p role inst c := by
  rintro (h | h | h | ⟨h0, h1⟩)
  · exact h.not_ge hlow
  · exact h.not_ge hhigh
  · exact h hcep
  · exact hinst.elim h0 h1

end

/-! ### The rows on a link in service -/

section
variable {d : Dev} {l : Nat} {hdr : BitVec 96} {b : Bytes} {r : Req} (hup : d.flag F.tlLinkStatusUp l = true)
  (hdst : hf hdr 15 4 = d.getF F.tlSelfFaddr)
include hup hdst

theorem xdataReceive_taken (hform : hf hdr 3 0 = 1 ∧ hf hdr 47 47 = 0 ∧ hf hdr 95 92 = 0)
    (hsrc : (flitIn l d).refuses (d.codeSrc (hf hdr 31 16)) = false) : xdataReceive l hdr b d = xdata hdr b (flitIn l d) :=
  receive_wellFormed hup hdst (decide_eq_true hform) fun _ => hsrc

theorem xrelReceive_taken
    (hform : hf hdr 3 0 = 2 ∧ 1 ≤ hf hdr 39 32 ∧ hf hdr 39 32 ≤ 64 ∧ hf hdr 47 40 = 0 ∧ hf hdr 95 48 = 0)
    (hsrc : (flitIn l d).refuses (d.codeSrc (hf hdr 31 16)) = false) : xrelReceive l hdr b d = xrel hdr b (flitIn l d) :=
  receive_wellFormed hup hdst (decide_eq_true hform) fun _ => hsrc

/-! Acknowledgements of bulk transfers (R278). -/

theorem bulkAckReceive_resolves (hform : hf hdr 3 0 = 8 ∧ hSub hdr = 7)
    (hreq : tabFind (flitIn l d).teril.reqs (at_ b 0 2) = some r) (hmine : r.dst = hf hdr 27 16 ∧ r.bulk = true ∧ r.isGet = false) :
    bulkAckReceive l hdr b d = resolveReq (at_ b 0 2) 0 0 (flitIn l d) := by
  refine (receive_wellFormed (data := false) hup hdst (decide_eq_true hform) nofun).trans ?_
  simp only [hreq, Bool.not_eq_true', if_pos hmine]

theorem bulkAckReceive_ignored (hform : hf hdr 3 0 = 8 ∧ hSub hdr = 7)
    (h : ∀ r, tabFind (flitIn l d).teril.reqs (at_ b 0 2) = some r → r.dst ≠ hf hdr 27 16 ∨ r.bulk = false ∨ r.isGet = true) :
    bulkAckReceive l hdr b d = flitIn l d := by
  refine (receive_wellFormed (data := false) hup hdst (decide_eq_true hform) nofun).trans ?_
  cases hreq : tabFind (flitIn l d).teril.reqs (at_ b 0 2) with
  | none => simp only [hreq]
  | some r =>
    have other : ¬ (r.dst = hf hdr 27 16 ∧ r.bulk = true ∧ r.isGet = false) := by
      simpa only [not_and_or, Bool.not_eq_true, Bool.not_eq_false] using h r hreq
    simp only [hreq, Bool.not_eq_true', if_neg other]

/-! Data flits of a confirmed member. -/

variable (hsrc : (flitIn l d).refuses (some (hf hdr 27 16)) = false)
include hsrc

theorem mreqReceive_taken (hform : hf hdr 3 0 = 3 ∧ hf hdr 95 62 = 0) (hbody : bodyOk b = true) :
    mreqReceive l hdr b d = mreq hdr b (flitIn l d) :=
  receive_wellFormed hup hdst (Bool.and_eq_true_iff.2 ⟨decide_eq_true hform, hbody⟩) fun _ => hsrc

section
variable (hform : hf hdr 3 0 = 4 ∧ hf hdr 95 52 = 0)
include hform

theorem mrspReceive_answers (hreq : tabFind (flitIn l d).teril.reqs (hTag hdr) = some r) (hmine : r.dst = hf hdr 27 16) :
    mrspReceive l hdr b d = mrsp (hTag hdr) (hf hdr 51 44) b (flitIn l d) := by
  refine (receive_wellFormed hup hdst (decide_eq_true hform) fun _ => hsrc).trans ?_
  simp only [hreq, if_pos hmine]

theorem mrspReceive_ignored (h : ∀ r, tabFind (flitIn l d).teril.reqs (hTag hdr) = some r → r.dst ≠ hf hdr 27 16) :
    mrspReceive l hdr b d = flitIn l d := by
  refine (receive_wellFormed hup hdst (decide_eq_true hform) fun _ => hsrc).trans ?_
  cases hreq : tabFind (flitIn l d).teril.reqs (hTag hdr) with
  | none => rfl
  | some r => exact if_neg (h r hreq)

end

section
variable (hform : hf hdr 3 0 = 5 ∧ hf hdr 95 79 = 0)
include hform

theorem bulkReceive_get (hreq : tabFind (flitIn l d).teril.reqs (hTag hdr) = some r)
    (hmine : r.dst = hf hdr 27 16 ∧ r.bulk = true ∧ r.isGet = true) :
    bulkReceive l hdr b d = bulkGet (hTag hdr) (hf hdr 75 44) (b.take (64 * (hf hdr 77 76 + 1))) r (flitIn l d) := by
  rw [bulkReceive_eq, receive_wellFormed hup hdst (decide_eq_true hform) fun _ => hsrc, bulkTaken]
  simp only [hreq, if_pos hmine]

theorem bulkReceive_put
    (h : ∀ r, tabFind (flitIn l d).teril.reqs (hTag hdr) = some r → r.dst ≠ hf hdr 27 16 ∨ r.bulk = false ∨ r.isGet = false) :
    bulkReceive l hdr b d =
      bulkPut (hf hdr 27 16) (hTag hdr) (hf hdr 75 44) (hdr.getLsbD 78) (b.take (64 * (hf hdr 77 76 + 1))) (flitIn l d) := by
  rw [bulkReceive_eq, receive_wellFormed hup hdst (decide_eq_true hform) fun _ => hsrc, bulkTaken]
  cases hreq : tabFind (flitIn l d).teril.reqs (hTag hdr) with
  | none => rfl
  | some r => exact if_neg (by simpa only [not_and_or, Bool.not_eq_true] using h r hreq)

end

end

/-! ### Flits that are refused -/

/-- Requests, replies, bulk and mirror data name their source. -/
theorem flitRefused_known {d : Dev} {l : Nat} {hdr : BitVec 96} {b : Bytes} (hlow : 3 ≤ hf hdr 3 0) (hhigh : hf hdr 3 0 ≤ 6) :
    flitRefused l hdr b d = receive l hdr true true (some (hf hdr 27 16)) tlDrop d := by
  have known : 3 ≤ hf hdr 3 0 ∧ hf hdr 3 0 ≤ 5 ∨ hf hdr 3 0 = 6 := by omega
  have typed : 1 ≤ hf hdr 3 0 ∧ hf hdr 3 0 ≤ 6 := by omega
  have data : hf hdr 3 0 ≠ 8 := by omega
  simp [flitRefused, known, typed, data]

/-! ### The statement -/

/-- A row of a link changes nothing when its meaning leaves the device as it was, whether or not the package has the link. -/
theorem idlePlaceRow_answer {s : State} {c : Bool} {f : Dev → Dev} (hrun : s.dev.pins.stopped = false) (hf : f s.dev = s.dev) :
    there c s (upd s f) = .next s := by
  obtain ⟨here, -⟩ | ⟨-, absent⟩ := there_result (c := c) (s := s) (k := upd s f)
  · exact placeRow_answer hrun here hf
  · exact absent

/-- Settles O19: each row by `receive`, and what a row takes by its case above. -/
theorem fabricFlitsAreTaken : Obligations.FabricFlitsAreTaken := by
  unfold Obligations.FabricFlitsAreTaken
  refine ⟨?taken, ?foreign, ?closed, ?stranger, ?down⟩
  case taken =>
    intro s l hdr b hrun hl hup hdst d src tag
    have answer {f : Dev → Dev} {r : Dev} (hf : f s.dev = r) := placeRow_answer hrun (decide_eq_true hl) hf
    refine ⟨?expected, ?xdata, ?xrel, ?mreq, ?mrsp, ?mrspIgnored, ?get, ?put, ?ack, ?ackIgnored⟩
    case expected =>
      intro hty h47 h92 hsrc p role inst a im hcode hactive slot cep key x other units e total c hslot hepoch
      have expected : Expected d hdr p role inst im e total c := ⟨⟨a, hcode⟩, hactive, hslot, hepoch⟩
      have taken := xdataReceive_taken (b := b) hup hdst ⟨hty, h47, h92⟩ hsrc
      exact ⟨fun hlow hhigh hcep hinst hrest => answer (taken.trans (expected.written (not_stale hlow hhigh hcep hinst) hrest)),
        fun hstale => answer (taken.trans (expected.dropped hstale))⟩
    case xdata => exact fun hty h47 h92 hsrc => answer (xdataReceive_taken hup hdst ⟨hty, h47, h92⟩ hsrc)
    case xrel => exact fun hty hlow hhigh h40 h48 hsrc => answer (xrelReceive_taken hup hdst ⟨hty, hlow, hhigh, h40, h48⟩ hsrc)
    case mreq => exact fun hty h62 hbody hsrc => answer (mreqReceive_taken hup hdst hsrc ⟨hty, h62⟩ hbody)
    case mrsp => exact fun r hty h52 hsrc hreq hmine => answer (mrspReceive_answers hup hdst hsrc ⟨hty, h52⟩ hreq hmine)
    case mrspIgnored => exact fun hty h52 hsrc h => answer (mrspReceive_ignored hup hdst hsrc ⟨hty, h52⟩ h)
    case get =>
      exact fun r hty h79 hsrc hreq hmine hbulk hget =>
        answer (bulkReceive_get hup hdst hsrc ⟨hty, h79⟩ hreq ⟨hmine, hbulk, hget⟩)
    case put => exact fun hty h79 hsrc h => answer (bulkReceive_put hup hdst hsrc ⟨hty, h79⟩ h)
    case ack =>
      exact fun r hty hsub hreq hmine hbulk hput => answer (bulkAckReceive_resolves hup hdst ⟨hty, hsub⟩ hreq ⟨hmine, hbulk, hput⟩)
    case ackIgnored => exact fun hty hsub h => answer (bulkAckReceive_ignored hup hdst ⟨hty, hsub⟩ h)
  case foreign =>
    intro s l hdr b hrun hl hup hdst t
    have answer {f : Dev → Dev} {r : Dev} (hf : f s.dev = r) := placeRow_answer hrun (decide_eq_true hl) hf
    rw [exec_bulkReceive, exec_mirrorReceive]
    refine ⟨?_, ?_, ?_, ?_, ?_, ?_, ?_⟩
    all_goals exact answer (receive_foreign hup hdst)
  case closed =>
    intro s l hdr b hrun hl hup hclosed t
    have answer {f : Dev → Dev} {r : Dev} (hf : f s.dev = r) := placeRow_answer hrun (decide_eq_true hl) hf
    rw [exec_bulkReceive, exec_mirrorReceive]
    refine ⟨answer (receive_closed hup (fun hok => (Bool.and_eq_true_iff.1 hok).2) hclosed), ?_, ?_, ?_, ?_, ?_, ?_⟩
    all_goals exact answer (receive_closed hup (fun _ => rfl) hclosed)
  case stranger =>
    intro s l hdr b m hrun hl hup hdst hopen hmembers hsrc t
    have answer {f : Dev → Dev} {r : Dev} (hf : f s.dev = r) := placeRow_answer hrun (decide_eq_true hl) hf
    have stale {ok data : Bool} {f : Dev → Dev} (hdata : ok = true → data = true) (hok : ok = true) :=
      receive_stranger (f := f) hup hdata hdst hok hopen hmembers hsrc
    rw [exec_bulkReceive, exec_mirrorReceive]
    refine ⟨?refused, ?mreq, ?mrsp, ?bulk, ?mirror⟩
    case refused => exact fun hlow hhigh => answer ((flitRefused_known hlow hhigh).trans (stale (fun _ => rfl) rfl))
    case mreq => exact fun hty h62 hbody => answer (stale (fun _ => rfl) (Bool.and_eq_true_iff.2 ⟨decide_eq_true ⟨hty, h62⟩, hbody⟩))
    case mrsp | bulk | mirror => exact fun hty hrsv => answer (stale (fun _ => rfl) (decide_eq_true ⟨hty, hrsv⟩))
  case down =>
    intro s l hdr b hrun hdown
    rw [exec_bulkReceive, exec_mirrorReceive]
    refine ⟨?_, ?_, ?_, ?_, ?_, ?_, ?_, ?_, ?_, ?_⟩
    all_goals exact idlePlaceRow_answer hrun (receive_down hdown)

end Sys2Proof.Proofs
end

section
/-! SUPPORT. The link protocol (R258 to R260, R400): replay, handover and stale notices, by the state of the link. -/

namespace Sys2Proof.Proofs

open Sys2Proof Sys2Proof.Machine Sys2Proof.Laws

section
variable {d : Dev} {l count : Nat}

/-! ### Replay (R258, R259) -/

theorem raise_link (f : Field) (i l : Nat) (d : Dev) : (d.raise f i).link l = d.link l := by
  simp only [Dev.link, raise_keeps]

theorem flitCrcFail_up (hup : d.flag F.tlLinkStatusUp l = true) :
    flitCrcFail l d = emit (.control l 1 ((d.raise F.tlLinkStatusCrc l).link l).rx)
      ((d.raise F.tlLinkStatusCrc l).modLink l (fun x => { x with naked := true })) := by
  rw [raise_link]
  exact if_neg (not_not.2 hup)

theorem ackTo_none (h : (d.link l).replay.filter (fun x => countLe x.1 count) = []) : ackTo l count d = d := if_pos h

theorem ackTo_some (h : (d.link l).replay.filter (fun x => countLe x.1 count) ≠ []) :
    ackTo l count d = d.modLink l (fun x =>
      { x with replay := x.replay.filter (fun y => ! countLe y.1 count), tries := 0, ackAt := d.acyc
               used := ((d.link l).replay.filter (fun x => countLe x.1 count)).foldl (fun u y => tabMod 0 u y.2.queue (· - 1)) x.used }) :=
  if_neg h

/-- The device when a NAK of `count` has acknowledged what came before it. -/
abbrev nakAcked (l count : Nat) (d : Dev) : Dev := ackTo l (count + 65535) d

/-- One more try of the flits from the named one on. -/
abbrev triedAgain (l : Nat) (d : Dev) : Dev := d.modLink l (fun x => { x with tries := x.tries + 1 })

/-- A NAK of a count that the first flit of the replay buffer does not have. -/
theorem nakReceive_other (hcount : count < 65536) (h : ∀ f r, ((nakAcked l count d).link l).replay ≠ (count, f) :: r) :
    nakReceive l count d = nakAcked l count d := by
  cases hreplay : ((nakAcked l count d).link l).replay with
  | nil => simp only [nakReceive, hreplay]
  | cons x r =>
    obtain ⟨n, f⟩ := x
    have other : n ≠ count % 65536 := by
      rw [Nat.mod_eq_of_lt hcount]
      rintro rfl
      exact h f r hreplay
    simp only [nakReceive, hreplay, if_pos other]

section
variable {f : Frame} {r : List (Nat × Frame)} (hcount : count < 65536) (hreplay : ((nakAcked l count d).link l).replay = (count, f) :: r)
include hcount hreplay

theorem nakReceive_spent (htries : 8 < ((triedAgain l (nakAcked l count d)).link l).tries) :
    nakReceive l count d = triedAgain l (nakAcked l count d) := by
  simp only [nakReceive, hreplay, Nat.mod_eq_of_lt hcount, ne_eq, not_true_eq_false, if_false, if_pos htries]

theorem nakReceive_replays (htries : ((triedAgain l (nakAcked l count d)).link l).tries ≤ 8) :
    nakReceive l count d =
      (let t := triedAgain l (nakAcked l count d)
       let d := evEdge 0xC2 l 1 (health 2 1 ((t.raise F.tlLinkStatusReplay l).addSat F.tlLinkStatusReplays l 1))
       (d.link l).replay.foldl (fun d x => emit (.frame (16 + l) x.2) d) d) := by
  simp only [nakReceive, hreplay, Nat.mod_eq_of_lt hcount, ne_eq, not_true_eq_false, if_false, if_neg htries.not_gt]

end

/-! ### Handover (R260) and stale notices (R400) -/

section
variable {dead : Nat} (hup : d.flag F.tlLinkStatusUp l = true)
include hup

theorem handoverRequest_answers :
    handoverRequest l dead d = sendHandover l 1 dead (((d.link dead).rx + 65535) % 65536) (flitIn l d) :=
  if_neg (not_not.2 hup)

theorem staleNoticeReceive_up (epoch : BitVec 32) :
    staleNoticeReceive l epoch d = if d.getF F.fhMemberMepoch < epoch.toNat then enterFenced (flitIn l d) else flitIn l d :=
  if_neg (not_not.2 hup)

variable (hdead : d.flag F.tlLinkStatusUp dead = false)
include hdead

theorem handover_guard : ¬ (¬ d.flag F.tlLinkStatusUp l = true ∨ d.flag F.tlLinkStatusUp dead = true) := by
  simp [hup, hdead]

theorem handoverResponse_alone (hmates : (flitIn l d).mates dead = []) : handoverResponse l dead count d = flitIn l d :=
  (if_neg (handover_guard hup hdead)).trans (if_pos hmates)

theorem handoverResponse_moves (hmates : (flitIn l d).mates dead ≠ []) :
    handoverResponse l dead count d =
      (let d := flitIn l d
       let left := (d.link dead).replay.filter (fun x => ! countLe x.1 count)
       let r := requeue (d.mates dead)
        (left.map (fun x => { x.2 with send := none }) ++ (List.range 8).flatMap (fun q => (d.port (16 + dead)).q q))
        ((d.modLink dead (fun x => { x with replay := [], tries := 0, used := [] })).modPort (16 + dead)
          (fun p => { p with queues := [] }))
       if left = [] then r else health 2 1 (r.raise F.tlLinkStatusHandover dead)) :=
  (if_neg (handover_guard hup hdead)).trans (if_neg hmates)

end

end

/-- Settles O20: each row by the replay buffer, the links that join the devices, or the epoch. -/
theorem linkProtocolActs : Obligations.LinkProtocolActs := by
  unfold Obligations.LinkProtocolActs
  refine ⟨?crc, ?ack, ?nak, ?request, ?response, ?stale⟩
  case crc => exact fun s l hrun hl hup => placeRow_answer hrun (decide_eq_true hl) (flitCrcFail_up hup)
  case ack =>
    intro s l count hrun hl gone
    have answer {r : Dev} (h : ackTo l count s.dev = r) := placeRow_answer hrun (decide_eq_true hl) h
    exact ⟨fun h => answer (ackTo_some h), fun h => answer (ackTo_none h)⟩
  case nak =>
    intro s l count hrun hl hcount d t
    have answer {r : Dev} (h : nakReceive l count s.dev = r) := placeRow_answer hrun (decide_eq_true hl) h
    exact ⟨fun f r hreplay htries => answer (nakReceive_replays hcount hreplay htries),
      fun f r hreplay htries => answer (nakReceive_spent hcount hreplay htries), fun h => answer (nakReceive_other hcount h)⟩
  case request =>
    exact fun s l dead hrun hl hdead hup =>
      placeRow_answer hrun (Bool.and_eq_true_iff.2 ⟨decide_eq_true hl, decide_eq_true hdead⟩) (handoverRequest_answers hup)
  case response =>
    intro s l dead count hrun hl hdead hup hdown d left
    have answer {r : Dev} (h : handoverResponse l dead count s.dev = r) :=
      placeRow_answer hrun (Bool.and_eq_true_iff.2 ⟨decide_eq_true hl, decide_eq_true hdead⟩) h
    exact ⟨fun h => answer (handoverResponse_moves hup hdown h), fun h => answer (handoverResponse_alone hup hdown h)⟩
  case stale => exact fun s l epoch hrun hl hup => placeRow_answer hrun (decide_eq_true hl) (staleNoticeReceive_up hup epoch)

end Sys2Proof.Proofs
end

section
/-! SUPPORT. Retries and lifetimes of the requests to the fabric (R272, R278, R389, R400): what each row makes of an outstanding request
before and at its time, and of a TAG that is free. -/

namespace Sys2Proof.Proofs

open Sys2Proof Sys2Proof.Machine Sys2Proof.Laws

section
variable {d : Dev} {tag : Nat} {r : Req}

/-! ### A TAG that is free -/

section
variable (hfree : tabFind d.teril.reqs tag = none)
include hfree

theorem requestRetry_free : requestRetry tag d = d := by simp only [requestRetry, hfree]

theorem requestOver_free : requestOver tag d = d := by simp only [requestOver, hfree]

theorem bulkRetry_free : bulkRetry tag d = d := by simp only [bulkRetry, hfree]

end

/-! ### An outstanding request -/

/-- What REQUEST_RETRY sends again (R272, R400). -/
def RetryDue (d : Dev) (r : Req) : Prop :=
  r.bulk = false ∧ d.fenced = false ∧ d.reqOver r = false ∧ reached d (later r.last d.rto) = true

/-- What BULK_RETRY acts on (R278). -/
def BulkRetryDue (d : Dev) (r : Req) : Prop := r.bulk = true ∧ reached d (later r.last d.gwRto) = true

theorem retry_guard :
    (r.bulk = true ∨ d.fenced = true ∨ d.reqOver r = true ∨ ¬ reached d (later r.last d.rto) = true) ↔ ¬ RetryDue d r := by
  simp only [RetryDue, not_and_or, Bool.not_eq_false]

theorem bulkRetry_guard : (¬ r.bulk = true ∨ ¬ reached d (later r.last d.gwRto) = true) ↔ ¬ BulkRetryDue d r := not_and_or.symm

section
variable (hreq : tabFind d.teril.reqs tag = some r)
include hreq

theorem requestRetry_resends (h : RetryDue d r) : requestRetry tag d = resend tag r d := by
  simp only [requestRetry, hreq, if_neg (mt retry_guard.1 (not_not.2 h))]

theorem requestRetry_waits (h : ¬ RetryDue d r) : requestRetry tag d = d := by
  simp only [requestRetry, hreq, if_pos (retry_guard.2 h)]

theorem requestOver_resolves (hbulk : r.bulk = false) (hover : d.reqOver r = true) :
    requestOver tag d =
      if r.isGet then resolveReq tag 0x95 0 (getLost r (farReply 0x95 [] r d)) else resolveReq tag 0x94 0 (farReply 0x94 [] r d) := by
  simp [requestOver, hreq, hbulk, hover]

theorem requestOver_waits (h : r.bulk = true ∨ d.reqOver r = false) : requestOver tag d = d := by
  simp only [requestOver, hreq, if_pos (h.imp_right Bool.eq_false_iff.1)]

theorem bulkRetry_acts (h : BulkRetryDue d r) :
    bulkRetry tag d =
      if r.retries < 2 then
        if d.fenced then d.modTeril (fun t => { t with reqs := tabPut t.reqs tag { r with retries := r.retries + 1, last := d.nt } })
        else resend tag r d
      else if r.isGet then resolveReq tag 0x95 0 (getLost r d)
      else resolveReq tag 0x94 0 d := by
  simp only [bulkRetry, hreq, if_neg (mt bulkRetry_guard.1 (not_not.2 h))]

theorem bulkRetry_waits (h : ¬ BulkRetryDue d r) : bulkRetry tag d = d := by
  simp only [bulkRetry, hreq, if_pos (bulkRetry_guard.2 h)]

end

end

/-- Settles O22: each row by whether the TAG has a request and its time has come. -/
theorem requestsRetryAndExpire : Obligations.RequestsRetryAndExpire := by
  unfold Obligations.RequestsRetryAndExpire
  refine ⟨?request, ?free, ?queues⟩
  case request =>
    intro s tag r hrun hreq retried again open_
    exact ⟨fun h => devRow_answer hrun (requestRetry_resends hreq h), fun h => devRow_answer hrun (requestRetry_waits hreq h),
      fun hbulk hover => devRow_answer hrun (requestOver_resolves hreq hbulk hover),
      fun h => devRow_answer hrun (requestOver_waits hreq h),
      fun hbulk hdue => devRow_answer hrun (bulkRetry_acts hreq ⟨hbulk, hdue⟩),
      fun h => devRow_answer hrun (bulkRetry_waits hreq (bulkRetry_guard.1 (h.imp Bool.eq_false_iff.1 Bool.eq_false_iff.1)))⟩
  case free =>
    exact fun s tag hrun hfree => ⟨devRow_answer hrun (requestRetry_free hfree), devRow_answer hrun (requestOver_free hfree),
      devRow_answer hrun (bulkRetry_free hfree)⟩
  case queues => exact fun s tag hrun => devRow_answer hrun rfl

end Sys2Proof.Proofs
end

section
/-! SUPPORT. Remote operations (R265 to R269, R273): what the words SU.RMA, SU.AMO and SU.FENCE and the end of an operation make of the
device. -/

namespace Sys2Proof.Proofs

open Sys2Proof Sys2Proof.Machine Sys2Proof.Laws

section
variable {d : Dev} {g : Nat} {w : Word256} {o : RemoteOp}

/-! ### The words -/

/-- A fence whose reserved fields are 0 names a role of the job, or all of them. -/
theorem suFenceWord_legal (hready : d.suReady g = true) (hopc : remOpc w = 0x85)
    (hrsv : wrsv w 0 15 9 = true ∧ wrsv w 0 31 25 = true ∧ (w >>> 32).toNat % 2 ^ 160 = 0 ∧ (suWait w).rsvOk = true)
    (hrole : wbit w 0 8 = true ∨ remRole w < d.roles (d.workOf g)) :
    suFenceWord g w d = addRemote g w 0 0 true (suStep g d) := by
  have named : ¬ (¬ wbit w 0 8 = true ∧ d.roles (d.workOf g) ≤ remRole w) := by
    rwa [not_and_or, not_not, Nat.not_le]
  rw [suFenceWord_eq, if_neg (not_not.2 hopc), if_neg (not_not.2 hrsv), if_neg named, suWord_legal hready rfl]

/-! ### The end of an operation (R269) -/

theorem remoteComplete_none (h : firstEnded (d.waitMet g) [] (d.core g).remote = none) : remoteComplete g d = d := by
  simp only [remoteComplete, h]

/-- The result record of an operation; `old` is what an atomic returned. -/
def resultRecord (g : Nat) (o : RemoteOp) (old : BitVec 64) (d : Dev) : Dev :=
  portWrite (g, 3, o.issued) d.acyc o.p ((gsizeCores g (remGsize o.w)).getD [g]) (remRes o.w)
    (leBytes 4 (opStatus o + min o.retries 255 * 256) ++ leBytes 4 o.failed ++ leBytes 8 old.toNat) d

/-- The operation leaves the core, its counter counts in the following a-cycle, and others send what they can. -/
def remoteLeave (g : Nat) (o : RemoteOp) (d : Dev) : Dev :=
  let d := d.modCore g (fun c => { c with remote := c.remote.filter (fun x => x.id ≠ o.id) })
  remotePump g (if (suWait o.w).sen then ccIncFor o.p g (suWait o.w).sctr (d.acyc + 1) d else d)

section
variable (hend : firstEnded (d.waitMet g) [] (d.core g).remote = some o)
include hend

/-- A fence writes no record. -/
theorem remoteComplete_fence (hfence : o.fence = true) (hopc : remOpc o.w = 0x85) : remoteComplete g d = remoteLeave g o d := by
  simp only [remoteComplete, hend, hfence, hopc]
  rfl

variable (hrecord : o.fence = false)
include hrecord

theorem remoteComplete_amo (hopc : remOpc o.w = 0x84) (hst : opStatus o = 0) :
    remoteComplete g d = remoteLeave g o (resultRecord g o o.old d) := by
  simp [remoteComplete, hend, hrecord, hopc, hst, remoteLeave, resultRecord]

/-- What an atomic returned whose status is not OK is free (R16). -/
theorem remoteComplete_failedAmo (hopc : remOpc o.w = 0x84) (hst : opStatus o ≠ 0) :
    remoteComplete g d = remoteLeave g o (resultRecord g o (takeFree 64 d).1 (takeFree 64 d).2) := by
  simp [remoteComplete, hend, hrecord, hopc, hst, remoteLeave, resultRecord]

theorem remoteComplete_rma (hopc : remOpc o.w ≠ 0x84) : remoteComplete g d = remoteLeave g o (resultRecord g o 0 d) := by
  simp [remoteComplete, hend, hrecord, hopc, remoteLeave, resultRecord]

end

end

/-- Settles O40: each word is `suWord` with no cause of illegality; the operation that has ended by its kind and its status. -/
theorem remoteOperationsAct : Obligations.RemoteOperationsAct := by
  unfold Obligations.RemoteOperationsAct
  refine ⟨?words, ?ends, ?none⟩
  case words =>
    intro s g w hrun hg hready d joins sd cs
    have answer {f : Dev → Dev} {d : Dev} (hf : f s.dev = d) := coreRow_answer hrun hg hf
    exact ⟨fun hlegal => answer (suWord_legal hready hlegal), fun hlegal => answer (suWord_legal hready hlegal),
      fun hopc hlow hmid hhigh hwait hrole => answer (suFenceWord_legal hready hopc ⟨hlow, hmid, hhigh, hwait⟩ hrole)⟩
  case ends =>
    intro s g o hrun hg hend st write finish
    have answer {f : Dev → Dev} {d : Dev} (hf : f s.dev = d) := coreRow_answer hrun hg hf
    exact ⟨fun hrecord hopc hst => answer (remoteComplete_amo hend hrecord hopc hst),
      fun hrecord hopc hst => answer (remoteComplete_failedAmo hend hrecord hopc hst),
      fun hrecord hopc => answer (remoteComplete_rma hend hrecord hopc),
      fun hfence hopc => answer (remoteComplete_fence hend hfence hopc)⟩
  case none => exact fun s g hrun hg h => coreRow_answer hrun hg (remoteComplete_none h)

end Sys2Proof.Proofs
end

section
/-! SUPPORT. The step and its queue (log 1), and the machine once its clocks have stopped (R433, R442). -/

namespace Sys2Proof.Proofs

open Sys2Proof Sys2Proof.Machine Sys2Proof.Laws

/-- Settles O43: the three cases are the two arms of `step`. -/
theorem stepRunsFrontCommand : Obligations.StepRunsFrontCommand := by
  unfold Obligations.StepRunsFrontCommand
  refine ⟨fun c s => rfl, fun c l s h => ?_, fun s h => ?_⟩
  all_goals simp only [step, h]

/-- Settles O45: a command's next state differs from the old one in the device alone. -/
theorem execLeavesTheQueue : Obligations.ExecLeavesTheQueue := by
  unfold Obligations.ExecLeavesTheQueue
  exact fun c s t h => (h ▸ exec_answers c s).pending

/-! ### Stopped clocks -/

/-- What a row answers once the clocks have stopped: the state as it is, or the fault of a place that the package does not have. -/
inductive Idles (s : State) : Res → Prop where
  /-- nothing changes -/
  | next : Idles s (.next s)
  /-- an operand names a place the package does not have -/
  | fault (e : Fault) : Idles s (.fault e)

namespace Idles

variable {s : State}

theorem upd {f : Dev → Dev} (h : s.dev.pins.stopped = true) : Idles s (upd s f) := by
  rw [upd_stopped h]; exact next

theorem there {c : Bool} {k : Res} (hk : Idles s k) : Idles s (there c s k) := by
  obtain ⟨-, h⟩ | ⟨-, h⟩ := there_result (c := c) (s := s) (k := k)
  · rwa [h]
  · rw [h]; exact next

theorem need {c : Bool} {e : Fault} {k : Res} (hk : Idles s k) : Idles s (need c e k) := by
  cases c with
  | true => rwa [need_true rfl]
  | false => rw [need_false rfl]; exact fault e

theorem result {r : Res} (h : Idles s r) : r = .next s ∨ ∃ e, r = .fault e := by
  cases h with
  | next => exact .inl rfl
  | fault e => exact .inr ⟨e, rfl⟩

/-- A next state has its clocks stopped. -/
theorem stopped {t : State} (h : s.dev.pins.stopped = true) (hr : Idles s (.next t)) : t.dev.pins.stopped = true := by
  cases hr; exact h

end Idles

/-- The rows of the S-clock and the T-clock (log 17). -/
def sClockRow : Instr → Bool
  | .i3cPointerWrite _ | .i3cRead _ | .powerOn _ | .powerCycle | .pwrOkFall _ | .pwrcycReqNRelease | .ppsInEdge | .ppsOutPulse => true
  | _ => false

/-- Every other row idles. -/
theorem exec_idles {c : Instr} {s : State} (hs : s.dev.pins.stopped = true) (hc : sClockRow c = false) : Idles s (exec c s) := by
  cases c
  case i3cPointerWrite | i3cRead | powerOn | powerCycle | pwrOkFall | pwrcycReqNRelease | ppsInEdge | ppsOutPulse =>
      exact absurd hc (by simp only [sClockRow, Bool.true_eq_false, not_false_eq_true])
  case ringEnable | ringDisable | ringDrainComplete | kick | doorbellPoll | idleHandshake | reportDoorbellRead | commandAccept |
    interruptModerationEnd | semPartWrite | hbOd | hbMm | hbMmFirstRow | hbMmCompletion | hbEnd | codeFetch |
    vld | vst | sld | sst | vldB | vstB | vstBx | vadd | vsub | vmul | vmin | vmax | vabs | vand | vor | vxor | vshl | vshr |
    vshrr | vsel | vcmp | vbcast | vfma | vfscl | vcvt | vnarrow | vperm | vnorm | vrsum | vrmax | vrmin | vbexp | vcmac | vcmacf |
    vbfly4 | vdemap | vfdiv | vfsqrt | sadd | ssub | smul | sand | sor | sxor | sshl | sshr | sli | amov | mmov | kmov | loop |
    span | br | brz | brnz | waitc | waitcSatisfied | sigc | seEnd | suSd | suMv | moveStart | suAt | atOffsetReached | suEend |
    suRma | suAmo | suFence | remoteOpComplete | suEvc | suEvr | contextSaveComplete | scrubComplete | contextRestoreComplete |
    nop | semAdd | semRead | semNotify | sessClose | moveComplete | seResultLand =>
      exact .need (.upd hs)
  case allocDeadline => exact .there (.there (.upd hs))
  case registerWrite | hostAccessError | replaysReadClear | hostAccessTimeout | ideIntegrityFail | keyProg | gateListSwitch |
    resetBoundMiss | sessOpenLapse | epochTick | epochEnd | unitRelease | holdLimit | unitEnd | unitCapExpiry | exchangeSend |
    xdataReceive | xrelReceive | mreqReceive | mrspReceive | bulkReceive | bulkAckReceive | mirrorReceive | mirrorAckReceive |
    mirrorHorizonReceive | handoverRequest | handoverResponse | staleNoticeReceive | flitRefused | flitCrcFail | nakReceive |
    ackReceive | linkDown | linkPhaseEnd | trainingTimeout | retrain | ethernetFrameReceive | uplaneReceive | delayRequestReceive |
    rmaResponseReceive | cplaneSend | uplaneSend | dlWindowClose | lineClose | ulPresenceSet | fhPortDown | portRetry |
    quadModeSet | queuePoll | dlSch | ulSch | polarDci | polarBch | polarUci | smallUci | signal | codeBlockDone |
    codingJobComplete | signalDeadline | slotReport | patrolRead | bankRefresh | frameRelease | walkerPageRewrite |
    ptpMessageReceive | ptpSyncSend | transmitStart | lendNotice | takePoint | lendWon | lendWoff | sgDecision | yieldExpiry |
    fixedSliceBoundary | watchdogExpiry | probationEnd | drainBarrierComplete | dieLinkReplay | dieLinkLaneFail | loadComplete |
    detectionWindowStart | esmcReceive => exact .there (.upd hs)
  all_goals exact .upd hs

/-- The idling pulse output stands on the T-clock, whose fall stops no clock. -/
theorem ppsFall_stopped (d : Dev) : (ppsFall d).pins.stopped = d.pins.stopped := by
  simp only [ppsFall]
  split
  · split <;> rfl
  · rfl

section
variable {d : Dev} (h : d.pins.stopped = true)
include h

theorem i3cWrite_stopped (b : Bytes) : (i3cWrite b d).pins.stopped = true := by
  simp only [i3cWrite]
  split <;> exact h

theorem i3cRead_stopped (n : Nat) : (i3cRead n d).pins.stopped = true := by
  simp only [i3cRead]
  split <;> exact h

theorem powerOn_stopped (straps : BitVec 3) : (powerOn straps d).pins.stopped = true := by
  simp only [powerOn]
  split <;> exact h

theorem pwrOkFall_stopped (b : Nat) : (pwrOkFall b d).pins.stopped = true := by
  simp only [pwrOkFall]
  split
  · exact h
  · exact (congrArg (Pins.stopped ∘ Dev.pins) (if_pos h)).trans h

theorem pwrcycRelease_stopped : (pwrcycRelease d).pins.stopped = true := by
  simp only [pwrcycRelease]
  split <;> exact h

theorem ppsIn_stopped : (ppsIn d).pins.stopped = true := by
  simpa only [ppsIn, raise_keeps, setF_keeps, takeFree_keeps] using h

theorem ppsPulse_stopped : (ppsPulse d).pins.stopped = true := by
  simp only [ppsPulse]
  split
  · exact h
  · split <;> exact h

end

/-- No row of the S-clock but a power cycle starts the clocks again. -/
theorem sClockRow_stopped {c : Instr} {s t : State} (hs : s.dev.pins.stopped = true) (hc : sClockRow c = true) (hne : c ≠ .powerCycle)
    (h : exec c s = .next t) : t.dev.pins.stopped = true := by
  cases c
  case powerCycle => exact absurd rfl hne
  case i3cPointerWrite b => rw [(updS_next h).2]; exact i3cWrite_stopped hs b
  case i3cRead n => rw [(updS_next h).2]; exact i3cRead_stopped hs n
  case powerOn x => rw [(updS_next h).2]; exact powerOn_stopped hs x
  case pwrcycReqNRelease => rw [(updS_next h).2]; exact pwrcycRelease_stopped hs
  case ppsInEdge => rw [(updS_next h).2]; exact ppsIn_stopped hs
  case ppsOutPulse => rw [(updS_next h).2]; exact ppsPulse_stopped hs
  case pwrOkFall b =>
    change there (decide (b < 12)) s (updS s (pwrOkFall b)) = .next t at h
    obtain ⟨-, here⟩ | ⟨-, absent⟩ := there_result (c := decide (b < 12)) (s := s) (k := updS s (pwrOkFall b))
    · rw [(updS_next (here.symm.trans h)).2]; exact pwrOkFall_stopped hs b
    · cases absent.symm.trans h; exact hs
  all_goals exact absurd hc Bool.false_ne_true

/-- Settles O46: the rows of the S-clock keep the clocks stopped, every other one answers `upd` of a stopped device. -/
theorem stoppedClocksStayStopped : Obligations.StoppedClocksStayStopped := by
  unfold Obligations.StoppedClocksStayStopped
  intro s hs
  refine ⟨?idle, ?stay, ?tick, ?cycle⟩
  case idle =>
    intro c hwrite hread hon hcycle hrail hrelease hin hout
    refine (exec_idles hs ?_).result
    cases c
    case i3cPointerWrite b => exact absurd rfl (hwrite b)
    case i3cRead n => exact absurd rfl (hread n)
    case powerOn x => exact absurd rfl (hon x)
    case pwrOkFall b => exact absurd rfl (hrail b)
    case powerCycle => exact absurd rfl hcycle
    case pwrcycReqNRelease => exact absurd rfl hrelease
    case ppsInEdge => exact absurd rfl hin
    case ppsOutPulse => exact absurd rfl hout
    all_goals rfl
  case stay =>
    intro c t hc h
    cases hrow : sClockRow c with
    | true => exact sClockRow_stopped hs hrow hc h
    | false => exact (h ▸ exec_idles hs hrow).stopped hs
  case tick =>
    intro hempty
    have stands : (ppsFall (passTime s.dev)).pins.stopped = true := (ppsFall_stopped _).trans hs
    simp only [step, hempty, tick, stands, if_true]
  case cycle => exact fun t h => by rw [(updS_next h).2]; rfl

end Sys2Proof.Proofs
end

section
/-! SUPPORT. The completion of a command of a ring in ERROR (R341): it raises REC_DROP. -/

namespace Sys2Proof.Proofs

open Sys2Proof Sys2Proof.Machine Sys2Proof.Laws

/-- The device after power-up with ring 0 in ERROR. -/
def ringInError : Dev := State.reset.dev.setF F.ringStateState 0 3

/-- A NOP of ring 0, without an interrupt and without a signal. -/
def silentNop : Src := { ring := 0, op := 0, ctag := 0, notify := false, ssig := none, counter := 0 }

/-- Its completion raises REC_DROP, which the record of this a-cycle's raised bits shows (R21). -/
theorem done_ringInError_raised : (done silentNop 0 ringInError).raised ≠ ringInError.raised := by decide

/-- Refutes O56: where the ring is in ERROR a completion raises REC_DROP, and so changes, besides the parts the statement lists, the record
`raised` of the bits that hardware has set in this a-cycle. -/
theorem not_completionsFrame : ¬ Obligations.CompletionsFrame := by
  unfold Obligations.CompletionsFrame
  intro h
  obtain ⟨frame, -⟩ := h silentNop 0 ringInError rfl rfl
  have stands : (done silentNop 0 ringInError).raised = ringInError.raised := by rw [frame]
  exact done_ringInError_raised stands

end Sys2Proof.Proofs
end

section
/-! SUPPORT. Event banks (R381, R425 to R428): counting in a list of counters, one counter at a time. -/

namespace Sys2Proof.Proofs

open Sys2Proof Sys2Proof.Machine Sys2Proof.Laws

/-- What no step of a fold changes, the fold leaves. -/
theorem foldl_unchanged {α β γ : Type} {π : α → γ} {f : α → β → α} (h : ∀ a x, π (f a x) = π a) (l : List β) (a : α) :
    π (l.foldl f a) = π a := by
  induction l generalizing a with
  | nil => rfl
  | cons x l ih => exact (ih (f a x)).trans (h a x)

/-- Entries changed one after the other, no key twice. -/
theorem tabGet_foldl_tabMod {α : Type} [DecidableEq α] {d : α} (h : Nat → α → α) {is : List Nat} (hn : is.Nodup) {t : Tab α}
    (ht : tabWf d t = true) (j : Nat) :
    tabGet d (is.foldl (fun t i => tabMod d t i (h i)) t) j = if j ∈ is then h j (tabGet d t j) else tabGet d t j := by
  induction is generalizing t with
  | nil => rfl
  | cons i is ih =>
    obtain ⟨hi, hn⟩ := List.nodup_cons.1 hn
    rw [List.foldl_cons, ih hn (tabWf_tabMod d t i (h i) ht)]
    by_cases hj : j = i
    · subst hj
      simp [hi, tabMod, tabGet_tabSet d t j _ ht]
    · simp [hj, tabMod, tabGet_tabSet_ne d t i j _ hj]

/-! ### One counter -/

namespace Bank

/-- What counting leaves: the controls, the selections and the samples. -/
def settings (b : EvBank) : Bool × Bool × Bool × Tab Nat × Tab Nat × Nat := (b.freeze, b.frzOvf, b.sample, b.sel, b.samp, b.sampEpoch)

/-- A counter that would wrap stops at its greatest value (R426). -/
def stop (b : EvBank) (i : Nat) : EvBank := { b with cnt := tabSet 0 b.cnt i (2 ^ 48 - 1) }.over i

section
variable (b : EvBank) (i n : Nat)

theorem bump_settings : settings (b.bump i n) = settings b := by
  simp only [EvBank.bump]
  split <;> rfl

theorem bump_tally : (b.bump i n).tally = b.tally := by
  simp only [EvBank.bump]
  split <;> rfl

theorem bump_cnt : (b.bump i n).cnt = tabMod 0 b.cnt i (fun v => (v + n) % 2 ^ 48) := by
  simp only [EvBank.bump]
  split <;> rfl

/-- OVF bit i is set besides those that were set. -/
theorem over_ovf {j : Nat} (hj : j < 8) : (b.over i).ovf.getLsbD j = true ↔ b.ovf.getLsbD j = true ∨ i = j := by
  change (b.ovf ||| BitVec.ofNat 8 (1 <<< i)).getLsbD j = true ↔ _
  rw [BitVec.getLsbD_or, BitVec.getLsbD_ofNat, Nat.one_shiftLeft, Nat.testBit_two_pow]
  simp only [hj, decide_true, Bool.true_and, Bool.or_eq_true, decide_eq_true_eq]

theorem bump_ovf {j : Nat} (hj : j < 8) :
    (b.bump i n).ovf.getLsbD j = true ↔ b.ovf.getLsbD j = true ∨ (i = j ∧ 2 ^ 48 ≤ tabGet 0 b.cnt i + n) := by
  simp only [EvBank.bump]
  split
  case isTrue h => simp only [h.not_ge, and_false, or_false]
  case isFalse h => rw [over_ovf _ _ hj]; simp only [not_lt.1 h, and_true]

theorem bump_setcnt (hb : b.setcnt ≤ 255) :
    (b.bump i n).setcnt = min 255 (b.setcnt + if 2 ^ 48 ≤ tabGet 0 b.cnt i + n ∧ b.ovf.getLsbD i = true then 1 else 0) := by
  simp only [EvBank.bump]
  split
  case isTrue h => simp only [h.not_ge, false_and, if_false]; omega
  case isFalse h => simp only [not_lt.1 h, true_and, EvBank.over]; omega

end

/-! ### A list of counters -/

section
variable {is : List Nat} (f : Nat → Nat) (b : EvBank)

/-- Counter i adds f i, one after the other. -/
def bumps (is : List Nat) (f : Nat → Nat) (b : EvBank) : EvBank := is.foldl (fun b i => b.bump i (f i)) b

theorem bumps_settings : settings (bumps is f b) = settings b :=
  foldl_unchanged (fun b i => bump_settings b i (f i)) is b

theorem bumps_cnt : (bumps is f b).cnt = is.foldl (fun t i => tabMod 0 t i (fun v => (v + f i) % 2 ^ 48)) b.cnt := by
  induction is generalizing b with
  | nil => rfl
  | cons i is ih => exact (ih (b.bump i (f i))).trans (by rw [bump_cnt]; rfl)

variable {b}

/-- Each counter of the list adds its number. -/
theorem bumps_counter (hn : is.Nodup) (hw : tabWf 0 b.cnt = true) (j : Nat) :
    tabGet 0 (bumps is f b).cnt j = if j ∈ is then (tabGet 0 b.cnt j + f j) % 2 ^ 48 else tabGet 0 b.cnt j := by
  rw [bumps_cnt, tabGet_foldl_tabMod (fun i v => (v + f i) % 2 ^ 48) hn hw]

theorem bump_counter_ne {i j n : Nat} (h : j ≠ i) : tabGet 0 (b.bump i n).cnt j = tabGet 0 b.cnt j := by
  rw [bump_cnt]; exact tabGet_tabSet_ne 0 _ _ _ _ h

/-- OVF shows the counters of the list that wrap. -/
theorem bumps_ovf (hn : is.Nodup) {j : Nat} (hj : j < 8) :
    (bumps is f b).ovf.getLsbD j = true ↔ b.ovf.getLsbD j = true ∨ (j ∈ is ∧ 2 ^ 48 ≤ tabGet 0 b.cnt j + f j) := by
  induction is generalizing b with
  | nil => simp [bumps]
  | cons i is ih =>
    obtain ⟨hi, hn⟩ := List.nodup_cons.1 hn
    refine (ih (b := b.bump i (f i)) hn).trans ?_
    rw [bump_ovf b i (f i) hj]
    by_cases hij : j = i
    · subst hij; simp [hi]
    · simp [hij, Ne.symm hij, bump_counter_ne hij]

/-- SETCNT counts those that wrap with OVF already set (R381). -/
theorem bumps_setcnt (hn : is.Nodup) (h8 : ∀ i ∈ is, i < 8) (hb : b.setcnt ≤ 255) :
    (bumps is f b).setcnt =
      min 255 (b.setcnt + (is.filter (fun i => decide (2 ^ 48 ≤ tabGet 0 b.cnt i + f i) && b.ovf.getLsbD i)).length) := by
  induction is generalizing b with
  | nil => simp [bumps, hb]
  | cons i is ih =>
    obtain ⟨hi, hn⟩ := List.nodup_cons.1 hn
    have ne : ∀ j ∈ is, j ≠ i := fun j hj h => hi (h ▸ hj)
    have step := bump_setcnt b i (f i) hb
    have rest : is.filter (fun j => decide (2 ^ 48 ≤ tabGet 0 (b.bump i (f i)).cnt j + f j) && (b.bump i (f i)).ovf.getLsbD j) =
        is.filter (fun j => decide (2 ^ 48 ≤ tabGet 0 b.cnt j + f j) && b.ovf.getLsbD j) := by
      refine List.filter_congr fun j hj => ?_
      have ovf : (b.bump i (f i)).ovf.getLsbD j = b.ovf.getLsbD j := by
        rw [Bool.eq_iff_iff, bump_ovf b i (f i) (h8 j (List.mem_cons_of_mem i hj))]
        simp [(ne j hj).symm]
      rw [bump_counter_ne (ne j hj), ovf]
    refine (ih (b := b.bump i (f i)) hn (fun j hj => h8 j (List.mem_cons_of_mem i hj)) (by omega)).trans ?_
    rw [rest, step, List.filter_cons]
    by_cases hw : 2 ^ 48 ≤ tabGet 0 b.cnt i + f i ∧ b.ovf.getLsbD i = true
    · simp only [hw, and_self, decide_true, Bool.and_true, if_true, List.length_cons]
      omega
    · have off : (decide (2 ^ 48 ≤ tabGet 0 b.cnt i + f i) && b.ovf.getLsbD i) = false := by simpa using hw
      simp only [hw, off, if_false, Bool.false_eq_true]
      omega

/-- Counters that stop, and the others. -/
theorem stops_counter (hn : is.Nodup) (hw : tabWf 0 b.cnt = true) (j : Nat) :
    tabGet 0 (is.foldl stop b).cnt j = if j ∈ is then 2 ^ 48 - 1 else tabGet 0 b.cnt j := by
  have cnt : (is.foldl stop b).cnt = is.foldl (fun t i => tabMod 0 t i (fun _ => 2 ^ 48 - 1)) b.cnt := by
    clear hn hw
    induction is generalizing b with
    | nil => rfl
    | cons i is ih => exact ih (b := stop b i)
  rw [cnt, tabGet_foldl_tabMod (fun _ _ => 2 ^ 48 - 1) hn hw]

theorem stops_settings : settings (is.foldl stop b) = settings b := foldl_unchanged (π := settings) (f := stop) (fun _ _ => rfl) is b

theorem stops_ovf {j : Nat} (hj : j < 8) : (is.foldl stop b).ovf.getLsbD j = true ↔ b.ovf.getLsbD j = true ∨ j ∈ is := by
  induction is generalizing b with
  | nil => simp
  | cons i is ih =>
    refine (ih (b := stop b i)).trans ?_
    rw [stop, over_ovf _ _ hj, List.mem_cons, or_assoc, eq_comm (a := i)]

end

/-! ### FREEZE (R427) -/

section
variable {b : EvBank} (hw : tabWf 0 b.cnt = true)
include hw

theorem undo_wf : tabWf 0 b.undo.cnt = true := by
  have keeps : ∀ (is : List Nat) (t : Tab Nat), tabWf 0 t = true →
      tabWf 0 (is.foldl (fun t i => tabMod 0 t i (fun v => (v + 2 ^ 48 - tabGet 0 b.tally i % 2 ^ 48) % 2 ^ 48)) t) = true := by
    intro is
    induction is with
    | nil => exact fun t ht => ht
    | cons i is ih => exact fun t ht => ih _ (tabWf_tabMod 0 t i _ ht)
  exact keeps _ _ hw

/-- A bank that becomes frozen takes back what it counted in this a-cycle. -/
theorem undo_counter {i : Nat} (hi : i < 8) :
    tabGet 0 b.undo.cnt i = (tabGet 0 b.cnt i + 2 ^ 48 - tabGet 0 b.tally i % 2 ^ 48) % 2 ^ 48 :=
  (tabGet_foldl_tabMod (fun i v => (v + 2 ^ 48 - tabGet 0 b.tally i % 2 ^ 48) % 2 ^ 48) List.nodup_range hw i).trans
    (if_pos (List.mem_range.2 hi))

theorem setFreeze_freezes (hf : b.freeze = false) : (b.setFreeze true).freeze = true ∧ ∀ i < 8,
    tabGet 0 (b.setFreeze true).cnt i = (tabGet 0 b.cnt i + 2 ^ 48 - tabGet 0 b.tally i % 2 ^ 48) % 2 ^ 48 := by
  refine ⟨rfl, fun i hi => ?_⟩
  simp only [EvBank.setFreeze, hf, Bool.false_eq_true, if_false, if_true]
  exact undo_counter hw hi

/-- One that is released counts what arrived in this a-cycle. -/
theorem setFreeze_releases (hf : b.freeze = true) : (b.setFreeze false).freeze = false ∧ ∀ i < 8,
    tabGet 0 (b.setFreeze false).cnt i = (tabGet 0 b.cnt i + tabGet 0 b.tally i) % 2 ^ 48 := by
  refine ⟨rfl, fun i hi => ?_⟩
  have steady : ∀ (is : List Nat) (x : EvBank), x.tally = b.tally →
      is.foldl (fun x i => x.bump i (tabGet 0 x.tally i)) x = bumps is (fun i => tabGet 0 b.tally i) x := by
    intro is
    induction is with
    | nil => exact fun x _ => rfl
    | cons i is ih =>
      intro x hx
      rw [List.foldl_cons, hx]
      exact ih _ ((bump_tally _ _ _).trans hx)
  simp only [EvBank.setFreeze, hf, Bool.true_eq_false, Bool.false_eq_true, if_false]
  rw [steady _ b rfl, bumps_counter _ List.nodup_range hw, if_pos (List.mem_range.2 hi)]

end

/-! ### Counting (R425, R426) -/

/-- The counters that select a source. -/
def hits (b : EvBank) (src sub : Nat) : List Nat := (List.range 8).filter (fun i => tabGet 0 b.sel i = src + 256 * sub)

theorem mem_hits {b : EvBank} {src sub i : Nat} : i ∈ hits b src sub ↔ i < 8 ∧ tabGet 0 b.sel i = src + 256 * sub := by
  simp [hits]

theorem hits_nodup (b : EvBank) (src sub : Nat) : (hits b src sub).Nodup := List.nodup_range.filter _

/-- Those of them that would wrap. -/
def wrapping (b : EvBank) (src sub n : Nat) : List Nat := (hits b src sub).filter (fun i => 2 ^ 48 ≤ tabGet 0 b.cnt i + n)

theorem mem_wrapping {b : EvBank} {src sub n i : Nat} :
    i ∈ wrapping b src sub n ↔ i < 8 ∧ tabGet 0 b.sel i = src + 256 * sub ∧ 2 ^ 48 ≤ tabGet 0 b.cnt i + n := by
  simp [wrapping, mem_hits, and_assoc]

theorem wrapping_nodup (b : EvBank) (src sub n : Nat) : (wrapping b src sub n).Nodup := (hits_nodup b src sub).filter _

/-- The bank with the events of this a-cycle noted. -/
def tallied (b : EvBank) (src sub n : Nat) : EvBank :=
  { b with tally := (hits b src sub).foldl (fun t i => tabMod 0 t i (fun v => v + n)) b.tally }

section
variable {b : EvBank} {src sub n : Nat}

theorem count_nothing (h : n = 0 ∨ src = 0 ∨ hits b src sub = []) : b.count src sub n = b := if_pos h

theorem count_frozen (hf : b.freeze = true) : b.count src sub n = b ∨ b.count src sub n = tallied b src sub n := by
  by_cases h : n = 0 ∨ src = 0 ∨ hits b src sub = []
  · exact .inl (count_nothing h)
  · exact .inr ((if_neg h).trans (if_pos hf))

section
variable (hf : b.freeze = false) (hn : n ≠ 0) (hsrc : src ≠ 0)
include hf hn hsrc

/-- A bank that need not freeze counts in every counter that selects the source, be there any or not. -/
theorem count_counts (h : b.frzOvf = false ∨ wrapping b src sub n = []) :
    ∃ t, b.count src sub n = bumps (hits b src sub) (fun _ => n) { b with tally := t } := by
  by_cases hhit : hits b src sub = []
  · exact ⟨b.tally, by rw [count_nothing (.inr (.inr hhit)), hhit]; rfl⟩
  · have counts : ¬ (n = 0 ∨ src = 0 ∨ hits b src sub = []) := not_or.2 ⟨hn, not_or.2 ⟨hsrc, hhit⟩⟩
    have free : ¬ (b.frzOvf = true ∧ wrapping b src sub n ≠ []) := by
      rintro ⟨hfrz, hwrap⟩
      exact h.elim (fun h => Bool.false_ne_true (h.symm.trans hfrz)) hwrap
    exact ⟨_, (if_neg counts).trans ((if_neg (Bool.eq_false_iff.1 hf)).trans (if_neg free))⟩

/-- With FRZ_OVF a bank with a counter that would wrap freezes. -/
theorem count_freezes (hfrz : b.frzOvf = true) (h : wrapping b src sub n ≠ []) :
    ∃ t, b.count src sub n = (wrapping b src sub n).foldl stop { b.undo with tally := t, freeze := true } := by
  have counts : ¬ (n = 0 ∨ src = 0 ∨ hits b src sub = []) := by
    rintro (h' | h' | h')
    · exact hn h'
    · exact hsrc h'
    · exact h (by rw [wrapping, h']; rfl)
  exact ⟨_, (if_neg counts).trans ((if_neg (Bool.eq_false_iff.1 hf)).trans (if_pos ⟨hfrz, h⟩))⟩

end

end

/-- Counting leaves the selections, the samples and the controls but FREEZE. -/
theorem count_keeps (b : EvBank) (src sub n : Nat) : (settings (b.count src sub n)).2 = (settings b).2 := by
  by_cases hnone : n = 0 ∨ src = 0
  · rw [count_nothing (or_assoc.1 (.inl hnone))]
  obtain ⟨hn, hsrc⟩ := not_or.1 hnone
  cases hf : b.freeze with
  | true => 
    obtain h | h := count_frozen (src := src) (sub := sub) (n := n) hf
    · rw [h]
    · rw [h]; rfl
  | false =>
    by_cases h : b.frzOvf = false ∨ wrapping b src sub n = []
    · obtain ⟨t, ht⟩ := count_counts hf hn hsrc h
      rw [ht, bumps_settings]; rfl
    · obtain ⟨hfrz, hwrap⟩ := not_or.1 h
      obtain ⟨t, ht⟩ := count_freezes hf hn hsrc (Bool.not_eq_false _ ▸ hfrz) hwrap
      rw [ht, stops_settings]; rfl

/-- What the record of what stood before this a-cycle leaves. -/
theorem mark_settings (now : Nat) (b : EvBank) :
    settings (b.mark now) = settings b ∧ (b.mark now).cnt = b.cnt ∧ (b.mark now).ovf = b.ovf ∧ (b.mark now).setcnt = b.setcnt := by
  unfold EvBank.mark
  split <;> exact ⟨rfl, rfl, rfl, rfl⟩

end Bank

open Bank in
/-- Settles O52: by what the bank makes of the events, nothing, a count in each counter, or a freeze. -/
theorem eventBanksCount : Obligations.EventBanksCount := by
  unfold Obligations.EventBanksCount
  intro b now src sub n epoch hw m v hit wraps back c
  obtain ⟨mset, mcnt, movf, msetcnt⟩ : settings m = settings b ∧ m.cnt = b.cnt ∧ m.ovf = b.ovf ∧ m.setcnt = b.setcnt :=
    mark_settings now b
  obtain ⟨mfreeze, mfrz, -, msel, -⟩ : m.freeze = b.freeze ∧ m.frzOvf = b.frzOvf ∧ m.sample = b.sample ∧ m.sel = b.sel ∧ _ := by
    simpa only [settings, Prod.mk.injEq] using mset
  have mw : tabWf 0 m.cnt = true := mcnt ▸ hw
  have counts : n ≠ 0 → c = m.count src sub n := fun hn => if_neg hn
  have hitIff {i : Nat} (hi : i < 8) : i ∈ hits m src sub ↔ hit i := by
    rw [mem_hits, msel]; exact and_iff_right hi
  have wrapsIff {i : Nat} (hi : i < 8) : i ∈ wrapping m src sub n ↔ wraps i := by
    rw [mem_wrapping, msel]; exact and_iff_right hi
  refine ⟨?mark, ?nothing, ?counts, ?setcnt, ?freezes, setFreeze_freezes hw, setFreeze_releases hw, ?sample, ?unsampled, ?keeps⟩
  case mark =>
    exact ⟨mcnt, movf, mfreeze, fun h => by simp only [m, EvBank.mark, h, if_false, and_self], fun h => if_pos h⟩
  case nothing =>
    intro h
    by_cases hn : n = 0
    · simp only [c, EvBank.countAt, hn, if_true, and_self]
    · rw [counts hn]
      have stays : m.count src sub n = m ∨ m.count src sub n = tallied m src sub n := by
        obtain hf | hn' | hsrc := h
        · exact count_frozen (mfreeze.trans hf)
        · exact absurd hn' hn
        · exact .inl (count_nothing (.inr (.inl hsrc)))
      obtain h | h := stays <;> rw [h] <;> exact ⟨mcnt, movf, mfreeze, msetcnt⟩
  case counts =>
    intro hf hn hsrc h
    have room : m.frzOvf = false ∨ wrapping m src sub n = [] := by
      refine h.imp (mfrz.trans ·) fun h => List.eq_nil_iff_forall_not_mem.2 fun i hi => ?_
      exact h i (mem_wrapping.1 hi).1 ((wrapsIff (mem_wrapping.1 hi).1).1 hi)
    obtain ⟨t, ht⟩ := count_counts (mfreeze.trans hf) hn hsrc room
    rw [counts hn, ht]
    refine ⟨(congrArg Prod.fst (bumps_settings _ _)).trans (mfreeze.trans hf), fun i hi => ?_⟩
    have cnt := bumps_counter (fun _ => n) (b := { m with tally := t }) (hits_nodup m src sub) mw i
    have ovf := bumps_ovf (fun _ => n) (b := { m with tally := t }) (hits_nodup m src sub) hi
    refine ⟨fun h => cnt.trans (if_pos ((hitIff hi).2 h)), fun h => cnt.trans (if_neg (h ∘ (hitIff hi).1)), ?_⟩
    rw [ovf, hitIff hi, ← movf]
  case setcnt =>
    intro hf hn hsrc hfrz hset
    obtain ⟨t, ht⟩ := count_counts (mfreeze.trans hf) hn hsrc (.inl (mfrz.trans hfrz))
    rw [counts hn, ht, bumps_setcnt (fun _ => n) (hits_nodup m src sub) (fun i hi => (mem_hits.1 hi).1) (msetcnt ▸ hset)]
    simp only [hits, List.filter_filter, msetcnt, movf, msel]
    refine congrArg (fun l => min 255 (b.setcnt + List.length l)) (List.filter_congr fun i _ => ?_)
    rw [Bool.decide_and, Bool.and_right_comm, Bool.and_comm (decide (2 ^ 48 ≤ _))]
  case freezes =>
    rintro hf hn hsrc hfrz ⟨k, hk, hwrap⟩
    have some : wrapping m src sub n ≠ [] := List.ne_nil_of_mem ((wrapsIff hk).2 hwrap)
    obtain ⟨t, ht⟩ := count_freezes (mfreeze.trans hf) hn hsrc (mfrz.trans hfrz) some
    rw [counts hn, ht]
    refine ⟨congrArg Prod.fst stops_settings, fun i hi => ?_⟩
    have cnt := stops_counter (b := { m.undo with tally := t, freeze := true }) (wrapping_nodup m src sub n) (undo_wf mw) i
    have ovf := stops_ovf (is := wrapping m src sub n) (b := { m.undo with tally := t, freeze := true }) hi
    rw [← wrapsIff hi]
    exact ⟨fun h => ⟨cnt.trans (if_pos h), ovf.2 (.inr h)⟩, fun h => (cnt.trans (if_neg h)).trans (undo_counter mw hi)⟩
  case sample => exact fun h => by simp only [EvBank.sampleAt, h, if_true, and_self]
  case unsampled => exact fun h => if_neg (Bool.eq_false_iff.1 h)
  case keeps =>
    have keeps : (settings c).2 = (settings b).2 := by
      by_cases hn : n = 0
      · simp only [c, EvBank.countAt, hn, if_true]
      · rw [counts hn, count_keeps, mset]
    obtain ⟨frz, sample, sel, samp, ep⟩ := by simpa only [settings, Prod.mk.injEq] using keeps
    exact ⟨sel, samp, frz, sample, ep⟩

end Sys2Proof.Proofs
end

section
/-! SUPPORT. The commands of partitions (R290, R291, R297, R315) and the drain barrier (R390): what each makes of the device, check by
check. -/

namespace Sys2Proof.Proofs

open Sys2Proof Sys2Proof.Machine Sys2Proof.Laws

section
variable {d : Dev} {c : Src} {p : Nat}

/-! ### Creation (R291) -/

theorem partCreate_makes {b : Bytes} (h : createStatus d b = 0) : partCreate c b d = done c 0 (partMake (fld b 0 4 0) b d) := by
  simp only [partCreate, h]

theorem partCreate_fails {b : Bytes} (h : createStatus d b ≠ 0) : partCreate c b d = done c (createStatus d b) d := by
  simp only [partCreate]

/-! ### Regulators (R297, R300) -/

section
variable {b : Bytes}

/-- The fields of a PART_REGULATE's descriptor are in range and its reserved bytes are zero. -/
def RegulateOk (b : Bytes) : Prop :=
  rsv b 0 31 6 = true ∧ (List.range 9).all (fun r => regOk (pdReg b r)) = true ∧ (b.drop 0x74).all (· = 0) = true

theorem regulateOk_iff : (¬ rsv b 0 31 6 = true ∨ (List.range 9).any (fun r => ! regOk (pdReg b r)) = true ∨
    (b.drop 0x74).any (· ≠ 0) = true) ↔ ¬ RegulateOk b := by
  simp only [RegulateOk, not_and_or, List.all_eq_true, List.any_eq_true, not_forall, Bool.not_eq_true', Bool.not_eq_true, exists_prop,
    decide_eq_true_eq, ne_eq]

theorem partRegulate_wrongLength (hlen : b.length ≠ 128) : partRegulate c b d = done c 2 d := if_pos hlen

variable (hlen : b.length = 128)
include hlen

theorem partRegulate_malformed (hform : ¬ RegulateOk b) : partRegulate c b d = done c 0xA1 d :=
  (if_neg (not_not.2 hlen)).trans (if_pos (regulateOk_iff.2 hform))

variable (hform : RegulateOk b)
include hform

theorem partRegulate_unknown (hknown : ¬ (fld b 0 4 0 = 0 ∨ d.pstate (fld b 0 4 0) ≠ 0)) : partRegulate c b d = done c 0xA3 d :=
  (if_neg (not_not.2 hlen)).trans ((if_neg (regulateOk_iff.not_left.2 hform)).trans (if_pos (by simpa [not_or] using hknown)))

variable (hknown : fld b 0 4 0 = 0 ∨ d.pstate (fld b 0 4 0) ≠ 0)
include hknown

theorem partRegulate_checked : partRegulate c b d =
    if ¬ d.admits (fld b 0 4 0) (pdReg b) (d.lendHandles ++ d.sgHandles) = true then done c 0xA6 d
    else done c 0 (partView (fld b 0 4 0) (setRegs (fld b 0 4 0) (pdReg b) d)) :=
  (if_neg (not_not.2 hlen)).trans ((if_neg (regulateOk_iff.not_left.2 hform)).trans
    (if_neg fun h => hknown.elim h.1 (fun k => k h.2)))

end

/-! ### Destruction and the drain barrier (R290, R390) -/

theorem partDestroy_operator (hp : p = 0) : partDestroy c p d = done c 0xB3 d := if_pos hp

theorem partDestroy_free (hp : p ≠ 0) (hst : d.pstate p = 0) : partDestroy c p d = done c 0xA3 d := (if_neg hp).trans (if_pos hst)

theorem partDestroy_destroying (hp : p ≠ 0) (hst : d.pstate p = 4) : partDestroy c p d = done c 0xAF d := by
  simp only [partDestroy, hp, hst, if_false, if_true, OfNat.ofNat_ne_zero]

theorem barrierDone_none (h : (d.part p).barrier = none) : barrierDone p d = d := by
  simp only [barrierDone, h]

/-- The barrier ends. -/
def barrierLifted (p : Nat) (d : Dev) : Dev := d.modPart p (fun x => { x with barrier := none })

theorem barrierDone_ends (h : (d.part p).barrier.isSome = true) : barrierDone p d =
    if (barrierLifted p d).pstate p = 4 then partSettled p (scrubPart p (barrierLifted p d))
    else if (barrierLifted p d).pstate p = 2 then
      partSettled p (((barrierLifted p d).occupied p).foldl (fun d g => startSave g d) (barrierLifted p d))
    else barrierLifted p d := by
  obtain ⟨t, ht⟩ := Option.isSome_iff_exists.1 h
  simp only [barrierDone, ht]
  rfl

/-! ### Resizing (R315) -/

theorem partResize_fails {h op : Nat} (hst : resizeStatus d p h op ≠ 0) : partResize c p h op d = done c (resizeStatus d p h op) d :=
  if_pos hst

end

/-! ### The statement -/

/-- Settles O23: each command by the first check that fails, the barrier's end by the partition's state. -/
theorem partitionCommandsAct : Obligations.PartitionCommandsAct := by
  unfold Obligations.PartitionCommandsAct
  refine ⟨?create, ?regulate, ?destroy, ?barrier, ?resize⟩
  case create =>
    exact fun s c b hrun => ⟨fun h => devRow_answer hrun (partCreate_makes h), fun h => devRow_answer hrun (partCreate_fails h)⟩
  case regulate =>
    intro s c b hrun p wellFormed known admitted
    refine ⟨fun hlen hform hknown hadm => devRow_answer hrun ?_, fun hlen => devRow_answer hrun (partRegulate_wrongLength hlen),
      fun hlen hform => devRow_answer hrun (partRegulate_malformed hlen hform),
      fun hlen hform hknown => devRow_answer hrun (partRegulate_unknown hlen hform hknown),
      fun hlen hform hknown hadm => devRow_answer hrun ((partRegulate_checked hlen hform hknown).trans (if_pos hadm))⟩
    exact (partRegulate_checked hlen hform hknown).trans (if_neg (not_not.2 hadm))
  case destroy =>
    intro s c p hrun hp
    refine ⟨fun h => partRow_answer hrun hp (partDestroy_operator h), fun h hst => partRow_answer hrun hp (partDestroy_free h hst),
      fun h hst => partRow_answer hrun hp (partDestroy_destroying h hst), fun h hfree hdying => partRow_answer hrun hp ?_⟩
    exact (if_neg h).trans ((if_neg hfree).trans (if_neg hdying))
  case barrier =>
    intro s p hrun hp d
    have answer {e : Dev} (he : barrierDone p s.dev = e) := placeRow_answer hrun (decide_eq_true hp) he
    refine ⟨fun h => answer (barrierDone_none h), fun h hst => answer ((barrierDone_ends h).trans (if_pos hst)),
      fun h hst => answer ((barrierDone_ends h).trans ?_),
      fun h hfrz hdying => answer ((barrierDone_ends h).trans ((if_neg hdying).trans (if_neg hfrz)))⟩
    have alive : ¬ d.pstate p = 4 := by rw [hst]; decide
    exact (if_neg alive).trans (if_pos hst)
  case resize =>
    intro s c p h op hrun hp d
    exact ⟨fun hst => partRow_answer hrun hp (if_neg (not_not.2 hst)), fun hst => partRow_answer hrun hp (partResize_fails hst)⟩

end Sys2Proof.Proofs
end

section
/-! SUPPORT. PASIDs and slices (R316 to R320): what each command makes of the device, check by check. -/

namespace Sys2Proof.Proofs

open Sys2Proof Sys2Proof.Machine Sys2Proof.Laws

/-- p0, or a partition that has been created. -/
def Known (d : Dev) (p : Nat) : Prop := p = 0 ∨ d.pstate p ≠ 0

section
variable {d : Dev} {c : Src} {p x : Nat}

theorem known_iff : ¬ Known d p ↔ p ≠ 0 ∧ d.pstate p = 0 := by rw [Known, not_or, not_not]

/-! ### PASIDs (R316) -/

/-- The PASIDs that the partitions hold. -/
def heldPasids (d : Dev) : Nat := sumL ((List.range 32).map (fun q => (d.part q).pasids.length))

theorem sliceAssign_unknown (hp : ¬ Known d p) : sliceAssign c p x d = done c 0xA3 d := if_pos (known_iff.1 hp)

section
variable (hp : Known d p)
include hp

theorem sliceAssign_known : sliceAssign c p x d =
    if 2 ^ 20 ≤ x then done c 0xA1 d
    else match d.pasidOwner x with
      | some q => done c (if q = p then 0 else 0xA9) d
      | none =>
        if 256 ≤ heldPasids d then done c 0xA1 d
        else done c 0 (partView p ((tdiTouched p d).modPart p (fun y => { y with pasids := y.pasids ++ [x] }))) :=
  if_neg (fun h => known_iff.2 h hp)

theorem sliceAssign_held {q : Nat} (hx : x < 2 ^ 20) (hq : d.pasidOwner x = some q) :
    sliceAssign c p x d = done c (if q = p then 0 else 0xA9) d := by
  rw [sliceAssign_known hp, if_neg hx.not_ge, hq]

theorem sliceAssign_assigns (hx : x < 2 ^ 20) (hfree : d.pasidOwner x = none) (hroom : heldPasids d < 256) :
    sliceAssign c p x d =
      done c 0 (partView p ((tdiTouched p d).modPart p (fun y => { y with pasids := y.pasids ++ [x] }))) := by
  simp only [sliceAssign_known hp, if_neg hx.not_ge, hfree, if_neg hroom.not_ge]

theorem sliceAssign_refused (h : 2 ^ 20 ≤ x ∨ (d.pasidOwner x = none ∧ 256 ≤ heldPasids d)) :
    sliceAssign c p x d = done c 0xA1 d := by
  rw [sliceAssign_known hp]
  obtain hx | ⟨hfree, hfull⟩ := h
  · exact if_pos hx
  · simp only [hfree, if_pos hfull, ite_self]

end

theorem sliceRelease_unknown (hp : ¬ Known d p) : sliceRelease c p x d = done c 0xA3 d := if_pos (known_iff.1 hp)

section
variable (hp : Known d p)
include hp

theorem sliceRelease_stranger (hx : x ∉ (d.part p).pasids) : sliceRelease c p x d = done c 0xA1 d :=
  (if_neg (fun h => known_iff.2 h hp)).trans (if_pos (by simpa only [List.contains_iff_mem] using hx))

variable (hx : x ∈ (d.part p).pasids)
include hx

theorem sliceRelease_member : sliceRelease c p x d =
    if d.pasidUsed p x = true then done c 0xA9 d
    else done c 0 (partView p ((tdiTouched p d).modPart p (fun y => { y with pasids := y.pasids.filter (· ≠ x) }))) :=
  (if_neg (fun h => known_iff.2 h hp)).trans (if_neg (not_not.2 (List.contains_iff_mem.2 hx)))

end

/-! ### Freezing (R317) -/

section
variable {eX : Nat}

/-- p freezes at the end of epoch eX. -/
def freezing (c : Src) (p eX : Nat) (d : Dev) : Dev :=
  ((d.setF F.ptPartStateState p 2).modPart p (fun x => { x with frozenAt := eX })).modSched p (fun x => { x with freezeBy := some c })

theorem sliceFreeze_operator (hp : p = 0) : sliceFreeze c p eX d = done c 0xB3 d := if_pos hp

variable (hp : p ≠ 0)
include hp

theorem sliceFreeze_shared (hone : ¬ (d.part p).pasids.length ≤ 1) : sliceFreeze c p eX d = done c 0xB0 d :=
  (if_neg hp).trans (if_pos (not_le.1 hone))

variable (hone : (d.part p).pasids.length ≤ 1)
include hone

theorem sliceFreeze_unquiet (hquiet : ¬ (d.pstate p = 1 ∧ (d.part p).rot = none)) : sliceFreeze c p eX d = done c 0xAF d := by
  have unquiet : d.pstate p ≠ 1 ∨ (d.part p).rot.isSome = true := by
    rwa [← Option.ne_none_iff_isSome, ← not_and_or]
  exact (if_neg hp).trans ((if_neg hone.not_gt).trans (if_pos unquiet))

variable (hquiet : d.pstate p = 1 ∧ (d.part p).rot = none)
include hquiet

theorem sliceFreeze_quiet : sliceFreeze c p eX d =
    if d.manyRoles p = true ∧ ¬ d.restartAt p (eX + 1) = true then done c 0xA1 d
    else if 4 ≤ (freezing c p eX d).esState p ∧ (freezing c p eX d).esState p ≤ 6 then stopAtEpoch p eX (freezing c p eX d)
    else
      let d := if (freezing c p eX d).esState p = 3 then abortSched p (freezing c p eX d) else freezing c p eX d
      d.modPart p (fun x => { x with barrier := some d.acyc }) := by
  have quiet : ¬ (d.pstate p ≠ 1 ∨ (d.part p).rot.isSome = true) := by
    rwa [← Option.ne_none_iff_isSome, ← not_and_or, not_not]
  exact (if_neg hp).trans ((if_neg hone.not_gt).trans (if_neg quiet))

theorem sliceFreeze_noPoint (hpoint : ¬ (d.manyRoles p = false ∨ d.restartAt p (eX + 1) = true)) :
    sliceFreeze c p eX d = done c 0xA1 d := by
  rw [not_or, Bool.not_eq_false] at hpoint
  rw [sliceFreeze_quiet hp hone hquiet, if_pos hpoint]

variable (hpoint : d.manyRoles p = false ∨ d.restartAt p (eX + 1) = true)
include hpoint

theorem sliceFreeze_checked : sliceFreeze c p eX d =
    if 4 ≤ (freezing c p eX d).esState p ∧ (freezing c p eX d).esState p ≤ 6 then stopAtEpoch p eX (freezing c p eX d)
    else
      let d := if (freezing c p eX d).esState p = 3 then abortSched p (freezing c p eX d) else freezing c p eX d
      d.modPart p (fun x => { x with barrier := some d.acyc }) := by
  rw [← Bool.not_eq_true, ← imp_iff_not_or, ← not_not (a := d.restartAt p (eX + 1) = true), ← not_and] at hpoint
  rw [sliceFreeze_quiet hp hone hquiet, if_neg hpoint]

end

/-! ### Saving (R318) -/

section
variable {host pasid len : Nat}

theorem sliceSave_operator (hp : p = 0) : sliceSave c p host pasid len d = done c 0xB3 d := if_pos hp

variable (hp : p ≠ 0)
include hp

theorem sliceSave_unready (h : d.pstate p ≠ 3 ∨ (d.part p).migKey = none ∨ d.flag F.ptPartStateSaved p = true) :
    sliceSave c p host pasid len d = done c 0xAF d := by
  simp only [sliceSave, hp, if_false]
  split
  case h_1 k hst hk =>
    obtain h | h | h := h
    · exact absurd hst h
    · cases h.symm.trans hk
    · exact if_pos h
  case h_2 => rfl

theorem sliceSave_ready {k : BitVec 256} (hst : d.pstate p = 3) (hk : (d.part p).migKey = some k)
    (hnew : d.flag F.ptPartStateSaved p = false) : sliceSave c p host pasid len d =
      if ¬ d.pasidOk p pasid = true then done c 6 d
      else if len < (Config.sliceSeal k (d.sliceOf p)).length then done c 0xA1 d
      else done c 0 ((hostWrite host (Config.sliceSeal k (d.sliceOf p)) d).setF F.ptPartStateSaved p 1) := by
  simp only [sliceSave, hp, if_false, hst, hk, hnew, Bool.false_eq_true]

end

/-! ### Restoring (R319) -/

section
variable {host pasid len : Nat}

/-- A partition that a slice can be loaded into. -/
def Vacant (d : Dev) (p : Nat) : Prop := d.pstate p = 1 ∧ d.esState p = 0 ∧ (d.part p).pt = []

theorem vacant_iff : (d.pstate p ≠ 1 ∨ d.esState p ≠ 0 ∨ (d.part p).pt ≠ []) ↔ ¬ Vacant d p := by
  rw [Vacant, not_and_or, not_and_or]

/-- The groups and grants of the slice have the sizes of the partition's. -/
def Fits (d : Dev) (p : Nat) (x : Slice) : Prop :=
  x.sizes = (d.part p).groups.map handleSize ∧ x.grants = ((d.heldGroups p).drop (d.part p).groups.length).map handleSize

/-- The places of the slice's pages in a pool. -/
def placesIn (x : Slice) (q : Pool) : Option (List (Bool × Nat × Nat)) :=
  q.placeAll (x.pages.zipIdx.map (fun z => (z.1.2.2.1, z.1.2.2.2.1, z.2)))

/-- The new second-level tables that the slice's pages need. -/
def slicePageTables (d : Dev) (p : Nat) (x : Slice) : List Nat := newTables (d.part p) (x.pages.map (·.1))

/-- The frames of the pool that they take. -/
def sliceTables (d : Dev) (p : Nat) (x : Slice) : Option (List Nat × Pool) :=
  (d.pool p).takeTables (tableCount (d.part p) (slicePageTables d p x).length)

theorem sliceRestore_operator (hp : p = 0) : sliceRestore c p host pasid len d = done c 0xB3 d := if_pos hp

variable (hp : p ≠ 0)
include hp

theorem sliceRestore_occupied (h : ¬ Vacant d p) : sliceRestore c p host pasid len d = done c 0xAF d :=
  (if_neg hp).trans (if_pos (vacant_iff.2 h))

variable (hvac : Vacant d p)
include hvac

theorem sliceRestore_stranger (h : d.pasidOk p pasid = false) : sliceRestore c p host pasid len d = done c 6 d :=
  (if_neg hp).trans ((if_neg (vacant_iff.not_left.2 hvac)).trans (if_pos (Bool.eq_false_iff.1 h)))

variable (hpasid : d.pasidOk p pasid = true)
include hpasid

theorem sliceRestore_keyless (h : (d.part p).migKey = none) : sliceRestore c p host pasid len d = done c 0xAF d := by
  have keyless : (d.part p).migKey.isNone = true := Option.isNone_iff_eq_none.2 h
  exact (if_neg hp).trans ((if_neg (vacant_iff.not_left.2 hvac)).trans ((if_neg (not_not.2 hpasid)).trans (if_pos keyless)))

variable {k : BitVec 256} (hk : (d.part p).migKey = some k)
include hk

theorem sliceRestore_opens : sliceRestore c p host pasid len d =
    match Config.sliceOpen k (d.hostRead host len) with
    | none => done c 0xB1 d
    | some s =>
      if s.sizes ≠ (d.part p).groups.map handleSize ∨ s.grants ≠ ((d.heldGroups p).drop (d.part p).groups.length).map handleSize then
        done c 0xB2 d
      else match sliceTables d p s with
        | none => done c 0x63 d
        | some (tf, q) =>
          match placesIn s q with
          | none => done c 0x63 d
          | some places => done c 0 (sliceLoad p s tf (slicePageTables d p s) places d) := by
  have keyed : ¬ (d.part p).migKey.isNone = true := by rw [hk]; exact Bool.false_ne_true
  refine ((if_neg hp).trans ((if_neg (vacant_iff.not_left.2 hvac)).trans ((if_neg (not_not.2 hpasid)).trans (if_neg keyed)))).trans ?_
  rw [hk]
  rfl

theorem sliceRestore_foreign (h : Config.sliceOpen k (d.hostRead host len) = none) :
    sliceRestore c p host pasid len d = done c 0xB1 d := by
  rw [sliceRestore_opens hp hvac hpasid hk, h]

variable {x : Slice} (hx : Config.sliceOpen k (d.hostRead host len) = some x)
include hx

theorem sliceRestore_misfit (h : ¬ Fits d p x) : sliceRestore c p host pasid len d = done c 0xB2 d := by
  rw [sliceRestore_opens hp hvac hpasid hk, hx]
  exact if_pos (not_and_or.1 h)

variable (hfits : Fits d p x)
include hfits

theorem sliceRestore_full (h : sliceTables d p x = none ∨ ∃ tf q, sliceTables d p x = some (tf, q) ∧ placesIn x q = none) :
    sliceRestore c p host pasid len d = done c 0x63 d := by
  rw [sliceRestore_opens hp hvac hpasid hk, hx]
  refine (if_neg (not_or.2 ⟨not_not.2 hfits.1, not_not.2 hfits.2⟩)).trans ?_
  obtain h | ⟨tf, q, h, hplaces⟩ := h
  · simp only [h]
  · simp only [h, hplaces]

theorem sliceRestore_loads {tf : List Nat} {q : Pool} {places : List (Bool × Nat × Nat)} (htables : sliceTables d p x = some (tf, q))
    (hplaces : placesIn x q = some places) :
    sliceRestore c p host pasid len d = done c 0 (sliceLoad p x tf (slicePageTables d p x) places d) := by
  rw [sliceRestore_opens hp hvac hpasid hk, hx]
  refine (if_neg (not_or.2 ⟨not_not.2 hfits.1, not_not.2 hfits.2⟩)).trans ?_
  simp only [htables, hplaces]

end

/-! ### Thawing (R320) -/

section
variable {abandon : Nat} {t0 : BitVec 64}

theorem sliceThaw_operator (hp : p = 0) : sliceThaw c p t0 abandon d = done c 0xB3 d := if_pos hp

/-- p is FROZEN; where its slice has been saved, the copy is abandoned. -/
def MayThaw (d : Dev) (p abandon : Nat) : Prop := d.pstate p = 3 ∧ (d.flag F.ptPartStateSaved p = true → abandon = 1)

theorem mayThaw_iff : (d.pstate p ≠ 3 ∨ (d.flag F.ptPartStateSaved p = true ∧ abandon ≠ 1)) ↔ ¬ MayThaw d p abandon := by
  rw [MayThaw, not_and_or, Classical.not_imp]

/-- The operands of a SLICE_THAW are in range. -/
def ThawOk (d : Dev) (abandon : Nat) (t0 : BitVec 64) : Prop :=
  t0.toNat % 800 = 0 ∧ 800000 ≤ (t0 - d.nt).toInt ∧ abandon ≤ 1

theorem thawOk_iff : (t0.toNat % 800 ≠ 0 ∨ (t0 - d.nt).toInt < 800000 ∨ 1 < abandon) ↔ ¬ ThawOk d abandon t0 := by
  rw [ThawOk, not_and_or, not_and_or, not_le, not_le]

/-- The partition after its thaw, its contexts restoring; a saved slice's key goes. -/
def thawed (p : Nat) (d : Dev) : Dev :=
  let d := if d.flag F.ptPartStateSaved p then
      ((d.modPart p (fun x => { x with migKey := none })).setF F.lgKeysMig p 0).setF F.ptPartStateSaved p 0
    else d
  restorePart p (d.setF F.ptPartStateState p 1)

variable (hp : p ≠ 0)
include hp

theorem sliceThaw_notFrozen (h : ¬ MayThaw d p abandon) : sliceThaw c p t0 abandon d = done c 0xAF d :=
  (if_neg hp).trans (if_pos (mayThaw_iff.2 h))

variable (hmay : MayThaw d p abandon)
include hmay

theorem sliceThaw_badTime (h : ¬ ThawOk d abandon t0) : sliceThaw c p t0 abandon d = done c 0xA1 d :=
  (if_neg hp).trans ((if_neg (mayThaw_iff.not_left.2 hmay)).trans (if_pos (thawOk_iff.2 h)))

theorem sliceThaw_thaws (h : ThawOk d abandon t0) : sliceThaw c p t0 abandon d =
    (let d := thawed p d
     done c 0 (if ¬ d.manyRoles p = true ∧ d.esState p = 7 then
       setEs p 4 (d.modSched p (fun s =>
        { s with t0 := t0, eS := d.epoch p + 1, stopAt := none, endAt := some (s.endAt.getD d.acyc), idleUntil := none }))
     else d)) :=
  (if_neg hp).trans ((if_neg (mayThaw_iff.not_left.2 hmay)).trans (if_neg (thawOk_iff.not_left.2 h)))

end

end

/-! ### The statement -/

/-- Settles O24: each command by the first check that fails. -/
theorem slicesMove : Obligations.SlicesMove := by
  unfold Obligations.SlicesMove
  refine ⟨?assign, ?release, ?freeze, ?save, ?restore, ?thaw⟩
  case assign =>
    intro s c p x hrun hp known held
    have answer {e : Dev} (he : sliceAssign c p x s.dev = e) := partRow_answer (g := done c 0xA1) hrun hp he
    exact ⟨fun hk hx hfree hroom => answer (sliceAssign_assigns hk hx hfree hroom), fun q hk hx hq => answer (sliceAssign_held hk hx hq),
      fun hk => answer (sliceAssign_unknown hk), fun hk h => answer (sliceAssign_refused hk h)⟩
  case release =>
    intro s c p x hrun hp known
    have answer {e : Dev} (he : sliceRelease c p x s.dev = e) := partRow_answer (g := done c 0xA1) hrun hp he
    exact ⟨fun hk hx hused => answer ((sliceRelease_member hk hx).trans (if_neg (Bool.eq_false_iff.1 hused))),
      fun hk => answer (sliceRelease_unknown hk), fun hk hx => answer (sliceRelease_stranger hk hx),
      fun hk hx hused => answer ((sliceRelease_member hk hx).trans (if_pos hused))⟩
  case freeze =>
    intro s c p eX hrun hp one quiet point d begin_
    have answer {e : Dev} (he : sliceFreeze c p eX s.dev = e) := partRow_answer (g := done c 0xA1) hrun hp he
    refine ⟨fun h hone hquiet hpoint hlow hhigh => answer ?_, fun h hone hquiet hpoint harmed => answer ?_,
      fun h hone hquiet hpoint hidle => answer ?_, fun h => answer (sliceFreeze_operator h),
      fun h hone => answer (sliceFreeze_shared h hone), fun h hone hquiet => answer (sliceFreeze_unquiet h hone hquiet),
      fun h hone hquiet hpoint => answer (sliceFreeze_noPoint h hone hquiet hpoint)⟩
    · exact (sliceFreeze_checked h hone hquiet hpoint).trans (if_pos ⟨hlow, hhigh⟩)
    · have stops : ¬ (4 ≤ d.esState p ∧ d.esState p ≤ 6) := by omega
      exact (sliceFreeze_checked h hone hquiet hpoint).trans ((if_neg stops).trans (congrArg begin_ (if_pos harmed)))
    · have stops : ¬ (4 ≤ d.esState p ∧ d.esState p ≤ 6) := by omega
      have armed : ¬ d.esState p = 3 := by omega
      exact (sliceFreeze_checked h hone hquiet hpoint).trans ((if_neg stops).trans (congrArg begin_ (if_neg armed)))
  case save =>
    intro s c p host pasid len hrun hp
    have answer {e : Dev} (he : sliceSave c p host pasid len s.dev = e) := partRow_answer (g := done c 0xA1) hrun hp he
    refine ⟨fun k h hst hk hnew => ?_, fun h => answer (sliceSave_operator h), fun h hready => answer (sliceSave_unready h hready)⟩
    have ready := sliceSave_ready (c := c) (host := host) (pasid := pasid) (len := len) h hst hk hnew
    exact ⟨fun hpasid hroom => answer (ready.trans ((if_neg (not_not.2 hpasid)).trans (if_neg (not_lt.2 hroom)))),
      fun hpasid => answer (ready.trans (if_pos (Bool.eq_false_iff.1 hpasid))),
      fun hpasid hroom => answer (ready.trans ((if_neg (not_not.2 hpasid)).trans (if_pos (not_le.1 hroom))))⟩
  case restore =>
    intro s c p host pasid len hrun hp empty
    have answer {e : Dev} (he : sliceRestore c p host pasid len s.dev = e) := partRow_answer (g := done c 0xA1) hrun hp he
    refine ⟨fun h => answer (sliceRestore_operator h), fun h hvac => answer (sliceRestore_occupied h hvac),
      fun h hvac hpasid => answer (sliceRestore_stranger h hvac hpasid),
      fun h hvac hpasid hk => answer (sliceRestore_keyless h hvac hpasid hk),
      fun k h hvac hpasid hk hx => answer (sliceRestore_foreign h hvac hpasid hk hx), ?_⟩
    intro k x h hvac hpasid hk hx fits new tables placed
    exact ⟨fun hfits => answer (sliceRestore_misfit h hvac hpasid hk hx hfits),
      fun hfits hfull => answer (sliceRestore_full h hvac hpasid hk hx hfits hfull),
      fun tf q places hfits htables hplaces => answer (sliceRestore_loads h hvac hpasid hk hx hfits htables hplaces)⟩
  case thaw =>
    intro s c p abandon t0 hrun hp saved may good e d
    have answer {e : Dev} (he : sliceThaw c p t0 abandon s.dev = e) := partRow_answer (g := done c 0xA1) hrun hp he
    refine ⟨fun h hmay hgood => answer ((sliceThaw_thaws h hmay hgood).trans ?_), fun h => answer (sliceThaw_operator h),
      fun h hmay => answer (sliceThaw_notFrozen h hmay), fun h hmay hgood => answer (sliceThaw_badTime h hmay hgood)⟩
    simp only [Bool.not_eq_true]
    rfl

end Sys2Proof.Proofs
end

section
/-! SUPPORT. The lending gate list and the takes of its groups (R302 to R306): what each row makes of the device. -/

namespace Sys2Proof.Proofs

open Sys2Proof Sys2Proof.Machine Sys2Proof.Laws

section
variable {d : Dev} {c : Src}

/-! ### LGL_SET and the switch (R302) -/

/-- A list that waits gives way: its LGL_SET completes with SUPERSEDED. -/
def lglSuperseded (d : Dev) : Dev :=
  match d.lglPend with
  | some (_, _, old) => done old 0xAD d
  | none => d

/-- The list of a descriptor waits for T_sw. -/
def lglWaits (c : Src) (b : Bytes) (d : Dev) : Dev :=
  lendPlan (({ d with lglPend := some (lglDesc b, (d.lglNow.gates 0).nextStart (BitVec.ofNat 64 (at_ b 0x08 8)), c) } : Dev).setF
    F.ptLglStatusPending 0 1)

section
variable {b : Bytes}

theorem lglSet_wrongLength (hlen : b.length ≠ 0x80 + 8 * fld b 0 8 0) : lglSet c b d = done c 2 d := if_pos hlen

variable (hlen : b.length = 0x80 + 8 * fld b 0 8 0)
include hlen

theorem lglSet_bad (hok : lglOk d b = false) : lglSet c b d = done c 0xAB d :=
  (if_neg (not_not.2 hlen)).trans (if_pos (Bool.eq_false_iff.1 hok))

variable (hok : lglOk d b = true)
include hok

theorem lglSet_soon (hsoon : (BitVec.ofNat 64 (at_ b 0x08 8) - d.nt).toInt < 1600000) : lglSet c b d = done c 0xAC d :=
  (if_neg (not_not.2 hlen)).trans ((if_neg (not_not.2 hok)).trans (if_pos hsoon))

variable (hlater : ¬ (BitVec.ofNat 64 (at_ b 0x08 8) - d.nt).toInt < 1600000)
include hlater

theorem lglSet_checked : lglSet c b d =
    if ¬ d.admitsLend (d.lgl.groups ++ (lglDesc b).groups ++ d.sgHandles) = true then done c 0xA6 d
    else lglWaits c b (lglSuperseded d) :=
  (if_neg (not_not.2 hlen)).trans ((if_neg (not_not.2 hok)).trans (if_neg hlater))

end

theorem lglSwitch_waits (h : ∀ l t c, d.lglPend = some (l, t, c) → reached d t = false) : lglSwitch d = d := by
  unfold lglSwitch
  split
  case h_1 => rfl
  case h_2 l t c hpend => exact if_pos (Bool.eq_false_iff.1 (h l t c hpend))

theorem lglSwitch_switches {l : Lgl} {t : BitVec 64} (hpend : d.lglPend = some (l, t, c)) (hdue : reached d t = true) :
    lglSwitch d =
      (let d := lendPlan { d with lgl := l, lglPend := none }
       let d := ((d.setF F.ptLglStatusNlg 0 l.groups.length).setF F.ptLglStatusNent 0 l.ents.length).setF F.ptLglStatusPending 0 0
       done c 0 ((List.range 32).foldl (fun d p => esView p d) (d.setF F.ptLglStatusBank 0 (1 - d.getF F.ptLglStatusBank)))) := by
  simp only [lglSwitch, hpend]
  exact if_neg (not_not.2 hdue)

/-! ### Notice and take (R303, R304) -/

section
variable {i : Nat}

theorem lendNotice_waits
    (h : ∀ w, (d.lend i).next = some w → (d.lend i).noticed = true ∨ reached d (w - 276000 - 800000) = false) : lendNotice i d = d := by
  simp only [lendNotice]
  split
  case h_1 => rfl
  case h_2 w hnext => exact if_pos ((h w hnext).imp_right Bool.eq_false_iff.1)

theorem lendNotice_reports {w : BitVec 64} (hnext : (d.lend i).next = some w) (hnew : (d.lend i).noticed = false)
    (hdue : reached d (w - 276000 - 800000) = true) : lendNotice i d =
      (d.lendParts i).foldl (fun d' p => report p 4
        (leBytes 8 (w - 276000).toNat ++ leBytes 8 w.toNat ++ leBytes 8 (d.offAfter (d.lend i).handle w).toNat ++
          leBytes 8 (d.lend i).handle) (d'.wr .ptLendNext p (w - 276000)))
        (d.modLend i (fun x => { x with noticed := true })) := by
  simp only [lendNotice, hnext]
  exact if_neg (not_or.2 ⟨Bool.eq_false_iff.1 hnew, not_not.2 hdue⟩)

/-- The group is taken, held, or returning with a core still lent. -/
def Away (d : Dev) (i : Nat) : Prop :=
  (d.lend i).phase = 2 ∨ (d.lend i).phase = 3 ∨ ((d.lend i).phase = 4 ∧ ∃ g ∈ d.lendCores i, d.flag F.coreStateLent g = true)

theorem away_iff : (decide ((d.lend i).phase = 2) || decide ((d.lend i).phase = 3) ||
    (decide ((d.lend i).phase = 4) && (d.lendCores i).any (fun g => d.flag F.coreStateLent g))) = true ↔ Away d i := by
  simp only [Away, Bool.or_eq_true, Bool.and_eq_true, decide_eq_true_eq, List.any_eq_true, or_assoc]

theorem takePoint_waits (h : Away d i ∨ ∀ w, (d.lend i).next = some w → reached d (w - 276000) = false) : takePoint i d = d := by
  simp only [takePoint]
  split
  case h_1 => rfl
  case h_2 w hnext => exact if_pos (h.imp away_iff.2 (fun h => Bool.eq_false_iff.1 (h w hnext)))

theorem takePoint_takes {w : BitVec 64} (hnext : (d.lend i).next = some w) (hhome : ¬ Away d i) (hdue : reached d (w - 276000) = true) :
    takePoint i d =
      (let d := (d.lendParts i).foldl (fun d p => if d.rd .ptLendNext p = w - 276000 then d.wr .ptLendNext p 0 else d) d
       let d := suspendGroups (d.lendCores i) d
       let d := d.modLend i (fun x =>
        { x with phase := 2, won := w, woff := d.offAfter x.handle w, next := d.onAfter x.handle w, noticed := false, late := false })
       (d.lendCores i).foldl (fun d g =>
        if d.coreSt g = 0 then d.setF F.coreStateLent g 1 else startSave g (d.modList g (fun l => { l with paused := true }))) d) := by
  simp only [takePoint, hnext]
  exact if_neg (not_or.2 ⟨fun h => hhome (away_iff.1 h), not_not.2 hdue⟩)

/-! ### W_on (R305) -/

theorem lendWon_early (h : (d.lend i).phase ≠ 2 ∨ reached d (d.lend i).won = false) : lendWon i d = d :=
  if_pos (h.imp_right Bool.eq_false_iff.1)

section
variable (hphase : (d.lend i).phase = 2) (hdue : reached d (d.lend i).won = true)
include hphase hdue

theorem lendWon_due : lendWon i d =
    if d.lendClear i = true then
      (d.lendCores i).foldl (fun d g => lendTaken g d) (d.modLend i (fun x => { x with phase := 3 }))
    else if (d.lend i).late = true then d
    else (d.modLend i (fun x => { x with late := true })).raise F.ptStatusTakeLate :=
  if_neg (not_or.2 ⟨not_not.2 hphase, not_not.2 hdue⟩)

theorem lendWon_passes (hclear : d.lendClear i = true) : lendWon i d =
    (d.lendCores i).foldl (fun d g => lendTaken g d) (d.modLend i (fun x => { x with phase := 3 })) :=
  (lendWon_due hphase hdue).trans (if_pos hclear)

theorem lendWon_late (hclear : d.lendClear i = false) (hnew : (d.lend i).late = false) :
    lendWon i d = (d.modLend i (fun x => { x with late := true })).raise F.ptStatusTakeLate :=
  (lendWon_due hphase hdue).trans ((if_neg (Bool.eq_false_iff.1 hclear)).trans (if_neg (Bool.eq_false_iff.1 hnew)))

end

/-- Before W_on, and while a late take waits for its scrubs, nothing changes. -/
theorem lendWon_idle
    (h : (d.lend i).phase ≠ 2 ∨ reached d (d.lend i).won = false ∨ (d.lendClear i = false ∧ (d.lend i).late = true)) : lendWon i d = d := by
  by_cases hearly : (d.lend i).phase ≠ 2 ∨ reached d (d.lend i).won = false
  · exact lendWon_early hearly
  · obtain ⟨hphase, hdue⟩ := not_or.1 hearly
    obtain ⟨hclear, hlate⟩ := (h.resolve_left hphase).resolve_left hdue
    have due := lendWon_due (not_not.1 hphase) (Bool.not_eq_false _ ▸ hdue)
    exact due.trans ((if_neg (Bool.eq_false_iff.1 hclear)).trans (if_pos hlate))

/-! ### W_off (R304) -/

/-- What a return makes of a core of the group. -/
def coreReturned (d : Dev) (g : Nat) : Dev :=
  if d.flag F.coreStateLent g = false then (if d.coreSt g = 3 then d else d.modList g (fun l => { l with paused := false }))
  else if d.coreSt g = 0 then restoreHome g (d.setF F.coreStateLent g 0)
  else if d.coreSt g = 1 then startScrub g d
  else d

theorem lendWoff_idle (h : ((d.lend i).phase ≠ 2 ∧ (d.lend i).phase ≠ 3) ∨ reached d (d.lend i).woff = false) : lendWoff i d = d :=
  if_pos (h.imp_right Bool.eq_false_iff.1)

theorem lendWoff_returns (hphase : (d.lend i).phase = 2 ∨ (d.lend i).phase = 3) (hdue : reached d (d.lend i).woff = true) :
    lendWoff i d =
      (let runs : Bool := decide ((d.lend i).phase = 3) && (d.lendCores i).any (fun g => decide (d.coreSt g = 2))
       let d := (d.modLend i (fun x => { x with phase := 4 })).raiseIf runs F.ptStatusReturnLate
       lendReturned ((d.lendCores i).foldl coreReturned d)) := by
  have away : ¬ (((d.lend i).phase ≠ 2 ∧ (d.lend i).phase ≠ 3) ∨ ¬ reached d (d.lend i).woff = true) :=
    not_or.2 ⟨not_and_or.2 (hphase.imp not_not.2 not_not.2), not_not.2 hdue⟩
  refine (if_neg away).trans ?_
  simp only [Bool.not_eq_true]
  rfl

end

end

/-! ### The statement -/

/-- Settles O25: the list by its checks, each time of a take by whether it has been reached. -/
theorem lendGroupsAct : Obligations.LendGroupsAct := by
  unfold Obligations.LendGroupsAct
  refine ⟨?set, ?switch, ?notice, ?take, ?won, ?woff⟩
  case set =>
    intro s c b hrun apply sized soon admitted taken
    have waits (hlen : sized) (hok : lglOk s.dev b = true) (hlater : ¬ soon) (hadm : admitted) :
        lglSet c b s.dev = lglWaits c b (lglSuperseded s.dev) :=
      (lglSet_checked hlen hok hlater).trans (if_neg (not_not.2 hadm))
    refine ⟨fun hlen hok hlater hadm hnone => devRow_answer hrun ((waits hlen hok hlater hadm).trans ?_),
      fun l ts old hlen hok hlater hadm hpend => devRow_answer hrun ((waits hlen hok hlater hadm).trans ?_),
      fun hlen => devRow_answer hrun (lglSet_wrongLength hlen), fun hlen hok => devRow_answer hrun (lglSet_bad hlen hok),
      fun hlen hok hsoon => devRow_answer hrun (lglSet_soon hlen hok hsoon),
      fun hlen hok hlater hadm => devRow_answer hrun ((lglSet_checked hlen hok hlater).trans (if_pos hadm))⟩
    · simp only [lglSuperseded, hnone]; rfl
    · simp only [lglSuperseded, hpend]; rfl
  case switch =>
    exact fun s hrun => ⟨fun l t c hpend hdue => devRow_answer hrun (lglSwitch_switches hpend hdue),
      fun h => devRow_answer hrun (lglSwitch_waits h)⟩
  case notice =>
    intro s i hrun hi
    have answer {e : Dev} (he : lendNotice i s.dev = e) := placeRow_answer hrun (decide_eq_true hi) he
    exact ⟨fun w hnext hnew hdue => answer (lendNotice_reports hnext hnew hdue), fun h => answer (lendNotice_waits h)⟩
  case take =>
    intro s i hrun hi x away
    have answer {e : Dev} (he : takePoint i s.dev = e) := placeRow_answer hrun (decide_eq_true hi) he
    exact ⟨fun w hnext hhome hdue => answer (takePoint_takes hnext hhome hdue), fun h => answer (takePoint_waits h)⟩
  case won =>
    intro s i hrun hi x
    have answer {e : Dev} (he : lendWon i s.dev = e) := placeRow_answer hrun (decide_eq_true hi) he
    exact ⟨fun hphase hdue hclear => answer (lendWon_passes hphase hdue hclear),
      fun hphase hdue hclear hnew => answer (lendWon_late hphase hdue hclear hnew), fun h => answer (lendWon_idle h)⟩
  case woff =>
    intro s i hrun hi x
    have answer {e : Dev} (he : lendWoff i s.dev = e) := placeRow_answer hrun (decide_eq_true hi) he
    exact ⟨fun hphase hdue => answer (lendWoff_returns hphase hdue), fun h => answer (lendWoff_idle h)⟩

end Sys2Proof.Proofs
end

section
/-! SUPPORT. The ends of saves, scrubs and restores (R293 to R295, R373) and the decisions of shared groups (R308 to R313): what each row
makes of the device. -/

namespace Sys2Proof.Proofs

open Sys2Proof Sys2Proof.Machine Sys2Proof.Laws

section
variable {d : Dev} {g : Nat}

/-! ### Saves, scrubs and restores -/

/-- A save of core g ends with these bytes of its scratchpad in partition p's save area; `lost` where an error of the area met it. -/
def saveEnds (p g : Nat) (spad : Mem) (lost : Bool) (d : Dev) : Dev :=
  let met : Bool := d.mem.spadUe.any (fun e => e.2 && decide (e.1 / (spadSize / 4) = g))
  let x : Saved := { ctx := (d.core g).ctx, spad := spad, ue := lost || (d.saved p g).ue || met }
  let d := d.modMem (fun m => { m with tags := m.tags.filter (fun e => ! (d.saveFrames p g).contains (64 * e.1 / pageSize)) })
  startScrub g { d with saves := tabSet {} d.saves (saveKey p g) x }

theorem saveDone_idle {ue : Bool} (hst : d.coreSt g ≠ 3) : saveDone g ue d = d := if_pos hst

section
variable (hst : d.coreSt g = 3)
include hst

theorem saveDone_damaged : saveDone g true d =
    saveEnds (d.workOf g) g (memWrite [] 0 (takeBytes spadSize (d.raise F.ptStatusSaveUe)).1) true
      (takeBytes spadSize (d.raise F.ptStatusSaveUe)).2 := if_neg (not_not.2 hst)

theorem saveDone_clean : saveDone g false d = saveEnds (d.workOf g) g (spadSaved g d).1 false (spadSaved g d).2 :=
  if_neg (not_not.2 hst)

end

theorem scrubDone_idle (hst : d.coreSt g ≠ 4) : scrubDone g d = d := if_pos hst

theorem restoreEnd_idle (hst : d.coreSt g ≠ 5) : restoreEnd g d = d := if_pos hst

/-- The core after its restore: idle, its slice begun. -/
def restored (g : Nat) (d : Dev) : Dev := sliceBegins g (restoreDone g d)

/-- The restored context has to leave again, to a lend or a freeze. -/
def MustLeave (d : Dev) (g : Nat) : Prop :=
  d.lendPhase g = 2 ∨ ((d.part (d.workOf g)).barrier = none ∧ d.pstate (d.workOf g) = 2)

/-- Its partition is being destroyed. -/
def Dying (d : Dev) (g : Nat) : Prop := (d.part (d.workOf g)).barrier = none ∧ d.pstate (d.workOf g) = 4

theorem mustLeave_iff : (decide (d.lendPhase g = 2) ||
    ((d.part (d.workOf g)).barrier.isNone && decide (d.pstate (d.workOf g) = 2))) = true ↔ MustLeave d g := by
  simp only [MustLeave, Bool.or_eq_true, Bool.and_eq_true, decide_eq_true_eq, Option.isNone_iff_eq_none]

theorem dying_iff : ((d.part (d.workOf g)).barrier.isNone && decide (d.pstate (d.workOf g) = 4)) = true ↔ Dying d g := by
  simp only [Dying, Bool.and_eq_true, decide_eq_true_eq, Option.isNone_iff_eq_none]

section
variable (hst : d.coreSt g = 5)
include hst

theorem restoreEnd_leaves (h : MustLeave (restored g d) g) : restoreEnd g d = lendReturned (startSave g (restored g d)) :=
  (if_neg (not_not.2 hst)).trans (congrArg lendReturned (if_pos (mustLeave_iff.2 h)))

variable (hstay : ¬ MustLeave (restored g d) g)
include hstay

theorem restoreEnd_dies (h : Dying (restored g d) g) : restoreEnd g d = lendReturned (startScrub g (restored g d)) :=
  (if_neg (not_not.2 hst)).trans (congrArg lendReturned ((if_neg (mt mustLeave_iff.1 hstay)).trans (if_pos (dying_iff.2 h))))

theorem restoreEnd_stays (h : ¬ Dying (restored g d) g) : restoreEnd g d = lendReturned (restored g d) :=
  (if_neg (not_not.2 hst)).trans (congrArg lendReturned ((if_neg (mt mustLeave_iff.1 hstay)).trans (if_neg (mt dying_iff.1 h))))

end

end

section
variable {d : Dev} {c : Src} {i : Nat}

/-! ### SG_SET (R308) -/

section
variable {b : Bytes}

theorem sgSet_fails (h : sgStatus d b ≠ 0) : sgSet c b d = done c (sgStatus d b) d := by
  simp only [sgSet]

variable (hok : sgStatus d b = 0)
include hok

theorem sgSet_ok : sgSet c b d =
    if (d.sg (fld b 0 4 0)).grants = [] ∧ (d.sg (fld b 0 4 0)).ending = [] then sgApply b c d
    else d.modSg (fld b 0 4 0) (fun x => { x with pend := x.pend ++ [(b, c)] }) := by
  simp only [sgSet, hok]

end

/-! ### Decision points (R310) -/

/-- The device in which the group decides: a waiting change has taken effect, but in fixed mode. -/
def sgReady (i : Nat) (d : Dev) : Dev := if (d.sg i).fixed then d else sgPending i d

/-- The group has no running context that is resident. -/
def RunEvicted (d : Dev) (i : Nat) : Prop := ∀ k g, (d.sg i).run = some k → (d.sg i).grants[k]? = some g → g.resident = false

/-- No resident context of the group is runnable. -/
def GroupIdle (d : Dev) (i : Nat) : Prop :=
  ∀ k ∈ d.grantIx i, ∀ g, (d.sg i).grants[k]? = some g → g.resident = true → d.sgRunnable i k = false

theorem RunEvicted.chooses (h : RunEvicted d i) : (match (d.sg i).run.bind (fun k => (d.sg i).grants[k]?) with
    | some g => ! g.resident
    | none => true) = true := by
  split
  case h_1 g hrun =>
    obtain ⟨k, hk, hg⟩ := Option.bind_eq_some_iff.1 hrun
    rw [h k g hk hg]; rfl
  case h_2 => rfl

theorem GroupIdle.chooses (h : GroupIdle d i) : (d.grantIx i).any (fun k =>
    ((d.sg i).grants.getD k { part := 0, weight := 1, resident := false }).resident && d.sgRunnable i k) = false := by
  refine List.any_eq_false.2 fun k hk => ?_
  rw [List.getD_eq_getElem?_getD, Bool.and_eq_true, not_and, Bool.not_eq_true]
  intro hres
  cases hg : (d.sg i).grants[k]? with
  | none => rw [hg] at hres; cases hres
  | some g => rw [hg] at hres; exact h k hk g hg hres

theorem sgDecision_empty (h : (d.sg i).grants = []) : sgDecision i d = d := if_pos h

theorem sgDecision_chooses (hne : (d.sg i).grants ≠ []) (h : RunEvicted d i ∨ GroupIdle (sgReady i d) i) :
    sgDecision i d = sgDecide i false (sgReady i d) := by
  refine (if_neg hne).trans (if_pos ?_)
  refine h.imp (fun h => ?_) (fun h => ?_)
  · exact h.chooses
  · exact congrArg (! ·) h.chooses

/-! ### Yield and fixed slices (R310, R313) -/

/-- Since when the running context has been blocked. -/
def blockedSince (d : Dev) (i : Nat) : Option Nat := ((d.sg i).run.bind (fun k => (d.sg i).grants[k]?)).bind (·.blocked)

theorem yieldExpiry_gives {t : Nat} (hsince : blockedSince d i = some t) (hdue : t + (d.sg i).yield * 3000 ≤ d.acyc)
    (hshares : (d.sg i).fixed = false) : yieldExpiry i d = sgDecide i true (sgPending i d) := by
  simp only [yieldExpiry]
  rw [show ((d.sg i).run.bind (fun k => (d.sg i).grants[k]?)).bind (·.blocked) = some t from hsince]
  exact if_pos ⟨hdue, Bool.eq_false_iff.1 hshares⟩

theorem yieldExpiry_idle (h : (d.sg i).fixed = true ∨ ∀ t, blockedSince d i = some t → d.acyc < t + (d.sg i).yield * 3000) :
    yieldExpiry i d = d := by
  simp only [yieldExpiry]
  split
  case h_1 t hsince =>
    refine if_neg fun hgives => ?_
    obtain hfixed | hearly := h
    · exact hgives.2 hfixed
    · exact (hearly t hsince).not_ge hgives.1
  case h_2 => rfl

/-- When the next slice of a fixed group begins. -/
def sliceDue (x : SharedGroup) : Nat := if x.run = none then x.sliceAt else x.sliceAt + x.slice * 300000

/-- The grant whose slice it is. -/
def nextGrant (x : SharedGroup) : Nat :=
  match x.run with
  | some k => (k + 1) % x.grants.length
  | none => 0

theorem sliceDue_eq (x : SharedGroup) : (if x.run.isNone = true then x.sliceAt else x.sliceAt + x.slice * 300000) = sliceDue x := by
  rw [sliceDue]
  simp only [Option.isNone_iff_eq_none]

theorem fixedSliceBoundary_idle
    (h : (d.sg i).fixed = false ∨ (d.sg i).grants = [] ∨ (d.sg i).suspended.isSome = true ∨ d.acyc < sliceDue (d.sg i)) :
    fixedSliceBoundary i d = d := by
  simp only [fixedSliceBoundary, sliceDue_eq]
  exact if_pos (h.imp_left Bool.eq_false_iff.1)

/-- The slice of grant k has begun. -/
def sliceStarted (i k : Nat) (d : Dev) : Dev :=
  sgView i (d.modSg i (fun z => { z with run := some k, sliceAt := sliceDue (d.sg i) }))

theorem fixedSliceBoundary_begins {k : Nat} {g : SgGrant} (hfixed : (d.sg i).fixed = true) (hrun : (d.sg i).suspended = none)
    (hdue : sliceDue (d.sg i) ≤ d.acyc) (hpend : (d.sg i).pend = []) (hk : k = nextGrant (d.sg i)) (hg : (d.sg i).grants[k]? = some g) :
    fixedSliceBoundary i d =
      if (sliceStarted i k d).degraded = true ∨ (sliceStarted i k d).pstate g.part ≠ 1 then sliceStarted i k d
      else ((sliceStarted i k d).sgCores i).foldl (fun d g' => startRestore g' g.part d) (sliceStarted i k d) := by
  have hne : (d.sg i).grants ≠ [] := by
    intro h; rw [h] at hg; cases hg
  have begins : ¬ (¬ (d.sg i).fixed = true ∨ (d.sg i).grants = [] ∨ (d.sg i).suspended.isSome = true ∨ d.acyc < sliceDue (d.sg i)) := by
    simp [hfixed, hne, hrun, hdue]
  have here : sgPending i d = d := by simp only [sgPending, hpend]
  have stands : ¬ (¬ (d.sg i).fixed = true ∨ (d.sg i).grants = [] ∨ ((d.sg i).run.isNone = true ∧ d.acyc < (d.sg i).sliceAt)) := by
    rintro (h | h | ⟨hnone, hearly⟩)
    · exact h hfixed
    · exact hne h
    · rw [sliceDue, if_pos (Option.isNone_iff_eq_none.1 hnone)] at hdue
      exact hearly.not_ge hdue
  subst hk
  simp only [fixedSliceBoundary, sliceDue_eq]
  rw [if_neg begins, here, if_neg stands]
  have part : ((d.sg i).grants.getD (nextGrant (d.sg i)) { part := 0, weight := 1, resident := true }).part = g.part := by
    rw [List.getD_eq_getElem?_getD, hg]; rfl
  rw [← part]
  rfl

end

/-! ### The statement -/

/-- Settles O26: the ends of saves, scrubs and restores by the core's state, the decisions of a shared group by its grants and its times. -/
theorem contextsAndSharedGroupsMove : Obligations.ContextsAndSharedGroupsMove := by
  unfold Obligations.ContextsAndSharedGroupsMove
  refine ⟨⟨?save, ?scrub, ?restore⟩, ?set, ?decision, ?yield, ?fixed⟩
  case save =>
    intro s g ue hrun hg p free kept ends
    refine ⟨fun hst hue => coreRow_answer hrun hg ?_, fun hst hue => coreRow_answer hrun hg ?_,
      fun hst => coreRow_answer hrun hg (saveDone_idle hst)⟩
    · subst hue; exact saveDone_damaged hst
    · subst hue; exact saveDone_clean hst
  case scrub =>
    intro s g hrun hg p d d'
    exact ⟨fun hst => coreRow_answer hrun hg (if_neg (not_not.2 hst)), fun hst => coreRow_answer hrun hg (scrubDone_idle hst)⟩
  case restore =>
    intro s g hrun hg d p frozen dying
    exact ⟨fun hst hstay hlive => coreRow_answer hrun hg (restoreEnd_stays hst hstay hlive),
      fun hst haway => coreRow_answer hrun hg (restoreEnd_leaves hst haway),
      fun hst hstay hdying => coreRow_answer hrun hg (restoreEnd_dies hst hstay hdying),
      fun hst => coreRow_answer hrun hg (restoreEnd_idle hst)⟩
  case set =>
    intro s c b hrun new
    exact ⟨fun hok hnew => devRow_answer hrun ((sgSet_ok hok).trans (if_pos hnew)),
      fun hok hold => devRow_answer hrun ((sgSet_ok hok).trans (if_neg hold)), fun h => devRow_answer hrun (sgSet_fails h)⟩
  case decision =>
    intro s i hrun hi d evicted idle
    have answer {e : Dev} (he : sgDecision i s.dev = e) := placeRow_answer hrun (decide_eq_true hi) he
    exact ⟨fun hne h => answer (sgDecision_chooses hne (.inl h)), fun hne h => answer (sgDecision_chooses hne (.inr h)),
      fun h => answer (sgDecision_empty h)⟩
  case yield =>
    intro s i hrun hi since
    have answer {e : Dev} (he : yieldExpiry i s.dev = e) := placeRow_answer hrun (decide_eq_true hi) he
    exact ⟨fun t hsince hdue hshares => answer (yieldExpiry_gives hsince hdue hshares), fun h => answer (yieldExpiry_idle h)⟩
  case fixed =>
    intro s i hrun hi x due
    have answer {e : Dev} (he : fixedSliceBoundary i s.dev = e) := placeRow_answer hrun (decide_eq_true hi) he
    refine ⟨fun k g hfixed hfree hdue hpend hk hg => ?_, fun h => answer (fixedSliceBoundary_idle h)⟩
    have begins := fixedSliceBoundary_begins hfixed hfree hdue hpend hk hg
    refine ⟨fun hlive hactive => answer (begins.trans (if_neg ?_)), fun h => answer (begins.trans (if_pos h))⟩
    exact not_or.2 ⟨Bool.eq_false_iff.1 hlive, not_not.2 hactive⟩

end Sys2Proof.Proofs
end

section
/-! SUPPORT. Rings (R327 to R335, R350) and semaphores (R347 to R349): what each row makes of the device in the cases of O4, O5 and O7. -/

namespace Sys2Proof.Proofs

open Sys2Proof Sys2Proof.Machine Sys2Proof.Laws

/-- A row of a ring or semaphore that the package has answers what its meaning makes of the device. -/
theorem ringRow_answer {s : State} {r n : Nat} {f : Dev → Dev} {d : Dev} (hrun : s.dev.pins.stopped = false) (hr : r < n)
    (hf : f s.dev = d) : need (decide (r < n)) .noSuchRing (upd s f) = .next { s with dev := d } :=
  (need_true (decide_eq_true hr)).trans (devRow_answer hrun hf)

section
variable {d : Dev} {r : Nat}

/-! ### RING_CTL (R327, R328) -/

theorem ringCtlFields_rings (v : BitVec 64) : (ringCtlFields r v d).rings = d.rings := by
  simp only [ringCtlFields, List.foldl_cons, List.foldl_nil, setF_keeps]

/-- No locked interface freezes the ring. -/
def Unfrozen (d : Dev) (r : Nat) : Prop := d.getF F.ringCtlKind r < 2 → d.tdiLocked (d.getF F.ringCtlPart r) = false

section
variable (hfree : Unfrozen d r) (hst : d.ringSt r ≠ 4)
include hfree

theorem unfrozen_guard : ¬ (d.getF F.ringCtlKind r < 2 ∧ d.tdiLocked (d.getF F.ringCtlPart r) = true) :=
  fun h => Bool.false_ne_true ((hfree h.1).symm.trans h.2)

include hst

/-- ENABLE = 1 on a disabled ring whose checks pass. -/
theorem ringCtlWrite_enables {v : BitVec 64} (hv : v.getLsbD 0 = true) (hready : d.flag F.qsStateReady = true)
    (hoff : d.flag F.ringCtlEnable r = false) (hok : enableErr (ringCtlFields r v d) r = 0) :
    ringCtlWrite r v d =
      (let d := (ringCtlFields r v d).setF F.ringStateErr r 0
       ((d.setRing r { skew := (d.ring r).skew, polled := d.nt }).setF F.ringCtlEnable r 1).setF F.ringStateState r 2) := by
  have taken : ¬ (v.getLsbD 0 = true ∧ ¬ d.flag F.qsStateReady = true) := fun h => h.2 hready
  refine (if_neg taken).trans ((if_neg (unfrozen_guard hfree)).trans ((if_neg hst).trans ((if_neg (Bool.eq_false_iff.1 hoff)).trans
    ((if_pos hv).trans ?_))))
  simp only [ringEnableAt, hok]
  rfl

/-- ENABLE = 0 on an enabled ring without a waiting record. -/
theorem ringCtlWrite_disables {v : BitVec 64} (hv : v.getLsbD 0 = false) (hon : d.flag F.ringCtlEnable r = true)
    (hnone : (d.ring r).waiting = []) :
    ringCtlWrite r v d =
      (let e := (ringCtlFields r v d).setF F.ringCtlEnable r 0
       let e := e.setRing r { d.ring r with subs := [], waiting := [], reports := [] }
       e.setF F.ringStateState r (if (e.ring r).started = [] then 0 else 4)) := by
  have keepsOff : ¬ v.getLsbD 0 = true := Bool.eq_false_iff.1 hv
  have ring : ((ringCtlFields r v d).setF F.ringCtlEnable r 0).ring r = d.ring r := by
    simp only [Dev.ring, setF_keeps, ringCtlFields_rings]
  refine (if_neg fun h => keepsOff h.1).trans ((if_neg (unfrozen_guard hfree)).trans ((if_neg hst).trans ((if_pos hon).trans
    ((if_neg keepsOff).trans ?_))))
  simp only [ringDisableAt, Dev.modRing, ring, hnone, List.foldl_nil]

end

theorem drainComplete_drains (hst : d.ringSt r = 4) (hnone : (d.ring r).started = []) :
    drainComplete r d = d.setF F.ringStateState r 0 := if_pos ⟨hst, hnone⟩

/-! ### Doorbells (R330 to R332) -/

theorem kickRing_wakes {v : BitVec 32} (hst : d.ringSt r = 1) (hepoch : v.toNat = d.getF F.ringAuxEpoch r) :
    kickRing r v d = pollRing r (hostWrite (d.dbAddr r + 0x20) (zeros 4)
      ((d.setF F.ringStateState r 2).modRing r (fun x => { x with idlePolls := 0 }))) :=
  (if_pos ⟨.inl hst, hepoch⟩).trans (if_pos hst)

theorem doorbellPoll_polls (hst : d.ringSt r = 2) (hcmd : d.isCmdRing r = true)
    (hdue : reached d (later (d.ring r).polled (d.eff F.ringCtlPoll 1 1000 r * 800)) = true) : doorbellPoll r d = pollRing r d :=
  if_pos ⟨hst, hcmd, hdue⟩

/-- The record read again with IDLE = 1. -/
def idleRead (r : Nat) (d : Dev) : Dev := readDoorbell r (hostWrite (d.dbAddr r + 0x20) [1, 0, 0, 0] d)

theorem idleHandshake_idles (hst : d.ringSt r = 2) (hcmd : d.isCmdRing r = true)
    (hpolls : (if d.getF F.hiDbCfgIdlePolls = 0 then 64 else d.getF F.hiDbCfgIdlePolls) ≤ (d.ring r).idlePolls)
    (hnone : (d.ring r).waiting = []) (hstays : (idleRead r d).ringSt r = 2)
    (hsame : ((idleRead r d).ring r).prod = (d.ring r).prod) :
    idleHandshake r d = (idleRead r d).setF F.ringStateState r 1 :=
  (if_pos ⟨hst, hcmd, hpolls, hnone⟩).trans ((if_neg (not_not.2 hstays)).trans (if_neg (not_not.2 hsame)))

theorem reportDoorbell_flushes (hst : d.ringSt r = 2) (hreport : d.isCmdRing r = false) (hstays : (readDoorbell r d).ringSt r = 2) :
    reportDoorbell r d = flushReports r (readDoorbell r d) :=
  (if_pos ⟨hst, Bool.eq_false_iff.1 hreport⟩).trans (if_pos hstays)

/-! ### Acceptance (R335) -/

section
variable {b : Bytes} {l : List Bytes} (hst : d.ringSt r = 2) (hkind : d.getF F.ringCtlKind r = 0) (hsubs : (d.ring r).subs = b :: l)
include hst hkind hsubs

/-- The oldest submission of an ACTIVE command ring is accepted by the rules of kind 0. -/
theorem commandAccept_oldest : commandAccept r d = acceptC r b d := by
  have active : ¬ (d.ringSt r ≠ 1 ∧ d.ringSt r ≠ 2) := fun h => h.2 hst
  simp only [commandAccept, if_neg active, hsubs, if_pos hkind]

theorem commandAccept_starts {i : Instr} (hok : checkC d r b = .inr i) (hswait : bit b 0 18 = false) (horder : bit b 0 17 = false) :
    commandAccept r d = (d.modRing r (fun x => { x with subs := x.subs.tail })).modRing r
      (fun x => { x with started := x.started ++ [⟨subSrc r b, i⟩] }) := by
  simp only [commandAccept_oldest hst hkind hsubs, acceptC, hok, hswait, horder, Bool.false_eq_true, false_and, if_false]

theorem commandAccept_rejects {st : Nat} (hbad : checkC d r b = .inl st) : commandAccept r d =
    finish { subSrc r b with ssig := none } st 0 0 (d.modRing r (fun x => { x with subs := x.subs.tail })) := by
  simp only [commandAccept_oldest hst hkind hsubs, acceptC, hbad]

end

/-- Raises merged in the interval become one (R350). -/
theorem imodEnd_raises (hdue : (d.ring r).imodUntil ≤ d.acyc) (hmerged : (d.ring r).merged = true) : imodEnd r d =
    raiseVector (d.getF F.ringCtlVector r) (d.modRing r (fun x =>
      { x with merged := false, imodUntil := d.acyc + d.getF F.ringCtlImod r * 3000 })) := by
  refine (if_pos ⟨hdue, hmerged⟩).trans ?_
  rw [Nat.mul_assoc]
  rfl

end

/-! ### Semaphores (R347 to R349) -/

section
variable {d : Dev} {c : Src} {i : Nat}

theorem semPartWrite_assigns {v : BitVec 32}
    (h : d.flag F.semPartValid i = false ∨ (d.tdiLocked (d.getF F.semPartPart i) = false ∧ d.pstate (d.getF F.semPartPart i) = 0)) :
    semPartWrite i v d = ((d.setF F.semPartValid i (bitsOf v.toNat 5 5)).setF F.semPartPart i (bitsOf v.toNat 4 0)).setSem i {} := by
  have unlocked : ¬ (d.flag F.semPartValid i = true ∧ d.tdiLocked (d.getF F.semPartPart i) = true) := by
    rintro ⟨hvalid, hlocked⟩
    obtain h | ⟨h, -⟩ := h
    · exact Bool.false_ne_true (h.symm.trans hvalid)
    · exact Bool.false_ne_true (h.symm.trans hlocked)
  exact (if_neg unlocked).trans (if_pos (h.imp Bool.eq_false_iff.1 And.right))

theorem semPartWrite_owned {v : BitVec 32} (hvalid : d.flag F.semPartValid i = true)
    (hfree : d.tdiLocked (d.getF F.semPartPart i) = false) (hlive : d.pstate (d.getF F.semPartPart i) ≠ 0) :
    semPartWrite i v d = d.raise F.hiStatusSemWrite := by
  have unlocked : ¬ (d.flag F.semPartValid i = true ∧ d.tdiLocked (d.getF F.semPartPart i) = true) :=
    fun h => Bool.false_ne_true (hfree.symm.trans h.2)
  exact (if_neg unlocked).trans (if_neg (not_or.2 ⟨not_not.2 hvalid, hlive⟩))

theorem semNotifyCmd_arms {vec : Nat} {w : BitVec 64} (hown : d.semOf i (d.cpart c) = true) : semNotifyCmd c i vec w d =
    done c 0 (if w ≤ (d.sem i).value then raiseVector vec (d.setSem i { d.sem i with armed := none })
      else d.setSem i { d.sem i with armed := some (w, vec) }) :=
  (if_neg (not_not.2 hown)).trans (apply_ite (done c 0) _ _ _).symm

/-- An add to a semaphore without a notification saturates. -/
theorem semAddTo_unarmed (a : BitVec 64) (h : (d.sem i).armed = none) : semAddTo i a d =
    if 2 ^ 64 ≤ (d.sem i).value.toNat + a.toNat then
      (d.raise F.hiStatusSemSat).setSem i { value := BitVec.ofNat 64 (2 ^ 64 - 1), armed := none }
    else d.setSem i { value := (d.sem i).value + a, armed := none } := by
  simp only [semAddTo, h]
  by_cases hsat : 2 ^ 64 ≤ (d.sem i).value.toNat + a.toNat
  · have top : min ((d.sem i).value.toNat + a.toNat) (2 ^ 64 - 1) = 2 ^ 64 - 1 := min_eq_right (by omega)
    rw [if_pos hsat, top, decide_eq_true hsat]
    rfl
  · have sum : min ((d.sem i).value.toNat + a.toNat) (2 ^ 64 - 1) = (d.sem i).value.toNat + a.toNat := min_eq_left (by omega)
    rw [if_neg hsat, sum, decide_eq_false hsat, BitVec.ofNat_add, BitVec.ofNat_toNat, BitVec.ofNat_toNat, BitVec.setWidth_eq,
      BitVec.setWidth_eq]
    rfl

end

/-! ### The statements -/

/-- Settles O4: the write of RING_CTL with ENABLE set and cleared, and the end of a drain. -/
theorem ringsEnableAndDrain : Obligations.RingsEnableAndDrain := by
  unfold Obligations.RingsEnableAndDrain
  refine ⟨?enable, ?disable, ?drain⟩
  case enable =>
    intro s r ctl hrun hr hready hfree hst hoff hok
    have enables : (ctl ||| 1).getLsbD 0 = true := by simp
    exact ringRow_answer hrun hr (ringCtlWrite_enables hfree hst enables hready hoff hok)
  case disable =>
    intro s r ctl hrun hr hfree hst hon hnone
    have disables : (ctl &&& ~~~ 1).getLsbD 0 = false := by simp
    exact ringRow_answer hrun hr (ringCtlWrite_disables hfree hst disables hon hnone)
  case drain => exact fun s r hrun hr hst hnone => ringRow_answer hrun hr (drainComplete_drains hst hnone)

/-- Settles O5: each row by the ring's state, the oldest submission by its checks. -/
theorem submissionsAreFetchedAndAccepted : Obligations.SubmissionsAreFetchedAndAccepted := by
  unfold Obligations.SubmissionsAreFetchedAndAccepted
  refine ⟨⟨?kick, ?poll, ?idle, ?report⟩, ?starts, ?rejects, ?merged⟩
  case kick => exact fun s r v hrun hr hst hepoch => ringRow_answer hrun hr (kickRing_wakes hst hepoch)
  case poll => exact fun s r hrun hr hst hcmd hdue => ringRow_answer hrun hr (doorbellPoll_polls hst hcmd hdue)
  case idle =>
    exact fun s r hrun hr hst hcmd hpolls hnone hstays hsame =>
      ringRow_answer hrun hr (idleHandshake_idles hst hcmd hpolls hnone hstays hsame)
  case report => exact fun s r hrun hr hst hreport hstays => ringRow_answer hrun hr (reportDoorbell_flushes hst hreport hstays)
  case starts =>
    exact fun s r b l i hrun hr hst hkind hsubs hok hswait horder =>
      ringRow_answer hrun hr (commandAccept_starts hst hkind hsubs hok hswait horder)
  case rejects =>
    exact fun s r b l st hrun hr hst hkind hsubs hbad => ringRow_answer hrun hr (commandAccept_rejects hst hkind hsubs hbad)
  case merged => exact fun s r hrun hr hdue hmerged => ringRow_answer hrun hr (imodEnd_raises hdue hmerged)

/-- Settles O7: each command by the semaphore's owner, the add by whether it saturates. -/
theorem semaphoresAct : Obligations.SemaphoresAct := by
  unfold Obligations.SemaphoresAct
  refine ⟨⟨?assign, ?owned, ?nop, ?add, ?read, ?notify⟩, fun d i a h => semAddTo_unarmed a h⟩
  case assign => exact fun s i v hrun hi h => ringRow_answer hrun hi (semPartWrite_assigns h)
  case owned => exact fun s i v hrun hi hvalid hfree hlive => ringRow_answer hrun hi (semPartWrite_owned hvalid hfree hlive)
  case nop => exact fun s c hrun hc => ringRow_answer hrun hc rfl
  case add => exact fun s c i v hrun hc hown => ringRow_answer hrun hc (if_pos hown)
  case read => exact fun s c i hrun hc hown => ringRow_answer hrun hc (if_pos hown)
  case notify => exact fun s c i vec w hrun hc hown => ringRow_answer hrun hc (semNotifyCmd_arms hown)

end Sys2Proof.Proofs
end

section
/-! SUPPORT. Failures of the host interface (R323, R324, R385), link encryption and the interfaces of tenants (R324, R325, R361, R368):
what each row makes of the device. -/

namespace Sys2Proof.Proofs

open Sys2Proof Sys2Proof.Machine Sys2Proof.Laws

section
variable {d : Dev}

/-! ### Accesses that the host does not complete (R323) -/

section
variable {p g : Nat}

/-- The device after a failed access to a far page: HOST_FAULT and DATA_LOST. -/
def farPageLost (g : Nat) (d : Dev) : Dev := (d.raise F.hiStatusHostFault).raise F.suStatusDataLost g

theorem hostTimeout_farPage_idle (h : ((farPageLost g d).core g).moves = []) :
    hostTimeout (.farPage p g) d = noteListFail p g 2 0 (farPageLost g d) := by
  unfold hostTimeout
  dsimp only
  rw [show (((d.raise F.hiStatusHostFault).raise F.suStatusDataLost g).core g).moves = [] from h]
  rfl

theorem hostTimeout_farPage_move {m : Move} {l : List Move} (h : ((farPageLost g d).core g).moves = m :: l) :
    hostTimeout (.farPage p g) d =
      (let e := mvFree g p m ((farPageLost g d).modCore g (fun c => { c with moves := l }))
       noteListFail p g 2 0 (if (mvOp m.w).sen then ccInc g (mvOp m.w).sctr e else e)) := by
  unfold hostTimeout
  dsimp only
  rw [show (((d.raise F.hiStatusHostFault).raise F.suStatusDataLost g).core g).moves = m :: l from h]
  rfl

end

/-! ### IDE streams (R324, R361) -/

/-- The stream is no longer secure, and IDE_FAIL is set. -/
def streamLost (stream : Nat) (d : Dev) : Dev := ({ d with ide := tabSet false d.ide stream false } : Dev).raise F.hiStatusIdeFail

/-- A failed selective stream takes the rings of its partition with it. -/
theorem ideFail_selective {stream : Nat} (h : 1 ≤ stream) : ideFail stream d =
    (let d := streamLost stream d
     (d.ringsSet.filter (fun r => decide (d.getF F.ringCtlKind r < 2 ∧ d.getF F.ringCtlPart r = stream))).foldl
      (fun d r => ringError r 10 d) d) := by
  have selective : stream ≠ 0 := by omega
  simp only [ideFail, if_neg selective]
  rfl

/-- The failed link stream those without a secure stream of their own. -/
theorem ideFail_link : ideFail 0 d =
    (let d := (streamLost 0 d).setF F.hiLinkIde 0 0
     (d.ringsSet.filter (fun r => decide (¬ d.getF F.ringCtlKind r < 2 ∨ d.getF F.ringCtlPart r = 0 ∨
      tabGet false d.ide (d.getF F.ringCtlPart r) = false))).foldl (fun d r => ringError r 10 d) d) := by
  simp only [ideFail, if_true, Bool.not_eq_true]
  rfl

section
variable {stream kset dir : Nat} {key : BitVec 256}

/-- Success with a key that a session of the stream's holder derived. -/
theorem keyProg_derived {i : Nat} (hlow : 1 ≤ i) (hhigh : i < 65) (hvalid : d.flag F.lgSessValid i = true)
    (hholder : if stream = 0 then (d.sess i).role = 1 else (d.sess i).role = 3 ∧ (d.sess i).part = stream)
    (hkey : d.ideKey i kset dir = key) : keyProg stream kset dir key d =
      (let d := { d with ide := tabSet false d.ide stream true }
       emit (.doe true []) (if stream = 0 then d.setF F.hiLinkIde 0 1 else d)) := by
  refine if_pos (List.any_eq_true.2 ⟨i, List.mem_range.2 hhigh, decide_eq_true ⟨hvalid, ?_, hholder, hkey⟩⟩)
  omega

theorem keyProg_foreign (h : ∀ i, 1 ≤ i → i < 65 → d.ideKey i kset dir ≠ key) : keyProg stream kset dir key d = emit (.doe false []) d := by
  refine if_neg fun hany => ?_
  obtain ⟨i, hi, hholds⟩ := List.any_eq_true.1 hany
  obtain ⟨-, hne, -, hkey⟩ := of_decide_eq_true hholds
  exact h i (Nat.one_le_iff_ne_zero.2 hne) (List.mem_range.1 hi) hkey

end

end

/-! ### Function reset (R385) -/

/-- Entries dropped by their key read the default, the others stand. -/
theorem tabGet_filter_key {α : Type} (v : α) (t : Tab α) (q : Nat → Bool) (k : Nat) :
    tabGet v (t.filter (fun e => q e.1)) k = if q k = true then tabGet v t k else v := by
  induction t with
  | nil => exact (ite_self v).symm
  | cons e t ih =>
    by_cases hk : k = e.1
    · subst hk
      cases hq : q e.1 <;> simp [tabGet, hq, ih]
    · have skip : tabGet v (e :: t) k = tabGet v t k := if_neg hk
      rw [skip, ← ih, List.filter_cons]
      split
      · exact if_neg hk
      · rfl

/-- The register at an offset is none of those that the predicate selects. -/
def unselected (sel : RegName → Nat → Bool) (off : Nat) : Bool :=
  match findReg off with
  | some (r, i) => ¬ sel r i
  | none => true

/-- The registers that the predicate selects read their reset values, the others as before. -/
theorem rd_resetRegs (sel : RegName → Nat → Bool) (d : Dev) {r : RegName} {i : Nat} (h : findReg (r.off i) = some (r, i)) :
    (resetRegs sel d).rd r i = if sel r i = true then r.resetVal i else d.rd r i := by
  refine (tabGet_filter_key (r.resetVal i) d.regs (unselected sel) (r.off i)).trans ?_
  simp only [unselected, h]
  cases hs : sel r i <;> simp [Dev.rd]

theorem rd_fnReset (d : Dev) {r : RegName} {i : Nat} (h : findReg (r.off i) = some (r, i)) :
    (fnReset d).rd r i = if r.spec.dom = .function then r.resetVal i else d.rd r i := by
  refine (rd_resetRegs (fun r _ => decide (r.spec.dom = .function)) d h).trans ?_
  simp only [decide_eq_true_eq]

theorem rd_fnReset_hiStatus (d : Dev) : (fnReset d).rd .hiStatus = 0 := by
  have place : findReg (RegName.hiStatus.off 0) = some (.hiStatus, 0) := by decide
  exact (rd_fnReset d place).trans ((if_pos rfl).trans (by decide))

/-! ### The statement -/

/-- Settles O6: each failure by what the access was for, each key by the sessions, each message by the interface's state. -/
theorem hostInterfaceActs : Obligations.HostInterfaceActs := by
  unfold Obligations.HostInterfaceActs
  refine ⟨⟨?ringArea, ?buffer, ?farPage, ?selective, ?link, ?reset⟩, ?operatorKey, ?tenantKey, ?foreignKey, ?lock, ?start, ?stop, ?report⟩
  case ringArea => exact fun s r hrun hr => placeRow_answer hrun (decide_eq_true hr) rfl
  case buffer => exact fun s c hrun hc => placeRow_answer hrun (decide_eq_true hc) rfl
  case farPage =>
    intro s p g hrun hp hg d
    have answer {e : Dev} (he : hostTimeout (.farPage p g) s.dev = e) := placeRow_answer hrun (decide_eq_true (And.intro hp hg)) he
    exact ⟨fun h => answer (hostTimeout_farPage_idle h), fun m l h => answer (hostTimeout_farPage_move h)⟩
  case selective => exact fun s stream hrun hlow hhigh => placeRow_answer hrun (decide_eq_true hhigh) (ideFail_selective hlow)
  case link => exact fun s hrun => placeRow_answer hrun rfl ideFail_link
  case reset =>
    exact fun s hrun => ⟨_, devRow_answer hrun rfl, rfl, rfl, rd_fnReset_hiStatus s.dev, fun r i h => rd_fnReset s.dev h⟩
  case operatorKey =>
    exact fun s i kset dir key hrun hlow hhigh hvalid hrole hkey => placeRow_answer hrun rfl (keyProg_derived hlow hhigh hvalid hrole hkey)
  case tenantKey =>
    intro s p i kset dir key hrun hlow hhigh hp hlast hvalid hrole hpart hkey
    have tenant : p ≠ 0 := by omega
    refine placeRow_answer hrun (decide_eq_true hlast) ((keyProg_derived hlow hhigh hvalid ?_ hkey).trans ?_)
    · rw [if_neg tenant]; exact ⟨hrole, hpart⟩
    · simp only [if_neg tenant]
  case foreignKey => exact fun s p kset dir key hrun hp h => placeRow_answer hrun (decide_eq_true hp) (keyProg_foreign h)
  case lock | start | stop | report =>
    exact fun s p hrun hlow hhigh => devRow_answer hrun (congrFun (if_pos ⟨hlow, hhigh⟩) s.dev)

end Sys2Proof.Proofs
end

section
/-! SUPPORT. Keys of a partition (R363 to R366, R369) and the mailbox (R352 to R359): what each request makes of the device, check by
check. -/

namespace Sys2Proof.Proofs

open Sys2Proof Sys2Proof.Machine Sys2Proof.Laws

section
variable {d : Dev} {c : Src} {p : Nat} {w : Bytes}

/-- p0, or an ACTIVE partition. -/
def KeysOpen (d : Dev) (p : Nat) : Prop := p = 0 ∨ d.pstate p = 1

theorem keysOpen_iff : (p ≠ 0 ∧ d.pstate p ≠ 1) ↔ ¬ KeysOpen d p := not_or.symm

/-! ### KEY_LOAD (R363) -/

theorem keyLoadCmd_closed (h : ¬ KeysOpen d p) : keyLoadCmd c p w d = done c 0xC6 d := if_pos (keysOpen_iff.2 h)

section
variable (hlive : KeysOpen d p)
include hlive

theorem keyLoadCmd_filled (h : (d.part p).slot0.isSome = true ∨ (d.part p).slot1.isSome = true) : keyLoadCmd c p w d = done c 0xC2 d :=
  (if_neg (keysOpen_iff.not_left.2 hlive)).trans (if_pos h)

variable (h0 : (d.part p).slot0 = none) (h1 : (d.part p).slot1 = none)
include h0 h1

theorem keyLoadCmd_empty : keyLoadCmd c p w d =
    match d.xtsKey c w with
    | none => done c 0xC1 d
    | some k => done c 0 (((d.modPart p (fun x => { x with slot0 := some k })).setF F.lgKeysSlot0 p 1).setF F.lgKeysWgen p 0) := by
  have empty : ¬ ((d.part p).slot0.isSome = true ∨ (d.part p).slot1.isSome = true) := by
    rw [h0, h1]; exact not_or.2 ⟨Bool.false_ne_true, Bool.false_ne_true⟩
  exact (if_neg (keysOpen_iff.not_left.2 hlive)).trans (if_neg empty)

theorem keyLoadCmd_loads {k : BitVec 512} (hk : d.xtsKey c w = some k) : keyLoadCmd c p w d =
    done c 0 (((d.modPart p (fun x => { x with slot0 := some k })).setF F.lgKeysSlot0 p 1).setF F.lgKeysWgen p 0) := by
  rw [keyLoadCmd_empty hlive h0 h1, hk]

theorem keyLoadCmd_bad (hk : d.xtsKey c w = none) : keyLoadCmd c p w d = done c 0xC1 d := by
  rw [keyLoadCmd_empty hlive h0 h1, hk]

end

/-! ### KEY_ROTATE (R364) -/

section
variable {rate : Nat}

/-- The rotation that begins. -/
def newRotation (c : Src) (rate : Nat) (d : Dev) : Rotation := { cmd := c, rate := rate, pages := 0, used := 0, interval := d.interval }

/-- The slot that p writes with. -/
def writeSlot (d : Dev) (p : Nat) : Option (BitVec 512) := if d.wgen p then (d.part p).slot1 else (d.part p).slot0

theorem keyRotateCmd_closed (h : ¬ KeysOpen d p) : keyRotateCmd c p rate w d = done c 0xC6 d := if_pos (keysOpen_iff.2 h)

section
variable (hlive : KeysOpen d p)
include hlive

theorem keyRotateCmd_busy (h : (d.part p).rot.isSome = true) : keyRotateCmd c p rate w d = done c 0xC3 d :=
  (if_neg (keysOpen_iff.not_left.2 hlive)).trans (if_pos h)

variable (hidle : (d.part p).rot = none)
include hidle

theorem keyRotateCmd_empty (h : writeSlot d p = none) : keyRotateCmd c p rate w d = done c 0xC2 d := by
  have idle : ¬ (d.part p).rot.isSome = true := by rw [hidle]; exact Bool.false_ne_true
  exact (if_neg (keysOpen_iff.not_left.2 hlive)).trans ((if_neg idle).trans (if_pos (Option.isNone_iff_eq_none.2 h)))

variable (hslot : (writeSlot d p).isSome = true) (hrate : rate ≤ 255)
include hslot hrate

theorem keyRotateCmd_checked : keyRotateCmd c p rate w d =
    match d.xtsKey c w with
    | none => done c 0xC1 d
    | some k =>
      let e := d.modPart p (fun x =>
        if d.wgen p then { x with slot0 := some k, rot := some (newRotation c rate d) }
        else { x with slot1 := some k, rot := some (newRotation c rate d) })
      let e := (e.setF (if d.wgen p then F.lgKeysSlot0 else F.lgKeysSlot1) p 1).setF F.lgKeysWgen p (if d.wgen p then 0 else 1)
      rotateEnd p (e.setF F.lgKeysRotating p 1) := by
  have idle : ¬ (d.part p).rot.isSome = true := by rw [hidle]; exact Bool.false_ne_true
  have filled : ¬ (writeSlot d p).isNone = true := by
    rw [Option.isNone_iff_eq_none]; exact Option.isSome_iff_ne_none.1 hslot
  exact (if_neg (keysOpen_iff.not_left.2 hlive)).trans ((if_neg idle).trans ((if_neg filled).trans (if_neg hrate.not_gt)))

theorem keyRotateCmd_bad (hk : d.xtsKey c w = none) : keyRotateCmd c p rate w d = done c 0xC1 d := by
  rw [keyRotateCmd_checked hlive hidle hslot hrate, hk]

end

section
variable (hlive : KeysOpen d p) (hidle : (d.part p).rot = none) (hrate : rate ≤ 255) {k : BitVec 512} (hk : d.xtsKey c w = some k)
include hlive hidle hrate hk

theorem keyRotateCmd_to1 (hgen : d.wgen p = false) (hslot : (d.part p).slot0.isSome = true) : keyRotateCmd c p rate w d =
    rotateEnd p ((((d.modPart p (fun x => { x with slot1 := some k, rot := some (newRotation c rate d) })).setF
      F.lgKeysSlot1 p 1).setF F.lgKeysWgen p 1).setF F.lgKeysRotating p 1) := by
  have filled : (writeSlot d p).isSome = true := by rw [writeSlot, hgen]; exact hslot
  rw [keyRotateCmd_checked hlive hidle filled hrate, hk, hgen]
  rfl

theorem keyRotateCmd_to0 (hgen : d.wgen p = true) (hslot : (d.part p).slot1.isSome = true) : keyRotateCmd c p rate w d =
    rotateEnd p ((((d.modPart p (fun x => { x with slot0 := some k, rot := some (newRotation c rate d) })).setF
      F.lgKeysSlot0 p 1).setF F.lgKeysWgen p 0).setF F.lgKeysRotating p 1) := by
  have filled : (writeSlot d p).isSome = true := by rw [writeSlot, hgen]; exact hslot
  rw [keyRotateCmd_checked hlive hidle filled hrate, hk, hgen]
  rfl

end

end

/-! ### FABRIC_KEY_LOAD, MIG_KEY_LOAD and IMAGE_ALLOW (R365, R366, R369) -/

theorem fabricKeyCmd_linked (h : linkState (d.esState p) = true) : fabricKeyCmd c p w d = done c 0xC6 d := if_pos h

section
variable (hfree : linkState (d.esState p) = false)
include hfree

theorem fabricKeyCmd_loads {k : BitVec 512} (hk : d.xtsKey c w = some k) : fabricKeyCmd c p w d =
    done c 0 ((d.modPart p (fun x => { x with fabricKey := some k })).setF F.lgKeysFabric p 1) := by
  simp only [fabricKeyCmd, hfree, hk, Bool.false_eq_true, if_false]

theorem fabricKeyCmd_bad (hk : d.xtsKey c w = none) : fabricKeyCmd c p w d = done c 0xC1 d := by
  simp only [fabricKeyCmd, hfree, hk, Bool.false_eq_true, if_false]

end

theorem migKeyCmd_loads {k : Bytes} (hk : Config.unwrap (d.wrapKey c) w = some k) (hlen : k.length = 32) : migKeyCmd c p w d =
    done c 0 ((d.modPart p (fun x => { x with migKey := some (BitVec.ofNat 256 (leNat k)) })).setF F.lgKeysMig p 1) := by
  simp only [migKeyCmd, hk]
  exact if_neg (not_not.2 hlen)

theorem migKeyCmd_bad (h : ∀ k, Config.unwrap (d.wrapKey c) w = some k → k.length ≠ 32) : migKeyCmd c p w d = done c 0xC1 d := by
  simp only [migKeyCmd]
  split
  case h_1 k hk => exact if_pos (h k hk)
  case h_2 => rfl

section
variable {b : Bytes}

theorem imageAllowCmd_clears (h : leNat b = 0) : imageAllowCmd c p b d = done c 0 (d.modPart p (fun x => { x with allowed := [] })) :=
  if_pos h

variable (hb : leNat b ≠ 0)
include hb

theorem imageAllowCmd_there (h : b ∈ (d.part p).allowed) : imageAllowCmd c p b d = done c 0 d :=
  (if_neg hb).trans (if_pos (List.contains_iff_mem.2 h))

theorem imageAllowCmd_new (h : b ∉ (d.part p).allowed) : imageAllowCmd c p b d =
    if 8 ≤ (d.part p).allowed.length then done c 0xC5 d
    else done c 0 (d.modPart p (fun x => { x with allowed := x.allowed ++ [b] })) :=
  (if_neg hb).trans (if_neg (mt List.contains_iff_mem.1 h))

end

end

/-! ### The mailbox -/

section
variable {d : Dev}

/-! #### GET_CERTS (R352) -/

/-- A GET_CERTS has its length and zero reserved bytes. -/
def CertsOk (d : Dev) : Prop := d.mbox.length = 4 ∧ at_ d.mbox 1 3 = 0

theorem certsOk_iff : (d.mbox.length ≠ 4 ∨ at_ d.mbox 1 3 ≠ 0) ↔ ¬ CertsOk d := by rw [CertsOk, not_and_or]

theorem getCerts_absent (h : d.mboxIs 1 = false) : getCerts d = d := if_pos (Bool.eq_false_iff.1 h)

section
variable (hreq : d.mboxIs 1 = true)
include hreq

theorem getCerts_malformed (h : ¬ CertsOk d) : getCerts d = mboxAnswer 1 (leBytes 4 1) d :=
  (if_neg (not_not.2 hreq)).trans (if_pos (certsOk_iff.2 h))

variable (hok : CertsOk d)
include hok

theorem getCerts_checked : getCerts d =
    if ¬ d.flag F.lgStateIdentityOk = true then mboxAnswer 7 (leBytes 4 1) d
    else mboxAnswer 0 (leBytes 4 1 ++ withLen d.flash.deviceCert ++
      withLen (Config.akCert d.flash.dik (pubBytes d.flash.ak) d.flash.fwDigest d.flash.fwSvn d.flash.cfgDigest)) d :=
  (if_neg (not_not.2 hreq)).trans (if_neg (certsOk_iff.not_left.2 hok))

end

/-! #### SESS_OPEN (R357, R358) -/

theorem sessOpen_absent (h : d.mboxIs 2 = false) : sessOpen d = d := if_pos (Bool.eq_false_iff.1 h)

section
variable (hreq : d.mboxIs 2 = true)
include hreq

theorem sessOpen_refused (h : openStatus d d.mbox ≠ 0) : sessOpen d = mboxAnswer (openStatus d d.mbox) (leBytes 4 2) d := by
  refine (if_neg (not_not.2 hreq)).trans ?_
  split
  case h_1 i hst hi => exact absurd hst h
  case h_2 => rfl

theorem sessOpen_opens {i : Nat} (hok : openStatus d d.mbox = 0) (hi : d.freeSession = some i) : sessOpen d =
    (let nl := (takeBytes 32 d).1
     let e := (takeFree 384 (takeBytes 32 d).2).1
     let d' := (takeFree 384 (takeBytes 32 d).2).2
     let scalar := e.toNat % (Config.curveOrder - 1) + 1
     let head := leBytes 4 (2 + i * 256) ++ nl ++ pubBytes scalar
     let th1 := sha384 (d.mbox ++ head)
     let sig := d'.akSign th1
     mboxAnswer 0 (head ++ sig) (d'.setSess i
      { role := at_ d.mbox 1 1, part := at_ d.mbox 2 1, opening := some d'.nt, th1 := th1, sigL := sig, qs := (d.mbox.drop 0x24).take 97
        z := leBytes 48 (Config.ecdh scalar ((d.mbox.drop 0x85).take 97)).toNat })) := by
  refine (if_neg (not_not.2 hreq)).trans ?_
  rw [hok, hi]
  rfl

end

/-! #### SESS_FINISH (R359) -/

/-- The session that a SESS_FINISH names. -/
def finishIx (d : Dev) : Nat := at_ d.mbox 1 1

/-- The request has its length and zero reserved bytes. -/
def FinishOk (d : Dev) : Prop := d.mbox.length = 100 ∧ at_ d.mbox 2 2 = 0

/-- It names a session that is opening. -/
def FinishOpening (d : Dev) : Prop := 1 ≤ finishIx d ∧ finishIx d ≤ 64 ∧ (d.sess (finishIx d)).opening.isSome = true

/-- Its signature verifies. -/
def FinishSigned (d : Dev) : Prop :=
  let x := d.sess (finishIx d)
  Config.verify x.qs (sha384 (x.th1 ++ x.sigL)) ((d.mbox.drop 4).take 96) = true

/-- The session opens, and a tenant's key is bound to its partition. -/
def sessionOpened (d : Dev) : Dev :=
  let i := finishIx d
  let x := d.sess i
  let part := if x.role = 3 then x.part else 0
  let e := if x.role = 3 then d.modPart x.part (fun y => { y with tenantKey := some x.qs }) else d
  let e := e.setSess i { role := x.role, part := part, qs := x.qs, z := x.z
                         th := sha384 (sha384 (x.th1 ++ x.sigL) ++ (d.mbox.drop 4).take 96) }
  let e := ((e.setF F.lgSessValid i 1).setF F.lgSessRole i x.role).setF F.lgSessPart i part
  mboxAnswer 0 (leBytes 4 (3 + i * 256)) (e.setF F.lgStateSessions 0 (e.getF F.lgStateSessions + 1))

theorem finishOk_iff : (d.mbox.length ≠ 100 ∨ at_ d.mbox 2 2 ≠ 0) ↔ ¬ FinishOk d := by rw [FinishOk, not_and_or]

theorem finishOpening_iff : (finishIx d = 0 ∨ 64 < finishIx d ∨ (d.sess (finishIx d)).opening = none) ↔ ¬ FinishOpening d := by
  rw [FinishOpening, not_and_or, not_and_or, not_le, not_le, Nat.lt_one_iff, Option.not_isSome_iff_eq_none]

theorem sessFinish_absent (h : d.mboxIs 3 = false) : sessFinish d = d := if_pos (Bool.eq_false_iff.1 h)

section
variable (hreq : d.mboxIs 3 = true)
include hreq

theorem sessFinish_malformed (h : ¬ FinishOk d) : sessFinish d = mboxAnswer 1 (leBytes 4 3) d :=
  (if_neg (not_not.2 hreq)).trans (if_pos (finishOk_iff.2 h))

variable (hsized : FinishOk d)
include hsized

theorem sessFinish_stranger (h : ¬ FinishOpening d) : sessFinish d = mboxAnswer 8 (leBytes 4 (3 + finishIx d * 256)) d :=
  (if_neg (not_not.2 hreq)).trans ((if_neg (finishOk_iff.not_left.2 hsized)).trans (if_pos (finishOpening_iff.2 h)))

variable (hopens : FinishOpening d)
include hopens

theorem sessFinish_unsigned (h : ¬ FinishSigned d) : sessFinish d = mboxAnswer 4 (leBytes 4 (3 + finishIx d * 256)) d :=
  (if_neg (not_not.2 hreq)).trans ((if_neg (finishOk_iff.not_left.2 hsized)).trans
    ((if_neg (finishOpening_iff.not_left.2 hopens)).trans (if_pos h)))

variable (hsigned : FinishSigned d)
include hsigned

theorem sessFinish_signed : sessFinish d =
    match roleStatus d (d.sess (finishIx d)) with
    | 0 => sessionOpened d
    | st => mboxFail 3 (finishIx d) st (dropOpening (finishIx d) d) :=
  (if_neg (not_not.2 hreq)).trans ((if_neg (finishOk_iff.not_left.2 hsized)).trans
    ((if_neg (finishOpening_iff.not_left.2 hopens)).trans (if_neg (not_not.2 hsigned))))

theorem sessFinish_opens (hrole : roleStatus d (d.sess (finishIx d)) = 0) : sessFinish d = sessionOpened d := by
  rw [sessFinish_signed hreq hsized hopens hsigned, hrole]
  rfl

theorem sessFinish_refused (hrole : roleStatus d (d.sess (finishIx d)) ≠ 0) : sessFinish d =
    mboxAnswer (roleStatus d (d.sess (finishIx d))) (leBytes 4 (3 + finishIx d * 256)) (d.setSess (finishIx d) { role := 0, part := 0 }) := by
  rw [sessFinish_signed hreq hsized hopens hsigned]
  split
  case h_1 h => exact absurd h hrole
  case h_2 => rfl

end

theorem openLapse_lapses {i : Nat} {t : BitVec 64} (hopen : (d.sess i).opening = some t) (hdue : reached d (later t 8000000000) = true) :
    openLapse i d = d.setSess i { role := 0, part := 0 } := by
  simp only [openLapse, hopen]
  exact if_pos hdue

theorem openLapse_waits {i : Nat} (h : ∀ t, (d.sess i).opening = some t → reached d (later t 8000000000) = false) : openLapse i d = d := by
  simp only [openLapse]
  split
  case h_1 t hopen => exact if_neg (Bool.eq_false_iff.1 (h t hopen))
  case h_2 => rfl

end

/-! ### The statement -/

/-- Settles O27: each key by the first check that fails, each request of the mailbox by its status. -/
theorem keysAndMailboxAct : Obligations.KeysAndMailboxAct := by
  unfold Obligations.KeysAndMailboxAct
  refine ⟨⟨?keys, ?otherKeys, ?images⟩, ?certs, ?opens, ?finish, ?lapse⟩
  case keys =>
    intro s c p w hrun hp x live
    have load {e : Dev} (he : keyLoadCmd c p w s.dev = e) := partRow_answer (g := done c 2) hrun hp he
    have rotate {rate : Nat} {e : Dev} (he : keyRotateCmd c p rate w s.dev = e) := partRow_answer (g := done c 2) hrun hp he
    refine ⟨fun k hlive hk h0 h1 => load (keyLoadCmd_loads hlive h0 h1 hk), fun h => load (keyLoadCmd_closed h),
      fun hlive h => load (keyLoadCmd_filled hlive h), fun hlive h0 h1 hk => load (keyLoadCmd_bad hlive h0 h1 hk), ?_,
      fun rate h => rotate (keyRotateCmd_closed h), fun rate hlive h => rotate (keyRotateCmd_busy hlive h),
      fun rate hlive hidle h => rotate (keyRotateCmd_empty hlive hidle h),
      fun rate hlive hidle hslot hk hrate => rotate (keyRotateCmd_bad hlive hidle hslot hrate hk)⟩
    intro rate k hrate hlive hidle hk rot
    exact ⟨fun hgen hslot => rotate (keyRotateCmd_to1 hlive hidle hrate hk hgen hslot),
      fun hgen hslot => rotate (keyRotateCmd_to0 hlive hidle hrate hk hgen hslot)⟩
  case otherKeys =>
    intro s c p w hrun hp
    have fabric {e : Dev} (he : fabricKeyCmd c p w s.dev = e) := partRow_answer (g := done c 2) hrun hp he
    have mig {e : Dev} (he : migKeyCmd c p w s.dev = e) := partRow_answer (g := done c 2) hrun hp he
    exact ⟨fun k hfree hk => fabric (fabricKeyCmd_loads hfree hk), fun h => fabric (fabricKeyCmd_linked h),
      fun hfree hk => fabric (fabricKeyCmd_bad hfree hk), fun k hk hlen => mig (migKeyCmd_loads hk hlen), fun h => mig (migKeyCmd_bad h)⟩
  case images =>
    intro s c p b hrun hp l
    have allow {e : Dev} (he : imageAllowCmd c p b s.dev = e) := partRow_answer (g := done c 2) hrun hp he
    exact ⟨fun hb hnew hroom => allow ((imageAllowCmd_new hb hnew).trans (if_neg hroom.not_ge)),
      fun hb hold => allow (imageAllowCmd_there hb hold), fun hb hnew hfull => allow ((imageAllowCmd_new hb hnew).trans (if_pos hfull)),
      fun hb => allow (imageAllowCmd_clears hb)⟩
  case certs =>
    intro s hrun good
    exact ⟨fun hreq hok hid => devRow_answer hrun ((getCerts_checked hreq hok).trans (if_neg (not_not.2 hid))),
      fun hreq h => devRow_answer hrun (getCerts_malformed hreq h),
      fun hreq hok hid => devRow_answer hrun ((getCerts_checked hreq hok).trans (if_pos (Bool.eq_false_iff.1 hid))),
      fun h => devRow_answer hrun (getCerts_absent h)⟩
  case opens =>
    intro s hrun
    refine ⟨fun b nl e i d1 d hreq hb hok hi hnl he => ?_, fun hreq h => devRow_answer hrun (sessOpen_refused hreq h),
      fun h => devRow_answer hrun (sessOpen_absent h)⟩
    subst hb
    have answer := devRow_answer hrun (sessOpen_opens hreq hok hi)
    rwa [hnl, he] at answer
  case finish =>
    intro s hrun b i x sized opens signed
    exact ⟨fun hreq hsized hopens hsigned hrole => devRow_answer hrun (sessFinish_opens hreq hsized hopens hsigned hrole),
      fun hreq h => devRow_answer hrun (sessFinish_malformed hreq h),
      fun hreq hsized h => devRow_answer hrun (sessFinish_stranger hreq hsized h),
      fun hreq hsized hopens h => devRow_answer hrun (sessFinish_unsigned hreq hsized hopens h),
      fun hreq hsized hopens hsigned hrole => devRow_answer hrun (sessFinish_refused hreq hsized hopens hsigned hrole),
      fun h => devRow_answer hrun (sessFinish_absent h)⟩
  case lapse =>
    intro s i hrun hi
    exact ⟨fun t hopen hdue => placeRow_answer hrun (decide_eq_true hi) (openLapse_lapses hopen hdue),
      fun h => placeRow_answer hrun (decide_eq_true hi) (openLapse_waits h)⟩

end Sys2Proof.Proofs
end

section
/-! SUPPORT. Lorgil's commands after the keys (R356, R362, R367, R368) and the host accesses that the device rejects (R19, R322, R380). -/

namespace Sys2Proof.Proofs

open Sys2Proof Sys2Proof.Machine Sys2Proof.Laws

/-! ### Attestation and firmware (R356, R367, R368) -/

section
variable {d e : Dev} {c : Src} {p result host len : Nat} {nonce b : Bytes}

theorem attestCmd_device : attestCmd c 0 p result nonce d =
    (let body := reportHead d 0 0 nonce ++ zeros 0x210
     done c 0 (hostWrite result (body ++ d.akSign body) d)) := rfl

theorem attestCmd_partition (h : reportPart p d = (b, e)) : attestCmd c 1 p result nonce d =
    done c 0 (hostWrite result (reportHead e 1 p nonce ++ b ++ e.akSign (reportHead e 1 p nonce ++ b)) e) := by
  have checked : attestCmd c 1 p result nonce d =
      (let body := reportHead (reportPart p d).2 1 p nonce ++ (reportPart p d).1
       done c 0 (hostWrite result (body ++ (reportPart p d).2.akSign body) (reportPart p d).2)) := rfl
  rw [checked, h]

theorem interfaceReport_eq (h : reportPart p d = (b, e)) :
    interfaceReport p d = emit (.doe true ((e.ringsOf p).flatMap (fun r => leBytes 8 (r * 0x1000)) ++ sha384 b)) e := by
  rw [interfaceReport, h]

theorem fwStageCmd_stages {x : Nat × Nat × Nat} (hx : Config.fwImage (d.hostRead host len) = some x) (hfloor : d.flash.svnFloor ≤ x.2.2) :
    fwStageCmd c host len d =
      done c 0 ({ d with flash := { d.flash with staged := d.hostRead host len } }.setF F.lgStateFwStaged 0 1) := by
  simp only [fwStageCmd, hx]
  exact if_neg hfloor.not_gt

theorem fwStageCmd_bad (h : ∀ x, Config.fwImage (d.hostRead host len) = some x → x.2.2 < d.flash.svnFloor) :
    fwStageCmd c host len d = done c 0xC7 d := by
  simp only [fwStageCmd]
  split
  case h_1 hx => exact if_pos (h _ hx)
  case h_2 => rfl

end

/-- Settles O28: each command by its operands and the image it names. -/
theorem lorgilCommandsAct : Obligations.LorgilCommandsAct := by
  unfold Obligations.LorgilCommandsAct
  refine ⟨?device, ?partition, ?noKind, ?interface, ?close, ?stage⟩
  case device =>
    exact fun s c p result nonce hrun => devRow_answer hrun ((congrFun (if_pos (.inl Nat.zero_ne_one)) s.dev).trans attestCmd_device)
  case partition =>
    exact fun s c p result nonce b d hrun hp h => devRow_answer hrun ((congrFun (if_pos (.inr hp)) s.dev).trans (attestCmd_partition h))
  case noKind =>
    exact fun s c kind p result nonce hrun h => devRow_answer hrun ((congrFun (if_pos (.inl h.ne')) s.dev).trans (if_pos h))
  case interface =>
    exact fun s p b d hrun hlow hhigh h => devRow_answer hrun ((congrFun (if_pos ⟨hlow, hhigh⟩) s.dev).trans (interfaceReport_eq h))
  case close => exact fun s c hrun hc => ringRow_answer hrun hc rfl
  case stage =>
    exact fun s c host len hrun => ⟨fun x hx hfloor => devRow_answer hrun (fwStageCmd_stages hx hfloor),
      fun h => devRow_answer hrun (fwStageCmd_bad h)⟩

/-! ### Rejected accesses (R19, R322, R380) -/

section
variable {d : Dev} {write mis : Bool} {off width : Nat}

/-- The model's record of a rejected access is the statement's. -/
theorem recordAccess_eq (bar2 write mis : Bool) (off : Nat) (d : Dev) :
    recordAccess bar2 write mis off d = Stated.recorded bar2 write mis off d := rfl

theorem rejectAccess_eq (bar2 write mis : Bool) (off : Nat) (d : Dev) : rejectAccess bar2 write mis off d =
    if write then Stated.recorded bar2 true mis off d else emit (.read off 0) (Stated.recorded bar2 false mis off d) := by
  cases write with
  | false => simp only [rejectAccess, recordAccess_eq, Bool.false_eq_true, if_false]
  | true => simp only [rejectAccess, recordAccess_eq, if_true]

theorem hostAccess_bar0_rejects (hopen : d.barOpen off = 2) (h : barTarget off width = .inr mis) :
    hostAccess false write off width d = rejectAccess false write mis off d := by
  simp only [hostAccess, hopen, h, Bool.false_eq_true, if_false]

theorem hostAccess_bar0_reserved (hopen : d.barOpen off = 1) :
    hostAccess false write off width d = rejectAccess false write false off d := by
  simp only [hostAccess, hopen, Bool.false_eq_true, if_false]

theorem hostAccess_bar0_absent (hopen : d.barOpen off = 0) : hostAccess false write off width d = d := by
  simp only [hostAccess, hopen, Bool.false_eq_true, if_false]

theorem hostAccess_bar0_accepts {t : BarTarget} (hopen : d.barOpen off = 2) (h : barTarget off width = .inl t) :
    hostAccess false write off width d = d := by
  simp only [hostAccess, hopen, h, Bool.false_eq_true, if_false]

/-- BAR2 takes 4-byte writes of kick pages alone. -/
theorem hostAccess_bar2_rejects (h : write = false ∨ width ≠ 4 ∨ off % 4096 ≠ 0) :
    hostAccess true write off width d = rejectAccess true write (decide (off % 4096 = 0)) off d := by
  have rejected : ¬ (write = true ∧ width = 4 ∧ off % 4096 = 0) := by
    rintro ⟨hwrite, hwidth, hoff⟩
    obtain h | h | h := h
    · exact Bool.false_ne_true (h.symm.trans hwrite)
    · exact h hwidth
    · exact h hoff
  exact (if_pos rfl).trans (if_neg rejected)

theorem hostAccess_bar2_accepts (h : off % 4096 = 0) : hostAccess true true off 4 d = d :=
  (if_pos rfl).trans (if_pos ⟨rfl, rfl, h⟩)

/-- FLT_STATUS counts a bit that is set again in SETCNT. -/
theorem raise_hostAccess (d : Dev) : d.raise F.fltStatusHostAccess =
    (let again : Bool := d.flag F.fltStatusHostAccess || d.dropped.contains (F.fltStatusHostAccess.reg.off 0, F.fltStatusHostAccess.lo)
     let d := { d with raised := ((F.fltStatusHostAccess.reg.off 0, F.fltStatusHostAccess.lo), again) :: d.raised }
     let d := if d.flag F.fltStatusHostAccess then d else d.setF F.fltStatusHostAccess 0 1
     if again then d.addSat F.fltStatusSetcnt 0 1 else d) := by
  have counted : setcntOf F.fltStatusHostAccess.reg = some F.fltStatusSetcnt := rfl
  simp only [Dev.raise, counted]
  generalize (d.flag F.fltStatusHostAccess || d.dropped.contains (F.fltStatusHostAccess.reg.off 0, F.fltStatusHostAccess.lo)) = again
  cases again <;> rfl

end

/-- Settles O2: each access by the window it falls in, and the record by what a raised bit of FLT_STATUS does. -/
theorem rejectedAccessIsRecorded : Obligations.RejectedAccessIsRecorded := by
  unfold Obligations.RejectedAccessIsRecorded
  refine ⟨?rejected, ?reserved, ?kickPages, ?accepted, ?kick, ?raised⟩
  case rejected =>
    exact fun s write off width mis hrun hoff hopen h =>
      placeRow_answer hrun (decide_eq_true hoff) ((hostAccess_bar0_rejects hopen h).trans (rejectAccess_eq ..))
  case reserved =>
    exact fun s write off width hrun hoff hopen =>
      placeRow_answer hrun (decide_eq_true hoff) ((hostAccess_bar0_reserved hopen).trans (rejectAccess_eq ..))
  case kickPages =>
    exact fun s write off width hrun hoff h =>
      placeRow_answer hrun (decide_eq_true hoff) ((hostAccess_bar2_rejects h).trans (rejectAccess_eq ..))
  case accepted =>
    rintro s write off width t hrun (hopen | ⟨hopen, h⟩)
    · exact idlePlaceRow_answer hrun (hostAccess_bar0_absent hopen)
    · exact idlePlaceRow_answer hrun (hostAccess_bar0_accepts hopen h)
  case kick => exact fun s off hrun h => idlePlaceRow_answer hrun (hostAccess_bar2_accepts h)
  case raised => exact fun d => by rw [raiseFlt, raise_hostAccess]

end Sys2Proof.Proofs
end

section
/-! SUPPORT. Resets of every scope (R386 to R388, R395, R396) and the stages of Quickset (R405, R408, R413, R420). -/

namespace Sys2Proof.Proofs

open Sys2Proof Sys2Proof.Machine Sys2Proof.Laws

section
variable {d : Dev} {c : Src} {p t : Nat}

/-! ### RESET (R387) -/

/-- A handle that R120 accepts names its cores. -/
theorem handleCores_of_legalCores {cores : List Nat} (h : d.legalCores t = some cores) : handleCores t = some cores := by
  simp only [Dev.legalCores] at h
  split at h
  case h_1 named hnamed =>
    split at h
    · exact absurd h (Option.some_ne_none cores).symm
    · rw [hnamed, h]
  case h_2 => exact absurd h (Option.some_ne_none cores).symm

/-- What a reset of the cores does at once. -/
def coresReset (cores : List Nat) (d : Dev) : Dev :=
  cores.foldl resetCore (((cores.filterMap (fun g => d.coreOwner g)).eraseDups).foldl (fun d p => abortSched p d) (cores.foldl lateDrop d))

/-- The reset joins those in progress. -/
def resetRuns (scope target bound : Nat) (cmd : Option Src) (d : Dev) : Dev :=
  { d with resets := d.resets ++ [{ site := .device, scope := scope, target := target, due := d.acyc + bound, cmd := cmd }] }

theorem startReset_cores (h : (handleCores t).getD [] = cores) (cmd : Option Src) :
    startReset .device 1 t cmd d = resetRuns 1 t 90000 cmd (coresReset cores d) := by
  subst h
  rfl

theorem startReset_partition (cmd : Option Src) :
    startReset .device 2 p cmd d = resetRuns 2 p 6300000 cmd (resetPart d p) := rfl

theorem startReset_die (cmd : Option Src) : startReset .device 3 t cmd d = resetRuns 3 t 15000000 cmd (resetDie t d) := rfl

theorem startReset_device (cmd : Option Src) :
    startReset .device 5 0 cmd d = resetRuns 5 0 9000000000 cmd (deviceReset { d with resets := [] }) := rfl

/-- A RESET that names nothing to reset (R387). -/
theorem resetCmd_bad {scope : Nat}
    (h : (scope = 1 ∧ d.legalCores t = none) ∨ (scope = 2 ∧ (32 ≤ p ∨ d.pstate p = 0)) ∨ (scope = 3 ∧ 4 ≤ t % 256) ∨
      (scope ≠ 1 ∧ scope ≠ 2 ∧ scope ≠ 3 ∧ scope ≠ 5)) : resetCmd c scope p t d = done c 0xE1 d := by
  have bad : resetBad d scope p t = true := by
    obtain ⟨rfl, h⟩ | ⟨rfl, h⟩ | ⟨rfl, h⟩ | ⟨h1, h2, h3, h5⟩ := h
    · exact Option.isNone_iff_eq_none.2 h
    · exact Bool.or_eq_true_iff.2 (h.imp decide_eq_true decide_eq_true)
    · exact decide_eq_true h
    · exact (if_neg h1).trans ((if_neg h2).trans ((if_neg h3).trans (decide_eq_true h5)))
  exact if_pos bad

theorem resetCmd_cores {cores : List Nat} (h : d.legalCores t = some cores) :
    resetCmd c 1 p t d = resetRuns 1 t 90000 (some c) (coresReset cores d) := by
  have named_cores : (handleCores t).getD [] = cores := by rw [handleCores_of_legalCores h]; rfl
  have named : ¬ resetBad d 1 p t = true := fun bad => Option.some_ne_none cores (h.symm.trans (Option.isNone_iff_eq_none.1 bad))
  exact (if_neg named).trans (startReset_cores (t := t) named_cores (some c))

theorem resetCmd_partition (hp : p < 32) (hlive : d.pstate p ≠ 0) :
    resetCmd c 2 p t d = resetRuns 2 p 6300000 (some c) (resetPart d p) := by
  have named : ¬ resetBad d 2 p t = true := fun bad =>
    (Bool.or_eq_true_iff.1 bad).elim (fun h => (of_decide_eq_true h).not_gt hp) (fun h => hlive (of_decide_eq_true h))
  exact (if_neg named).trans (startReset_partition (some c))

theorem resetCmd_die (ht : t < 4) : resetCmd c 3 p t d = resetRuns 3 t 15000000 (some c) (resetDie t d) := by
  have small : t % 256 = t := Nat.mod_eq_of_lt (by omega)
  have named : ¬ resetBad d 3 p t = true := fun bad => (of_decide_eq_true bad).not_gt (small.symm ▸ ht)
  have begins : resetCmd c 3 p t d = startReset .device 3 (t % 256) (some c) d := if_neg named
  rw [begins, small, startReset_die]

theorem resetCmd_device : resetCmd c 5 p t d = resetRuns 5 0 9000000000 (some c) (deviceReset { d with resets := [] }) :=
  startReset_device (some c)

/-! ### The end of a reset and its bound (R388, R395, R396) -/

/-- The command of a reset completes. -/
def resetAnswers (cmd : Option Src) (d : Dev) : Dev :=
  match cmd with
  | some c => done c 0 d
  | none => d

theorem resetComplete_ends {x : ResetRt} (h : d.resets.find? (fun y => d.resetOver y) = some x) : resetComplete d =
    (let e := resetAnswers x.cmd { d with resets := d.resets.erase x }
     if x.scope = 5 ∧ x.target = 3 then oosLatch (oosWindow e) else e) := by
  simp only [resetComplete, h]
  rfl

theorem resetComplete_none (h : ∀ y ∈ d.resets, d.resetOver y = false) : resetComplete d = d := by
  have none_over : d.resets.find? (fun y => d.resetOver y) = none := List.find?_eq_none.2 fun y hy => Bool.eq_false_iff.1 (h y hy)
  simp only [resetComplete, none_over]

section
variable {site : SiteId}

/-- The reset at the site is past its bound. -/
def pastBound (d : Dev) (site : SiteId) (y : ResetRt) : Bool := decide (y.site = site ∧ y.due ≤ d.acyc) && ! d.resetOver y

theorem boundMiss_first {x : ResetRt} (h : d.resets.find? (pastBound d site) = some x) : boundMiss site d =
    if x.scope = 1 then ((handleCores x.target).getD []).foldl haltCore d
    else ladderStep site (decide (x.scope = 5)) x.cmd { d with resets := d.resets.erase x } := by
  have first : d.resets.find? (fun y => decide (y.site = site ∧ y.due ≤ d.acyc) && ! d.resetOver y) = some x := h
  simp only [boundMiss, first]

theorem boundMiss_none (h : ∀ y ∈ d.resets, y.site = site → y.due ≤ d.acyc → d.resetOver y = true) : boundMiss site d = d := by
  have none_past : d.resets.find? (fun y => decide (y.site = site ∧ y.due ≤ d.acyc) && ! d.resetOver y) = none := by
    refine List.find?_eq_none.2 fun y hy past => ?_
    obtain ⟨here, running⟩ := Bool.and_eq_true_iff.1 past
    obtain ⟨hsite, hdue⟩ := of_decide_eq_true here
    rw [h y hy hsite hdue] at running
    exact Bool.false_ne_true running
  simp only [boundMiss, none_past]

/-- The package has the site. -/
def siteOk : SiteId → Bool
  | .engine e => engOk e
  | _ => true

theorem siteOk_of_engines (h : ∀ e, site = .engine e → engOk e = true) : siteOk site = true := by
  cases site with
  | engine e => exact h e rfl
  | _ => rfl

end

end

/-- Settles O29: each scope by its domain, the end and the bound by the first reset that they meet. -/
theorem resetsAct : Obligations.ResetsAct := by
  unfold Obligations.ResetsAct
  refine ⟨?cores, ?partition, ?die, ?device, ?bad, ?ends, ?none, ?miss, ?noMiss⟩
  case cores => exact fun s c p h cores hrun hlegal => devRow_answer hrun (resetCmd_cores hlegal)
  case partition => exact fun s c p t hrun hp hlive => devRow_answer hrun (resetCmd_partition hp hlive)
  case die => exact fun s c p t hrun ht => devRow_answer hrun (resetCmd_die ht)
  case device => exact fun s c p t hrun => devRow_answer hrun resetCmd_device
  case bad => exact fun s c scope p t hrun h => devRow_answer hrun (resetCmd_bad h)
  case ends => exact fun s x hrun h => devRow_answer hrun (resetComplete_ends h)
  case none => exact fun s hrun h => devRow_answer hrun (resetComplete_none h)
  case miss => exact fun s x site hrun hsite h => placeRow_answer hrun (c := siteOk site) (siteOk_of_engines hsite) (boundMiss_first h)
  case noMiss => exact fun s site hrun h => idlePlaceRow_answer hrun (boundMiss_none h)

/-! ### Quickset -/

section
variable {d : Dev} {f : QsFinding} {k : Nat}

/-- The device once stage k has written its record (R408). -/
def stageRecorded (k : Nat) (f : QsFinding) (d : Dev) : Dev :=
  let x := stageWork k f d
  let result := if x.2.1 ≠ 0 then 3 else if x.2.2.2 then 2 else 1
  let d := { x.1 with qs := memWrite x.1.qs (32 * k) (qsRecord k result x.2.1 f.duration x.1.nt x.2.2.1)
                      reduced := x.1.reduced || decide (result = 2) }
  d.setF F.qsStateReduced 0 (if (List.range 10).any (fun i => decide (d.qsResult i = 2)) then 1 else 0)

/-- The next stage of those that wait begins. -/
def nextStage (d : Dev) : Dev :=
  match d.rerun with
  | [] => { d with stage := none }
  | n :: rest => stageBegins n { d with rerun := rest }

theorem stageEnd_idle (h : d.stage = none) : stageEnd f d = d := by simp only [stageEnd, h]

section
variable (hstage : d.stage = some k)
include hstage

theorem stageEnd_recorded : stageEnd f d =
    (let code := (stageWork k f d).2.1
     let e := emit (.i3cInt (k + if code ≠ 0 then 128 else 0)) (stageRecorded k f d)
     if code ≠ 0 then ({ e with stage := none, rerun := [] }.setF F.qsStateFailed 0 1).setF F.qsStateFailStage 0 k
     else nextStage (stagePassed k e)) := by
  simp only [stageEnd, hstage]
  rfl

theorem stageEnd_fails (hcode : (stageWork k f d).2.1 ≠ 0) : stageEnd f d =
    (let e := { emit (.i3cInt (k + 128)) (stageRecorded k f d) with stage := none, rerun := [] }
     (e.setF F.qsStateFailed 0 1).setF F.qsStateFailStage 0 k) := by
  simp only [stageEnd_recorded hstage, if_pos hcode]

theorem stageEnd_passes (hcode : (stageWork k f d).2.1 = 0) :
    stageEnd f d = nextStage (stagePassed k (emit (.i3cInt k) (stageRecorded k f d))) := by
  simp only [stageEnd_recorded hstage, if_neg (not_not.2 hcode), Nat.add_zero]

end

theorem nextStage_last (h : d.rerun = []) : nextStage d = { d with stage := none } := by simp only [nextStage, h]

theorem nextStage_begins {n : Nat} {rest : List Nat} (h : d.rerun = n :: rest) : nextStage d = stageBegins n { d with rerun := rest } := by
  simp only [nextStage, h]

end

/-- Settles O41: a stage's end by its code and by the stages that wait. -/
theorem bringUpRuns : Obligations.BringUpRuns := by
  unfold Obligations.BringUpRuns
  refine ⟨fun straps s => sClockRow_answer rfl, fun s f hrun h => devRow_answer hrun (stageEnd_idle h), ?stage⟩
  case stage =>
    intro s f k hrun hstage x code result d
    exact ⟨fun hcode => devRow_answer hrun (stageEnd_fails hstage hcode),
      fun hcode h => devRow_answer hrun ((stageEnd_passes hstage hcode).trans (nextStage_last h)),
      fun n rest hcode h => devRow_answer hrun ((stageEnd_passes hstage hcode).trans (nextStage_begins h))⟩

end Sys2Proof.Proofs
end
